-- ==== Sys2Proof/Word.lean ====
section
/-! DEFINITION. The widths of the machine's data, and the names of its numbered registers. -/

namespace Sys2Proof

/-- A byte of memory. -/
abbrev Byte := BitVec 8
/-- A 64-bit scalar register (R48). -/
abbrev Word := BitVec 64
/-- A 32-bit element of a vector row (R16). -/
abbrev Elem := BitVec 32

/-- s0–s63 (R32). -/
abbrev SReg := Fin 64
/-- p0–p63 (R32). -/
abbrev PReg := Fin 64
/-- v0–v127 (R36). -/
abbrev VReg := Fin 128
/-- bt0–bt7 (R60). -/
abbrev BtReg := Fin 8
/-- m0–m15 (R32). -/
abbrev TileReg := Fin 16

end Sys2Proof
end

