-- ==== Sys2Proof/Syntax.lean ====
section
/-! DEFINITION. The instruction set as data: one constructor of `Instr` for each row of the opcode table.
A scalar word and a lane word become a constructor with their operand fields. A row of the table that has no
encoding (a happening of the reference machine: a queue entry draining, a walk reading a word, a gate admitting an
arrival) becomes a constructor without fields; the party it happens to is named in the state (`Subject`). -/

namespace Sys2Proof

/-- Type codes of the integer classes (Table 3.10, R94). -/
inductive IType where
  | i8 | z8 | i16 | z16 | i32 | z32 | i64
  deriving DecidableEq, Repr

/-- Type codes of the lane floating classes (Table 3.10). -/
inductive FType where
  | f32 | f16 | bf16 | bf16x2
  deriving DecidableEq, Repr

/-- Type codes of the special functions (R40). -/
inductive SType where
  | f32 | f16 | bf16
  deriving DecidableEq, Repr

/-- Type codes of `vfcvt` (Table 3.10, codes 0–10). -/
inductive CvtType where
  | f32 | f16 | bf16 | bf16x2 | e4m3 | e5m2 | e3m2 | e2m3 | e2m1 | i32 | z32
  deriving DecidableEq, Repr

/-- Element types of `vquant` and `vdequant` (R40, codes 4–8). -/
inductive QType where
  | e4m3 | e5m2 | e3m2 | e2m3 | e2m1
  deriving DecidableEq, Repr

/-- Block lengths of `vquant` and `vdequant` (Table 3.11). -/
inductive BlockLen where
  | l16 | l32 | l64
  deriving DecidableEq, Repr

/-- Scale formats of `vquant` and `vdequant` (Table 3.11). -/
inductive ScaleFmt where
  | e8m0 | e4m3
  deriving DecidableEq, Repr

/-- Output formats of `mst` (Table 3.3, Table 3.10). -/
inductive MstFmt where
  | bf16 | fp16 | e4m3 | e5m2 | e3m2 | e2m3 | e2m1 | int8 | int4 | fp32
  deriving DecidableEq, Repr

/-- Relations of `vcmp` (Table 3.11). -/
inductive Cmp where
  | eq | ne | lt | le | gt | ge
  deriving DecidableEq, Repr

/-- Relations of `vfcmp` (Table 3.11). -/
inductive FCmp where
  | eq | ne | lt | le | gt | ge | unordered | ordered
  deriving DecidableEq, Repr

/-- Operations of `vred` and `vscan` (Table 3.11). -/
inductive RedOp where
  | add | minS | minZ | maxS | maxZ | and | or | xor
  deriving DecidableEq, Repr

/-- Atomic operations (Table 3.3). -/
inductive AmoOp where
  | add | and | or | xor | minS | minZ | maxS | maxZ | swap | cas
  deriving DecidableEq, Repr

/-- Ordering of an atomic (Table 3.3). -/
inductive AmoOrd where
  | relaxed | acq | rel | ar
  deriving DecidableEq, Repr

/-- Scope codes (Table 3.4), narrow to wide. -/
inductive Scope where
  | g | b | c | d | p | s
  deriving DecidableEq, Repr

/-- Rounding override of a floating lane word (Table 3.8). -/
inductive RndOv where
  | rmode | rne | rtz | rdn | rup
  deriving DecidableEq, Repr

/-- Cache hints (Table 3.7). -/
inductive Hint where
  | normal | evictFirst | evictLast | noL1
  deriving DecidableEq, Repr

/-- The second source of a lane word (Table 3.8). -/
inductive BSrc where
  | vec (v : VReg)
  | sca (s : SReg)
  | imm (x : BitVec 16)
  deriving DecidableEq, Repr

/-- The third source of a lane word (Table 3.8). -/
inductive CSrc where
  | vec (v : VReg)
  | sca (s : SReg)
  deriving DecidableEq, Repr

/-- The second source of a predicate-logic word (R98): a predicate, or bit 0 of the immediate. -/
inductive PSrc where
  | pred (p : PReg)
  | imm (x : Bool)
  deriving DecidableEq, Repr

/-- One guard: a predicate and its negate bit (R37). Predicate 63 negated is the constant true. -/
structure Guard where
  p : PReg
  neg : Bool
  deriving DecidableEq, Repr

/-- The guards, stall count and yield bit of a lane word (R36, R37). -/
structure LaneCtl where
  g1 : Guard
  g2 : Guard
  /-- `true` combines the guards with or, `false` with and. -/
  orGuards : Bool
  stall : Fin 16
  yld : Bool
  deriving DecidableEq, Repr

/-- The index operand of an indexed memory form: a vector register scaled by 2^`shift` (R102). -/
structure LaneIndex where
  v : VReg
  shift : Fin 4
  deriving DecidableEq, Repr

/-- The address of a lane memory form (R102): an index (none: contiguous), a uniform addend and an offset. -/
structure LaneAddr where
  index : Option LaneIndex
  addend : Option SReg
  off : BitVec 16
  deriving DecidableEq, Repr

/-- A clause header (Table 3.12). A set-flag of `none` is the code 0xF. -/
structure ClauseHeader where
  waitMask : BitVec 12
  setA : Option (Fin 12)
  setB : Option (Fin 12)
  length : Fin 256
  deriving DecidableEq, Repr

/-- The instruction set. Each constructor's docstring names its mnemonic in the opcode table and the rule that
gives its effect. -/
inductive Instr where
  /-- `ADD` (R63). -/
  | add (d a b : SReg)
  /-- `SUB` (R63). -/
  | sub (d a b : SReg)
  /-- `AND` (R63). -/
  | and (d a b : SReg)
  /-- `OR` (R63). -/
  | or (d a b : SReg)
  /-- `XOR` (R63). -/
  | xor (d a b : SReg)
  /-- `ANDN` (R63). -/
  | andn (d a b : SReg)
  /-- `SHL` (R63). -/
  | shl (d a b : SReg)
  /-- `SHR_Z` (R63). -/
  | shrZ (d a b : SReg)
  /-- `SHR_S` (R63). -/
  | shrS (d a b : SReg)
  /-- `NOP` (R63). -/
  | nop
  /-- `MUL` (R63). -/
  | mul (d a b : SReg)
  /-- `MULH_S` (R63). -/
  | mulhS (d a b : SReg)
  /-- `MULH_Z` (R63). -/
  | mulhZ (d a b : SReg)
  /-- `DIV_S` (R63). -/
  | divS (d a b : SReg)
  /-- `DIV_Z` (R63). -/
  | divZ (d a b : SReg)
  /-- `REM_S` (R63). -/
  | remS (d a b : SReg)
  /-- `REM_Z` (R63). -/
  | remZ (d a b : SReg)
  /-- `MIN_S` (R63). -/
  | minS (d a b : SReg)
  /-- `MIN_Z` (R63). -/
  | minZ (d a b : SReg)
  /-- `MAX_S` (R63). -/
  | maxS (d a b : SReg)
  /-- `MAX_Z` (R63). -/
  | maxZ (d a b : SReg)
  /-- `SLT_S` (R63). -/
  | sltS (d a b : SReg)
  /-- `SLT_Z` (R63). -/
  | sltZ (d a b : SReg)
  /-- `SEQ` (R63). -/
  | seq (d a b : SReg)
  /-- `CLZ` (R63). -/
  | clz (d a : SReg)
  /-- `CTZ` (R63). -/
  | ctz (d a : SReg)
  /-- `POPC` (R63). -/
  | popc (d a : SReg)
  /-- `BEXT` (R63). -/
  | bext (d a b : SReg)
  /-- `ADDI` (R64). -/
  | addi (d a : SReg) (imm : BitVec 13)
  /-- `ANDI` (R64). -/
  | andi (d a : SReg) (imm : BitVec 13)
  /-- `ORI` (R64). -/
  | ori (d a : SReg) (imm : BitVec 13)
  /-- `XORI` (R64). -/
  | xori (d a : SReg) (imm : BitVec 13)
  /-- `SHLI` (R64). -/
  | shli (d a : SReg) (n : Fin 64)
  /-- `SHRI_Z` (R64). -/
  | shriZ (d a : SReg) (n : Fin 64)
  /-- `SHRI_S` (R64). -/
  | shriS (d a : SReg) (n : Fin 64)
  /-- `SLTI_S` (R64). -/
  | sltiS (d a : SReg) (imm : BitVec 13)
  /-- `SLTI_Z` (R64). -/
  | sltiZ (d a : SReg) (imm : BitVec 13)
  /-- `BEXTI` (R64; wid1 is the width less 1). -/
  | bexti (d a : SReg) (pos wid1 : Fin 64)
  /-- `LHI` (R65). -/
  | lhi (d : SReg) (k : Fin 4) (v : BitVec 17)
  /-- `PCADD` (R66). -/
  | pcadd (d : SReg) (imm : BitVec 19)
  /-- `LD_I8` (R68). -/
  | ldI8 (d a : SReg) (imm : BitVec 13)
  /-- `LD_Z8` (R68). -/
  | ldZ8 (d a : SReg) (imm : BitVec 13)
  /-- `LD_I16` (R68). -/
  | ldI16 (d a : SReg) (imm : BitVec 13)
  /-- `LD_Z16` (R68). -/
  | ldZ16 (d a : SReg) (imm : BitVec 13)
  /-- `LD_I32` (R68). -/
  | ldI32 (d a : SReg) (imm : BitVec 13)
  /-- `LD_Z32` (R68). -/
  | ldZ32 (d a : SReg) (imm : BitVec 13)
  /-- `LD_64` (R68). -/
  | ld64 (d a : SReg) (imm : BitVec 13)
  /-- `ST_8` (R68). -/
  | st8 (d a : SReg) (imm : BitVec 13)
  /-- `ST_16` (R68). -/
  | st16 (d a : SReg) (imm : BitVec 13)
  /-- `ST_32` (R68). -/
  | st32 (d a : SReg) (imm : BitVec 13)
  /-- `ST_64` (R68). -/
  | st64 (d a : SReg) (imm : BitVec 13)
  /-- `LDREF` (R74). -/
  | ldref (d a : SReg) (off : BitVec 10)
  /-- `STREF` (R74). -/
  | stref (d a : SReg) (off : BitVec 10)
  /-- `AMO_ADD` (R75, R76). -/
  | amoAdd (d a b : SReg) (ord : AmoOrd) (sc : Scope)
  /-- `AMO_AND` (R75, R76). -/
  | amoAnd (d a b : SReg) (ord : AmoOrd) (sc : Scope)
  /-- `AMO_OR` (R75, R76). -/
  | amoOr (d a b : SReg) (ord : AmoOrd) (sc : Scope)
  /-- `AMO_XOR` (R75, R76). -/
  | amoXor (d a b : SReg) (ord : AmoOrd) (sc : Scope)
  /-- `AMO_MIN_S` (R75, R76). -/
  | amoMinS (d a b : SReg) (ord : AmoOrd) (sc : Scope)
  /-- `AMO_MIN_Z` (R75, R76). -/
  | amoMinZ (d a b : SReg) (ord : AmoOrd) (sc : Scope)
  /-- `AMO_MAX_S` (R75, R76). -/
  | amoMaxS (d a b : SReg) (ord : AmoOrd) (sc : Scope)
  /-- `AMO_MAX_Z` (R75, R76). -/
  | amoMaxZ (d a b : SReg) (ord : AmoOrd) (sc : Scope)
  /-- `AMO_SWAP` (R75, R76). -/
  | amoSwap (d a b : SReg) (ord : AmoOrd) (sc : Scope)
  /-- `AMO_CAS` (R75, R76). -/
  | amoCas (d a b : SReg) (ord : AmoOrd) (sc : Scope)
  /-- `BEQ` (R77). -/
  | beq (a b : SReg) (off : BitVec 13)
  /-- `BNE` (R77). -/
  | bne (a b : SReg) (off : BitVec 13)
  /-- `BLT_S` (R77). -/
  | bltS (a b : SReg) (off : BitVec 13)
  /-- `BGE_S` (R77). -/
  | bgeS (a b : SReg) (off : BitVec 13)
  /-- `BLT_Z` (R77). -/
  | bltZ (a b : SReg) (off : BitVec 13)
  /-- `BGE_Z` (R77). -/
  | bgeZ (a b : SReg) (off : BitVec 13)
  /-- `JAL` (R78). -/
  | jal (d : SReg) (off : BitVec 19)
  /-- `JALR` (R78). -/
  | jalr (d a : SReg) (off : BitVec 13)
  /-- `BANY` (R79). -/
  | bany (p : PReg) (off : BitVec 13)
  /-- `BALL` (R79). -/
  | ball (p : PReg) (off : BitVec 13)
  /-- `DIVB` (R82). -/
  | divb (p : PReg) (off : BitVec 13)
  /-- `DELSE` (R82). -/
  | delse (off : BitVec 19)
  /-- `DJOIN` (R82). -/
  | djoin
  /-- `DLOOP` (R83). -/
  | dloop (off : BitVec 19)
  /-- `DBRK` (R83). -/
  | dbrk (p : PReg)
  /-- `DNEXT` (R83). -/
  | dnext (off : BitVec 19)
  /-- `SGET` (R57). -/
  | sget (d : SReg) (idx : BitVec 12)
  /-- `SSET` (R57). -/
  | sset (a : SReg) (idx : BitVec 12)
  /-- `TBIND` (R61). -/
  | tbind (t : BtReg) (a b : SReg)
  /-- `LRUN` (R85). -/
  | lrun (n : BitVec 19)
  /-- `LSYNC` (R86). -/
  | lsync
  /-- `SFROMV` (R87). -/
  | sfromv (d : SReg) (v : VReg) (lane : Fin 64)
  /-- `SFROMP` (R87). -/
  | sfromp (d : SReg) (p : PReg)
  /-- `VADD` (R97). -/
  | vadd (t : IType) (d a : VReg) (b : BSrc) (c : LaneCtl)
  /-- `VSUB` (R97). -/
  | vsub (t : IType) (d a : VReg) (b : BSrc) (c : LaneCtl)
  /-- `VMUL` (R97). -/
  | vmul (t : IType) (d a : VReg) (b : BSrc) (c : LaneCtl)
  /-- `VMULH_S` (R97). -/
  | vmulhS (t : IType) (d a : VReg) (b : BSrc) (c : LaneCtl)
  /-- `VMULH_Z` (R97). -/
  | vmulhZ (t : IType) (d a : VReg) (b : BSrc) (c : LaneCtl)
  /-- `VMAD` (R97). -/
  | vmad (t : IType) (d a : VReg) (b : BSrc) (x : CSrc) (c : LaneCtl)
  /-- `VAND` (R97). -/
  | vand (t : IType) (d a : VReg) (b : BSrc) (c : LaneCtl)
  /-- `VOR` (R97). -/
  | vor (t : IType) (d a : VReg) (b : BSrc) (c : LaneCtl)
  /-- `VXOR` (R97). -/
  | vxor (t : IType) (d a : VReg) (b : BSrc) (c : LaneCtl)
  /-- `VANDN` (R97). -/
  | vandn (t : IType) (d a : VReg) (b : BSrc) (c : LaneCtl)
  /-- `VSHL` (R97). -/
  | vshl (t : IType) (d a : VReg) (b : BSrc) (c : LaneCtl)
  /-- `VSHR_Z` (R97). -/
  | vshrZ (t : IType) (d a : VReg) (b : BSrc) (c : LaneCtl)
  /-- `VSHR_S` (R97). -/
  | vshrS (t : IType) (d a : VReg) (b : BSrc) (c : LaneCtl)
  /-- `VMIN_S` (R97). -/
  | vminS (t : IType) (d a : VReg) (b : BSrc) (c : LaneCtl)
  /-- `VMIN_Z` (R97). -/
  | vminZ (t : IType) (d a : VReg) (b : BSrc) (c : LaneCtl)
  /-- `VMAX_S` (R97). -/
  | vmaxS (t : IType) (d a : VReg) (b : BSrc) (c : LaneCtl)
  /-- `VMAX_Z` (R97). -/
  | vmaxZ (t : IType) (d a : VReg) (b : BSrc) (c : LaneCtl)
  /-- `VABS` (R97). -/
  | vabs (t : IType) (d a : VReg) (c : LaneCtl)
  /-- `VSEL` (R97). -/
  | vsel (t : IType) (d a : VReg) (b : BSrc) (p : PReg) (c : LaneCtl)
  /-- `VMOV` (R97). -/
  | vmov (t : IType) (d : VReg) (b : BSrc) (c : LaneCtl)
  /-- `VCLZ` (R97). -/
  | vclz (t : IType) (d a : VReg) (c : LaneCtl)
  /-- `VPOPC` (R97). -/
  | vpopc (t : IType) (d a : VReg) (c : LaneCtl)
  /-- `VBEXT` (R97). -/
  | vbext (t : IType) (d a : VReg) (b : BSrc) (c : LaneCtl)
  /-- `VCMP` (R97). -/
  | vcmp (t : IType) (cc : Cmp) (d : PReg) (a : VReg) (b : BSrc) (c : LaneCtl)
  /-- `PAND` (R98). -/
  | pand (d a : PReg) (b : PSrc) (c : LaneCtl)
  /-- `POR` (R98). -/
  | por (d a : PReg) (b : PSrc) (c : LaneCtl)
  /-- `PXOR` (R98). -/
  | pxor (d a : PReg) (b : PSrc) (c : LaneCtl)
  /-- `PANDN` (R98). -/
  | pandn (d a : PReg) (b : PSrc) (c : LaneCtl)
  /-- `PSET` (R98). -/
  | pset (d : PReg) (b : BSrc) (c : LaneCtl)
  /-- `PGET` (R98). -/
  | pget (d : VReg) (a : PReg) (c : LaneCtl)
  /-- `VXCHG` (R100). -/
  | vxchg (t : IType) (d a : VReg) (b : BSrc) (c : LaneCtl)
  /-- `VSHIFT` (R100). -/
  | vshift (t : IType) (d a : VReg) (b : BSrc) (c : LaneCtl)
  /-- `VPERM` (R100). -/
  | vperm (t : IType) (d a b : VReg) (c : LaneCtl)
  /-- `VBCAST` (R100). -/
  | vbcast (t : IType) (d a : VReg) (b : BSrc) (c : LaneCtl)
  /-- `VRED` (R101). -/
  | vred (op : RedOp) (t : IType) (d a : VReg) (c : LaneCtl)
  /-- `VSCAN` (R101). -/
  | vscan (op : RedOp) (t : IType) (d a : VReg) (c : LaneCtl)
  /-- `VLD` (R110). -/
  | vld (t : IType) (d : VReg) (bt : BtReg) (m : LaneAddr) (h : Hint) (fb : Bool) (c : LaneCtl)
  /-- `VST` (R110). -/
  | vst (t : IType) (bt : BtReg) (m : LaneAddr) (e : VReg) (h : Hint) (fb : Bool) (c : LaneCtl)
  /-- `VLDS` (R110). -/
  | vlds (t : IType) (d : VReg) (m : LaneAddr) (c : LaneCtl)
  /-- `VSTS` (R110). -/
  | vsts (t : IType) (m : LaneAddr) (e : VReg) (c : LaneCtl)
  /-- `VAMO` (R111). -/
  | vamo (op : AmoOp) (t : IType) (d : VReg) (bt : BtReg) (m : LaneAddr) (e : VReg) (h : Hint) (fb : Bool) (c : LaneCtl)
  /-- `VRAND` (R112). -/
  | vrand (d a : VReg) (k : SReg) (c : LaneCtl)
  /-- `VNOP` (R113). -/
  | vnop (c : LaneCtl)
  /-- `VFADD` (R140). -/
  | vfadd (t : FType) (r : RndOv) (d a : VReg) (b : BSrc) (c : LaneCtl)
  /-- `VFSUB` (R140). -/
  | vfsub (t : FType) (r : RndOv) (d a : VReg) (b : BSrc) (c : LaneCtl)
  /-- `VFMUL` (R140). -/
  | vfmul (t : FType) (r : RndOv) (d a : VReg) (b : BSrc) (c : LaneCtl)
  /-- `VFMA` (R140). -/
  | vfma (t : FType) (r : RndOv) (d a : VReg) (b : BSrc) (x : CSrc) (c : LaneCtl)
  /-- `VFMIN` (R140). -/
  | vfmin (t : FType) (r : RndOv) (d a : VReg) (b : BSrc) (c : LaneCtl)
  /-- `VFMAX` (R140). -/
  | vfmax (t : FType) (r : RndOv) (d a : VReg) (b : BSrc) (c : LaneCtl)
  /-- `VFSGN` (R140). -/
  | vfsgn (t : FType) (r : RndOv) (d a : VReg) (b : BSrc) (c : LaneCtl)
  /-- `VFCMP` (R140). -/
  | vfcmp (t : FType) (cc : FCmp) (r : RndOv) (d : PReg) (a : VReg) (b : BSrc) (c : LaneCtl)
  /-- `VFCLS` (R140). -/
  | vfcls (t : FType) (r : RndOv) (d a : VReg) (c : LaneCtl)
  /-- `VFRND` (R140). -/
  | vfrnd (t : FType) (r : RndOv) (d a : VReg) (c : LaneCtl)
  /-- `VFCVT` (R142). -/
  | vfcvt (td ts : CvtType) (r : RndOv) (d a : VReg) (b : BSrc) (c : LaneCtl)
  /-- `VQUANT` (R143). -/
  | vquant (t : QType) (l : BlockLen) (sf : ScaleFmt) (r : RndOv) (d a : VReg) (c : LaneCtl)
  /-- `VDEQUANT` (R144). -/
  | vdequant (t : QType) (l : BlockLen) (sf : ScaleFmt) (r : RndOv) (d a : VReg) (b : BSrc) (c : LaneCtl)
  /-- `VRCP` (R157). -/
  | vrcp (t : SType) (r : RndOv) (d a : VReg) (c : LaneCtl)
  /-- `VRSQRT` (R157). -/
  | vrsqrt (t : SType) (r : RndOv) (d a : VReg) (c : LaneCtl)
  /-- `VSQRT` (R157). -/
  | vsqrt (t : SType) (r : RndOv) (d a : VReg) (c : LaneCtl)
  /-- `VEXP2` (R157). -/
  | vexp2 (t : SType) (r : RndOv) (d a : VReg) (c : LaneCtl)
  /-- `VLOG2` (R157). -/
  | vlog2 (t : SType) (r : RndOv) (d a : VReg) (c : LaneCtl)
  /-- `VSIN` (R157). -/
  | vsin (t : SType) (r : RndOv) (d a : VReg) (c : LaneCtl)
  /-- `VCOS` (R157). -/
  | vcos (t : SType) (r : RndOv) (d a : VReg) (c : LaneCtl)
  /-- `VTANH` (R157). -/
  | vtanh (t : SType) (r : RndOv) (d a : VReg) (c : LaneCtl)
  /-- `MFMT` (R256, R47). -/
  | mfmt (a : SReg)
  /-- `MZERO` (R250). -/
  | mzero (t : TileReg)
  /-- `MMA` (R245). -/
  | mma (t : TileReg) (a b : SReg)
  /-- `MMAQ` (R245). -/
  | mmaq (t : TileReg) (a b : SReg)
  /-- `MMA_RN` (R245). -/
  | mmaRn (t : TileReg) (a b : SReg)
  /-- `MBATCH` (R257). -/
  | mbatch (d : SReg)
  /-- `MWAIT` (R257). -/
  | mwait (a : SReg)
  /-- `MRESOLVE_I32` (R251). -/
  | mresolveI32 (t : TileReg) (a : SReg)
  /-- `MRESOLVE_TILE` (R251). -/
  | mresolveTile (t : TileReg) (a : SReg)
  /-- `MRESOLVE_ROW` (R251). -/
  | mresolveRow (t : TileReg) (a : SReg)
  /-- `MLD` (R252). -/
  | mld (t : TileReg) (a : SReg)
  /-- `MST` (R253, R254). -/
  | mst (t : TileReg) (a : SReg) (f : MstFmt)
  /-- `MST_Q_E8M0` (R253, R254). -/
  | mstQE8m0 (t : TileReg) (a : SReg) (f : MstFmt)
  /-- `MST_Q_E4M3` (R253, R254). -/
  | mstQE4m3 (t : TileReg) (a : SReg) (f : MstFmt)
  /-- `TCOPY_IN` (R209). -/
  | tcopyIn (tag : Fin 64) (a : SReg)
  /-- `TCOPY_IN_KEY` (R211). -/
  | tcopyInKey (tag : Fin 64) (a : SReg) (k : Fin 16)
  /-- `TCOPY_OUT` (R209). -/
  | tcopyOut (tag : Fin 64) (a : SReg)
  /-- `TCOPY_SS` (R209). -/
  | tcopySs (tag : Fin 64) (a : SReg)
  /-- `TGATHER` (R210). -/
  | tgather (tag : Fin 64) (a b : SReg)
  /-- `TBIN` (R215). -/
  | tbin (tag : Fin 64) (a b : SReg) (v : VReg)
  /-- `HREAD` (R220). -/
  | hread (a : SReg) (tag : SReg) (off : BitVec 13)
  /-- `TWAIT_ANY` (R213). -/
  | twaitAny (d a : SReg)
  /-- `TWAIT_ALL` (R213). -/
  | twaitAll (d a : SReg)
  /-- `TFIRST` (R213). -/
  | tfirst (d a : SReg)
  /-- `TCLR` (R213). -/
  | tclr (a : SReg)
  /-- `BAR_INIT` (R208). -/
  | barInit (a b : SReg)
  /-- `BAR_EXPECT` (R208). -/
  | barExpect (a b : SReg)
  /-- `BAR_ARRIVE` (R208). -/
  | barArrive (a b : SReg)
  /-- `BAR_WAIT` (R208). -/
  | barWait (a b : SReg)
  /-- `BAR_TEST` (R208). -/
  | barTest (d a b : SReg)
  /-- `RING_INIT` (R217). -/
  | ringInit (a b : SReg)
  /-- `RING_FILL` (R217). -/
  | ringFill (tag : Fin 64) (a b : SReg)
  /-- `RING_AWAIT` (R217). -/
  | ringAwait (d a : SReg)
  /-- `RING_RELEASE` (R217). -/
  | ringRelease (a : SReg)
  /-- `FENCE_ACQ` (R170). -/
  | fenceAcq (sc : Scope)
  /-- `FENCE_REL` (R170). -/
  | fenceRel (sc : Scope)
  /-- `FENCE_AR` (R170). -/
  | fenceAr (sc : Scope)
  /-- `TFENCE` (R172). -/
  | tfence (sc : Scope)
  /-- `BSYNC` (R173). -/
  | bsync
  /-- `RSYNC` (R174; the sides are 2^w and 2^h). -/
  | rsync (w : Fin 7) (h : Fin 5)
  /-- `PUBLISH` (R183). -/
  | publish (tag : Fin 64) (a : SReg) (sc : Scope)
  /-- `LAUNCH` (R271). -/
  | launch (d a : SReg)
  /-- `EXIT` (R28). -/
  | exit
  /-- `YIELD` (R284). -/
  | yield
  /-- `PHASE` (R282). -/
  | phase (a : SReg)
  /-- `IDEM` (R296). -/
  | idem
  /-- `TRAP` (R290). -/
  | trap (code : BitVec 19)
  /-- `TRET` (R291). -/
  | tret
  /-- `GINSPECT` (R292). -/
  | ginspect (d a b : SReg)
  /-- `GMODIFY` (R292). -/
  | gmodify (a b : SReg)
  /-- `GRESUME` (R294). -/
  | gresume (a : SReg)
  /-- `GEND` (R294). -/
  | gend (a : SReg)
  /-- `SYSC` (R295). -/
  | sysc (n : BitVec 19)
  /-- `TLBINV` (R315). -/
  | tlbinv (a b : SReg)
  /-- `TLBFENCE` (R316). -/
  | tlbfence
  /-- `PGFREE` (R323). -/
  | pgfree (a : SReg)
  /-- `PGALLOC` (R324). -/
  | pgalloc (d : SReg)
  /-- `LEND` (R328). -/
  | lend (a b : SReg)
  /-- `RECALL` (R329). -/
  | recall (a : SReg)
  /-- `KEYLOAD` (R331). -/
  | keyload (a b : SReg)
  /-- `WFE` (R333). -/
  | wfe
  /-- `IRET` (R333). -/
  | iret
  /-- `TILE_OPEN` (R373). -/
  | tileOpen (t : TileReg) (a : SReg)
  /-- `TILE_CLOSE` (R373). -/
  | tileClose (t : TileReg)
  /-- `TRIG` (R372). -/
  | trig (n : Fin 16)
  /-- `CNT` (R367). -/
  | cnt (d : SReg) (idx : BitVec 12)
  /-- `FTV_WRITE` (R58). -/
  | ftvWrite
  /-- `FPX_WRITE` (R127). -/
  | fpxWrite
  /-- `STOPAT_WRITE` (R357). -/
  | stopatWrite
  /-- `SCALAR_LOAD_RETURN` (R56). -/
  | scalarLoadReturn
  /-- `STORE_QUEUE_DRAIN` (R71). -/
  | storeQueueDrain
  /-- `ATOMIC_PERFORM` (R165). -/
  | atomicPerform
  /-- `LOAD_BIND` (R162). -/
  | loadBind
  /-- `FAULT_REPLAY` (R104). -/
  | faultReplay
  /-- `OPERAND_LOG_ENTRY_FREE` (R340). -/
  | operandLogEntryFree
  /-- `CLAUSE_START` (R89). -/
  | clauseStart
  /-- `LANE_ISSUE` (R90). -/
  | laneIssue
  /-- `LONG_LATENCY_COMPLETE` (R92). -/
  | longLatencyComplete
  /-- `MATRIX_OP_START` (R262). -/
  | matrixOpStart
  /-- `MATRIX_OP_COMPLETE` (R258). -/
  | matrixOpComplete
  /-- `ENGINE_OPERATION_COMPLETE` (R193). -/
  | engineOperationComplete
  /-- `BURST_DELIVERY` (R221). -/
  | burstDelivery
  /-- `SPROUT_TIME_LIMIT` (R223). -/
  | sproutTimeLimit
  /-- `LAST_BURST_EVENT` (R224). -/
  | lastBurstEvent
  /-- `RING_FILL_START` (R217). -/
  | ringFillStart
  /-- `ENGINE_ACCESS` (R203). -/
  | engineAccess
  /-- `HOST_READBACK` (R167). -/
  | hostReadback
  /-- `PAGE_WALK` (R172). -/
  | pageWalk
  /-- `BARRIER_COMPLETE` (R173, R174). -/
  | barrierComplete
  /-- `RAKE_MARK` (R184). -/
  | rakeMark
  /-- `RAKE_SET` (R185). -/
  | rakeSet
  /-- `OVERFLOW_REFILL` (R272). -/
  | overflowRefill
  /-- `LAUNCH_AGING` (R273). -/
  | launchAging
  /-- `LAUNCH_PLACEMENT` (R275). -/
  | launchPlacement
  /-- `LAUNCH_COMPLETION` (R277). -/
  | launchCompletion
  /-- `TRAP_ENTRY` (R286). -/
  | trapEntry
  /-- `SYSC_MESSAGE` (R334). -/
  | syscMessage
  /-- `REGISTER_PARITY_ERROR` (R300). -/
  | registerParityError
  /-- `BLOCK_MIGRATION` (R189). -/
  | blockMigration
  /-- `TLB_INVALIDATION_APPLY` (R315). -/
  | tlbInvalidationApply
  /-- `SCRUB_FRAME` (R322). -/
  | scrubFrame
  /-- `RECALL_DEADLINE` (R329). -/
  | recallDeadline
  /-- `INTERRUPT_ENTRY` (R311). -/
  | interruptEntry
  /-- `IPEND_WRITE` (R311). -/
  | ipendWrite
  /-- `LCOMP_WRITE` (R312). -/
  | lcompWrite
  /-- `FPOST_WRITE` (R319). -/
  | fpostWrite
  /-- `SYSC_POST_WRITE` (R334). -/
  | syscPostWrite
  /-- `VF_WEIGHT_WRITE` (R326). -/
  | vfWeightWrite
  /-- `VF_QUANTUM_WRITE` (R326). -/
  | vfQuantumWrite
  /-- `VF_ROOT_WRITE` (R406). -/
  | vfRootWrite
  /-- `WIN_VA_WRITE` (R406). -/
  | winVaWrite
  /-- `HRING_WRITE` (R408). -/
  | hringWrite
  /-- `SLICE_END` (R326). -/
  | sliceEnd
  /-- `SHARED_PAGE_POISON` (R321). -/
  | sharedPagePoison
  /-- `SESSION_END` (R331). -/
  | sessionEnd
  /-- `DBG_CTXID_WRITE` (R370). -/
  | dbgCtxidWrite
  /-- `DBG_PANIC_WRITE` (R370). -/
  | dbgPanicWrite
  /-- `DBG_RUN_WRITE` (R359). -/
  | dbgRunWrite
  /-- `TRC_STATE_WRITE` (R362). -/
  | trcStateWrite
  /-- `SAMPLER_TICK` (R369). -/
  | samplerTick
  /-- `PACKAGE_STOP` (R358). -/
  | packageStop
  /-- `PLOT_STOP` (R359). -/
  | plotStop
  /-- `IMAGE_RESTORE` (R361). -/
  | imageRestore
  /-- `REFERENCE_LOSS` (R346). -/
  | referenceLoss
  /-- `REFERENCE_RETURN` (R346). -/
  | referenceReturn
  /-- `REFERENCE_HOLDOVER_TIMEOUT` (R346). -/
  | referenceHoldoverTimeout
  /-- `CLUSTER_RATIO_CHANGE` (R347). -/
  | clusterRatioChange
  /-- `DRAM_REFRESH` (R348). -/
  | dramRefresh
  /-- `GATE_ADMISSION` (R349). -/
  | gateAdmission
  /-- `GATE_CONTROL_WRITE` (R350). -/
  | gateControlWrite
  /-- `OUTBOUND_TRANSACTION` (R354). -/
  | outboundTransaction
  /-- `REPLAY_INJECT` (R355). -/
  | replayInject
  /-- `HOST_WINDOW_REQUEST` (R405). -/
  | hostWindowRequest
  /-- `LOCK_INTERFACE` (R406). -/
  | lockInterface
  /-- `STOP_INTERFACE` (R406). -/
  | stopInterface
  /-- `CONFIGURATION_REQUEST` (R414). -/
  | configurationRequest
  /-- `BRIXVEX_FLIT` (R412). -/
  | brixvexFlit
  /-- `NVME_DOORBELL` (R413). -/
  | nvmeDoorbell
  /-- `NVME_COMPLETION` (R413). -/
  | nvmeCompletion
  /-- `CXL_RESPONSE` (R410). -/
  | cxlResponse
  /-- `ALIGNMENT_EXCHANGE` (R374). -/
  | alignmentExchange
  /-- `POWER_UP` (R414). -/
  | powerUp
  /-- `FATAL_DUMP` (R377). -/
  | fatalDump
  /-- `POWER_THERMAL_ALERT` (R415). -/
  | powerThermalAlert
  /-- `START_INTERFACE` (R406). -/
  | startInterface
  /-- `SPDM_REQUEST` (R332). -/
  | spdmRequest
  /-- `PACKAGE_RELEASE` (R358). -/
  | packageRelease
  /-- `SOFT_ERROR` (R418). -/
  | softError
  /-- `UNCORRECTABLE_LINE_ERROR` (R417). -/
  | uncorrectableLineError
  deriving DecidableEq, Repr

end Sys2Proof
end

