-- ==== Sys2Proof/WellFormed.lean ====
section
/-! DEFINITION. Which terms of `Instr` are instructions: the checks on operand fields that the field widths do not
already make. A lane register's bound by the group's row count and a sprout's register bounds depend on the state
(R17, R50); those are checked where the instruction issues. -/

namespace Sys2Proof

/-- The element width in bits (R94). -/
def IType.width : IType → Nat
  | .i8 | .z8 => 8
  | .i16 | .z16 => 16
  | .i32 | .z32 => 32
  | .i64 => 64

/-- An even type code (R39): the only ones allowed where the mnemonic carries the signedness. -/
def IType.isSignedCode : IType → Bool
  | .i8 | .i16 | .i32 | .i64 => true
  | .z8 | .z16 | .z32 => false

/-- The types of `vamo` (R40: codes 4–6). -/
def IType.isAtomic : IType → Bool
  | .i32 | .z32 | .i64 => true
  | .i8 | .z8 | .i16 | .z16 => false

/-- A layout triple names three consecutive registers (R32). -/
def tripleOk (a : SReg) : Bool := decide (a.val ≤ 61)

/-- An argument octet starts at a multiple of 8 (R32). -/
def octetOk (a : SReg) : Bool := decide (a.val % 8 = 0)

/-- A vector operand of an .i64 instruction names the even register of a pair (R38, R94). -/
def pairOk (t : IType) (v : VReg) : Bool := decide (t ≠ .i64) || decide (v.val % 2 = 0)

/-- The pair rule on a second source. -/
def bPairOk (t : IType) : BSrc → Bool
  | .vec v => pairOk t v
  | .sca _ => true
  | .imm _ => true

/-- The index register of a scratchpad form is a vector operand as any other: of an .i64 one it names the even row of a
pair. R38 and R94 except the index registers of `vld`, `vst` and `vamo` only. -/
def padIndexOk (t : IType) (m : LaneAddr) : Bool := m.index.all (fun x => pairOk t x.v)

/-- The pair rule on a third source. -/
def cPairOk (t : IType) : CSrc → Bool
  | .vec v => pairOk t v
  | .sca _ => true

/-- The second source is a scalar or an immediate (Table 5.5). -/
def BSrc.notVec : BSrc → Bool
  | .vec _ => false
  | .sca _ => true
  | .imm _ => true

/-- The source is the empty field: vector 0 (R36: an unused field is 0). -/
def BSrc.isZero : BSrc → Bool
  | .vec v => decide (v = 0)
  | .sca _ => false
  | .imm _ => false

/-- The element types of the quantising `mst` (Table 3.3 with the chapter on matrix instructions: codes 2–6). -/
def quantFmtOk : MstFmt → Bool
  | .e4m3 | .e5m2 | .e3m2 | .e2m3 | .e2m1 => true
  | .bf16 | .fp16 | .int8 | .int4 | .fp32 => false

/-- An integer type of `vfcvt`. -/
def CvtType.isInt : CvtType → Bool
  | .i32 | .z32 => true
  | .f32 | .f16 | .bf16 | .bf16x2 | .e4m3 | .e5m2 | .e3m2 | .e2m3 | .e2m1 => false

/-- The combinations of `vfcvt` (R141). -/
def cvtOk (td ts : CvtType) (b : BSrc) : Bool :=
  decide (td ≠ ts) && !(td.isInt && ts.isInt)
    && (decide (td ≠ .bf16x2) || (decide (ts = .f32) && !(match b with | .imm _ => true | _ => false)))
    && (decide (ts ≠ .bf16x2) || decide (td = .f32))
    && (decide (td = .bf16x2) || b.isZero)

/-- Which terms are instructions. -/
def Instr.wf : Instr → Bool
  | .add .. | .sub .. | .and .. | .or .. | .xor .. | .andn .. | .shl .. | .shrZ .. | .shrS .. | .nop | .mul ..
  | .mulhS .. | .mulhZ .. | .divS .. | .divZ .. | .remS .. | .remZ .. | .minS .. | .minZ .. | .maxS .. | .maxZ ..
  | .sltS .. | .sltZ .. | .seq .. | .clz .. | .ctz .. | .popc .. | .bext .. | .addi .. | .andi .. | .ori ..
  | .xori .. | .shli .. | .shriZ .. | .shriS .. | .sltiS .. | .sltiZ .. | .bexti .. | .lhi .. | .pcadd .. | .ldI8 ..
  | .ldZ8 .. | .ldI16 .. | .ldZ16 .. | .ldI32 .. | .ldZ32 .. | .ld64 .. | .st8 .. | .st16 .. | .st32 .. | .st64 ..
  | .ldref .. | .stref .. | .amoAdd .. | .amoAnd .. | .amoOr .. | .amoXor .. | .amoMinS .. | .amoMinZ ..
  | .amoMaxS .. | .amoMaxZ .. | .amoSwap .. | .amoCas .. | .beq .. | .bne .. | .bltS .. | .bgeS .. | .bltZ ..
  | .bgeZ .. | .jal .. | .jalr .. | .bany .. | .ball .. | .divb .. | .delse .. | .djoin | .dloop .. | .dbrk ..
  | .dnext .. | .sget .. | .sset .. | .tbind .. | .lrun .. | .lsync | .sfromv .. | .sfromp .. | .pand .. | .por ..
  | .pxor .. | .pandn .. | .pset .. | .pget .. | .vnop .. | .vfadd .. | .vfsub .. | .vfmul .. | .vfma .. | .vfmin ..
  | .vfmax .. | .vfsgn .. | .vfcmp .. | .vfcls .. | .vfrnd .. | .vquant .. | .vdequant .. | .vrcp .. | .vrsqrt ..
  | .vsqrt .. | .vexp2 .. | .vlog2 .. | .vsin .. | .vcos .. | .vtanh .. | .mfmt .. | .mzero .. | .mbatch ..
  | .mwait .. | .mresolveI32 .. | .mresolveTile .. | .mresolveRow .. | .tbin .. | .twaitAny .. | .twaitAll ..
  | .tfirst .. | .tclr .. | .barInit .. | .barExpect .. | .barArrive .. | .barWait .. | .barTest .. | .ringInit ..
  | .ringAwait .. | .ringRelease .. | .fenceAcq .. | .fenceRel .. | .fenceAr .. | .tfence .. | .bsync | .rsync ..
  | .launch .. | .exit | .yield | .phase .. | .idem | .trap .. | .tret | .ginspect .. | .gmodify .. | .gresume ..
  | .gend .. | .sysc .. | .tlbinv .. | .tlbfence | .pgfree .. | .pgalloc .. | .lend .. | .recall .. | .keyload ..
  | .wfe | .iret | .tileOpen .. | .tileClose .. | .trig .. | .cnt .. | .ftvWrite | .fpxWrite | .stopatWrite
  | .scalarLoadReturn | .storeQueueDrain | .atomicPerform | .loadBind | .faultReplay | .operandLogEntryFree
  | .clauseStart | .laneIssue | .longLatencyComplete | .matrixOpStart | .matrixOpComplete | .engineOperationComplete
  | .burstDelivery | .sproutTimeLimit | .lastBurstEvent | .ringFillStart | .engineAccess | .hostReadback | .pageWalk
  | .barrierComplete | .rakeMark | .rakeSet | .overflowRefill | .launchAging | .launchPlacement | .launchCompletion
  | .trapEntry | .syscMessage | .registerParityError | .blockMigration | .tlbInvalidationApply | .scrubFrame
  | .recallDeadline | .interruptEntry | .ipendWrite | .lcompWrite | .fpostWrite | .syscPostWrite | .vfWeightWrite
  | .vfQuantumWrite | .vfRootWrite | .winVaWrite | .hringWrite | .sliceEnd | .sharedPagePoison | .sessionEnd
  | .dbgCtxidWrite | .dbgPanicWrite | .dbgRunWrite | .trcStateWrite | .samplerTick | .packageStop | .plotStop
  | .imageRestore | .referenceLoss | .referenceReturn | .referenceHoldoverTimeout | .clusterRatioChange
  | .dramRefresh | .gateAdmission | .gateControlWrite | .outboundTransaction | .replayInject | .hostWindowRequest
  | .lockInterface | .stopInterface | .configurationRequest | .brixvexFlit | .nvmeDoorbell | .nvmeCompletion
  | .cxlResponse | .alignmentExchange | .powerUp | .fatalDump | .powerThermalAlert | .startInterface | .spdmRequest
  | .packageRelease | .softError | .uncorrectableLineError => true
  | .vadd t d a b _ | .vsub t d a b _ | .vmul t d a b _ | .vand t d a b _ | .vor t d a b _ | .vxor t d a b _
  | .vandn t d a b _ | .vshl t d a b _ | .vbext t d a b _ =>
    pairOk t d && pairOk t a && bPairOk t b
  | .vmulhS t d a b _ | .vmulhZ t d a b _ | .vshrZ t d a b _ | .vshrS t d a b _ | .vminS t d a b _
  | .vminZ t d a b _ | .vmaxS t d a b _ | .vmaxZ t d a b _ =>
    t.isSignedCode && pairOk t d && pairOk t a && bPairOk t b
  | .vmad t d a b x _ =>
    pairOk t d && pairOk t a && bPairOk t b && cPairOk t x
  | .vabs t d a _ | .vclz t d a _ | .vpopc t d a _ =>
    pairOk t d && pairOk t a
  | .vsel t d a b _ _ =>
    pairOk t d && pairOk t a && bPairOk t b
  | .vmov t d b _ =>
    pairOk t d && bPairOk t b
  | .vcmp t _ _ a b _ =>
    pairOk t a && bPairOk t b
  | .vxchg t d a b _ | .vshift t d a b _ | .vbcast t d a b _ =>
    pairOk t d && pairOk t a && b.notVec
  | .vperm t d a b _ =>
    pairOk t d && pairOk t a && pairOk t b
  | .vred _ t d a _ | .vscan _ t d a _ =>
    pairOk t d && pairOk t a
  | .vld t d _ _ _ _ _ =>
    pairOk t d
  | .vst t _ _ e _ _ _ =>
    pairOk t e
  | .vlds t d m _ =>
    pairOk t d && padIndexOk t m
  | .vsts t m e _ =>
    pairOk t e && padIndexOk t m
  | .vamo _ t d _ _ e _ _ _ =>
    t.isAtomic && pairOk t d && pairOk t e
  | .vrand _ _ k _ =>
    decide (k.val % 2 = 0)
  | .vfcvt td ts _ _ _ b _ =>
    cvtOk td ts b
  | .mma _ a b | .mmaq _ a b | .mmaRn _ a b =>
    tripleOk a && tripleOk b
  | .mld _ a =>
    tripleOk a
  | .mst _ a _ =>
    tripleOk a
  | .mstQE8m0 _ a f | .mstQE4m3 _ a f =>
    tripleOk a && quantFmtOk f
  | .tcopyIn _ a | .tcopyOut _ a | .tcopySs _ a =>
    octetOk a
  | .tcopyInKey _ a _ | .tgather _ a _ =>
    octetOk a
  | .hread a _ _ =>
    octetOk a
  | .ringFill _ _ b =>
    octetOk b
  | .publish _ _ sc =>
    decide (sc ≠ .g)

/-- A clause header that `lrun` admits (R42). -/
def ClauseHeader.wf (h : ClauseHeader) : Bool :=
  decide (h.length.val ≠ 0) && (decide (h.setA = none) || decide (h.setA ≠ h.setB))

end Sys2Proof
end

