-- ==== Sys2Proof/Decode.lean ====
section
/-! DEFINITION. From bits to instructions and back (R29–R42). A word is cut into the fields of its format; a
candidate instruction is read from the fields; the word is accepted when the candidate is well formed and its own
encoding is that very word, so that every field the instruction does not use is 0 (R32, R36). The encoder, and the
words the host numbers as the opcode table does, stand after the decoder's parts in this file. -/

namespace Sys2Proof

/-- Why a word is not an instruction. -/
inductive DecodeError where
  /-- fewer bytes than the word needs -/
  | short
  /-- the op is not in Table 3.2 or Table 3.9 -/
  | unallocatedOp
  /-- the func or sub-operation bits are not listed -/
  | unallocatedFunc
  /-- the type code is outside the row's legal types -/
  | badType
  /-- an operand kind that the instruction does not take -/
  | badKind
  /-- a class modifier that is not listed -/
  | badModifier
  /-- a rounding override or an addressing mode that is not listed -/
  | badOverride
  /-- a cache hint that is not listed -/
  | badHint
  /-- a field that the instruction does not use is not 0 -/
  | nonzeroUnused
  /-- a field breaks the constraint of its kind -/
  | badField
  /-- the clause header breaks R42 -/
  | badHeader
  deriving DecidableEq, Repr

/-- An option read as a result, with the error to report when it is absent. -/
def optErr {α : Type} (e : DecodeError) : Option α → Except DecodeError α
  | some x => .ok x
  | none => .error e

/-! ### Codes of the operand types -/

def IType.code : IType → Nat
  | .i8 => 0 | .z8 => 1 | .i16 => 2 | .z16 => 3 | .i32 => 4 | .z32 => 5 | .i64 => 6

def IType.ofCode : Nat → Option IType
  | 0 => some .i8 | 1 => some .z8 | 2 => some .i16 | 3 => some .z16 | 4 => some .i32 | 5 => some .z32
  | 6 => some .i64 | _ => none

def FType.code : FType → Nat
  | .f32 => 0 | .f16 => 1 | .bf16 => 2 | .bf16x2 => 3

def FType.ofCode : Nat → Option FType
  | 0 => some .f32 | 1 => some .f16 | 2 => some .bf16 | 3 => some .bf16x2 | _ => none

def SType.code : SType → Nat
  | .f32 => 0 | .f16 => 1 | .bf16 => 2

def SType.ofCode : Nat → Option SType
  | 0 => some .f32 | 1 => some .f16 | 2 => some .bf16 | _ => none

def CvtType.code : CvtType → Nat
  | .f32 => 0 | .f16 => 1 | .bf16 => 2 | .bf16x2 => 3 | .e4m3 => 4 | .e5m2 => 5 | .e3m2 => 6 | .e2m3 => 7
  | .e2m1 => 8 | .i32 => 9 | .z32 => 10

def CvtType.ofCode : Nat → Option CvtType
  | 0 => some .f32 | 1 => some .f16 | 2 => some .bf16 | 3 => some .bf16x2 | 4 => some .e4m3 | 5 => some .e5m2
  | 6 => some .e3m2 | 7 => some .e2m3 | 8 => some .e2m1 | 9 => some .i32 | 10 => some .z32 | _ => none

def QType.code : QType → Nat
  | .e4m3 => 4 | .e5m2 => 5 | .e3m2 => 6 | .e2m3 => 7 | .e2m1 => 8

def QType.ofCode : Nat → Option QType
  | 4 => some .e4m3 | 5 => some .e5m2 | 6 => some .e3m2 | 7 => some .e2m3 | 8 => some .e2m1 | _ => none

def BlockLen.code : BlockLen → Nat
  | .l16 => 1 | .l32 => 2 | .l64 => 3

def BlockLen.ofCode : Nat → Option BlockLen
  | 1 => some .l16 | 2 => some .l32 | 3 => some .l64 | _ => none

def ScaleFmt.code : ScaleFmt → Nat
  | .e8m0 => 1 | .e4m3 => 2

def ScaleFmt.ofCode : Nat → Option ScaleFmt
  | 1 => some .e8m0 | 2 => some .e4m3 | _ => none

def MstFmt.code : MstFmt → Nat
  | .bf16 => 0 | .fp16 => 1 | .e4m3 => 2 | .e5m2 => 3 | .e3m2 => 4 | .e2m3 => 5 | .e2m1 => 6 | .int8 => 7
  | .int4 => 8 | .fp32 => 15

def MstFmt.ofCode : Nat → Option MstFmt
  | 0 => some .bf16 | 1 => some .fp16 | 2 => some .e4m3 | 3 => some .e5m2 | 4 => some .e3m2 | 5 => some .e2m3
  | 6 => some .e2m1 | 7 => some .int8 | 8 => some .int4 | 15 => some .fp32 | _ => none

def Cmp.code : Cmp → Nat
  | .eq => 0 | .ne => 1 | .lt => 2 | .le => 3 | .gt => 4 | .ge => 5

def Cmp.ofCode : Nat → Option Cmp
  | 0 => some .eq | 1 => some .ne | 2 => some .lt | 3 => some .le | 4 => some .gt | 5 => some .ge | _ => none

def FCmp.code : FCmp → Nat
  | .eq => 0 | .ne => 1 | .lt => 2 | .le => 3 | .gt => 4 | .ge => 5 | .unordered => 6 | .ordered => 7

def FCmp.ofCode : Nat → Option FCmp
  | 0 => some .eq | 1 => some .ne | 2 => some .lt | 3 => some .le | 4 => some .gt | 5 => some .ge
  | 6 => some .unordered | 7 => some .ordered | _ => none

def RedOp.code : RedOp → Nat
  | .add => 0 | .minS => 1 | .minZ => 2 | .maxS => 3 | .maxZ => 4 | .and => 5 | .or => 6 | .xor => 7

def RedOp.ofCode : Nat → Option RedOp
  | 0 => some .add | 1 => some .minS | 2 => some .minZ | 3 => some .maxS | 4 => some .maxZ | 5 => some .and
  | 6 => some .or | 7 => some .xor | _ => none

def AmoOp.code : AmoOp → Nat
  | .add => 0 | .and => 1 | .or => 2 | .xor => 3 | .minS => 4 | .minZ => 5 | .maxS => 6 | .maxZ => 7 | .swap => 8
  | .cas => 9

def AmoOp.ofCode : Nat → Option AmoOp
  | 0 => some .add | 1 => some .and | 2 => some .or | 3 => some .xor | 4 => some .minS | 5 => some .minZ
  | 6 => some .maxS | 7 => some .maxZ | 8 => some .swap | 9 => some .cas | _ => none

def AmoOrd.code : AmoOrd → Nat
  | .relaxed => 0 | .acq => 1 | .rel => 2 | .ar => 3

def AmoOrd.ofCode : Nat → AmoOrd
  | 0 => .relaxed | 1 => .acq | 2 => .rel | _ => .ar

def Scope.code : Scope → Nat
  | .g => 0 | .b => 1 | .c => 2 | .d => 3 | .p => 4 | .s => 5

def Scope.ofCode : Nat → Option Scope
  | 0 => some .g | 1 => some .b | 2 => some .c | 3 => some .d | 4 => some .p | 5 => some .s | _ => none

def RndOv.code : RndOv → Nat
  | .rmode => 0 | .rne => 1 | .rtz => 2 | .rdn => 3 | .rup => 4

def RndOv.ofCode : Nat → Option RndOv
  | 0 => some .rmode | 1 => some .rne | 2 => some .rtz | 3 => some .rdn | 4 => some .rup | _ => none

def Hint.code : Hint → Nat
  | .normal => 0 | .evictFirst => 1 | .evictLast => 2 | .noL1 => 3

def Hint.ofCode : Nat → Option Hint
  | 0 => some .normal | 1 => some .evictFirst | 2 => some .evictLast | 3 => some .noL1 | _ => none

/-! ### Scalar words (Table 3.1) -/

/-- The five fields of a scalar word: [31:25], [24:19], [18:13], [12:7] and [6:0]. -/
structure ScalarRaw where
  op : Fin 128
  x : Fin 64
  y : Fin 64
  z : Fin 64
  fn : Fin 128
  deriving DecidableEq, Repr

/-- imm13 and off13: bits [12:0]. -/
def ScalarRaw.imm13 (r : ScalarRaw) : BitVec 13 := BitVec.ofNat 13 (r.z.val * 128 + r.fn.val)

/-- imm19 and off19: bits [18:0]. -/
def ScalarRaw.imm19 (r : ScalarRaw) : BitVec 19 := BitVec.ofNat 19 (r.y.val * 8192 + (r.z.val * 128 + r.fn.val))

/-- The word of the fields. -/
def ScalarRaw.pack (r : ScalarRaw) : Nat :=
  (((r.op.val * 64 + r.x.val) * 64 + r.y.val) * 64 + r.z.val) * 128 + r.fn.val

/-- The fields of a word. -/
def ScalarRaw.unpack (w : Nat) : ScalarRaw where
  op := Fin.ofNat 128 (w / 128 / 64 / 64 / 64)
  x := Fin.ofNat 64 (w / 128 / 64 / 64)
  y := Fin.ofNat 64 (w / 128 / 64)
  z := Fin.ofNat 64 (w / 128)
  fn := Fin.ofNat 128 w

def hi13 (i : BitVec 13) : Fin 64 := Fin.ofNat 64 (i.toNat / 128)
def lo13 (i : BitVec 13) : Fin 128 := Fin.ofNat 128 i.toNat
def hi12 (i : BitVec 12) : Fin 64 := Fin.ofNat 64 (i.toNat / 128)
def lo12 (i : BitVec 12) : Fin 128 := Fin.ofNat 128 i.toNat

/-- The fields of an SU or SJ word. -/
def suRaw (op : Fin 128) (d : SReg) (i : BitVec 19) : ScalarRaw where
  op := op
  x := d
  y := Fin.ofNat 64 (i.toNat / 8192)
  z := Fin.ofNat 64 (i.toNat / 128)
  fn := Fin.ofNat 128 i.toNat

/-- The fields of a scalar atomic (Table 3.3): the scope code is 2 × (op − 0x2D) + func[0]. -/
def amoRaw (k : Nat) (d a b : SReg) (o : AmoOrd) (sc : Scope) : ScalarRaw where
  op := Fin.ofNat 128 (0x2D + sc.code / 2)
  x := d
  y := a
  z := b
  fn := Fin.ofNat 128 (k * 8 + o.code * 2 + sc.code % 2)

/-- The fields of an instruction that has a scalar word (Tables 3.2 and 3.3). -/
def encodeScalarRaw : Instr → Option ScalarRaw
  | .add d a b => some ⟨0x01, d, a, b, 0x00⟩
  | .sub d a b => some ⟨0x01, d, a, b, 0x01⟩
  | .and d a b => some ⟨0x01, d, a, b, 0x02⟩
  | .or d a b => some ⟨0x01, d, a, b, 0x03⟩
  | .xor d a b => some ⟨0x01, d, a, b, 0x04⟩
  | .andn d a b => some ⟨0x01, d, a, b, 0x05⟩
  | .shl d a b => some ⟨0x01, d, a, b, 0x06⟩
  | .shrZ d a b => some ⟨0x01, d, a, b, 0x07⟩
  | .shrS d a b => some ⟨0x01, d, a, b, 0x08⟩
  | .nop => some ⟨0x01, 0, 0, 0, 0x7F⟩
  | .mul d a b => some ⟨0x02, d, a, b, 0x00⟩
  | .mulhS d a b => some ⟨0x02, d, a, b, 0x01⟩
  | .mulhZ d a b => some ⟨0x02, d, a, b, 0x02⟩
  | .divS d a b => some ⟨0x02, d, a, b, 0x04⟩
  | .divZ d a b => some ⟨0x02, d, a, b, 0x05⟩
  | .remS d a b => some ⟨0x02, d, a, b, 0x06⟩
  | .remZ d a b => some ⟨0x02, d, a, b, 0x07⟩
  | .minS d a b => some ⟨0x03, d, a, b, 0x00⟩
  | .minZ d a b => some ⟨0x03, d, a, b, 0x01⟩
  | .maxS d a b => some ⟨0x03, d, a, b, 0x02⟩
  | .maxZ d a b => some ⟨0x03, d, a, b, 0x03⟩
  | .sltS d a b => some ⟨0x03, d, a, b, 0x04⟩
  | .sltZ d a b => some ⟨0x03, d, a, b, 0x05⟩
  | .seq d a b => some ⟨0x03, d, a, b, 0x06⟩
  | .clz d a => some ⟨0x04, d, a, 0, 0x00⟩
  | .ctz d a => some ⟨0x04, d, a, 0, 0x01⟩
  | .popc d a => some ⟨0x04, d, a, 0, 0x02⟩
  | .bext d a b => some ⟨0x04, d, a, b, 0x03⟩
  | .addi d a i => some ⟨0x10, d, a, hi13 i, lo13 i⟩
  | .andi d a i => some ⟨0x11, d, a, hi13 i, lo13 i⟩
  | .ori d a i => some ⟨0x12, d, a, hi13 i, lo13 i⟩
  | .xori d a i => some ⟨0x13, d, a, hi13 i, lo13 i⟩
  | .shli d a n => some ⟨0x14, d, a, 0, Fin.ofNat 128 n.val⟩
  | .shriZ d a n => some ⟨0x15, d, a, 0, Fin.ofNat 128 n.val⟩
  | .shriS d a n => some ⟨0x16, d, a, 0, Fin.ofNat 128 n.val⟩
  | .sltiS d a i => some ⟨0x17, d, a, hi13 i, lo13 i⟩
  | .sltiZ d a i => some ⟨0x18, d, a, hi13 i, lo13 i⟩
  | .bexti d a p w => some ⟨0x19, d, a, Fin.ofNat 64 (w.val / 2), Fin.ofNat 128 (w.val % 2 * 64 + p.val)⟩
  | .lhi d k v => some (suRaw 0x1A d (BitVec.ofNat 19 (k.val * 131072 + v.toNat)))
  | .pcadd d i => some (suRaw 0x1B d i)
  | .ldI8 d a i => some ⟨0x20, d, a, hi13 i, lo13 i⟩
  | .ldZ8 d a i => some ⟨0x21, d, a, hi13 i, lo13 i⟩
  | .ldI16 d a i => some ⟨0x22, d, a, hi13 i, lo13 i⟩
  | .ldZ16 d a i => some ⟨0x23, d, a, hi13 i, lo13 i⟩
  | .ldI32 d a i => some ⟨0x24, d, a, hi13 i, lo13 i⟩
  | .ldZ32 d a i => some ⟨0x25, d, a, hi13 i, lo13 i⟩
  | .ld64 d a i => some ⟨0x26, d, a, hi13 i, lo13 i⟩
  | .st8 d a i => some ⟨0x27, d, a, hi13 i, lo13 i⟩
  | .st16 d a i => some ⟨0x28, d, a, hi13 i, lo13 i⟩
  | .st32 d a i => some ⟨0x29, d, a, hi13 i, lo13 i⟩
  | .st64 d a i => some ⟨0x2A, d, a, hi13 i, lo13 i⟩
  | .ldref d a o => some ⟨0x2C, d, a, Fin.ofNat 64 (o.toNat / 16), Fin.ofNat 128 (o.toNat % 16 * 8 + 0)⟩
  | .stref d a o => some ⟨0x2C, d, a, Fin.ofNat 64 (o.toNat / 16), Fin.ofNat 128 (o.toNat % 16 * 8 + 1)⟩
  | .amoAdd d a b o sc => some (amoRaw 0 d a b o sc)
  | .amoAnd d a b o sc => some (amoRaw 1 d a b o sc)
  | .amoOr d a b o sc => some (amoRaw 2 d a b o sc)
  | .amoXor d a b o sc => some (amoRaw 3 d a b o sc)
  | .amoMinS d a b o sc => some (amoRaw 4 d a b o sc)
  | .amoMinZ d a b o sc => some (amoRaw 5 d a b o sc)
  | .amoMaxS d a b o sc => some (amoRaw 6 d a b o sc)
  | .amoMaxZ d a b o sc => some (amoRaw 7 d a b o sc)
  | .amoSwap d a b o sc => some (amoRaw 8 d a b o sc)
  | .amoCas d a b o sc => some (amoRaw 9 d a b o sc)
  | .beq d a i => some ⟨0x30, d, a, hi13 i, lo13 i⟩
  | .bne d a i => some ⟨0x31, d, a, hi13 i, lo13 i⟩
  | .bltS d a i => some ⟨0x32, d, a, hi13 i, lo13 i⟩
  | .bgeS d a i => some ⟨0x33, d, a, hi13 i, lo13 i⟩
  | .bltZ d a i => some ⟨0x34, d, a, hi13 i, lo13 i⟩
  | .bgeZ d a i => some ⟨0x35, d, a, hi13 i, lo13 i⟩
  | .jal d i => some (suRaw 0x36 d i)
  | .jalr d a i => some ⟨0x37, d, a, hi13 i, lo13 i⟩
  | .bany p o => some ⟨0x38, p, 0, hi13 o, lo13 o⟩
  | .ball p o => some ⟨0x39, p, 0, hi13 o, lo13 o⟩
  | .divb p o => some ⟨0x3A, p, 0, hi13 o, lo13 o⟩
  | .delse i => some (suRaw 0x3B 0 i)
  | .djoin => some ⟨0x3C, 0, 0, 0, 0⟩
  | .dloop i => some (suRaw 0x3D 0 i)
  | .dbrk p => some ⟨0x3E, p, 0, 0, 0⟩
  | .dnext i => some (suRaw 0x3F 0 i)
  | .sget d i => some ⟨0x40, d, 0, hi12 i, lo12 i⟩
  | .sset a i => some ⟨0x41, 0, a, hi12 i, lo12 i⟩
  | .tbind t a b => some ⟨0x42, Fin.ofNat 64 t.val, a, b, 0⟩
  | .lrun i => some (suRaw 0x43 0 i)
  | .lsync => some ⟨0x44, 0, 0, 0, 0x00⟩
  | .sfromv d v l => some ⟨0x45, d, 0, Fin.ofNat 64 (v.val / 2), Fin.ofNat 128 (v.val % 2 * 64 + l.val)⟩
  | .sfromp d a => some ⟨0x46, d, a, 0, 0x00⟩
  | .mfmt a => some ⟨0x48, 0, a, 0, 0x00⟩
  | .mzero t => some ⟨0x49, Fin.ofNat 64 t.val, 0, 0, 0x00⟩
  | .mma t a b => some ⟨0x4A, Fin.ofNat 64 t.val, a, b, 0x00⟩
  | .mmaq t a b => some ⟨0x4B, Fin.ofNat 64 t.val, a, b, 0x00⟩
  | .mmaRn t a b => some ⟨0x4C, Fin.ofNat 64 t.val, a, b, 0x00⟩
  | .mbatch d => some ⟨0x4D, d, 0, 0, 0x00⟩
  | .mwait a => some ⟨0x4D, 0, a, 0, 0x01⟩
  | .mresolveI32 t a => some ⟨0x4E, Fin.ofNat 64 t.val, a, 0, 0x00⟩
  | .mresolveTile t a => some ⟨0x4E, Fin.ofNat 64 t.val, a, 0, 0x01⟩
  | .mresolveRow t a => some ⟨0x4E, Fin.ofNat 64 t.val, a, 0, 0x02⟩
  | .mld t a => some ⟨0x4F, Fin.ofNat 64 t.val, a, 0, 0x00⟩
  | .mst t a f => some ⟨0x4F, Fin.ofNat 64 t.val, a, 0, Fin.ofNat 128 (64 + f.code)⟩
  | .mstQE8m0 t a f => some ⟨0x4F, Fin.ofNat 64 t.val, a, 0, Fin.ofNat 128 (80 + f.code)⟩
  | .mstQE4m3 t a f => some ⟨0x4F, Fin.ofNat 64 t.val, a, 0, Fin.ofNat 128 (96 + f.code)⟩
  | .tcopyIn d a => some ⟨0x50, d, a, 0, 0x00⟩
  | .tcopyInKey t a k => some ⟨0x50, t, a, 0, Fin.ofNat 128 (16 + k.val)⟩
  | .tcopyOut d a => some ⟨0x51, d, a, 0, 0x00⟩
  | .tcopySs d a => some ⟨0x52, d, a, 0, 0x00⟩
  | .tgather d a b => some ⟨0x53, d, a, b, 0x00⟩
  | .tbin t a b v => some ⟨0x54, t, a, b, v⟩
  | .hread d a i => some ⟨0x55, d, a, hi13 i, lo13 i⟩
  | .twaitAny d a => some ⟨0x56, d, a, 0, 0x00⟩
  | .twaitAll d a => some ⟨0x56, d, a, 0, 0x01⟩
  | .tfirst d a => some ⟨0x56, d, a, 0, 0x02⟩
  | .tclr a => some ⟨0x56, 0, a, 0, 0x03⟩
  | .barInit a b => some ⟨0x57, 0, a, b, 0⟩
  | .barExpect a b => some ⟨0x57, 0, a, b, 1⟩
  | .barArrive a b => some ⟨0x57, 0, a, b, 2⟩
  | .barWait a b => some ⟨0x57, 0, a, b, 3⟩
  | .barTest d a b => some ⟨0x57, d, a, b, 0x04⟩
  | .ringInit a b => some ⟨0x58, 0, a, b, 0⟩
  | .ringFill d a b => some ⟨0x58, d, a, b, 0x01⟩
  | .ringAwait d a => some ⟨0x58, d, a, 0, 0x02⟩
  | .ringRelease a => some ⟨0x58, 0, a, 0, 0x03⟩
  | .fenceAcq sc => some ⟨0x60, 0, 0, 0, Fin.ofNat 128 (sc.code * 4 + 1)⟩
  | .fenceRel sc => some ⟨0x60, 0, 0, 0, Fin.ofNat 128 (sc.code * 4 + 2)⟩
  | .fenceAr sc => some ⟨0x60, 0, 0, 0, Fin.ofNat 128 (sc.code * 4 + 3)⟩
  | .tfence sc => some ⟨0x61, 0, 0, 0, Fin.ofNat 128 (sc.code * 4)⟩
  | .bsync => some ⟨0x62, 0, 0, 0, 0x00⟩
  | .rsync w h => some ⟨0x63, 0, 0, 0, Fin.ofNat 128 (w.val * 8 + h.val)⟩
  | .publish t a sc => some ⟨0x64, t, a, 0, Fin.ofNat 128 (sc.code * 4)⟩
  | .launch d a => some ⟨0x65, d, a, 0, 0x00⟩
  | .exit => some ⟨0x66, 0, 0, 0, 0x00⟩
  | .yield => some ⟨0x66, 0, 0, 0, 0x01⟩
  | .phase a => some ⟨0x66, 0, a, 0, 0x02⟩
  | .idem => some ⟨0x66, 0, 0, 0, 0x03⟩
  | .trap i => some (suRaw 0x68 0 i)
  | .tret => some ⟨0x69, 0, 0, 0, 0x00⟩
  | .ginspect d a b => some ⟨0x69, d, a, b, 0x01⟩
  | .gmodify a b => some ⟨0x69, 0, a, b, 2⟩
  | .gresume a => some ⟨0x69, 0, a, 0, 0x03⟩
  | .gend a => some ⟨0x69, 0, a, 0, 0x04⟩
  | .sysc i => some (suRaw 0x6A 0 i)
  | .tlbinv a b => some ⟨0x6B, 0, a, b, 0⟩
  | .tlbfence => some ⟨0x6B, 0, 0, 0, 0x01⟩
  | .pgfree a => some ⟨0x6B, 0, a, 0, 0x02⟩
  | .pgalloc d => some ⟨0x6B, d, 0, 0, 0x03⟩
  | .lend a b => some ⟨0x6B, 0, a, b, 4⟩
  | .recall a => some ⟨0x6B, 0, a, 0, 0x05⟩
  | .keyload a b => some ⟨0x6B, 0, a, b, 6⟩
  | .wfe => some ⟨0x6B, 0, 0, 0, 0x07⟩
  | .iret => some ⟨0x6B, 0, 0, 0, 0x08⟩
  | .tileOpen t a => some ⟨0x70, Fin.ofNat 64 t.val, a, 0, 0x00⟩
  | .tileClose t => some ⟨0x71, Fin.ofNat 64 t.val, 0, 0, 0x00⟩
  | .trig n => some ⟨0x72, 0, 0, 0, Fin.ofNat 128 n.val⟩
  | .cnt d i => some ⟨0x73, d, 0, hi12 i, lo12 i⟩
  | .vadd .. | .vsub .. | .vmul .. | .vmulhS .. | .vmulhZ .. | .vmad .. | .vand .. | .vor .. | .vxor .. | .vandn ..
  | .vshl .. | .vshrZ .. | .vshrS .. | .vminS .. | .vminZ .. | .vmaxS .. | .vmaxZ .. | .vabs .. | .vsel ..
  | .vmov .. | .vclz .. | .vpopc .. | .vbext .. | .vcmp .. | .pand .. | .por .. | .pxor .. | .pandn .. | .pset ..
  | .pget .. | .vxchg .. | .vshift .. | .vperm .. | .vbcast .. | .vred .. | .vscan .. | .vld .. | .vst .. | .vlds ..
  | .vsts .. | .vamo .. | .vrand .. | .vnop .. | .vfadd .. | .vfsub .. | .vfmul .. | .vfma .. | .vfmin ..
  | .vfmax .. | .vfsgn .. | .vfcmp .. | .vfcls .. | .vfrnd .. | .vfcvt .. | .vquant .. | .vdequant .. | .vrcp ..
  | .vrsqrt .. | .vsqrt .. | .vexp2 .. | .vlog2 .. | .vsin .. | .vcos .. | .vtanh .. | .ftvWrite | .fpxWrite
  | .stopatWrite | .scalarLoadReturn | .storeQueueDrain | .atomicPerform | .loadBind | .faultReplay
  | .operandLogEntryFree | .clauseStart | .laneIssue | .longLatencyComplete | .matrixOpStart | .matrixOpComplete
  | .engineOperationComplete | .burstDelivery | .sproutTimeLimit | .lastBurstEvent | .ringFillStart | .engineAccess
  | .hostReadback | .pageWalk | .barrierComplete | .rakeMark | .rakeSet | .overflowRefill | .launchAging
  | .launchPlacement | .launchCompletion | .trapEntry | .syscMessage | .registerParityError | .blockMigration
  | .tlbInvalidationApply | .scrubFrame | .recallDeadline | .interruptEntry | .ipendWrite | .lcompWrite
  | .fpostWrite | .syscPostWrite | .vfWeightWrite | .vfQuantumWrite | .vfRootWrite | .winVaWrite | .hringWrite
  | .sliceEnd | .sharedPagePoison | .sessionEnd | .dbgCtxidWrite | .dbgPanicWrite | .dbgRunWrite | .trcStateWrite
  | .samplerTick | .packageStop | .plotStop | .imageRestore | .referenceLoss | .referenceReturn
  | .referenceHoldoverTimeout | .clusterRatioChange | .dramRefresh | .gateAdmission | .gateControlWrite
  | .outboundTransaction | .replayInject | .hostWindowRequest | .lockInterface | .stopInterface
  | .configurationRequest | .brixvexFlit | .nvmeDoorbell | .nvmeCompletion | .cxlResponse | .alignmentExchange
  | .powerUp | .fatalDump | .powerThermalAlert | .startInterface | .spdmRequest | .packageRelease | .softError
  | .uncorrectableLineError => none

/-- The atomic that the fields of op 0x2D–0x2F name. -/
def amoCand (r : ScalarRaw) : Except DecodeError Instr :=
  let o := AmoOrd.ofCode (r.fn.val / 2 % 4)
  match Scope.ofCode (2 * (r.op.val - 0x2D) + r.fn.val % 2), r.fn.val / 8 with
  | some sc, 0 => .ok (.amoAdd r.x r.y r.z o sc)
  | some sc, 1 => .ok (.amoAnd r.x r.y r.z o sc)
  | some sc, 2 => .ok (.amoOr r.x r.y r.z o sc)
  | some sc, 3 => .ok (.amoXor r.x r.y r.z o sc)
  | some sc, 4 => .ok (.amoMinS r.x r.y r.z o sc)
  | some sc, 5 => .ok (.amoMinZ r.x r.y r.z o sc)
  | some sc, 6 => .ok (.amoMaxS r.x r.y r.z o sc)
  | some sc, 7 => .ok (.amoMaxZ r.x r.y r.z o sc)
  | some sc, 8 => .ok (.amoSwap r.x r.y r.z o sc)
  | some sc, 9 => .ok (.amoCas r.x r.y r.z o sc)
  | _, _ => .error .unallocatedFunc

/-- The `mst` form that func names (Table 3.3). -/
def mstCand (k : Nat) (t : TileReg) (a : SReg) : Except DecodeError Instr :=
  match MstFmt.ofCode (k % 16), k / 16 with
  | some f, 4 => .ok (.mst t a f)
  | some f, 5 => .ok (.mstQE8m0 t a f)
  | some f, 6 => .ok (.mstQE4m3 t a f)
  | _, _ => .error .unallocatedFunc

/-- The instruction that the fields of a scalar word name (Table 3.2), before the checks on unused fields. -/
def scalarCand (r : ScalarRaw) : Except DecodeError Instr :=
  match r.op.val with
  | 0x01 =>
    match r.fn.val with
    | 0x00 => .ok (.add r.x r.y r.z)
    | 0x01 => .ok (.sub r.x r.y r.z)
    | 0x02 => .ok (.and r.x r.y r.z)
    | 0x03 => .ok (.or r.x r.y r.z)
    | 0x04 => .ok (.xor r.x r.y r.z)
    | 0x05 => .ok (.andn r.x r.y r.z)
    | 0x06 => .ok (.shl r.x r.y r.z)
    | 0x07 => .ok (.shrZ r.x r.y r.z)
    | 0x08 => .ok (.shrS r.x r.y r.z)
    | 0x7F => .ok .nop
    | _ => .error .unallocatedFunc
  | 0x02 =>
    match r.fn.val with
    | 0x00 => .ok (.mul r.x r.y r.z)
    | 0x01 => .ok (.mulhS r.x r.y r.z)
    | 0x02 => .ok (.mulhZ r.x r.y r.z)
    | 0x04 => .ok (.divS r.x r.y r.z)
    | 0x05 => .ok (.divZ r.x r.y r.z)
    | 0x06 => .ok (.remS r.x r.y r.z)
    | 0x07 => .ok (.remZ r.x r.y r.z)
    | _ => .error .unallocatedFunc
  | 0x03 =>
    match r.fn.val with
    | 0x00 => .ok (.minS r.x r.y r.z)
    | 0x01 => .ok (.minZ r.x r.y r.z)
    | 0x02 => .ok (.maxS r.x r.y r.z)
    | 0x03 => .ok (.maxZ r.x r.y r.z)
    | 0x04 => .ok (.sltS r.x r.y r.z)
    | 0x05 => .ok (.sltZ r.x r.y r.z)
    | 0x06 => .ok (.seq r.x r.y r.z)
    | _ => .error .unallocatedFunc
  | 0x04 =>
    match r.fn.val with
    | 0x00 => .ok (.clz r.x r.y)
    | 0x01 => .ok (.ctz r.x r.y)
    | 0x02 => .ok (.popc r.x r.y)
    | 0x03 => .ok (.bext r.x r.y r.z)
    | _ => .error .unallocatedFunc
  | 0x10 => .ok (.addi r.x r.y r.imm13)
  | 0x11 => .ok (.andi r.x r.y r.imm13)
  | 0x12 => .ok (.ori r.x r.y r.imm13)
  | 0x13 => .ok (.xori r.x r.y r.imm13)
  | 0x14 => .ok (.shli r.x r.y (Fin.ofNat 64 r.imm13.toNat))
  | 0x15 => .ok (.shriZ r.x r.y (Fin.ofNat 64 r.imm13.toNat))
  | 0x16 => .ok (.shriS r.x r.y (Fin.ofNat 64 r.imm13.toNat))
  | 0x17 => .ok (.sltiS r.x r.y r.imm13)
  | 0x18 => .ok (.sltiZ r.x r.y r.imm13)
  | 0x19 => .ok (.bexti r.x r.y (Fin.ofNat 64 r.fn.val) (Fin.ofNat 64 (r.imm13.toNat / 64)))
  | 0x1A => .ok (.lhi r.x (Fin.ofNat 4 (r.imm19.toNat / 131072)) (BitVec.ofNat 17 r.imm19.toNat))
  | 0x1B => .ok (.pcadd r.x r.imm19)
  | 0x20 => .ok (.ldI8 r.x r.y r.imm13)
  | 0x21 => .ok (.ldZ8 r.x r.y r.imm13)
  | 0x22 => .ok (.ldI16 r.x r.y r.imm13)
  | 0x23 => .ok (.ldZ16 r.x r.y r.imm13)
  | 0x24 => .ok (.ldI32 r.x r.y r.imm13)
  | 0x25 => .ok (.ldZ32 r.x r.y r.imm13)
  | 0x26 => .ok (.ld64 r.x r.y r.imm13)
  | 0x27 => .ok (.st8 r.x r.y r.imm13)
  | 0x28 => .ok (.st16 r.x r.y r.imm13)
  | 0x29 => .ok (.st32 r.x r.y r.imm13)
  | 0x2A => .ok (.st64 r.x r.y r.imm13)
  | 0x2C =>
    match r.fn.val % 8 with
    | 0x00 => .ok (.ldref r.x r.y (BitVec.ofNat 10 (r.imm13.toNat / 8)))
    | 0x01 => .ok (.stref r.x r.y (BitVec.ofNat 10 (r.imm13.toNat / 8)))
    | _ => .error .unallocatedFunc
  | 0x2D | 0x2E | 0x2F => amoCand r
  | 0x30 => .ok (.beq r.x r.y r.imm13)
  | 0x31 => .ok (.bne r.x r.y r.imm13)
  | 0x32 => .ok (.bltS r.x r.y r.imm13)
  | 0x33 => .ok (.bgeS r.x r.y r.imm13)
  | 0x34 => .ok (.bltZ r.x r.y r.imm13)
  | 0x35 => .ok (.bgeZ r.x r.y r.imm13)
  | 0x36 => .ok (.jal r.x r.imm19)
  | 0x37 => .ok (.jalr r.x r.y r.imm13)
  | 0x38 => .ok (.bany r.x r.imm13)
  | 0x39 => .ok (.ball r.x r.imm13)
  | 0x3A => .ok (.divb r.x r.imm13)
  | 0x3B => .ok (.delse r.imm19)
  | 0x3C => .ok .djoin
  | 0x3D => .ok (.dloop r.imm19)
  | 0x3E => .ok (.dbrk r.x)
  | 0x3F => .ok (.dnext r.imm19)
  | 0x40 => .ok (.sget r.x (BitVec.ofNat 12 r.imm13.toNat))
  | 0x41 => .ok (.sset r.y (BitVec.ofNat 12 r.imm13.toNat))
  | 0x42 =>
    match r.fn.val with
    | 0x00 => .ok (.tbind (Fin.ofNat 8 r.x.val) r.y r.z)
    | _ => .error .unallocatedFunc
  | 0x43 => .ok (.lrun r.imm19)
  | 0x44 =>
    match r.fn.val with
    | 0x00 => .ok .lsync
    | _ => .error .unallocatedFunc
  | 0x45 => .ok (.sfromv r.x (Fin.ofNat 128 (r.imm13.toNat / 64)) (Fin.ofNat 64 r.fn.val))
  | 0x46 =>
    match r.fn.val with
    | 0x00 => .ok (.sfromp r.x r.y)
    | _ => .error .unallocatedFunc
  | 0x48 =>
    match r.fn.val with
    | 0x00 => .ok (.mfmt r.y)
    | _ => .error .unallocatedFunc
  | 0x49 =>
    match r.fn.val with
    | 0x00 => .ok (.mzero (Fin.ofNat 16 r.x.val))
    | _ => .error .unallocatedFunc
  | 0x4A =>
    match r.fn.val with
    | 0x00 => .ok (.mma (Fin.ofNat 16 r.x.val) r.y r.z)
    | _ => .error .unallocatedFunc
  | 0x4B =>
    match r.fn.val with
    | 0x00 => .ok (.mmaq (Fin.ofNat 16 r.x.val) r.y r.z)
    | _ => .error .unallocatedFunc
  | 0x4C =>
    match r.fn.val with
    | 0x00 => .ok (.mmaRn (Fin.ofNat 16 r.x.val) r.y r.z)
    | _ => .error .unallocatedFunc
  | 0x4D =>
    match r.fn.val with
    | 0x00 => .ok (.mbatch r.x)
    | 0x01 => .ok (.mwait r.y)
    | _ => .error .unallocatedFunc
  | 0x4E =>
    match r.fn.val with
    | 0x00 => .ok (.mresolveI32 (Fin.ofNat 16 r.x.val) r.y)
    | 0x01 => .ok (.mresolveTile (Fin.ofNat 16 r.x.val) r.y)
    | 0x02 => .ok (.mresolveRow (Fin.ofNat 16 r.x.val) r.y)
    | _ => .error .unallocatedFunc
  | 0x4F =>
    match r.fn.val with
    | 0x00 => .ok (.mld (Fin.ofNat 16 r.x.val) r.y)
    | k => mstCand k (Fin.ofNat 16 r.x.val) r.y
  | 0x50 => if r.fn.val < 16 then .ok (.tcopyIn r.x r.y) else .ok (.tcopyInKey r.x r.y (Fin.ofNat 16 r.fn.val))
  | 0x51 =>
    match r.fn.val with
    | 0x00 => .ok (.tcopyOut r.x r.y)
    | _ => .error .unallocatedFunc
  | 0x52 =>
    match r.fn.val with
    | 0x00 => .ok (.tcopySs r.x r.y)
    | _ => .error .unallocatedFunc
  | 0x53 =>
    match r.fn.val with
    | 0x00 => .ok (.tgather r.x r.y r.z)
    | _ => .error .unallocatedFunc
  | 0x54 => .ok (.tbin r.x r.y r.z r.fn)
  | 0x55 => .ok (.hread r.x r.y r.imm13)
  | 0x56 =>
    match r.fn.val with
    | 0x00 => .ok (.twaitAny r.x r.y)
    | 0x01 => .ok (.twaitAll r.x r.y)
    | 0x02 => .ok (.tfirst r.x r.y)
    | 0x03 => .ok (.tclr r.y)
    | _ => .error .unallocatedFunc
  | 0x57 =>
    match r.fn.val with
    | 0x00 => .ok (.barInit r.y r.z)
    | 0x01 => .ok (.barExpect r.y r.z)
    | 0x02 => .ok (.barArrive r.y r.z)
    | 0x03 => .ok (.barWait r.y r.z)
    | 0x04 => .ok (.barTest r.x r.y r.z)
    | _ => .error .unallocatedFunc
  | 0x58 =>
    match r.fn.val with
    | 0x00 => .ok (.ringInit r.y r.z)
    | 0x01 => .ok (.ringFill r.x r.y r.z)
    | 0x02 => .ok (.ringAwait r.x r.y)
    | 0x03 => .ok (.ringRelease r.y)
    | _ => .error .unallocatedFunc
  | 0x60 =>
    match Scope.ofCode (r.fn.val / 4), r.fn.val % 4 with
    | some sc, 1 => .ok (.fenceAcq sc)
    | some sc, 2 => .ok (.fenceRel sc)
    | some sc, 3 => .ok (.fenceAr sc)
    | _, _ => .error .unallocatedFunc
  | 0x61 =>
    match Scope.ofCode (r.fn.val / 4) with
    | some sc => .ok (.tfence sc)
    | none => .error .unallocatedFunc
  | 0x62 =>
    match r.fn.val with
    | 0x00 => .ok .bsync
    | _ => .error .unallocatedFunc
  | 0x63 =>
    if r.fn.val / 8 < 7 ∧ r.fn.val % 8 < 5 then
      .ok (.rsync (Fin.ofNat 7 (r.fn.val / 8)) (Fin.ofNat 5 (r.fn.val % 8)))
    else .error .unallocatedFunc
  | 0x64 =>
    match Scope.ofCode (r.fn.val / 4) with
    | some sc => .ok (.publish r.x r.y sc)
    | none => .error .unallocatedFunc
  | 0x65 =>
    match r.fn.val with
    | 0x00 => .ok (.launch r.x r.y)
    | _ => .error .unallocatedFunc
  | 0x66 =>
    match r.fn.val with
    | 0x00 => .ok .exit
    | 0x01 => .ok .yield
    | 0x02 => .ok (.phase r.y)
    | 0x03 => .ok .idem
    | _ => .error .unallocatedFunc
  | 0x68 => .ok (.trap r.imm19)
  | 0x69 =>
    match r.fn.val with
    | 0x00 => .ok .tret
    | 0x01 => .ok (.ginspect r.x r.y r.z)
    | 0x02 => .ok (.gmodify r.y r.z)
    | 0x03 => .ok (.gresume r.y)
    | 0x04 => .ok (.gend r.y)
    | _ => .error .unallocatedFunc
  | 0x6A => .ok (.sysc r.imm19)
  | 0x6B =>
    match r.fn.val with
    | 0x00 => .ok (.tlbinv r.y r.z)
    | 0x01 => .ok .tlbfence
    | 0x02 => .ok (.pgfree r.y)
    | 0x03 => .ok (.pgalloc r.x)
    | 0x04 => .ok (.lend r.y r.z)
    | 0x05 => .ok (.recall r.y)
    | 0x06 => .ok (.keyload r.y r.z)
    | 0x07 => .ok .wfe
    | 0x08 => .ok .iret
    | _ => .error .unallocatedFunc
  | 0x70 =>
    match r.fn.val with
    | 0x00 => .ok (.tileOpen (Fin.ofNat 16 r.x.val) r.y)
    | _ => .error .unallocatedFunc
  | 0x71 =>
    match r.fn.val with
    | 0x00 => .ok (.tileClose (Fin.ofNat 16 r.x.val))
    | _ => .error .unallocatedFunc
  | 0x72 => .ok (.trig (Fin.ofNat 16 r.fn.val))
  | 0x73 => .ok (.cnt r.x (BitVec.ofNat 12 r.imm13.toNat))
  | _ => .error .unallocatedOp

/-- The scalar decoder (R33): the candidate, when its unused fields are 0 and its operand fields are admitted. -/
def decodeScalarRaw (r : ScalarRaw) : Except DecodeError Instr :=
  match scalarCand r with
  | .error e => .error e
  | .ok i =>
    if encodeScalarRaw i = some r then (if i.wf then .ok i else .error .badField) else .error .nonzeroUnused

/-! ### Lane words (Table 3.6) -/

/-- The fields of a lane word, from the high bit down. -/
structure LaneRaw where
  op : Fin 1024
  d : Fin 128
  a : Fin 128
  b : Fin 128
  c : Fin 128
  e : Fin 128
  p1 : Fin 64
  n1 : Fin 2
  p2 : Fin 64
  n2 : Fin 2
  comb : Fin 2
  hint : Fin 8
  stall : Fin 16
  yld : Fin 2
  kb : Fin 4
  kc : Fin 4
  fs : Fin 2
  ro : Fin 8
  md : Fin 16
  imm : Fin 65536
  deriving DecidableEq, Repr

/-- The word of the fields. -/
def LaneRaw.pack (r : LaneRaw) : Nat :=
  let x := (((((r.op.val * 128 + r.d.val) * 128 + r.a.val) * 128 + r.b.val) * 128 + r.c.val) * 128 + r.e.val)
  let x := ((((x * 64 + r.p1.val) * 2 + r.n1.val) * 64 + r.p2.val) * 2 + r.n2.val) * 2 + r.comb.val
  let x := ((x * 8 + r.hint.val) * 16 + r.stall.val) * 2 + r.yld.val
  ((((((x * 4 + r.kb.val) * 4 + r.kc.val) * 2 + r.fs.val) * 8 + r.ro.val) * 16 + r.md.val) * 65536 + r.imm.val)

/-- The fields of a word. -/
def LaneRaw.unpack (w : Nat) : LaneRaw :=
  let w1 := w / 65536
  let w2 := w1 / 16
  let w3 := w2 / 8
  let w4 := w3 / 2
  let w5 := w4 / 4
  let w6 := w5 / 4
  let w7 := w6 / 2
  let w8 := w7 / 16
  let w9 := w8 / 8
  let w10 := w9 / 2
  let w11 := w10 / 2
  let w12 := w11 / 64
  let w13 := w12 / 2
  let w14 := w13 / 64
  let w15 := w14 / 128
  let w16 := w15 / 128
  let w17 := w16 / 128
  let w18 := w17 / 128
  let w19 := w18 / 128
  { op := Fin.ofNat 1024 w19, d := Fin.ofNat 128 w18, a := Fin.ofNat 128 w17, b := Fin.ofNat 128 w16,
    c := Fin.ofNat 128 w15, e := Fin.ofNat 128 w14, p1 := Fin.ofNat 64 w13, n1 := Fin.ofNat 2 w12,
    p2 := Fin.ofNat 64 w11, n2 := Fin.ofNat 2 w10, comb := Fin.ofNat 2 w9, hint := Fin.ofNat 8 w8,
    stall := Fin.ofNat 16 w7, yld := Fin.ofNat 2 w6, kb := Fin.ofNat 4 w5, kc := Fin.ofNat 4 w4,
    fs := Fin.ofNat 2 w3, ro := Fin.ofNat 8 w2, md := Fin.ofNat 16 w1, imm := Fin.ofNat 65536 w }

def boolFin (x : Bool) : Fin 2 := if x then 1 else 0

/-- The guards, stall count and yield bit of the fields. -/
def LaneRaw.ctl (r : LaneRaw) : LaneCtl where
  g1 := ⟨r.p1, r.n1 == 1⟩
  g2 := ⟨r.p2, r.n2 == 1⟩
  orGuards := r.comb == 1
  stall := r.stall
  yld := r.yld == 1

def LaneRaw.imm16 (r : LaneRaw) : BitVec 16 := BitVec.ofNat 16 r.imm.val

/-- The second source by its kind (Table 3.8). -/
def LaneRaw.bsrc (r : LaneRaw) : Except DecodeError BSrc :=
  match r.kb.val with
  | 0 => .ok (.vec r.b)
  | 1 => .ok (.sca (Fin.ofNat 64 r.b.val))
  | 2 => .ok (.imm r.imm16)
  | _ => .error .badKind

/-- The third source by its kind (Table 3.8). -/
def LaneRaw.csrc (r : LaneRaw) : Except DecodeError CSrc :=
  match r.kc.val with
  | 0 => .ok (.vec r.c)
  | 1 => .ok (.sca (Fin.ofNat 64 r.c.val))
  | _ => .error .badKind

/-- The second source of a predicate-logic word (R98). -/
def LaneRaw.psrc (r : LaneRaw) : Except DecodeError PSrc :=
  match r.kb.val with
  | 0 => .ok (.pred (Fin.ofNat 64 r.b.val))
  | 2 => .ok (.imm (r.imm.val % 2 == 1))
  | _ => .error .badKind

/-- The address fields of a memory form in addressing mode `mode` (Table 3.11, R110). -/
def LaneRaw.addr (r : LaneRaw) (mode : Nat) : Except DecodeError LaneAddr :=
  if mode ≤ 4 then
    match r.kc.val with
    | 0 => .ok ⟨if mode = 0 then none else some ⟨r.b, Fin.ofNat 4 (mode - 1)⟩, none, r.imm16⟩
    | 1 => .ok ⟨if mode = 0 then none else some ⟨r.b, Fin.ofNat 4 (mode - 1)⟩, some (Fin.ofNat 64 r.c.val), r.imm16⟩
    | _ => .error .badKind
  else .error .badModifier

def LaneRaw.hintOf (r : LaneRaw) : Except DecodeError Hint := optErr .badHint (Hint.ofCode r.hint.val)

def LaneRaw.fsb (r : LaneRaw) : Bool := r.fs == 1

/-- A lane word of the op and the control fields alone; every other field is 0. -/
def laneBase (op : Nat) (c : LaneCtl) : LaneRaw where
  op := Fin.ofNat 1024 op
  d := 0
  a := 0
  b := 0
  c := 0
  e := 0
  p1 := c.g1.p
  n1 := boolFin c.g1.neg
  p2 := c.g2.p
  n2 := boolFin c.g2.neg
  comb := boolFin c.orGuards
  hint := 0
  stall := c.stall
  yld := boolFin c.yld
  kb := 0
  kc := 0
  fs := 0
  ro := 0
  md := 0
  imm := 0

def predField (p : PReg) : Fin 128 := Fin.ofNat 128 p.val
def LaneRaw.withD (r : LaneRaw) (v : Fin 128) : LaneRaw := { r with d := v }
def LaneRaw.withA (r : LaneRaw) (v : Fin 128) : LaneRaw := { r with a := v }
def LaneRaw.withE (r : LaneRaw) (v : Fin 128) : LaneRaw := { r with e := v }
def LaneRaw.withBt (r : LaneRaw) (t : BtReg) : LaneRaw := { r with a := Fin.ofNat 128 t.val }
def LaneRaw.withMod (r : LaneRaw) (m : Nat) : LaneRaw := { r with md := Fin.ofNat 16 m }
def LaneRaw.withRo (r : LaneRaw) (m : Nat) : LaneRaw := { r with ro := Fin.ofNat 8 m }
def LaneRaw.withHint (r : LaneRaw) (h : Hint) (fb : Bool) : LaneRaw :=
  { r with hint := Fin.ofNat 8 h.code, fs := boolFin fb }

def LaneRaw.withB (r : LaneRaw) : BSrc → LaneRaw
  | .vec v => { r with b := v, kb := 0 }
  | .sca s => { r with b := Fin.ofNat 128 s.val, kb := 1 }
  | .imm x => { r with kb := 2, imm := Fin.ofNat 65536 x.toNat }

def LaneRaw.withC (r : LaneRaw) : CSrc → LaneRaw
  | .vec v => { r with c := v, kc := 0 }
  | .sca s => { r with c := Fin.ofNat 128 s.val, kc := 1 }

def LaneRaw.withP (r : LaneRaw) : PSrc → LaneRaw
  | .pred p => { r with b := predField p, kb := 0 }
  | .imm x => { r with kb := 2, imm := if x then 1 else 0 }

/-- The addressing mode of a memory form: 0 contiguous, 1–4 indexed with scale 1, 2, 4, 8. -/
def addrMode (m : LaneAddr) : Nat :=
  match m.index with
  | none => 0
  | some x => x.shift.val + 1

def LaneRaw.withAddr (r : LaneRaw) (m : LaneAddr) : LaneRaw :=
  { r with
    b := (match m.index with | none => 0 | some x => x.v)
    c := (match m.addend with | none => 0 | some u => Fin.ofNat 128 u.val)
    kc := (match m.addend with | none => 0 | some _ => 1)
    imm := Fin.ofNat 65536 m.off.toNat }

/-- The fields of an instruction that has a lane word (Tables 3.9, 3.11, 5.3, 5.7 and 7.7). -/
def encodeLaneRaw : Instr → Option LaneRaw
  | .vadd t d a b c => some ((laneBase (8 + 8 * 0 + t.code) c).withD d |>.withA a |>.withB b)
  | .vsub t d a b c => some ((laneBase (8 + 8 * 1 + t.code) c).withD d |>.withA a |>.withB b)
  | .vmul t d a b c => some ((laneBase (8 + 8 * 2 + t.code) c).withD d |>.withA a |>.withB b)
  | .vmulhS t d a b c => some ((laneBase (8 + 8 * 3 + t.code) c).withD d |>.withA a |>.withB b)
  | .vmulhZ t d a b c => some ((laneBase (8 + 8 * 4 + t.code) c).withD d |>.withA a |>.withB b)
  | .vmad t d a b x c => some ((laneBase (8 + 8 * 5 + t.code) c).withD d |>.withA a |>.withB b |>.withC x)
  | .vand t d a b c => some ((laneBase (8 + 8 * 6 + t.code) c).withD d |>.withA a |>.withB b)
  | .vor t d a b c => some ((laneBase (8 + 8 * 7 + t.code) c).withD d |>.withA a |>.withB b)
  | .vxor t d a b c => some ((laneBase (8 + 8 * 8 + t.code) c).withD d |>.withA a |>.withB b)
  | .vandn t d a b c => some ((laneBase (8 + 8 * 9 + t.code) c).withD d |>.withA a |>.withB b)
  | .vshl t d a b c => some ((laneBase (8 + 8 * 10 + t.code) c).withD d |>.withA a |>.withB b)
  | .vshrZ t d a b c => some ((laneBase (8 + 8 * 11 + t.code) c).withD d |>.withA a |>.withB b)
  | .vshrS t d a b c => some ((laneBase (8 + 8 * 12 + t.code) c).withD d |>.withA a |>.withB b)
  | .vminS t d a b c => some ((laneBase (8 + 8 * 13 + t.code) c).withD d |>.withA a |>.withB b)
  | .vminZ t d a b c => some ((laneBase (8 + 8 * 14 + t.code) c).withD d |>.withA a |>.withB b)
  | .vmaxS t d a b c => some ((laneBase (8 + 8 * 15 + t.code) c).withD d |>.withA a |>.withB b)
  | .vmaxZ t d a b c => some ((laneBase (8 + 8 * 16 + t.code) c).withD d |>.withA a |>.withB b)
  | .vabs t d a c => some ((laneBase (8 + 8 * 17 + t.code) c).withD d |>.withA a)
  | .vsel t d a b p c => some ((laneBase (8 + 8 * 18 + t.code) c).withD d |>.withA a |>.withB b |>.withE (predField p))
  | .vmov t d b c => some ((laneBase (8 + 8 * 19 + t.code) c).withD d |>.withB b)
  | .vclz t d a c => some ((laneBase (8 + 8 * 20 + t.code) c).withD d |>.withA a)
  | .vpopc t d a c => some ((laneBase (8 + 8 * 21 + t.code) c).withD d |>.withA a)
  | .vbext t d a b c => some ((laneBase (8 + 8 * 22 + t.code) c).withD d |>.withA a |>.withB b)
  | .vcmp t cc d a b c => some ((laneBase (8 + 8 * 23 + t.code) c).withD (predField d) |>.withA a |>.withB b |>.withMod cc.code)
  | .pand d a b c => some ((laneBase (0x100 + 0) c).withD (predField d) |>.withA (predField a) |>.withP b)
  | .por d a b c => some ((laneBase (0x100 + 1) c).withD (predField d) |>.withA (predField a) |>.withP b)
  | .pxor d a b c => some ((laneBase (0x100 + 2) c).withD (predField d) |>.withA (predField a) |>.withP b)
  | .pandn d a b c => some ((laneBase (0x100 + 3) c).withD (predField d) |>.withA (predField a) |>.withP b)
  | .pset d b c => some ((laneBase 0x104 c).withD (predField d) |>.withB b)
  | .pget d a c => some ((laneBase 0x105 c).withD d |>.withA (predField a))
  | .vxchg t d a b c => some ((laneBase (0x108 + 8 * 0 + t.code) c).withD d |>.withA a |>.withB b)
  | .vshift t d a b c => some ((laneBase (0x108 + 8 * 1 + t.code) c).withD d |>.withA a |>.withB b)
  | .vperm t d a b c => some ((laneBase (0x108 + 8 * 2 + t.code) c).withD d |>.withA a |>.withB (.vec b))
  | .vbcast t d a b c => some ((laneBase (0x108 + 8 * 3 + t.code) c).withD d |>.withA a |>.withB b)
  | .vred op t d a c => some ((laneBase (0x108 + 8 * 4 + t.code) c).withD d |>.withA a |>.withMod op.code)
  | .vscan op t d a c => some ((laneBase (0x108 + 8 * 5 + t.code) c).withD d |>.withA a |>.withMod op.code)
  | .vld t d bt m h fb c => some ((laneBase (0x2C0 + t.code) c).withD d |>.withBt bt |>.withAddr m |>.withMod (addrMode m) |>.withHint h fb)
  | .vst t bt m e h fb c => some ((laneBase (0x2C8 + t.code) c).withBt bt |>.withAddr m |>.withMod (addrMode m) |>.withE e |>.withHint h fb)
  | .vlds t d m c => some ((laneBase (0x2D0 + t.code) c).withD d |>.withAddr m |>.withMod (addrMode m))
  | .vsts t m e c => some ((laneBase (0x2D8 + t.code) c).withAddr m |>.withMod (addrMode m) |>.withE e)
  | .vamo op t d bt m e h fb c => some ((laneBase (0x2E0 + t.code) c).withD d |>.withBt bt |>.withAddr m |>.withRo (addrMode m) |>.withMod op.code |>.withE e |>.withHint h fb)
  | .vrand d a k c => some ((laneBase 0x300 c).withD d |>.withA a |>.withB (.sca k))
  | .vnop c => some (laneBase 0x301 c)
  | .vfadd t o d a b c => some ((laneBase (0x180 + 16 * 0 + t.code) c).withD d |>.withA a |>.withB b |>.withRo o.code)
  | .vfsub t o d a b c => some ((laneBase (0x180 + 16 * 1 + t.code) c).withD d |>.withA a |>.withB b |>.withRo o.code)
  | .vfmul t o d a b c => some ((laneBase (0x180 + 16 * 2 + t.code) c).withD d |>.withA a |>.withB b |>.withRo o.code)
  | .vfma t o d a b x c => some ((laneBase (0x180 + 16 * 3 + t.code) c).withD d |>.withA a |>.withB b |>.withC x |>.withRo o.code)
  | .vfmin t o d a b c => some ((laneBase (0x180 + 16 * 4 + t.code) c).withD d |>.withA a |>.withB b |>.withRo o.code)
  | .vfmax t o d a b c => some ((laneBase (0x180 + 16 * 5 + t.code) c).withD d |>.withA a |>.withB b |>.withRo o.code)
  | .vfsgn t o d a b c => some ((laneBase (0x180 + 16 * 6 + t.code) c).withD d |>.withA a |>.withB b |>.withRo o.code)
  | .vfcmp t cc o d a b c => some ((laneBase (0x180 + 16 * 7 + t.code) c).withD (predField d) |>.withA a |>.withB b |>.withMod cc.code |>.withRo o.code)
  | .vfcls t o d a c => some ((laneBase (0x180 + 16 * 8 + t.code) c).withD d |>.withA a |>.withRo o.code)
  | .vfrnd t o d a c => some ((laneBase (0x180 + 16 * 9 + t.code) c).withD d |>.withA a |>.withRo o.code)
  | .vfcvt td ts o d a b c => some ((laneBase (0x220 + td.code) c).withD d |>.withA a |>.withB b |>.withMod ts.code |>.withRo o.code)
  | .vquant t l sf o d a c => some ((laneBase (0x230 + t.code) c).withD d |>.withA a |>.withMod (l.code * 4 + sf.code) |>.withRo o.code)
  | .vdequant t l sf o d a b c => some ((laneBase (0x240 + t.code) c).withD d |>.withA a |>.withB b |>.withMod (l.code * 4 + sf.code) |>.withRo o.code)
  | .vrcp t o d a c => some ((laneBase (0x280 + 8 * 0 + t.code) c).withD d |>.withA a |>.withRo o.code)
  | .vrsqrt t o d a c => some ((laneBase (0x280 + 8 * 1 + t.code) c).withD d |>.withA a |>.withRo o.code)
  | .vsqrt t o d a c => some ((laneBase (0x280 + 8 * 2 + t.code) c).withD d |>.withA a |>.withRo o.code)
  | .vexp2 t o d a c => some ((laneBase (0x280 + 8 * 3 + t.code) c).withD d |>.withA a |>.withRo o.code)
  | .vlog2 t o d a c => some ((laneBase (0x280 + 8 * 4 + t.code) c).withD d |>.withA a |>.withRo o.code)
  | .vsin t o d a c => some ((laneBase (0x280 + 8 * 5 + t.code) c).withD d |>.withA a |>.withRo o.code)
  | .vcos t o d a c => some ((laneBase (0x280 + 8 * 6 + t.code) c).withD d |>.withA a |>.withRo o.code)
  | .vtanh t o d a c => some ((laneBase (0x280 + 8 * 7 + t.code) c).withD d |>.withA a |>.withRo o.code)
  | .add .. | .sub .. | .and .. | .or .. | .xor .. | .andn .. | .shl .. | .shrZ .. | .shrS .. | .nop | .mul ..
  | .mulhS .. | .mulhZ .. | .divS .. | .divZ .. | .remS .. | .remZ .. | .minS .. | .minZ .. | .maxS .. | .maxZ ..
  | .sltS .. | .sltZ .. | .seq .. | .clz .. | .ctz .. | .popc .. | .bext .. | .addi .. | .andi .. | .ori ..
  | .xori .. | .shli .. | .shriZ .. | .shriS .. | .sltiS .. | .sltiZ .. | .bexti .. | .lhi .. | .pcadd .. | .ldI8 ..
  | .ldZ8 .. | .ldI16 .. | .ldZ16 .. | .ldI32 .. | .ldZ32 .. | .ld64 .. | .st8 .. | .st16 .. | .st32 .. | .st64 ..
  | .ldref .. | .stref .. | .amoAdd .. | .amoAnd .. | .amoOr .. | .amoXor .. | .amoMinS .. | .amoMinZ ..
  | .amoMaxS .. | .amoMaxZ .. | .amoSwap .. | .amoCas .. | .beq .. | .bne .. | .bltS .. | .bgeS .. | .bltZ ..
  | .bgeZ .. | .jal .. | .jalr .. | .bany .. | .ball .. | .divb .. | .delse .. | .djoin | .dloop .. | .dbrk ..
  | .dnext .. | .sget .. | .sset .. | .tbind .. | .lrun .. | .lsync | .sfromv .. | .sfromp .. | .mfmt .. | .mzero ..
  | .mma .. | .mmaq .. | .mmaRn .. | .mbatch .. | .mwait .. | .mresolveI32 .. | .mresolveTile .. | .mresolveRow ..
  | .mld .. | .mst .. | .mstQE8m0 .. | .mstQE4m3 .. | .tcopyIn .. | .tcopyInKey .. | .tcopyOut .. | .tcopySs ..
  | .tgather .. | .tbin .. | .hread .. | .twaitAny .. | .twaitAll .. | .tfirst .. | .tclr .. | .barInit ..
  | .barExpect .. | .barArrive .. | .barWait .. | .barTest .. | .ringInit .. | .ringFill .. | .ringAwait ..
  | .ringRelease .. | .fenceAcq .. | .fenceRel .. | .fenceAr .. | .tfence .. | .bsync | .rsync .. | .publish ..
  | .launch .. | .exit | .yield | .phase .. | .idem | .trap .. | .tret | .ginspect .. | .gmodify .. | .gresume ..
  | .gend .. | .sysc .. | .tlbinv .. | .tlbfence | .pgfree .. | .pgalloc .. | .lend .. | .recall .. | .keyload ..
  | .wfe | .iret | .tileOpen .. | .tileClose .. | .trig .. | .cnt .. | .ftvWrite | .fpxWrite | .stopatWrite
  | .scalarLoadReturn | .storeQueueDrain | .atomicPerform | .loadBind | .faultReplay | .operandLogEntryFree
  | .clauseStart | .laneIssue | .longLatencyComplete | .matrixOpStart | .matrixOpComplete | .engineOperationComplete
  | .burstDelivery | .sproutTimeLimit | .lastBurstEvent | .ringFillStart | .engineAccess | .hostReadback | .pageWalk
  | .barrierComplete | .rakeMark | .rakeSet | .overflowRefill | .launchAging | .launchPlacement | .launchCompletion
  | .trapEntry | .syscMessage | .registerParityError | .blockMigration | .tlbInvalidationApply | .scrubFrame
  | .recallDeadline | .interruptEntry | .ipendWrite | .lcompWrite | .fpostWrite | .syscPostWrite | .vfWeightWrite
  | .vfQuantumWrite | .vfRootWrite | .winVaWrite | .hringWrite | .sliceEnd | .sharedPagePoison | .sessionEnd
  | .dbgCtxidWrite | .dbgPanicWrite | .dbgRunWrite | .trcStateWrite | .samplerTick | .packageStop | .plotStop
  | .imageRestore | .referenceLoss | .referenceReturn | .referenceHoldoverTimeout | .clusterRatioChange
  | .dramRefresh | .gateAdmission | .gateControlWrite | .outboundTransaction | .replayInject | .hostWindowRequest
  | .lockInterface | .stopInterface | .configurationRequest | .brixvexFlit | .nvmeDoorbell | .nvmeCompletion
  | .cxlResponse | .alignmentExchange | .powerUp | .fatalDump | .powerThermalAlert | .startInterface | .spdmRequest
  | .packageRelease | .softError | .uncorrectableLineError => none

/-- Ops 0x008–0x0C7: the integer rows of Table 3.9. -/
def laneIntCand (r : LaneRaw) (n code : Nat) : Except DecodeError Instr := do
  let t ← optErr .badType (IType.ofCode code)
  match n with
    | 0 => (do let b ← r.bsrc; .ok (.vadd t r.d r.a b r.ctl))
    | 1 => (do let b ← r.bsrc; .ok (.vsub t r.d r.a b r.ctl))
    | 2 => (do let b ← r.bsrc; .ok (.vmul t r.d r.a b r.ctl))
    | 3 => (do let b ← r.bsrc; .ok (.vmulhS t r.d r.a b r.ctl))
    | 4 => (do let b ← r.bsrc; .ok (.vmulhZ t r.d r.a b r.ctl))
    | 5 => (do let b ← r.bsrc; let x ← r.csrc; .ok (.vmad t r.d r.a b x r.ctl))
    | 6 => (do let b ← r.bsrc; .ok (.vand t r.d r.a b r.ctl))
    | 7 => (do let b ← r.bsrc; .ok (.vor t r.d r.a b r.ctl))
    | 8 => (do let b ← r.bsrc; .ok (.vxor t r.d r.a b r.ctl))
    | 9 => (do let b ← r.bsrc; .ok (.vandn t r.d r.a b r.ctl))
    | 10 => (do let b ← r.bsrc; .ok (.vshl t r.d r.a b r.ctl))
    | 11 => (do let b ← r.bsrc; .ok (.vshrZ t r.d r.a b r.ctl))
    | 12 => (do let b ← r.bsrc; .ok (.vshrS t r.d r.a b r.ctl))
    | 13 => (do let b ← r.bsrc; .ok (.vminS t r.d r.a b r.ctl))
    | 14 => (do let b ← r.bsrc; .ok (.vminZ t r.d r.a b r.ctl))
    | 15 => (do let b ← r.bsrc; .ok (.vmaxS t r.d r.a b r.ctl))
    | 16 => (do let b ← r.bsrc; .ok (.vmaxZ t r.d r.a b r.ctl))
    | 17 => .ok (.vabs t r.d r.a r.ctl)
    | 18 => (do let b ← r.bsrc; .ok (.vsel t r.d r.a b (Fin.ofNat 64 r.e.val) r.ctl))
    | 19 => (do let b ← r.bsrc; .ok (.vmov t r.d b r.ctl))
    | 20 => .ok (.vclz t r.d r.a r.ctl)
    | 21 => .ok (.vpopc t r.d r.a r.ctl)
    | 22 => (do let b ← r.bsrc; .ok (.vbext t r.d r.a b r.ctl))
    | 23 => (do let b ← r.bsrc; let cc ← optErr .badModifier (Cmp.ofCode r.md.val); .ok (.vcmp t cc (Fin.ofNat 64 r.d.val) r.a b r.ctl))
    | _ => .error .unallocatedOp

/-- Ops 0x100–0x105: the predicate rows. -/
def lanePredCand (r : LaneRaw) (n : Nat) : Except DecodeError Instr :=
  match n with
  | 0 => (do let b ← r.psrc; .ok (.pand (Fin.ofNat 64 r.d.val) (Fin.ofNat 64 r.a.val) b r.ctl))
  | 1 => (do let b ← r.psrc; .ok (.por (Fin.ofNat 64 r.d.val) (Fin.ofNat 64 r.a.val) b r.ctl))
  | 2 => (do let b ← r.psrc; .ok (.pxor (Fin.ofNat 64 r.d.val) (Fin.ofNat 64 r.a.val) b r.ctl))
  | 3 => (do let b ← r.psrc; .ok (.pandn (Fin.ofNat 64 r.d.val) (Fin.ofNat 64 r.a.val) b r.ctl))
  | 4 => (do let b ← r.bsrc; .ok (.pset (Fin.ofNat 64 r.d.val) b r.ctl))
  | 5 => .ok (.pget r.d (Fin.ofNat 64 r.a.val) r.ctl)
  | _ => .error .unallocatedOp

/-- Ops 0x108–0x137: the cross-lane rows. -/
def laneCrossCand (r : LaneRaw) (n code : Nat) : Except DecodeError Instr := do
  let t ← optErr .badType (IType.ofCode code)
  match n with
  | 0 => (do let b ← r.bsrc; .ok (.vxchg t r.d r.a b r.ctl))
  | 1 => (do let b ← r.bsrc; .ok (.vshift t r.d r.a b r.ctl))
  | 2 => .ok (.vperm t r.d r.a r.b r.ctl)
  | 3 => (do let b ← r.bsrc; .ok (.vbcast t r.d r.a b r.ctl))
  | 4 => (do let op ← optErr .badModifier (RedOp.ofCode r.md.val); .ok (.vred op t r.d r.a r.ctl))
  | 5 => (do let op ← optErr .badModifier (RedOp.ofCode r.md.val); .ok (.vscan op t r.d r.a r.ctl))
  | _ => .error .unallocatedOp

/-- Ops 0x2C0–0x2E7: the memory rows. -/
def laneMemCand (r : LaneRaw) (n code : Nat) : Except DecodeError Instr := do
  let t ← optErr .badType (IType.ofCode code)
  match n with
  | 0 => (do let h ← r.hintOf; let m ← r.addr r.md.val; .ok (.vld t r.d (Fin.ofNat 8 r.a.val) m h r.fsb r.ctl))
  | 1 => (do let h ← r.hintOf; let m ← r.addr r.md.val; .ok (.vst t (Fin.ofNat 8 r.a.val) m r.e h r.fsb r.ctl))
  | 2 => (do let m ← r.addr r.md.val; .ok (.vlds t r.d m r.ctl))
  | 3 => (do let m ← r.addr r.md.val; .ok (.vsts t m r.e r.ctl))
  | 4 => (do let h ← r.hintOf; let m ← r.addr r.ro.val; let op ← optErr .badModifier (AmoOp.ofCode r.md.val); .ok (.vamo op t r.d (Fin.ofNat 8 r.a.val) m r.e h r.fsb r.ctl))
  | _ => .error .unallocatedOp

/-- Ops 0x180–0x21F: the floating rows. -/
def laneFloatCand (r : LaneRaw) (n code : Nat) : Except DecodeError Instr := do
  let t ← optErr .badType (FType.ofCode code)
  let o ← optErr .badOverride (RndOv.ofCode r.ro.val)
  match n with
  | 0 => (do let b ← r.bsrc; .ok (.vfadd t o r.d r.a b r.ctl))
  | 1 => (do let b ← r.bsrc; .ok (.vfsub t o r.d r.a b r.ctl))
  | 2 => (do let b ← r.bsrc; .ok (.vfmul t o r.d r.a b r.ctl))
  | 3 => (do let b ← r.bsrc; let x ← r.csrc; .ok (.vfma t o r.d r.a b x r.ctl))
  | 4 => (do let b ← r.bsrc; .ok (.vfmin t o r.d r.a b r.ctl))
  | 5 => (do let b ← r.bsrc; .ok (.vfmax t o r.d r.a b r.ctl))
  | 6 => (do let b ← r.bsrc; .ok (.vfsgn t o r.d r.a b r.ctl))
  | 7 => (do let b ← r.bsrc; let cc ← optErr .badModifier (FCmp.ofCode r.md.val); .ok (.vfcmp t cc o (Fin.ofNat 64 r.d.val) r.a b r.ctl))
  | 8 => .ok (.vfcls t o r.d r.a r.ctl)
  | 9 => .ok (.vfrnd t o r.d r.a r.ctl)
  | _ => .error .unallocatedOp

/-- Ops 0x280–0x2BF: the special functions. -/
def laneSpecialCand (r : LaneRaw) (n code : Nat) : Except DecodeError Instr := do
  let t ← optErr .badType (SType.ofCode code)
  let o ← optErr .badOverride (RndOv.ofCode r.ro.val)
  match n with
  | 0 => .ok (.vrcp t o r.d r.a r.ctl)
  | 1 => .ok (.vrsqrt t o r.d r.a r.ctl)
  | 2 => .ok (.vsqrt t o r.d r.a r.ctl)
  | 3 => .ok (.vexp2 t o r.d r.a r.ctl)
  | 4 => .ok (.vlog2 t o r.d r.a r.ctl)
  | 5 => .ok (.vsin t o r.d r.a r.ctl)
  | 6 => .ok (.vcos t o r.d r.a r.ctl)
  | 7 => .ok (.vtanh t o r.d r.a r.ctl)
  | _ => .error .unallocatedOp

/-- Op 0x220: conversions. -/
def laneCvtCand (r : LaneRaw) (code : Nat) : Except DecodeError Instr := do
  let td ← optErr .badType (CvtType.ofCode code)
  let o ← optErr .badOverride (RndOv.ofCode r.ro.val)
  let ts ← optErr .badModifier (CvtType.ofCode r.md.val)
  let b ← r.bsrc
  .ok (.vfcvt td ts o r.d r.a b r.ctl)

/-- Ops 0x230 and 0x240: the quantiser and its inverse. -/
def laneQuantCand (r : LaneRaw) (deq : Bool) (code : Nat) : Except DecodeError Instr := do
  let t ← optErr .badType (QType.ofCode code)
  let o ← optErr .badOverride (RndOv.ofCode r.ro.val)
  let l ← optErr .badModifier (BlockLen.ofCode (r.md.val / 4))
  let sf ← optErr .badModifier (ScaleFmt.ofCode (r.md.val % 4))
  if deq then (do let b ← r.bsrc; .ok (.vdequant t l sf o r.d r.a b r.ctl))
  else .ok (.vquant t l sf o r.d r.a r.ctl)

/-- The instruction that the fields of a lane word name (Table 3.9), before the checks on unused fields. -/
def laneCand (r : LaneRaw) : Except DecodeError Instr :=
  let op := r.op.val
  if op < 0x008 then .error .unallocatedOp
  else if op < 0x0C8 then laneIntCand r ((op - 8) / 8) (op % 8)
  else if op < 0x100 then .error .unallocatedOp
  else if op < 0x106 then lanePredCand r (op - 0x100)
  else if op < 0x108 then .error .unallocatedOp
  else if op < 0x138 then laneCrossCand r ((op - 0x108) / 8) (op % 8)
  else if op < 0x180 then .error .unallocatedOp
  else if op < 0x220 then laneFloatCand r ((op - 0x180) / 16) (op % 16)
  else if op < 0x230 then laneCvtCand r (op % 16)
  else if op < 0x240 then laneQuantCand r false (op % 16)
  else if op < 0x250 then laneQuantCand r true (op % 16)
  else if op < 0x280 then .error .unallocatedOp
  else if op < 0x2C0 then laneSpecialCand r ((op - 0x280) / 8) (op % 8)
  else if op < 0x2E8 then laneMemCand r ((op - 0x2C0) / 8) (op % 8)
  else if op = 0x300 then
    (do let b ← r.bsrc
        match b with
        | .sca k => .ok (.vrand r.d r.a k r.ctl)
        | .vec _ => .error .badKind
        | .imm _ => .error .badKind)
  else if op = 0x301 then .ok (.vnop r.ctl)
  else .error .unallocatedOp

/-- The lane decoder (R36–R41): the candidate, when its unused fields are 0 and its operands are admitted. -/
def decodeLaneRaw (r : LaneRaw) : Except DecodeError Instr :=
  match laneCand r with
  | .error e => .error e
  | .ok i =>
    if encodeLaneRaw i = some r then (if i.wf then .ok i else .error .badField) else .error .nonzeroUnused

/-! ### Clause headers (Table 3.12) -/

def setCode : Option (Fin 12) → Nat
  | some k => k.val
  | none => 15

def setOfCode (k : Nat) : Option (Option (Fin 12)) :=
  if h : k < 12 then some (some ⟨k, h⟩) else if k = 15 then some none else none

/-- The 96-bit word of a clause header. -/
def encodeHeader (h : ClauseHeader) : Nat :=
  ((((0x3FF * 4096 + h.waitMask.toNat) * 16 + setCode h.setA) * 16 + setCode h.setB) * 256 + h.length.val) * 2 ^ 58

/-- The clause header a 96-bit word holds (R42). -/
def decodeHeader (w : Nat) : Except DecodeError ClauseHeader :=
  let n := w / 2 ^ 58
  if w % 2 ^ 58 ≠ 0 then .error .nonzeroUnused
  else if n / 256 / 16 / 16 / 4096 % 1024 ≠ 0x3FF then .error .badHeader
  else
    match setOfCode (n / 256 / 16 % 16), setOfCode (n / 256 % 16) with
    | some a, some b =>
      let h : ClauseHeader := ⟨BitVec.ofNat 12 (n / 256 / 16 / 16), a, b, Fin.ofNat 256 n⟩
      if h.wf then .ok h else .error .badHeader
    | _, _ => .error .badHeader

/-! ### Bytes -/

/-- The number that little-endian bytes hold (R29). -/
def leNat : List Byte → Nat
  | [] => 0
  | b :: bs => b.toNat + 256 * leNat bs

/-- The little-endian bytes of a number. -/
def leBytes : Nat → Nat → List Byte
  | 0, _ => []
  | n + 1, w => BitVec.ofNat 8 w :: leBytes n (w / 256)

/-- Decode a scalar word from 4 bytes. -/
def decodeScalarBytes (bs : List Byte) : Except DecodeError Instr :=
  if bs.length < 4 then .error .short else decodeScalarRaw (ScalarRaw.unpack (leNat (bs.take 4)))

/-- Decode a lane word from 12 bytes. -/
def decodeLaneBytes (bs : List Byte) : Except DecodeError Instr :=
  if bs.length < 12 then .error .short else decodeLaneRaw (LaneRaw.unpack (leNat (bs.take 12)))

/-- Decode a clause header from 12 bytes. -/
def decodeHeaderBytes (bs : List Byte) : Except DecodeError ClauseHeader :=
  if bs.length < 12 then .error .short else decodeHeader (leNat (bs.take 12))

/-- The encoder: the bytes of an instruction that has an encoding (4 for a scalar word, 12 for a lane word), and
none for a row of the table that has no encoding. -/
def encode (i : Instr) : Option (List Byte) :=
  match encodeScalarRaw i with
  | some r => some (leBytes 4 r.pack)
  | none => (encodeLaneRaw i).map (fun r => leBytes 12 r.pack)

/-- The instruction the decoder reads from a word numbered as the opcode table numbers its bits: 32 bits are a
scalar word, 96 bits a lane word, each laid out little-endian (R29). -/
def decodeTableWord (nbits w : Nat) : Option Instr :=
  if nbits = 32 then (decodeScalarBytes (leBytes 4 w)).toOption
  else if nbits = 96 then (decodeLaneBytes (leBytes 12 w)).toOption
  else none

end Sys2Proof
end

