-- ==== Sys2Proof/Machine/Float.lean ====
section
/-! DEFINITION. The number formats, rounding and flags of the floating classes (R117–R126): every value is an exact
dyadic number, an infinity or NaN; an operation forms its exact result and rounds it once. -/

namespace Sys2Proof.Machine

/-- Sticky flags, in the bit positions of FPX (Table 7.4). -/
abbrev Flags := BitVec 6

def flInvalid : Flags := 1
def flDivZero : Flags := 2
def flOverflow : Flags := 4
def flUnderflow : Flags := 8
def flInexact : Flags := 16
def flQSat : Flags := 32

/-- Rounding modes (R122), numbered as RMODE. -/
inductive RMode where
  | rne | rtz | rdn | rup
  deriving DecidableEq, Repr

/-- The mode that two bits of RMODE select (Table 4.4). -/
def rmodeOf (b : BitVec 2) : RMode :=
  match b.toNat with
  | 0 => .rne
  | 1 => .rtz
  | 2 => .rdn
  | _ => .rup

/-- The effective mode of a lane word (R122): the captured RMODE, unless the override names another. -/
def effMode (captured : BitVec 2) : RndOv → RMode
  | .rmode => rmodeOf captured
  | .rne => .rne
  | .rtz => .rtz
  | .rdn => .rdn
  | .rup => .rup

/-- An exact value: (−1)^neg × m × 2^e, an infinity, or NaN. A zero keeps its sign. -/
inductive FVal where
  | nan
  | inf (neg : Bool)
  | fin (neg : Bool) (m : Nat) (e : Int)
  deriving DecidableEq, Repr

/-- A floating format (Table 7.1): exponent and fraction widths, bias, the largest finite magnitude code, whether it
has infinities, and the canonical NaN where it has one. -/
structure Fmt where
  eb : Nat
  fb : Nat
  bias : Nat
  maxMag : Nat
  hasInf : Bool
  nanCode : Option Nat
  deriving DecidableEq, Repr

def fp32 : Fmt := ⟨8, 23, 127, 0x7F7FFFFF, true, some 0x7FC00000⟩
def fp16 : Fmt := ⟨5, 10, 15, 0x7BFF, true, some 0x7E00⟩
def bf16 : Fmt := ⟨8, 7, 127, 0x7F7F, true, some 0x7FC0⟩
def e4m3 : Fmt := ⟨4, 3, 7, 0x7E, false, some 0x7F⟩
def e5m2 : Fmt := ⟨5, 2, 15, 0x7B, true, some 0x7E⟩
def e3m2 : Fmt := ⟨3, 2, 3, 0x1F, false, none⟩
def e2m3 : Fmt := ⟨2, 3, 1, 0x1F, false, none⟩
def e2m1 : Fmt := ⟨2, 1, 1, 0x7, false, none⟩

/-- The width of a code. -/
def Fmt.width (f : Fmt) : Nat := 1 + f.eb + f.fb

/-- The exponent of the subnormal spacing: 1 − bias − fraction bits (R118). -/
def Fmt.emin (f : Fmt) : Int := 1 - (f.bias : Int) - (f.fb : Int)

/-- The value of a magnitude code that is finite (R118). -/
def Fmt.magVal (f : Fmt) (neg : Bool) (mag : Nat) : FVal :=
  let ex := mag / 2 ^ f.fb
  let fr := mag % 2 ^ f.fb
  if ex = 0 then .fin neg fr f.emin else .fin neg (2 ^ f.fb + fr) (f.emin + (ex - 1 : Nat))

/-- The value of a code (R118); bits above the format's width are ignored (R119). -/
def Fmt.value (f : Fmt) (code : Nat) : FVal :=
  let mag := code % 2 ^ (f.eb + f.fb)
  let neg := code / 2 ^ (f.eb + f.fb) % 2 = 1
  if mag ≤ f.maxMag then f.magVal neg mag
  else if f.hasInf ∧ mag = f.maxMag + 1 then .inf neg
  else .nan

/-- The code of a sign and a magnitude. -/
def Fmt.pack (f : Fmt) (neg : Bool) (mag : Nat) : Nat := (if neg then 2 ^ (f.eb + f.fb) else 0) + mag

/-- ±∞ in the format, or the largest finite magnitude where it has none. -/
def Fmt.infMag (f : Fmt) : Nat := if f.hasInf then f.maxMag + 1 else f.maxMag

/-- Whether rounding moves away from zero, given the comparison of the discarded part with one half
(`above`, `tie`), the last kept bit, and the sign. -/
def roundsUp (mode : RMode) (neg odd tie above inexact : Bool) : Bool :=
  match mode with
  | .rne => above || (tie && odd)
  | .rtz => false
  | .rdn => neg && inexact
  | .rup => !neg && inexact

/-- m × 2^(−shift) as an integer rounded in `mode`, and whether the rounding changed it. A set `sticky` says that
the true value lies strictly between m and m + 1 in units of the last place of m. -/
def roundShift (mode : RMode) (neg : Bool) (m : Nat) (shift : Nat) (sticky : Bool) : Nat × Bool :=
  let y := m / 2 ^ shift
  let r := m % 2 ^ shift
  let inexact := decide (r ≠ 0) || sticky
  let above := decide (2 ^ shift < 2 * r) || (decide (2 * r = 2 ^ shift) && sticky)
  let tie := decide (2 * r = 2 ^ shift) && !sticky
  (if roundsUp mode neg (y % 2 == 1) tie above inexact then y + 1 else y, inexact)

/-- Round the exact nonzero value m × 2^e (R123). Answers the code and the raised flags. -/
def roundDy (f : Fmt) (mode : RMode) (neg : Bool) (m : Nat) (e : Int) (sticky : Bool) : Nat × Flags :=
  let top : Int := e + (m.log2 : Int)
  let q : Int := max f.emin (top - f.fb)
  let p : Nat × Bool :=
    if e < q then roundShift mode neg m (q - e).toNat sticky
    else roundShift mode neg (m * 2 ^ (e - q).toNat) 0 sticky
  let mag := (q - f.emin).toNat * 2 ^ f.fb + p.1
  if f.maxMag < mag then
    let big :=
      match mode with
      | .rne => true
      | .rtz => false
      | .rdn => neg
      | .rup => !neg
    (f.pack neg (if big then f.infMag else f.maxMag), flOverflow ||| flInexact)
  else
    let small := decide (top < 1 - (f.bias : Int))
    (f.pack neg mag, if p.2 then (if small then flInexact ||| flUnderflow else flInexact) else 0)

/-- Round an exact result into a format (R123, R124): an infinity and NaN take the format's code, or the
substitute where it has none. -/
def roundVal (f : Fmt) (mode : RMode) : FVal → Nat × Flags
  | .nan =>
    match f.nanCode with
    | some c => (c, 0)
    | none => (0, flInvalid)
  | .inf neg => (f.pack neg f.infMag, if f.hasInf then 0 else flOverflow)
  | .fin neg m e => if m = 0 then (f.pack neg 0, 0) else roundDy f mode neg m e false

/-! ### Exact arithmetic -/

def FVal.neg : FVal → FVal
  | .nan => .nan
  | .inf s => .inf (!s)
  | .fin s m e => .fin (!s) m e

def FVal.isNan : FVal → Bool
  | .nan => true
  | .inf _ => false
  | .fin _ _ _ => false

/-- The signed integer m of a finite value at exponent k (k at most its own exponent). -/
def scaledInt (neg : Bool) (m : Nat) (e k : Int) : Int :=
  let x : Int := (m * 2 ^ (e - k).toNat : Nat)
  if neg then -x else x

/-- The exact sum; a zero sum takes its sign by R125. -/
def FVal.add (mode : RMode) : FVal → FVal → FVal × Flags
  | .nan, _ => (.nan, 0)
  | .inf _, .nan => (.nan, 0)
  | .fin _ _ _, .nan => (.nan, 0)
  | .inf s, .inf t => if s = t then (.inf s, 0) else (.nan, flInvalid)
  | .inf s, .fin _ _ _ => (.inf s, 0)
  | .fin _ _ _, .inf t => (.inf t, 0)
  | .fin s m e, .fin t n g =>
    let k := min e g
    let v := scaledInt s m e k + scaledInt t n g k
    if v = 0 then
      (.fin (if m = 0 ∧ n = 0 ∧ s = t then s else decide (mode = .rdn)) 0 0, 0)
    else (.fin (decide (v < 0)) v.natAbs k, 0)

/-- The exact product (R125, R126). -/
def FVal.mul : FVal → FVal → FVal × Flags
  | .nan, _ => (.nan, 0)
  | .inf _, .nan => (.nan, 0)
  | .fin _ _ _, .nan => (.nan, 0)
  | .inf s, .inf t => (.inf (s != t), 0)
  | .inf s, .fin t n _ => if n = 0 then (.nan, flInvalid) else (.inf (s != t), 0)
  | .fin s m _, .inf t => if m = 0 then (.nan, flInvalid) else (.inf (s != t), 0)
  | .fin s m e, .fin t n g => (.fin (s != t) (m * n) (e + g), 0)

/-- The exact a × b + c; 0 × ∞ raises invalid whatever the addend (R126). -/
def FVal.fma (mode : RMode) (a b c : FVal) : FVal × Flags :=
  let p := a.mul b
  let r := p.1.add mode c
  (r.1, p.2 ||| r.2)

/-- −1, 0 or 1 as a < b, a = b or a > b, both not NaN; the zeros compare equal. -/
def FVal.cmp : FVal → FVal → Int
  | .nan, _ => 0
  | .inf _, .nan => 0
  | .fin _ _ _, .nan => 0
  | .inf s, .inf t => if s = t then 0 else if s then -1 else 1
  | .inf s, .fin _ _ _ => if s then -1 else 1
  | .fin _ _ _, .inf t => if t then 1 else -1
  | .fin s m e, .fin t n g =>
    let k := min e g
    let x := scaledInt s m e k
    let y := scaledInt t n g k
    if x < y then -1 else if y < x then 1 else 0

/-- A finite value rounded to an integer in `mode`, and whether that changed it. -/
def intRound (mode : RMode) (neg : Bool) (m : Nat) (e : Int) : Nat × Bool :=
  if 0 ≤ e then (m * 2 ^ e.toNat, false) else roundShift mode neg m (-e).toNat false

/-! ### The lane types -/

/-- The scalar format of a lane floating type; the paired type computes each half in BF16. -/
def ftypeFmt : FType → Fmt
  | .f32 => fp32
  | .f16 => fp16
  | .bf16 => bf16
  | .bf16x2 => bf16

def stypeFmt : SType → Fmt
  | .f32 => fp32
  | .f16 => fp16
  | .bf16 => bf16

def qtypeFmt : QType → Fmt
  | .e4m3 => e4m3
  | .e5m2 => e5m2
  | .e3m2 => e3m2
  | .e2m3 => e2m3
  | .e2m1 => e2m1

/-- The format of a floating type of `vfcvt`; the integer types have none. -/
def cvtFmt : CvtType → Option Fmt
  | .f32 => some fp32
  | .f16 => some fp16
  | .bf16 => some bf16
  | .bf16x2 => some bf16
  | .e4m3 => some e4m3
  | .e5m2 => some e5m2
  | .e3m2 => some e3m2
  | .e2m3 => some e2m3
  | .e2m1 => some e2m1
  | .i32 => none
  | .z32 => none

/-- Apply a one-result operation to an element of a lane type (R137): the two halves of the paired type are
independent operations whose flags are combined. -/
def onHalves (t : FType) (op : Nat → Nat → Nat → Nat × Flags) (a b c : Elem) : Elem × Flags :=
  match t with
  | .bf16x2 =>
    let lo := op (a.toNat % 65536) (b.toNat % 65536) (c.toNat % 65536)
    let hi := op (a.toNat / 65536) (b.toNat / 65536) (c.toNat / 65536)
    (BitVec.ofNat 32 (hi.1 * 65536 + lo.1), lo.2 ||| hi.2)
  | .f32 => let r := op a.toNat b.toNat c.toNat; (BitVec.ofNat 32 r.1, r.2)
  | .f16 => let r := op (a.toNat % 65536) (b.toNat % 65536) (c.toNat % 65536); (BitVec.ofNat 32 r.1, r.2)
  | .bf16 => let r := op (a.toNat % 65536) (b.toNat % 65536) (c.toNat % 65536); (BitVec.ofNat 32 r.1, r.2)

/-- Round an exact result and join its flags. -/
def roundPair (f : Fmt) (mode : RMode) (x : FVal × Flags) : Nat × Flags :=
  let r := roundVal f mode x.1
  (r.1, x.2 ||| r.2)

def fAdd (f : Fmt) (mode : RMode) (a b : Nat) : Nat × Flags := roundPair f mode ((f.value a).add mode (f.value b))
def fSub (f : Fmt) (mode : RMode) (a b : Nat) : Nat × Flags :=
  roundPair f mode ((f.value a).add mode (f.value b).neg)
def fMul (f : Fmt) (mode : RMode) (a b : Nat) : Nat × Flags := roundPair f mode ((f.value a).mul (f.value b))
def fFma (f : Fmt) (mode : RMode) (a b c : Nat) : Nat × Flags :=
  roundPair f mode ((f.value a).fma mode (f.value b) (f.value c))

/-- The canonical NaN of a format that has one. -/
def Fmt.cNan (f : Fmt) : Nat := f.nanCode.getD 0

/-- Total order used by `vfmin` and `vfmax`: by value, with −0 below +0 (Table 7.8). -/
def fLess (f : Fmt) (a b : Nat) : Bool :=
  let c := (f.value a).cmp (f.value b)
  c < 0 || (c == 0 && a / 2 ^ (f.eb + f.fb) % 2 == 1 && b / 2 ^ (f.eb + f.fb) % 2 == 0)

/-- `vfmin` (`max = false`) and `vfmax` (Table 7.8). -/
def fMinMax (f : Fmt) (max : Bool) (a b : Nat) : Nat × Flags :=
  match (f.value a).isNan, (f.value b).isNan with
  | true, true => (f.cNan, 0)
  | true, false => (b % 2 ^ f.width, 0)
  | false, true => (a % 2 ^ f.width, 0)
  | false, false => (if fLess f a b != max then a % 2 ^ f.width else b % 2 ^ f.width, 0)

/-- `vfsgn` (Table 7.8). -/
def fSgn (f : Fmt) (a b : Nat) : Nat × Flags :=
  if (f.value a).isNan then (f.cNan, 0)
  else (a % 2 ^ (f.eb + f.fb) + b / 2 ^ (f.eb + f.fb) % 2 * 2 ^ (f.eb + f.fb), 0)

/-- One relation of `vfcmp` and its flag (Table 7.8, R126). -/
def fCmp (f : Fmt) (cc : FCmp) (a b : Nat) : Bool × Flags :=
  let x := f.value a
  let y := f.value b
  let un := x.isNan || y.isNan
  let c := x.cmp y
  match cc with
  | .eq => (!un && c == 0, 0)
  | .ne => (un || c != 0, 0)
  | .lt => (!un && decide (c < 0), if un then flInvalid else 0)
  | .le => (!un && decide (c ≤ 0), if un then flInvalid else 0)
  | .gt => (!un && decide (0 < c), if un then flInvalid else 0)
  | .ge => (!un && decide (0 ≤ c), if un then flInvalid else 0)
  | .unordered => (un, 0)
  | .ordered => (!un, 0)

/-- The class mask of `vfcls` (Table 7.8). -/
def fCls (f : Fmt) (a : Nat) : Nat × Flags :=
  match f.value a with
  | .nan => (256, 0)
  | .inf true => (1, 0)
  | .inf false => (128, 0)
  | .fin neg m _ =>
    if m = 0 then (if neg then 8 else 16, 0)
    else if m < 2 ^ f.fb then (if neg then 4 else 32, 0)
    else (if neg then 2 else 64, 0)

/-- `vfrnd` (Table 7.8). -/
def fRnd (f : Fmt) (mode : RMode) (a : Nat) : Nat × Flags :=
  match f.value a with
  | .nan => (f.cNan, 0)
  | .inf s => (f.pack s f.infMag, 0)
  | .fin neg m e =>
    let r := intRound mode neg m e
    if r.2 then ((roundVal f .rne (.fin neg r.1 0)).1, flInexact) else (a % 2 ^ f.width, 0)

/-! ### Conversions (R141, R142) -/

/-- A value converted to a 32-bit integer type. -/
def toInt32 (signed : Bool) (mode : RMode) : FVal → Nat × Flags
  | .nan => (0, flInvalid)
  | .inf neg => (if signed then (if neg then 0x80000000 else 0x7FFFFFFF) else if neg then 0 else 0xFFFFFFFF, flInvalid)
  | .fin neg m e =>
    let r := intRound mode neg m e
    let v : Int := if neg then -(r.1 : Int) else r.1
    let lo : Int := if signed then -2147483648 else 0
    let hi : Int := if signed then 2147483647 else 4294967295
    if v < lo then (if signed then 0x80000000 else 0, flInvalid)
    else if hi < v then (if signed then 0x7FFFFFFF else 0xFFFFFFFF, flInvalid)
    else ((BitVec.ofInt 32 v).toNat, if r.2 then flInexact else 0)

/-- A signed integer as an exact value; zero is +0. -/
def ofIntVal (v : Int) : FVal := .fin (decide (v < 0)) v.natAbs 0

/-- The value of a source element of `vfcvt`. -/
def cvtSource (ts : CvtType) (a : Elem) : FVal :=
  match cvtFmt ts with
  | some f => f.value (a.toNat % 2 ^ f.width)
  | none => if ts = .i32 then ofIntVal a.toInt else ofIntVal a.toNat

/-- A conversion to a single element, .bf16x2 apart. -/
def fCvt (td ts : CvtType) (mode : RMode) (a : Elem) : Nat × Flags :=
  match cvtFmt td with
  | some f => roundVal f mode (cvtSource ts a)
  | none => toInt32 (decide (td = .i32)) mode (cvtSource ts a)

/-! ### Scales and the quantiser (R120, R130–R133, R144) -/

/-- The value of a block scale code (R120). -/
def scaleValue (sf : ScaleFmt) (code : Nat) : FVal :=
  match sf with
  | .e8m0 => if code % 256 = 255 then .nan else .fin false 1 ((code % 256 : Nat) - 127 : Int)
  | .e4m3 => e4m3.value (code % 256)

def blockLanes : BlockLen → Nat
  | .l16 => 16
  | .l32 => 32
  | .l64 => 64

/-- |x| as a finite pair, for maxabs (R131). -/
def maxAbsDy : List FVal → Nat × Int
  | [] => (0, 0)
  | .nan :: xs => maxAbsDy xs
  | .inf _ :: xs => maxAbsDy xs
  | .fin _ m e :: xs =>
    let r := maxAbsDy xs
    if (FVal.fin false r.1 r.2).cmp (.fin false m e) < 0 then (m, e) else r

/-- ceil(log2(x / M)) for x = m × 2^e, m nonzero, and M the largest finite value of the format (R131). -/
def scaleExp (g : Fmt) (m : Nat) (e : Int) : Int :=
  match g.magVal false g.maxMag with
  | .fin _ n k =>
    let s := (e + (m.log2 : Int)) - (k + (n.log2 : Int))
    if (FVal.fin false m e).cmp (.fin false n (k + s)) ≤ 0 then s else s + 1
  | .nan => 0
  | .inf _ => 0

/-- The scale code of the first attempt (R131). -/
def firstScale (sf : ScaleFmt) (s : Int) : Nat :=
  match sf with
  | .e8m0 => (min 127 (max (-127) s) + 127).toNat
  | .e4m3 =>
    let t := min 8 (max (-9) s)
    if -6 ≤ t then ((t + 7) * 8).toNat else if t = -7 then 4 else if t = -8 then 2 else 1

/-- The largest finite scale code (R132). -/
def lastScale : ScaleFmt → Nat
  | .e8m0 => 0xFE
  | .e4m3 => 0x7E

/-- Round(x / S, g, mode) of a finite x, S a positive scale value. -/
def quantOne (g : Fmt) (mode : RMode) (neg : Bool) (m : Nat) (e : Int) (s : FVal) : Nat × Flags :=
  match s with
  | .fin _ n k =>
    if m = 0 then (g.pack neg 0, 0)
    else roundDy g mode neg (m * 2 ^ 64 / n) (e - k - 64) (decide (m * 2 ^ 64 % n ≠ 0))
  | .nan => (0, 0)
  | .inf _ => (0, 0)

/-- One element under a scale; `last` makes an element that overflows take ±M (R132). Non-finite inputs follow
R133. -/
def quantElem (g : Fmt) (mode : RMode) (s : FVal) (last : Bool) : FVal → Nat × Flags
  | .nan =>
    match g.nanCode with
    | some c => (c, 0)
    | none => (0, flInvalid)
  | .inf neg => if g.hasInf then (g.pack neg g.infMag, 0) else (g.pack neg g.maxMag, flQSat ||| flOverflow)
  | .fin neg m e =>
    let r := quantOne g mode neg m e s
    if last ∧ r.2 &&& flOverflow ≠ 0 then (g.pack neg g.maxMag, r.2 ||| flQSat ||| flInexact) else r

/-- Whether a finite element overflows under a scale. -/
def quantOverflows (g : Fmt) (mode : RMode) (s : FVal) : FVal → Bool
  | .fin neg m e => (quantOne g mode neg m e s).2 &&& flOverflow != 0
  | .nan => false
  | .inf _ => false

/-- The scale code the quantiser settles on: at most `tries` advances (R132). -/
def settleScale (g : Fmt) (sf : ScaleFmt) (mode : RMode) (xs : List FVal) : Nat → Nat → Nat
  | 0, c => c
  | n + 1, c =>
    if xs.any (quantOverflows g mode (scaleValue sf c)) && decide (c + 1 ≤ lastScale sf) then
      settleScale g sf mode xs n (c + 1)
    else c

/-- The quantiser over one block's participating values (R131–R133): the scale code and each element's code and
flags. -/
def quantBlock (g : Fmt) (sf : ScaleFmt) (mode : RMode) (xs : List FVal) : Nat × List (Nat × Flags) :=
  let mx := maxAbsDy xs
  let c0 := firstScale sf (if mx.1 = 0 then 0 else scaleExp g mx.1 mx.2)
  let c := settleScale g sf mode xs 2 c0
  (c, xs.map (quantElem g mode (scaleValue sf c) true))

/-- One dequantised element (R144). -/
def dequantElem (g : Fmt) (sf : ScaleFmt) (mode : RMode) (a sc : Nat) : Nat × Flags :=
  roundPair fp32 mode ((g.value (a % 2 ^ g.width)).mul (scaleValue sf sc))

end Sys2Proof.Machine
end

