-- ==== Sys2Proof/Config.lean ====
section
/-! DEFINITION. What the spec leaves open, as constants without a body. The machine reads them; nothing in Lean knows
their values. -/

namespace Sys2Proof.Config

/-- A value that the spec does not fix, by the plot (48 for the package) and the number of the occasion there (the counters
`fresh` of the state). -/
opaque freeValue : Nat → Nat → Word

/-- The device secret, from which every key is derived (R330); the spec gives no value. -/
opaque deviceSecret : Nat → Byte

/-- The input from which a key is derived: a kind and its numbers (R330 names the inputs and not their layout). -/
opaque keyInput : Nat → List Nat → Nat → Byte

/-- The transfer key that the manager derives from an SPDM session (R331). -/
opaque transferKey : Nat → Nat → Byte

/-- The seed that the SRAM PUF gives, from which the identity key is derived (Table 20.2, step 4). -/
opaque pufSeed : List Byte

/-- The Falcon-1024 signature under the identity key over a digest (R332): its randomness is not in the spec. -/
opaque falconSign : List Byte → List Byte → Nat → Byte

/-- The input numbers of the board inputs at gate 20 (R349, Table 17.2). -/
opaque inputNumber : Nat → BitVec 32

/-- The input of a plot's measurement (R332 names what is measured and not its layout). -/
opaque measureInput : Nat → List Nat → Nat → Byte

/-- Whether firmware or an image passes verification under the fused keys (R414). -/
opaque verified : Nat → Bool

/-- The length, in 4 KiB units, of the section of an image for a die and a unit kind (R360 fixes neither). -/
opaque imagePages : Nat → Nat → Nat

/-- The length and the bytes of a fatal dump, by the numbers that it holds (R377 names them and not their layout). -/
opaque dumpLength : List Nat → BitVec 32
opaque dumpByte : List Nat → Nat → Byte

end Sys2Proof.Config
end

