-- ==== Sys2Proof/Machine/State.lean ====
section
/-! DEFINITION. The machine's state as plain data, the reasons a step can stop, and the state right after reset.
Maps that are mostly empty (registers not yet written, scratchpad bytes, table entries) are lists of key and value
pairs sorted by key; an absent key reads as the value the spec gives at the start. -/

namespace Sys2Proof.Machine

open Sys2Proof

/-- Why a step refuses. -/
inductive Refusal where
  /-- raised by an arm of `exec` that has no meaning yet; safe: nothing follows about the instruction -/
  | notModelled (mnemonic : String)
  deriving DecidableEq, Repr

/-- Why a step stops with a fault. -/
inductive Fault where
  /-- raised by `step` when the board's power is not good: nothing in the package moves until it is (`POWER_UP` in the
  agenda); safe: nothing is claimed of a package without power -/
  | noPower
  deriving DecidableEq, Repr

/-- A map from numbers, sorted by key. -/
abbrev FMap (α : Type) := List (Nat × α)

/-- A vector row or another run of 64 elements; a missing element reads 0. -/
abbrev Row := List Elem

/-! ### Translation and memory -/

/-- A translation register (R48, R60); all zero at a group's start (R27). -/
structure Translation where
  vbase : BitVec 56 := 0
  frame : BitVec 52 := 0
  limit : BitVec 48 := 0
  rd : Bool := false
  wr : Bool := false
  obj : Bool := false
  cacheable : Bool := false
  deriving DecidableEq, Repr

/-- A translation held by a TLB or a walk cache (R315): a virtual page of a size code (Table 15.3). -/
structure TlbEntry where
  space : Nat
  vpage : Nat
  size : Nat
  frame : Nat
  rd : Bool
  wr : Bool
  obj : Bool
  cacheable : Bool
  deriving DecidableEq, Repr

/-- The values a word has held before its present one, oldest first, and its walk floors (R172): for a scope code and
an instance of that scope, the index of the oldest value a walk of a party in it may read; and the index of the value
at the plot's last `tfence` of scope p or wider, after which walks that wait on a moving leaf read it again (R320). -/
structure WordHist where
  past : List Word := []
  floors : List (Nat × Nat × Nat) := []
  reread : Nat := 0
  deriving DecidableEq, Repr

/-- Memory: bytes by physical address, reference tags by address of their 8-byte word, the object-state sideband by
line address (Table 8.5), the lines that hold an uncorrectable error (R417), the lines already reported for it, the
past values of words written (R172), the header lines of objects that a publication has marked (R178, R184), the sizes of
the CXL window's parts by port, and the runs of a part that its port's decoders do not map (R20). -/
structure Store where
  cells : List Host.Cell := []
  tags : List Nat := []
  side : FMap (BitVec 12) := []
  poison : List Nat := []
  noticed : List Nat := []
  hist : FMap WordHist := []
  headers : List Nat := []
  cxlSize : FMap Nat := []
  cxlHoles : List (Nat × Nat) := []
  deriving DecidableEq, Repr, Inhabited

/-! ### Scalar threads: groups, sprouts and system cores -/

inductive MaskKind where
  | ifK | elseK | loopK
  deriving DecidableEq, Repr

/-- A mask-stack entry (Table 4.10). -/
structure MaskEntry where
  kind : MaskKind
  outer : BitVec 64
  pending : BitVec 64
  target : BitVec 56
  deriving DecidableEq, Repr

/-- A clause in a lane queue (R85, R89): its address, header and instructions, the state captured by `lrun`, the
next instruction to issue, and whether it has started. -/
structure Clause where
  id : Nat
  addr : BitVec 56
  hdr : ClauseHeader
  instrs : List Instr
  next : Nat := 0
  started : Bool := false
  mask : BitVec 64
  rmode : BitVec 2
  ftv : BitVec 8
  deriving DecidableEq, Repr

/-- A long-latency lane operation in progress (R92): its flag, the lanes whose values or stores are outstanding,
and the rows it writes, which are pending (R93). Fixed-latency instructions write at issue and leave nothing pending. -/
structure LongOp where
  id : Nat
  clause : Nat
  /-- index of the instruction in its clause, the clause's address and captured mask -/
  idx : Nat := 0
  addr : BitVec 56 := 0
  mask : BitVec 64 := 0
  flag : Option (Fin 12)
  left : BitVec 64
  rows : List Nat
  deriving DecidableEq, Repr

/-- One lane's part of a memory entry, or the one part of a scalar entry: addresses, data, the comparand of a
`cas`, and whether it sets the reference tag. `pa` is meaningful once the entry is translated. -/
structure Part where
  lane : Nat
  va : Nat
  pa : Nat
  data : List Byte
  cmp : List Byte := []
  tag : Bool := false
  /-- on an OBJ page -/
  obj : Bool := false
  deriving DecidableEq, Repr

/-- A tile operation of an engine: the fields of its octet and what it captured at issue (Table 9.3). -/
structure CopySpec where
  /-- 0 `tcopy.in`, 1 `tcopy.out`, 2 `tcopy.ss`, 3 `tgather`, 4 `ring.fill`, 5 `tbin` -/
  kind : Nat
  tag : Nat
  oct : List Word
  key : Option Nat := none
  /-- `ring.fill`: the ring object's address; `tbin`: the table base; `tgather`: the index list's offset -/
  base : Nat := 0
  /-- `tbin`: the bin index and the captured row -/
  bin : Nat := 0
  row : List Byte := []
  deriving DecidableEq, Repr

inductive SqKind where
  | store
  | atomic (op : AmoOp) (dest : SReg)
  | laneStore (op : Nat)
  | laneAtomic (op : AmoOp) (t : IType) (dest : Nat) (longOp : Nat)
  | ringInit (index : Word)
  | ringRelease
  | engine (spec : CopySpec)
  deriving DecidableEq, Repr

/-- A store-queue entry (Table 8.1). `held` marks an entry on the page-fault path, which has no physical address; `whole`
holds the lines of which it writes all 256 bytes, and has begun to (R417). -/
structure SqEntry where
  seq : Nat
  kind : SqKind
  parts : List Part
  held : Bool := false
  whole : List Nat := []
  deriving DecidableEq, Repr

inductive LoadDest where
  /-- a scalar register, with the access size and whether the value is sign-extended -/
  | scalar (d : SReg) (signed : Bool)
  /-- one lane of a row, or of a row pair for .i64 -/
  | lane (row : Nat) (lane : Nat) (t : IType) (longOp : Nat)
  deriving DecidableEq, Repr

/-- The start state of an idempotent region (R296). -/
structure Region where
  start : BitVec 56
  mask : BitVec 64
  depth : Nat
  clauseMark : Nat
  logMark : Nat
  loadMark : Nat
  deriving DecidableEq, Repr

/-- A point of an agent's instruction stream to which it can be taken back: the PC, the scalar state there, the registers
then pending, and the number of the next clause, load, queue entry or log entry. A value that an earlier instruction still
had to write is written here too when it comes. -/
structure Point where
  pc : BitVec 56
  sregs : FMap Word
  bts : FMap Translation
  mask : BitVec 64
  mstack : List MaskEntry
  mspilled : Nat
  ftv : BitVec 8
  rmode : BitVec 2
  fpx : BitVec 6
  fptrap : BitVec 6
  fmtBlock : Word
  retStack : List (BitVec 56)
  region : Option Region
  pend : BitVec 64
  mark : Nat
  deriving DecidableEq, Repr

/-- A load in the load window (Table 8.1). It may take bytes only from queue entries that entered before it, whose
sequence numbers lie below `mark`. -/
structure LoadReq where
  id : Nat
  dest : LoadDest
  va : Nat
  pa : Nat
  size : Nat
  mark : Nat
  ref : Bool := false
  uncached : Bool := false
  held : Bool := false
  /-- where a scalar load stands in its stream -/
  back : Option Point := none
  /-- an `ldref` past an unresolved branch whose word had no tag when it bound (R53) -/
  untagged : Bool := false
  deriving DecidableEq, Repr

/-- One fault message of a held instruction: the page, the fault id and the completion posted for it (`some true`:
fatal). -/
structure FaultMsg where
  va : Nat
  id : BitVec 32
  posted : Option Bool := none
  deriving DecidableEq, Repr

/-- A page-fault hold of an engine access: the message and whether it was posted. -/
structure EngineHold where
  va : Nat
  write : Bool
  msg : Option FaultMsg := none
  deriving DecidableEq, Repr

inductive LogTarget where
  /-- a load in the window -/
  | load (id : Nat)
  /-- a store-queue entry -/
  | queue (seq : Nat)
  /-- a held lane instruction: its place in the store queue (0 for a `vld`), its long operation, its clause and its
  index there -/
  | lane (seq : Nat) (longOp : Nat) (clause : Nat) (idx : Nat)
  /-- a `launch` with its status register, that has its record still to read -/
  | launch (d : SReg) (va : Nat)
  /-- the fetch of a scalar word -/
  | fetch
  deriving DecidableEq, Repr

/-- An operand-log entry (R317): a faulted scalar instruction or a held lane instruction. The operands it logged are
kept as the formed addresses and data. -/
structure LogEntry where
  id : Nat
  target : LogTarget
  /-- fault kind of R318 -/
  access : Nat
  pc : BitVec 56
  clauseAddr : BitVec 56 := 0
  clauseMask : BitVec 64 := 0
  /-- the lanes of a held `vld`, and the cache hint of a held lane instruction -/
  loads : List LoadReq := []
  hint : Option Hint := none
  /-- where a scalar instruction stands in its stream -/
  back : Option Point := none
  msgs : List FaultMsg := []
  /-- messages still waiting for room in the fault ring -/
  unsent : List Nat := []
  /-- its replay has been made; the entry is free at the next `OPERAND_LOG_ENTRY_FREE` -/
  replayed : Bool := false
  deriving DecidableEq, Repr

/-- What a scalar thread is doing (Table 13.8 class 1 index 4, with the sprout and system-core cases). -/
inductive TStatus where
  | running | halted | handler | exited | ended | stopped
  deriving DecidableEq, Repr

/-- A wait that an instruction in progress has begun, so that its first part is not done twice. -/
inductive TWait where
  | none
  | bsync
  | bsyncDone
  | rsync (w h : Nat)
  | rsyncDone
  | rsyncBad
  /-- a `sysc` that has reached the ring port, before and after its entry is written -/
  | syscPort
  | syscSent (index : BitVec 32)
  | syscDone
  /-- a scope-s fence's zero-length read: to be sent, sent, and completed (R167) -/
  | readback
  | readbackSent
  | readbackDone
  /-- an acquiring atomic is to be followed by the waits of its fence (R76) -/
  | acquire
  /-- `ring.release` in the queue, performed, or found empty -/
  | ringRel
  | ringRelDone
  | ringRelEmpty
  /-- a `tile.close`, with the first operation that it does not wait for (R373) -/
  | closing (mark : Nat)
  /-- `publish` of a system core, waiting for its tag step -/
  | publish (id : Nat)
  | publishDone (bad : Bool)
  /-- a `wfe` that waits for an enabled cause (R333) -/
  | event
  deriving DecidableEq, Repr

/-- A trap that has been raised and not yet taken by the group (R285–R287). -/
structure PendingTrap where
  cause : BitVec 8
  pc : BitVec 56
  clause : BitVec 56 := 0
  index : BitVec 8 := 0
  rest : BitVec 8 := 0
  lanes : BitVec 64 := 0
  clauseMask : BitVec 64 := 0
  code : BitVec 19 := 0
  /-- per lane: address or offset, and cause -/
  laneInfo : FMap (Nat × BitVec 8) := []
  /-- sprout faults: burst index and cause, in order of abandonment -/
  sprouts : List (Nat × BitVec 8) := []
  sproutFault : Bool := false
  /-- the faulting virtual address, for a system core's IVAL -/
  value : Word := 0
  /-- the instructions of the abandoned clause -/
  aband : Option Clause := none
  deriving DecidableEq, Repr

/-- The interrupt registers of a system core (Table 15.2, 0x400–0x407). -/
structure SysRegs where
  smode : BitVec 2 := 1
  ien : BitVec 32 := 0
  ivec : BitVec 56 := 0
  ipc : BitVec 56 := 0
  imode : BitVec 2 := 0
  icause : BitVec 8 := 0
  ival : BitVec 64 := 0
  ipend : BitVec 32 := 0
  /-- the IVAL value of the latest merged event of each pending cause -/
  vals : FMap Word := []
  deriving DecidableEq, Repr

/-- A branch past which an agent has fetched before it resolved (R53): where the agent stood, the branch, the address it
was predicted to go to, and the count of retired instructions. -/
structure SpecPoint where
  back : Point
  instr : Instr
  next : BitVec 56
  retired : Nat
  deriving DecidableEq, Repr

/-- One scalar thread: a group, a sprout or a system core. -/
structure Thread where
  core : Nat := 0
  ctx : Nat := 0
  plot : Nat := 0
  status : TStatus := .running
  pc : BitVec 56 := 0
  sregs : FMap Word := []
  preds : FMap (BitVec 64) := []
  /-- a sprout's own vector rows (R219); a group's rows lie in the core's register file -/
  ownRows : FMap Row := []
  mask : BitVec 64 := BitVec.allOnes 64
  /-- the mask-stack entries held in hardware, top first, and how many lie in the spill region (R81) -/
  mstack : List MaskEntry := []
  mspilled : Nat := 0
  bts : FMap Translation := []
  /-- scalar registers whose value has not been written yet (R51) -/
  pendS : BitVec 64 := 0
  ftv : BitVec 8 := 1
  fpx : BitVec 6 := 0
  fptrap : BitVec 6 := 0
  rmode : BitVec 2 := 0
  queue : List Clause := []
  longOps : List LongOp := []
  /-- the clause whose instruction issued last, and that instruction's index -/
  laneClause : Nat := 0
  laneIdx : Nat := 0
  sq : List SqEntry := []
  win : List LoadReq := []
  /-- scalar values that have bound and not yet been written (R56) -/
  returning : List (SReg × Word) := []
  log : List LogEntry := []
  /-- the next identifier of a clause, queue entry, load, log entry or long operation -/
  nextId : Nat := 0
  fmtBlock : Word := 0
  batch : BitVec 32 := 0
  /-- the 8-entry return stack of the jump predictor (R52) -/
  retStack : List (BitVec 56) := []
  wait : TWait := .none
  /-- an `ldref` or an acquiring atomic is outstanding: nothing later issues (R74, R76) -/
  hold : Bool := false
  /-- the address of the last `ldref` that issued -/
  refAt : BitVec 56 := 0
  bsyncs : Nat := 0
  rsyncs : Nat := 0
  region : Option Region := none
  /-- TRAP.* (Table 4.4) -/
  tcause : BitVec 8 := 0
  tpc : BitVec 56 := 0
  tclause : BitVec 56 := 0
  tindex : BitVec 8 := 0
  tlanes : BitVec 64 := 0
  trecord : BitVec 56 := 0
  trap : Option PendingTrap := none
  /-- the lane queue set aside at trap entry, and the abandoned clause (R286) -/
  aside : List Clause := []
  aband : Option Clause := none
  /-- PC and MASK at trap entry (R293) -/
  entryPc : BitVec 56 := 0
  entryMask : BitVec 64 := 0
  /-- halted by the trap entry of this sibling -/
  haltedBy : Option Nat := none
  /-- halted by a debug stop or the end of a slice -/
  frozen : Bool := false
  /-- a lane fault has been raised and its trap not yet entered -/
  laneStop : Bool := false
  /-- the batches whose matrix operations met an uncorrectable error that the group must still meet (R246); a number
  after the count stands for operations not closed yet -/
  mpoison : List (BitVec 32) := []
  /-- the words its drained stores wrote since its last `tfence.s`, with the index of the value written (R172) -/
  written : FMap Nat := []
  /-- a spill, refill or trap-record access waiting on the page-fault path, which takes no log entry (R317) -/
  walkHold : Option EngineHold := none
  /-- the line of host or CXL memory for which its fetch, or an instruction that acts at the home, has asked -/
  asking : Option Nat := none
  /-- ready stamp of R18, scalar and lane: the cycle in which the context last became ready, none while it is not ready;
  and the mark last-in-cycle that the next stamp carries -/
  stamp : Option Nat := none
  last : Bool := false
  /-- the cycle of its latest issue and the instruction's address, and the state of R301 at the start of the cycle (1 ready,
  2 to 5 not) -/
  issued : Option (Nat × BitVec 56) := none
  idle : Nat := 1
  laneStamp : Option Nat := none
  laneLast : Bool := false
  /-- the branch past which the agent fetches before it has resolved (R53) -/
  spec : Option SpecPoint := none
  /-- sprouts: request, burst index, address, row, offset and the cycle of the start (R221) -/
  req : Nat := 0
  burst : Nat := 0
  baddr : Word := 0
  brow : BitVec 32 := 0
  boff : BitVec 32 := 0
  startCycle : Nat := 0
  heldCycles : Nat := 0
  /-- sprouts: an atomic has begun to drain the queue, and is draining it now; the `exit` has retired (R222) -/
  drained : Bool := false
  draining : Bool := false
  released : Bool := false
  /-- group counters 0x000–0x004 (Table 17.5) -/
  counters : FMap Nat := []
  /-- system cores: interrupt registers -/
  sys : SysRegs := {}
  /-- the address of the `exit` that retired, or of the instruction at which `gend` ended the group (R301) -/
  lastPc : BitVec 56 := 0
  deriving DecidableEq, Repr

/-! ### Cores -/

/-- A copy tag (R192). -/
structure CopyTag where
  ready : Bool := true
  err : Bool := false
  status : BitVec 32 := 0
  /-- the operation it belongs to, and the sprout faults recorded for it -/
  owner : Nat := 0
  sprouts : List (Nat × BitVec 8) := []
  /-- the group whose `launch` has cleared it and has not retired (R271) -/
  taker : Option Nat := none
  deriving DecidableEq, Repr

/-- A matrix operation in the unit (R241, R259). -/
structure MatrixOp where
  id : Nat
  group : Nat
  /-- which instruction: 0 mzero, 1 mma, 2 mmaq, 3 mma.rn, 4–6 mresolve, 7 mld, 8 mst, 9–10 quantising mst -/
  kind : Nat
  /-- the tile's number in the block's pool -/
  tile : Nat
  fmt : Word := 0
  a : List Word := []
  b : List Word := []
  scalar : Word := 0
  out : Option MstFmt := none
  /-- the batch it will be closed into: the group's count at issue, plus 1 -/
  batch : BitVec 32 := 0
  started : Bool := false
  deriving DecidableEq, Repr

/-- An engine operation in flight (R203): its spec, the group, the queue sequence it waits for (R176), how many
positions are done, its cause so far, and what a step in progress has captured. -/
structure EngineOp where
  id : Nat
  spec : CopySpec
  group : Nat
  after : Nat
  started : Bool := false
  done : Nat := 0
  cause : Nat := 0
  phase : Nat := 0
  slot : Nat := 0
  outcome : Nat := 0
  windex : Word := 0
  key : Option (List Byte) := none
  blob : List Byte := []
  hold : Option EngineHold := none
  /-- the index list of a `tgather`; the cycle in which a `ring.fill` reached its ring, and where the ring lies -/
  idx : List Nat := []
  arrived : Nat := 0
  ring : Nat := 0
  /-- the cores in which a tile that has been read is still to be written, once that is known (R212) -/
  todo : Option (List Nat) := none
  /-- pages declared fatal on its way -/
  fatal : List Nat := []
  finished : Bool := false
  deriving DecidableEq, Repr

/-- A burst of a bulk read. -/
structure Burst where
  req : Nat
  n : Nat
  data : List Byte
  deriving DecidableEq, Repr

/-- A bulk-read request (R220). -/
structure HreadReq where
  id : Nat
  tag : Nat
  group : Nat
  handler : BitVec 56
  oct : List Word
  after : Nat
  ftv : BitVec 8
  rmode : BitVec 2
  fptrap : BitVec 6
  /-- bursts not yet read, in delivery order; bursts delivered whose sprout has not finished; abandoned ones -/
  toRead : List Nat
  live : List Nat := []
  abandoned : List (Nat × BitVec 8 × Nat) := []
  clipped : Nat := 0
  hold : Option EngineHold := none
  /-- pages declared fatal on its way -/
  fatal : List Nat := []
  deriving DecidableEq, Repr

/-- An open tile stamp record (Table 11.9). -/
structure TileRec where
  label : Word
  opened : Nat
  group : Nat
  inputs : Nat := 0
  cstart : Nat := 0
  cend : Nat := 0
  copyOut : Nat := 0
  ops : Nat := 0
  /-- the core at `tile.open` -/
  place : Nat := 0
  named : Bool := false
  deriving DecidableEq, Repr

/-- What a placed block knows of its launch. -/
structure Launch where
  seq : BitVec 32 := 0
  plot : Nat := 0
  vf : Nat := 0
  /-- the sixteen words of the launch record (Table 13.1) as eight 64-bit words -/
  record : List Word := []
  /-- who launched it: an agent key and, for a group, its block's launch id -/
  launcher : Option Nat := none
  launcherBlock : Nat := 0
  /-- cycle since which it waits at its level -/
  since : Nat := 0
  level : Nat := 0
  paired : Bool := false
  /-- the copy of a paired launch in the secondary (R365); it signals nothing -/
  copy : Bool := false
  /-- its number among the records put into its function's part of the overflow area, and the groups ended so far -/
  ovf : Nat := 0
  ended : Nat := 0
  /-- its completion record waits on the page-fault path -/
  hold : Option EngineHold := none
  /-- returned by a recall to the head of its level (R329) -/
  head : Bool := false
  deriving DecidableEq, Repr

/-- A block placed on a core (R180, R275). -/
structure Block where
  id : Nat
  launch : Launch
  slot : Nat
  blockId : Nat
  x0 : Nat
  y0 : Nat
  pool : Nat := 0
  /-- the group in handler mode -/
  handler : Option Nat := none
  tags : FMap CopyTag := []
  recs : FMap TileRec := []
  counters : FMap Nat := []
  /-- groups that exited or ended, and how many ended -/
  gone : List Nat := []
  endedCount : Nat := 0
  /-- a recall or the withdrawal of its function halts it: what stands in its units drains, and no burst is read or delivered
  (R226, R300, R329) -/
  leaving : Bool := false
  deriving DecidableEq, Repr

/-- A unit of a halted block that was written to its save area (R327): kind 0 a row, 1 a tile, 2 a scratchpad granule,
3 scalar state of a group; its number; and where its ciphertext lies. -/
structure SavedUnit where
  kind : Nat
  idx : Nat
  addr : Nat
  bytes : List Byte
  deriving DecidableEq, Repr

/-- A block of a halted virtual function whose core another block has taken (R15, R327): the block, its threads, the
queues of its engines, and the contents of the units that were claimed and saved. -/
structure Parked where
  block : Block
  threads : FMap Thread
  mops : List MatrixOp := []
  eops : List EngineOp := []
  hreads : List HreadReq := []
  bursts : List Burst := []
  rows : FMap Row := []
  acc : FMap (BitVec 48) := []
  pad : FMap Byte := []
  saved : List SavedUnit := []
  deriving DecidableEq, Repr

/-- A compute core. -/
structure Core where
  rows : FMap Row := []
  /-- accumulator elements of physical tile t at key 4096 t + 64 i + j (R234) -/
  acc : FMap (BitVec 48) := []
  accBad : List Nat := []
  /-- scratchpad bytes at their physical place: row, bank and byte (R200) -/
  pad : FMap Byte := []
  padBad : List Nat := []
  /-- uncorrectable scratchpad and accumulator errors already reported (R418) -/
  reported : List Nat := []
  block : Option Block := none
  parked : List Parked := []
  mops : List MatrixOp := []
  eops : List EngineOp := []
  hreads : List HreadReq := []
  bursts : List Burst := []
  nextOp : Nat := 1
  /-- code caches: resident lines and their bytes as they were when filled (R30) -/
  icache : FMap (List Host.Cell) := []
  lcache : FMap (List Host.Cell) := []
  tlb : List TlbEntry := []
  /-- lines of the L1, by line address with the replacement mark of R109 (0 none, 1 evict-first, 2 evict-last) -/
  l1 : FMap Nat := []
  /-- what the core's accesses have counted for its blocks and their plots (Table 17.5, 0x020–0x022 and 0x030–0x038) -/
  stats : FMap Nat := []
  /-- branch predictor counters that differ from 0b01 (R52) -/
  predictor : FMap (BitVec 2) := []
  deriving DecidableEq, Repr

/-! ### Plots -/

/-- TDISP state of a virtual function's interface (R406). -/
inductive Tdisp where
  | unlocked | locked | run | error
  deriving DecidableEq, Repr

/-- A virtual function of a plot. -/
structure Vf where
  weight : BitVec 8 := 1
  quantum : BitVec 32 := 1000
  effq : BitVec 32 := 1000
  status : BitVec 2 := 0
  root : BitVec 52 := 0
  save : BitVec 56 := 0
  winVa : BitVec 56 := 0
  hring : BitVec 56 := 0
  tdisp : Tdisp := .unlocked
  served : Nat := 0
  faults : Nat := 0
  /-- bits of the BAR2 window and its bus address (R404) -/
  winBits : Nat := 26
  bus : Nat := 0
  /-- the bus address of its BAR0 -/
  bar0 : Nat := 0
  /-- the SPDM session that locked the interface, and the IDE stream bound to it -/
  session : Option Nat := none
  /-- the digests of the plot's measurements to which its interface is bound while locked (R406) -/
  bound : List (List Byte) := []
  /-- its generation, from which its context key is derived (R330) -/
  gen : Nat := 0
  /-- indexes of its counters that its migration image lacked, until its next launch starts (R368) -/
  missing : List Nat := []
  deriving DecidableEq, Repr

/-- A ring of the device in plot memory: base, capacity, head, tail and the records lost. -/
structure Ring where
  base : BitVec 56 := 0
  cap : BitVec 16 := 0
  head : BitVec 32 := 0
  tail : BitVec 32 := 0
  lost : BitVec 32 := 0
  deriving DecidableEq, Repr

/-- A walk in progress (R172): the party it is made for, the space, the address, the level next to read, and the
table's address; whether it waits on a moving leaf (R320), and whether it has read an entry that is not present, which its
party's access is still to meet (R172). -/
structure Walk where
  id : Nat
  agent : Nat
  space : Nat
  va : Nat
  level : Nat
  table : Nat
  waits : Bool := false
  missed : Bool := false
  deriving DecidableEq, Repr

/-- An entry of a mark queue: the object's reference, its header's physical address, and the walker-area slot that it
was spilled to. -/
structure MarkEntry where
  ref : Nat
  hdr : Nat
  slot : Option Nat := none
  deriving DecidableEq, Repr

/-- A publication in progress on the rake (R184, R185): the core, block and tag that wait for it, or the system core;
the space its references are translated in; the headers marked, in marking order; the queue; the earlier publications it
waits for; whether it recorded anything; and the headers still to be set. -/
structure Publication where
  id : Nat
  core : Nat
  block : Nat
  slot : Nat
  tag : Nat
  scope : Nat
  space : Nat
  marked : List Nat := []
  queue : List MarkEntry := []
  waits : List Nat := []
  bad : Bool := false
  setting : Bool := false
  left : List Nat := []
  /-- pages declared fatal on its walk -/
  fatal : List Nat := []
  hold : Option EngineHold := none
  sysAgent : Option Nat := none
  deriving DecidableEq, Repr

/-- A `tlbinv` (R315): its range and spaces, the TLBs it has still to reach, and the queue entries, by block, agent and
sequence number, that were translated under what it dropped (R316), with the fills, by block and operation, whose ring was. It
is kept until the next `tlbfence`. -/
structure Invalidation where
  base : Nat
  span : Nat
  space : Option Nat
  cores : List Nat
  await : List (Nat × Nat × Nat) := []
  fills : List (Nat × Nat) := []
  deriving DecidableEq, Repr

/-- A frame in the scrub queue (R322): its address and size code. -/
structure ScrubItem where
  frame : Nat
  size : Nat
  deriving DecidableEq, Repr

/-- A lent cluster (R328): borrower, deadline, and the recall in progress with the cycle it passes. -/
structure Lent where
  cluster : Nat
  borrower : Nat
  limit : Nat
  recalling : Option Nat := none
  /-- it has returned, and its `recall` has still to retire -/
  back : Bool := false
  deriving DecidableEq, Repr

/-- An SPDM session-filled model-key slot (R331). -/
structure KeySlot where
  key : List Byte
  session : Nat
  deriving DecidableEq, Repr

/-- What follows when a write that the device owes has been made: the fault log's head advances and cause 0x35 is raised, a
publication's record raises cause 0x36, or nothing. -/
inductive OwedKind where
  | faultLog | publication (index : Nat) | record
  deriving DecidableEq, Repr

/-- A write of the device's own to a plot's memory that waits for its channel (R348). -/
structure Owed where
  n : Nat
  kind : OwedKind
  pa : Nat
  bytes : List Byte
  deriving DecidableEq, Repr

/-- A waiting `sysc` (R334) in the order in which it reached the ring port. -/
structure SyscWait where
  block : Nat
  agent : Nat
  n : BitVec 19
  deriving DecidableEq, Repr

/-- A plot. -/
structure Plot where
  id : Nat
  clusters : List Nat := []
  /-- physical ranges granted to the plot, first and past-the-last address; the ones shared with another plot -/
  ranges : List (Nat × Nat) := []
  shared : List (Nat × Nat) := []
  det : Bool := false
  vfCount : Nat := 1
  vfs : FMap Vf := []
  vfCur : Nat := 0
  vfSel : Nat := 0
  sliceStart : Nat := 0
  sliceEnd : Nat := 0
  /-- a slice runs: some function had work when the last one ended -/
  slicing : Bool := false
  /-- page-table root of the plot system core's own space (the model's field: the spec gives the system core's space
  no root register) -/
  sysRoot : BitVec 52 := 0
  fring : Ring := {}
  nextFault : BitVec 32 := 0
  /-- ids of faults whose messages have been sent and not posted (R318, R319) -/
  outstanding : List (BitVec 32) := []
  fpost : Word := 0
  sysc : Ring := {}
  syscPost : BitVec 32 := 0
  syscPort : List SyscWait := []
  walkBase : BitVec 56 := 0
  walkCap : BitVec 48 := 0
  pubRecords : Nat := 0
  /-- writes of the device's own that wait for their channels, oldest first, and the number of the next -/
  owed : List Owed := []
  nextOwed : Nat := 0
  flog : Ring := {}
  lovfBase : BitVec 56 := 0
  lovfCap : BitVec 16 := 0
  /-- records put so far into each function's part of the overflow area (R272, R325) -/
  ovfTail : FMap Nat := []
  lcomp : Word := 0
  poolBase : BitVec 56 := 0
  scrub : List ScrubItem := []
  /-- tweak generation by frame (R322, R330) -/
  tweak : FMap (BitVec 32) := []
  keys : FMap KeySlot := []
  lends : List Lent := []
  borrowed : List Nat := []
  /-- launch unit (R272, R273) -/
  seq : BitVec 32 := 0
  waiting : List Launch := []
  spilled : List Launch := []
  running : List Launch := []
  /-- blocks that a recall has taken off their cores, until their launches are placed again (R329) -/
  recalled : List Parked := []
  invs : List Invalidation := []
  walks : List Walk := []
  pubs : List Publication := []
  nextPub : Nat := 1
  tlbStores : Nat := 0
  stopAt : BitVec 64 := BitVec.allOnes 64
  stopped : Bool := false
  stopNow : Bool := false
  /-- `sset DBG.RUN` has retired: what the stop halted resumes in the next cycle (R359) -/
  resume : Bool := false
  /-- debug registers (Table 17.4) -/
  cksCtl : BitVec 1 := 0
  cks : Ring := {}
  trec : Ring := {}
  trc : Ring := {}
  trcState : BitVec 2 := 0
  smpPeriod : BitVec 5 := 0
  /-- the cycle of the sampler's latest tick -/
  smpLast : Nat := 0
  trig : FMap Word := []
  /-- the triggers that have fired in this cycle, each with its register as it fired (R370) -/
  fired : FMap Word := []
  ctxid : BitVec 32 := 0
  panic : BitVec 32 := 0
  brk : FMap (BitVec 56) := []
  pairStat : Word := 0
  alignOfs : BitVec 32 := 0
  /-- the pair this plot belongs to: the other half, and whether this is the primary (R365) -/
  pair : Option (Nat × Bool) := none
  /-- stores of paired launches not yet compared, by channel pair: offset, bytes (R366) -/
  pairBuf : FMap (List (Nat × List Byte)) := []
  pairOff : List Nat := []
  counters : FMap Nat := []
  /-- the network port, logical port l of SerDes port q being 4 q + l (R411), and the storage namespace (R413) -/
  netPort : Nat := 0
  nvmeSpace : Nat := 1
  deriving DecidableEq, Repr

/-! ### Gates, host, clocks and bring-up -/

/-- Something from outside that reached a port (R349): kind and source as Table 17.2, target and payload, and the
plot it is for. -/
structure Arrival where
  kind : Nat
  source : Nat := 0
  target : Nat := 0
  payload : List Byte := []
  plot : Nat := 48
  /-- the status of a completion that leaves (R403, R405): 0 success, 1 Unsupported Request, 2 Configuration Request Retry
  Status, 4 Completer Abort -/
  status : Nat := 0
  deriving DecidableEq, Repr

/-- The IDE stream that carries a request: bit 16 of its source field says that there is one, and bits [31:17] which. -/
def Arrival.stream (a : Arrival) : Option Nat := if a.source / 2 ^ 16 % 2 = 1 then some (a.source / 2 ^ 17) else none

/-- A CXL response carries Poison (R410): bit 0 of its first byte. -/
def Arrival.poisoned (a : Arrival) : Bool := (a.payload.headD 0).getLsbD 0

/-- A gate (Table 17.1). -/
structure Gate where
  mode : BitVec 8 := 0
  logBase : Word := 0
  logCap : BitVec 32 := 0
  logHead : BitVec 32 := 0
  logTail : BitVec 32 := 0
  payBase : Word := 0
  payCap : BitVec 32 := 0
  payHead : BitVec 32 := 0
  payTail : BitVec 32 := 0
  outBase : Word := 0
  outCap : BitVec 32 := 0
  outHead : BitVec 32 := 0
  outTail : BitVec 32 := 0
  mismatch : Word := 0
  held : BitVec 32 := 0
  /-- arrivals received and not admitted, in link order, and the last cycle in which one was admitted -/
  port : List Arrival := []
  /-- Brixvex flits received and not yet authenticated (R412) -/
  flits : List Arrival := []
  /-- the number of the next flit of the link -/
  flitSeq : Nat := 0
  lastAdmit : Nat := 0
  admittedOnce : Bool := false
  /-- log-full has been raised in this held period, of arrivals and of outbound traffic -/
  raisedIn : Bool := false
  raisedOut : Bool := false
  /-- replay: under way, the next entry to read, the cycle at which it started or of the last entry injected, the next digest
  to compare, and the entry that stops it -/
  replaying : Bool := false
  readAt : BitVec 32 := 0
  lastCycle : Nat := 0
  digestAt : BitVec 32 := 0
  broken : Option (BitVec 32) := none
  /-- outbound transactions waiting to leave: kind, target, payload -/
  outq : List Arrival := []
  deriving DecidableEq, Repr

/-- A host request to BAR2 admitted and awaiting its effect (R405): its offset in the window, the data of a write or
the size of a read, the bytes already moved, and the data read so far. -/
structure HostReq where
  plot : Nat
  vf : Nat
  write : Bool
  offset : Nat
  /-- the gate it came by, the requester, and the bus address that was addressed -/
  gate : Nat := 0
  source : Nat := 0
  target : Nat := 0
  done : Nat := 0
  data : List Byte
  size : Nat
  hold : Option EngineHold := none
  deriving DecidableEq, Repr

/-- A storage engine's queue pair (R413). -/
structure NvmeQueue where
  id : Nat
  sqBase : Nat := 0
  cqBase : Nat := 0
  size : Nat := 0
  head : Nat := 0
  tail : Nat := 0
  cqTail : Nat := 0
  phase : Bool := true
  /-- the command being executed, the bytes of its data moved, those gathered for a write, whether the network has been asked,
  its answer, and a page-fault hold -/
  cmd : Option (List Byte) := none
  moved : Nat := 0
  gathered : List Byte := []
  asked : Bool := false
  reply : Option (List Byte) := none
  hold : Option EngineHold := none
  /-- commands executed whose completion entry has not drained: command identifier and status -/
  done : List (List Byte × Nat) := []
  deriving DecidableEq, Repr

/-- How a SerDes port is used (R411). -/
inductive SerdesMode where
  | brixvex | one | two | four
  deriving DecidableEq, Repr

/-- A virtual function of function 0's SR-IOV (R403, R404): the plot and VF index it is bound to, and its VF Enable bit. -/
structure HostFn where
  plot : Nat
  vf : Nat
  enable : Bool := false
  deriving DecidableEq, Repr

/-- The counters in a migration image of a virtual function (R368): pairs of index and value of each group, by block and
group, of each block, and of the function. -/
structure VfImage where
  groups : List ((Nat × Nat) × FMap Nat) := []
  blocks : FMap (FMap Nat) := []
  own : FMap Nat := []
  deriving DecidableEq, Repr

/-- The alignment exchange (R374), in picoseconds of each package's own reference edges: the leader's Sync sent and received, this
package's Delay_Req sent and received, and the release edge announced; in the leader, whether it has sent its Sync and how many
requests it has answered. -/
structure Exchange where
  syncSent : Option Nat := none
  syncGot : Option Nat := none
  delaySent : Option Nat := none
  delayGot : Option Nat := none
  release : Option Nat := none
  begun : Bool := false
  answers : Nat := 0
  deriving DecidableEq, Repr, Inhabited

/-- The manager's record of the package: live SPDM sessions, its log and those of the dies' manager cores (R12), migration
images of virtual functions, and what bring-up left. -/
structure Manager where
  sessions : List Nat := []
  logCount : Nat := 0
  log : List (Nat × Nat) := []
  dieLogs : FMap (List (Nat × Nat)) := []
  images : FMap VfImage := []
  /-- SHAKE256 of the configuration image (R360), and the boot nonce -/
  cfgDigest : List Byte := []
  bootNonce : List Byte := []
  /-- how often each plot has been started (R330) -/
  starts : FMap Nat := []
  /-- alerts admitted and not answered (R415), and the offset that alignment left (R374) -/
  alerts : Nat := 0
  alignOfs : BitVec 32 := 0
  /-- the identity key (Table 20.2, step 4), and the alignment exchange -/
  identityKey : List Byte := []
  exchange : Exchange := {}
  deriving DecidableEq, Repr, Inhabited

/-- What the signed configuration image, the board flash and the peers settle (R404, R410, R411, R414, R374): the image's
bytes; the plots it builds, each as it stands at its start with its interrupt entry; the pairs that may lend; where
shared pages may be copied from; the measurements; the CXL window parts; the storage queues; the virtual functions; the
modes of the SerDes ports; whether peers are named, and whether this package leads; and where a Ramroino image goes. -/
structure BoardImage where
  bytes : List Byte := []
  plots : List (Plot × BitVec 56) := []
  lendOk : List (Nat × Nat) := []
  restorable : FMap Nat := []
  measured : FMap (List Byte) := []
  cxlSize : FMap Nat := []
  cxlHoles : List (Nat × Nat) := []
  nvme : FMap NvmeQueue := []
  functions : FMap (Nat × Nat) := []
  serdes : FMap SerdesMode := []
  peers : Bool := false
  leader : Bool := false
  imageBase : Option Nat := none
  deriving DecidableEq, Repr, Inhabited

/-- The diagnostic window (Table 17.7). -/
structure Diag where
  state : BitVec 32 := 0
  /-- the bus address of function 0's BAR0 -/
  bar0 : Nat := 0
  dumpStatus : BitVec 32 := 0
  dumpBuf : Word := 0
  dumpBytes : Word := 0
  testMap : FMap Byte := []
  deriving DecidableEq, Repr, Inhabited

/-- How far bring-up has come (Table 20.2), and what ended it. -/
inductive Boot where
  | off | step (n : Nat) | ready | safe
  deriving DecidableEq, Repr, Inhabited

/-- Who an event of the reference machine happens to, and its other arguments: the scheduler's choice, which the
constructors of the event rows of `Instr` read. -/
structure Subject where
  ag : Nat := 0
  n : Nat := 0
  m : Nat := 0
  flag : Bool := false
  value : Word := 0
  deriving DecidableEq, Repr, Inhabited

/-- A unit to which a happening of a cycle belongs. -/
inductive Slot where
  /-- what falls due in a plot at a cycle, or has entered the package -/
  | due (plot : Nat)
  /-- a gate admits, injects, and lets a transaction leave -/
  | gate (g : Nat)
  /-- bring-up and the manager -/
  | package
  /-- traps and interrupts of an agent, and its window, queue, log and clauses -/
  | entry (key : Nat)
  | thread (key : Nat)
  /-- the lane pipe of a core, and its matrix unit and engines -/
  | lane (core : Nat)
  | core (core : Nat)
  /-- launch unit, rake, walks, invalidations, scrubbers and ports of a plot; its storage engine -/
  | plot (p : Nat)
  | nvme (q : Nat)
  /-- stops at the end of the cycle: of a plot, of the package -/
  | plotEnd (p : Nat)
  | packageEnd
  deriving DecidableEq, Repr

/-- What moves before the next fetch. -/
inductive Move where
  /-- run this instruction or happening, on the given subject -/
  | exec (i : Instr) (x : Subject)
  /-- let the first enabled happening of a unit take place -/
  | happen (u : Slot)
  /-- the happenings before the issue of a cycle are fixed -/
  | begin
  /-- the issue of a cycle starts: its contexts are judged, and the first agent that fetches is chosen -/
  | turn
  /-- the cycle ends, and the next begins -/
  | tick
  deriving DecidableEq, Repr

/-- An issue port (R18): a core's for its groups, its second for its sprout contexts, or a system core's. -/
inductive Port where
  | groups (core : Nat)
  | sprouts (core : Nat)
  | system (key : Nat)
  deriving DecidableEq, Repr

/-- What comes from outside: a happening on a subject; an arrival that has been received and checked at a gate, or as a flit
there (R349, R412); or a virtual function whose migration image is taken or restored (R368). -/
inductive Outside where
  | event (i : Instr) (x : Subject)
  | arrive (gate : Nat) (a : Arrival)
  | flit (gate : Nat) (a : Arrival)
  | saveVf (plot vf : Nat)
  | restoreVf (plot vf : Nat) (img : VfImage)
  deriving DecidableEq, Repr

structure Input where
  cycle : Nat
  what : Outside
  deriving DecidableEq, Repr

/-- Who reads host or CXL memory: a load of an agent, an atomic at the head of its queue, its fetch, an operation or a bulk read
of a core's engines; the rake of a plot for a publication; an instruction that acts at the home; a walk; or, in the copy of a pair, one that has
still to ask (R365). -/
inductive Reader where
  | load (key id : Nat)
  | entry (key seq : Nat)
  | code (key : Nat)
  | engine (core id : Nat)
  | hread (core id : Nat)
  | unit (plot id : Nat)
  | home (key : Nat)
  | walk (id : Nat)
  | early
  deriving DecidableEq, Repr

/-- A read that has left by a gate, for a plot, at an address; whether it is of the copy of a paired launch, and whether its
answer has come; with the bytes that have been written there since it left. -/
structure Ask where
  who : Reader
  gate : Nat
  plot : Nat
  pa : Nat
  copy : Bool := false
  answered : Bool := false
  since : List (Nat × List Byte) := []
  deriving DecidableEq, Repr

/-- Who waits to write to a channel in refresh (R348): the head of an agent's store queue, an operation of a core's engines,
or a plot's oldest host request; a trap record or mask-stack entry of an agent; the next entry of a plot's fault ring or system-call
ring; the completion record of a launch; a write that the device owes a plot, by its number; a storage engine's queue pair; a
header that the rake writes. -/
inductive Writer where
  | queue (key seq : Nat)
  | engine (core id : Nat)
  | host (plot : Nat)
  | area (key : Nat)
  | fault (plot : Nat)
  | sysc (plot : Nat)
  | comp (plot seq : Nat)
  | owed (plot n : Nat)
  | nvme (q : Nat)
  | rake (plot id : Nat)
  deriving DecidableEq, Repr

/-- The whole machine, apart from a saved image of it. -/
structure Mach where
  cycle : Nat := 0
  mem : Store := {}
  threads : FMap Thread := []
  cores : FMap Core := []
  plots : FMap Plot := []
  /-- the plot system core or group whose scalar instruction `step` fetches, and the agent of lane instructions -/
  cur : Nat := 0
  laneCur : Nat := 0
  subj : Subject := {}
  agenda : List Move := []
  /-- the issue ports that have still to fetch in this cycle, and what comes from outside at later cycles -/
  round : List Port := []
  inputs : List Input := []
  gates : FMap Gate := []
  hostReqs : List HostReq := []
  /-- arrivals admitted by a gate on which the unit that they are for has not acted yet -/
  entered : List (Nat × Arrival) := []
  /-- reads of host and CXL memory that have left, in order -/
  asks : List Ask := []
  /-- virtual functions by number, and the modes of the SerDes ports -/
  functions : FMap HostFn := []
  serdes : FMap SerdesMode := []
  nvme : FMap NvmeQueue := []
  mgr : Manager := {}
  board : BoardImage := {}
  diag : Diag := {}
  boot : Boot := .off
  /-- CYCLE runs from reset release; the package is stopped; the package stop cycle (R357, R358) -/
  stopped : Bool := false
  pkgStopAt : BitVec 64 := BitVec.allOnes 64
  /-- the reference: lost since this cycle (R346), and the stop it requested -/
  refLost : Option Nat := none
  stopReq : Option Nat := none
  safeAfterStop : Option Nat := none
  /-- arithmetic ratio by cluster, where it differs from 7 (R347) -/
  ratios : FMap Nat := []
  /-- channels in refresh, and the cycle each ends (R348) -/
  refresh : FMap Nat := []
  /-- writers that wait for a channel, in the order in which they reached it, and the cycle after which the next of them may
  proceed -/
  waiters : FMap (List Writer) := []
  proceed : FMap Nat := []
  /-- lines in the L2 slices with their replacement marks (R109), and those in a die's remote-data cache (R23) -/
  l2 : FMap Nat := []
  rdc : FMap (List Nat) := []
  nextBlock : Nat := 1
  nextWalk : Nat := 1
  /-- manager events: log-full and replay-mismatch raised, by gate -/
  events : List (Nat × Nat) := []
  /-- the model's own counters: the next free value of each plot and, at 48, of the package, and whose counter is in use
  (not the spec's state) -/
  fresh : FMap Nat := []
  drawer : Nat := 48
  deriving DecidableEq, Repr, Inhabited

/-- A Ramroino image: the saved state, its cycle and its configuration digest (Table 17.3), the boot nonce its keys were
derived from (R361), and the lines that its slices held. -/
structure Image where
  cycle : Nat
  digest : List Byte
  mach : Mach
  nonce : List Byte := []
  lines : FMap (List Byte) := []
  deriving DecidableEq, Repr

/-- The state of the machine. -/
structure State extends Mach where
  image : Option Image := none
  deriving DecidableEq, Repr

/-- The machine right after reset: CYCLE is 0, no plot has been started, every register at its reset value, memory
with nothing listed. The gates exist and stamp only; the lead manager has released reset (Table 20.2, step 8). The manager core
of die d is agent 40960 + 48 + d (R12): its firmware is not in the spec, so it fetches nothing, and what the manager does is an
event. -/
def State.reset : State :=
  { cycle := 0
    boot := .step 8
    gates := (List.range 21).map (fun g => (g, ({} : Gate)))
    threads := (List.range 8).map (fun d => (41008 + d, ({ core := 48 + d, plot := 48, status := .stopped } : Thread))) }

end Sys2Proof.Machine
end

