-- ==== Sys2Proof/Machine/Map.lean ====
section
/-! DEFINITION. Maps sorted by key, and memory cells in their canonical form: addresses strictly rising and no entry
equal to what an unlisted address reads as, which is 0. -/

namespace Sys2Proof.Machine

/-- The value at a key. -/
def fget? {α : Type} : FMap α → Nat → Option α
  | [], _ => none
  | (j, v) :: m, k => if j = k then some v else fget? m k

/-- The value at a key, or a default. -/
def fgetD {α : Type} (m : FMap α) (k : Nat) (d : α) : α := (fget? m k).getD d

/-- Set the value at a key, keeping the keys in order. -/
def fset {α : Type} : FMap α → Nat → α → FMap α
  | [], k, v => [(k, v)]
  | (j, w) :: m, k, v =>
    if k < j then (k, v) :: (j, w) :: m else if k = j then (k, v) :: m else (j, w) :: fset m k v

/-- Remove a key. -/
def ferase {α : Type} : FMap α → Nat → FMap α
  | [], _ => []
  | (j, w) :: m, k => if j = k then ferase m k else (j, w) :: ferase m k

/-- Change the value at a key that is present. -/
def fmod {α : Type} (m : FMap α) (k : Nat) (f : α → α) : FMap α :=
  match fget? m k with
  | some v => fset m k (f v)
  | none => m

/-- Insert into a sorted list of numbers without repeats. -/
def insNat : List Nat → Nat → List Nat
  | [], k => [k]
  | j :: m, k => if k < j then k :: j :: m else if k = j then j :: m else j :: insNat m k

/-- What a byte of memory that nothing has written reads as (DESIGN CHOICE, log entry 1: the spec gives DRAM and host
memory no contents at reset). -/
def unlistedByte : Byte := 0

/-- The byte at an address. -/
def cellGet (m : List Host.Cell) (a : Nat) : Byte := (fget? m a).getD unlistedByte

/-- Write one byte, keeping the canonical form. -/
def cellSet (m : List Host.Cell) (a : Nat) (b : Byte) : List Host.Cell :=
  if b = unlistedByte then ferase m a else fset m a b

/-- Write bytes at rising addresses. -/
def cellsSet (m : List Host.Cell) (a : Nat) : List Byte → List Host.Cell
  | [] => m
  | b :: bs => cellsSet (cellSet m a b) (a + 1) bs

/-- The bytes of a run. -/
def cellsGet (m : List Host.Cell) (a n : Nat) : List Byte := (List.range n).map (fun i => cellGet m (a + i))

/-- Every key of the list lies above the bound, in rising order, and no byte is the unlisted one. -/
def cellsWfFrom : Nat → List Host.Cell → Bool
  | _, [] => true
  | k, (a, b) :: m => decide (k ≤ a) && decide (b ≠ unlistedByte) && cellsWfFrom (a + 1) m

/-- The canonical form of memory. -/
def Memory.wf (m : List Host.Cell) : Bool := cellsWfFrom 0 m

end Sys2Proof.Machine
end

