-- ==== Sys2Proof/Machine/Memory.lean ====
section
/-! DEFINITION. Physical memory (R20, R70, R417), object state (R178–R182), page tables and walks (R314, R21). -/

namespace Sys2Proof.Machine

/-! ### Geometry (R9, R10, R12) -/

/-- Coordinates of the tile with channel index c (R9). -/
def tileX (c : Nat) : Nat := c / 160 % 4 * 16 + c % 160 % 16
def tileY (c : Nat) : Nat := c / 640 * 10 + c % 160 / 16

/-- Tile and channel index of the core at (x, y) (R9). -/
def tileOf (x y : Nat) : Nat := ((y / 10) * 4 + x / 16) * 160 + y % 10 * 16 + x % 16

def dieOf (c : Nat) : Nat := c / 160

/-- Package cluster index of a tile (R9). -/
def clusterOf (c : Nat) : Nat := dieOf c * 20 + (c % 160 / 16 / 2) * 4 + c % 16 / 4

/-- Core in cluster of a tile (R9). -/
def coreInCluster (c : Nat) : Nat := c % 160 / 16 % 2 * 4 + c % 16 % 4

/-- The tile with a core-in-cluster number in the cluster of tile c. -/
def clusterMate (c k : Nat) : Nat :=
  let cl := clusterOf c
  let lx := cl % 20 % 4 * 4 + k % 4
  let ly := cl % 20 / 4 * 2 + k / 4 % 2
  cl / 20 * 160 + ly * 16 + lx

/-- The tiles of a package cluster, in core-in-cluster order. -/
def clusterTiles (cl : Nat) : List Nat :=
  (List.range 8).map (fun k => cl / 20 * 160 + (cl % 20 / 4 * 2 + k / 4) * 16 + (cl % 20 % 4 * 4 + k % 4))

/-! ### Physical addresses (R20) -/

def dramEnd : Nat := 0x5000000000
def cxlBase : Nat := 0x1000000000000
def hostBase : Nat := 0x2000000000000
def hostEnd : Nat := 0x3000000000000

def isDram (pa : Nat) : Bool := decide (pa < dramEnd)
def isCxl (pa : Nat) : Bool := decide (cxlBase ≤ pa ∧ pa < cxlBase + 0x80000000000)
def isHost (pa : Nat) : Bool := decide (hostBase ≤ pa ∧ pa < hostEnd)

/-- Home of an address (R20): a channel, or 1280 plus the CXL port of a window part. -/
def homeOf (cxlSize : FMap Nat) (pa : Nat) : Nat :=
  if isDram pa then pa / 2 ^ 28
  else
    let o := pa - cxlBase
    if o < fgetD cxlSize 0 0 then 1280 else if o < fgetD cxlSize 0 0 + fgetD cxlSize 1 0 then 1281 else 1282

/-- The end of the window's last part (R20). -/
def Store.cxlEnd (m : Store) : Nat :=
  cxlBase + min (fgetD m.cxlSize 0 0 + fgetD m.cxlSize 1 0 + fgetD m.cxlSize 2 0) 0x80000000000

/-- A run lies in memory that exists (R20): DRAM, the parts of the CXL window as the ports' decoders map them, the host, or
device control space. -/
def Store.populated (m : Store) (a n : Nat) : Bool :=
  decide (a + n ≤ dramEnd)
    || (decide (cxlBase ≤ a ∧ a + n ≤ m.cxlEnd) && !m.cxlHoles.any (fun r => decide (a < r.2 ∧ r.1 < a + n)))
    || decide (hostBase ≤ a ∧ a + n ≤ hostEnd) || decide (0xF000000000000 ≤ a ∧ a + n ≤ 2 ^ 52)

/-- Device control space (R20). -/
def isDevice (pa : Nat) : Bool := decide (0xF000000000000 ≤ pa)

def lineOf (pa : Nat) : Nat := pa / 256 * 256
def wordOf (pa : Nat) : Nat := pa / 8 * 8

/-! ### Reading and writing -/

def Store.byte (m : Store) (a : Nat) : Byte := cellGet m.cells a
def Store.bytes (m : Store) (a n : Nat) : List Byte := cellsGet m.cells a n
/-- The little-endian number of n bytes (R29). -/
def Store.num (m : Store) (a n : Nat) : Nat := leNat (m.bytes a n)
def Store.word (m : Store) (a : Nat) : Word := BitVec.ofNat 64 (m.num a 8)
def Store.tag (m : Store) (a : Nat) : Bool := m.tags.contains (wordOf a)
/-- Object-state sideband of a line; unclaimed where nothing was set (Table 8.5). -/
def Store.sideOf (m : Store) (a : Nat) : BitVec 12 := fgetD m.side (lineOf a) 0x7FF
def Store.isPoison (m : Store) (a : Nat) : Bool := m.poison.contains (lineOf a)

/-- The 8-byte words that n bytes at an address touch. -/
def wordsOf (a n : Nat) : List Nat := if n = 0 then [] else (List.range ((a + n - 1) / 8 - a / 8 + 1)).map (fun i => (a / 8 + i) * 8)

/-- The lines that n bytes at an address touch. -/
def linesOf (a n : Nat) : List Nat :=
  if n = 0 then [] else (List.range ((a + n - 1) / 256 - a / 256 + 1)).map (fun i => (a / 256 + i) * 256)

/-- The lines that n bytes at an address cover whole (R417). -/
def wholeLines (a n : Nat) : List Nat := (linesOf a n).filter (fun l => decide (a ≤ l ∧ l + 256 ≤ a + n))

/-- Record the present value of a word as past (R172). -/
def Store.pushHist (m : Store) (w : Nat) : Store :=
  let h := fgetD m.hist w {}
  { m with hist := fset m.hist w { h with past := h.past ++ [m.word w] } }

/-- Stores leave the owner, scope, state and reserved fields of a header unchanged (R178): bytes 6 to 15 of a marked or
published header that a write of n bytes touches keep their values. -/
def Store.keepHeaders (m : Store) (a n : Nat) (cells : List Host.Cell) : List Host.Cell :=
  (m.headers.filter (fun h => decide (h + 6 < a + n ∧ a < h + 16))).foldl (fun c h => cellsSet c (h + 6) (m.bytes (h + 6) 10)) cells

/-- Write bytes to cells: their words' tags are cleared (R70) and their old values recorded (R172). Errors of lines
written whole are cleared (R417). -/
def Store.write (m : Store) (a : Nat) (bs : List Byte) : Store :=
  let ws := wordsOf a bs.length
  let m1 := ws.foldl Store.pushHist m
  let ls := wholeLines a bs.length
  { m1 with
    cells := m.keepHeaders a bs.length (cellsSet m1.cells a bs)
    tags := m1.tags.filter (fun t => !ws.contains t)
    poison := m1.poison.filter (fun l => !ls.contains l)
    noticed := m1.noticed.filter (fun l => !ls.contains l) }

/-- Write an aligned word and set its reference tag (`stref`, R70, R74). -/
def Store.writeRef (m : Store) (a : Nat) (bs : List Byte) : Store :=
  let m1 := m.write a bs
  { m1 with tags := insNat m1.tags (wordOf a) }

def Store.setSide (m : Store) (a : Nat) (v : BitVec 12) : Store := { m with side := fset m.side (lineOf a) v }

/-! ### Objects (R178–R182) -/

/-- A party to an access (R180, R181): its slot, cluster and die, whether it is the plot system core, whether it is
one that is never checked, and whether it may claim lines. -/
structure Party where
  slot : Nat
  cluster : Nat := 160
  die : Nat := 8
  sysCore : Bool := false
  unchecked : Bool := false
  claims : Bool := true
  /-- the host and the ports: within scope s alone -/
  outside : Bool := false
  deriving DecidableEq, Repr

/-- Fields of an object's header (Table 8.4). -/
def Store.hdrLength (m : Store) (h : Nat) : Nat := m.num h 6
/-- State and scope are 0 until the rake first writes them. -/
def Store.hdrState (m : Store) (h : Nat) : Nat := if m.headers.contains h then (m.byte (h + 8)).toNat % 4 else 0
def Store.hdrScope (m : Store) (h : Nat) : Nat := if m.headers.contains h then (m.byte (h + 8)).toNat / 32 % 8 else 0
def Store.hdrOwner (m : Store) (h : Nat) : Nat := (m.num (h + 12) 2) % 2048

/-- Set the owner, scope and state of a header; its reserved bits are 0. -/
def Store.setHdr (m : Store) (h owner scope state : Nat) : Store :=
  let w := owner * 2 ^ 32 + scope * 2 ^ 5 + state
  let m1 := m.pushHist (h + 8)
  { m1 with cells := cellsSet m1.cells (h + 6) (leBytes 2 0 ++ leBytes 8 w), headers := insNat m1.headers h }

/-- The form B sideband of a scope and publisher cluster (Table 8.5). -/
def formB (scope cluster : Nat) : BitVec 12 := BitVec.ofNat 12 (2048 + scope * 256 + cluster)

def isFormB (v : BitVec 12) : Bool := decide (2048 ≤ v.toNat)
def ownerOf (v : BitVec 12) : Nat := v.toNat % 2048
def scopeOfB (v : BitVec 12) : Nat := v.toNat / 256 % 8
def publisherOf (v : BitVec 12) : Nat := v.toNat % 256

/-- Whether a form B line admits a party (R181). -/
def admitsB (v : BitVec 12) (p : Party) : Bool :=
  let k := publisherOf v
  if p.outside then scopeOfB v == 5
  else if p.sysCore then true
  else
    match scopeOfB v with
    | 2 => decide (k < 160) && p.cluster == k
    | 3 => if 0xF8 ≤ k then p.die == k - 0xF8 else p.die == k / 20
    | _ => true

/-- The header line of the marked or published object that holds a line, if any. -/
def Store.headerOf (m : Store) (a : Nat) : Option Nat :=
  m.headers.find? (fun h => decide (h ≤ lineOf a ∧ lineOf a ≤ lineOf (h + 16 + m.hdrLength h - 1)))

/-- Item 4 of R69 and R103: whether an access to one byte of an OBJ page is an escape (R181). -/
def Store.escapes (m : Store) (p : Party) (obj write : Bool) (pa : Nat) : Bool :=
  if !obj || p.unchecked then false
  else
    let v := m.sideOf pa
    (if isFormB v then !admitsB v p
      else
        let o := ownerOf v
        (o != p.slot && o != 0x7FF && o != 0x7FE) || (o == 0x7FE && !p.sysCore))
      || (write && decide (pa % 256 < 16) && m.headers.contains (lineOf pa) && decide (m.hdrState (lineOf pa) ≠ 0))

/-- The same over a run of bytes. -/
def Store.escapesRun (m : Store) (p : Party) (obj write : Bool) (pa n : Nat) : Bool :=
  obj && (List.range n).any (fun i => m.escapes p obj write (pa + i))

/-- Claim an unclaimed line of an OBJ page for a writer (R180); a header line takes the slot as its owner (R178). -/
def Store.claim (m : Store) (p : Party) (obj : Bool) (pa : Nat) : Store :=
  if obj && p.claims && !p.unchecked && decide (m.sideOf pa = 0x7FF) then
    let m1 := m.setSide pa (BitVec.ofNat 12 p.slot)
    let l := lineOf pa
    if m.headers.contains l then m1.setHdr l p.slot (m.hdrScope l) (m.hdrState l) else m1
  else m

/-- The container scope of a word (R182). -/
def Store.container (m : Store) (obj : Bool) (pa : Nat) : Nat :=
  if !obj then 4
  else if isFormB (m.sideOf pa) then scopeOfB (m.sideOf pa)
  else
    match m.headerOf pa with
    | some h => if m.hdrState h = 2 ∧ m.hdrScope h = 1 then 1 else 0
    | none => 0

/-! ### Page tables (R314) -/

/-- A translation. -/
structure Xlat where
  pa : Nat
  rd : Bool
  wr : Bool
  obj : Bool
  cacheable : Bool
  size : Nat
  deriving DecidableEq, Repr

inductive WalkResult where
  | ok (x : Xlat)
  | absent
  | moving
  deriving DecidableEq, Repr

/-- log2 of the page of a size code (Table 15.3). -/
def pageBits (size : Nat) : Nat :=
  match size with
  | 0 => 12
  | 1 => 16
  | 2 => 21
  | 3 => 26
  | _ => 31

/-- The index of an address in a table of a level. -/
def walkIndex (level va : Nat) : Nat := if level = 4 then va / 2 ^ 48 % 256 else va / 2 ^ (12 + 9 * level) % 512

/-- Whether [a, a + n) lies in one of the ranges. -/
def inRanges (rs : List (Nat × Nat)) (a n : Nat) : Bool := rs.any (fun r => decide (r.1 ≤ a ∧ a + n ≤ r.2))

/-- What one page-table word at a level gives (Table 15.3, R21): a leaf's translation, the next table, or neither. Device
control space is present in the system core's own space (64) alone. -/
inductive WalkStep where
  | done (r : WalkResult)
  | table (pa : Nat)
  deriving DecidableEq, Repr

def walkWord (m : Store) (p : Plot) (space va level : Nat) (w : Word) : WalkStep :=
  let n := w.toNat
  let bit (i : Nat) : Bool := n / 2 ^ i % 2 == 1
  let frame := n / 4096 % 2 ^ 40 * 4096
  let size := n / 256 % 8
  let leaf := bit 63
  if !bit 0 || (leaf && decide (3 ≤ level)) || (!leaf && decide (level = 0)) then .done .absent
  else if leaf then
    let ok := (decide (level = 0 ∧ size ≤ 1) || decide (level = 1 ∧ (size = 2 ∨ size = 3)) || decide (level = 2 ∧ size = 4))
    let b := pageBits size
    let base := frame / 2 ^ b * 2 ^ b
    if !ok || !inRanges p.ranges base (2 ^ b) || !m.populated base (2 ^ b) || (isDevice base && space != 64) then .done .absent
    else if bit 6 then .done .moving
    else
      let sh := inRanges p.shared base (2 ^ b)
      .done (.ok ⟨base + va % 2 ^ b, bit 2, bit 3 && !sh, bit 4, bit 5 && !sh, size⟩)
  else if inRanges p.ranges frame 4096 then .table frame else .done .absent

/-- A leaf that holds translation (Table 15.3). -/
def isMovingLeaf (w : Word) : Bool := w.getLsbD 0 && w.getLsbD 6 && w.getLsbD 63

/-- A walk may have met this word as a moving leaf, and no `tfence` of scope p has passed since (R320). -/
def Store.stillMoving (m : Store) (a : Nat) : Bool :=
  let h := fgetD m.hist a {}
  (h.past.drop h.reread).any isMovingLeaf

/-- One word of a walk on present values: a leaf that was moving stays so until the next `tfence` of scope p. -/
def walkAt (m : Store) (p : Plot) (space va level a : Nat) : WalkStep :=
  match walkWord m p space va level (m.word a) with
  | .done r => .done (if m.stillMoving a then .moving else r)
  | .table t => .table t

/-- A walk on the present values of the page-table words, from a level down. -/
def walkFrom (m : Store) (p : Plot) (space va : Nat) : Nat → Nat → WalkResult
  | 0, tbl =>
    match walkAt m p space va 0 (tbl + 8 * walkIndex 0 va) with
    | .done r => r
    | .table _ => .absent
  | level + 1, tbl =>
    match walkAt m p space va (level + 1) (tbl + 8 * walkIndex (level + 1) va) with
    | .done r => r
    | .table t => walkFrom m p space va level t

/-- A table that a walk on present values reads lies in host or CXL memory. -/
def walkRemote (m : Store) (p : Plot) (space va : Nat) : Nat → Nat → Bool
  | 0, tbl => isHost tbl || isCxl tbl
  | level + 1, tbl =>
    isHost tbl || isCxl tbl ||
      match walkAt m p space va (level + 1) (tbl + 8 * walkIndex (level + 1) va) with
      | .done _ => false
      | .table t => walkRemote m p space va level t

/-- The root of an address space: a virtual function's, or the system core's own (space 64). -/
def Plot.rootOf (p : Plot) (space : Nat) : Nat :=
  if space = 64 then p.sysRoot.toNat else (fgetD p.vfs space {}).root.toNat

/-- A translation found in a TLB. -/
def tlbFind (tlb : List TlbEntry) (space va : Nat) : Option Xlat :=
  (tlb.find? (fun e => e.space == space && va / 2 ^ pageBits e.size == e.vpage)).map
    (fun e => ⟨e.frame + va % 2 ^ pageBits e.size, e.rd, e.wr, e.obj, e.cacheable, e.size⟩)

/-- The TLB entry of a translation of va. -/
def tlbEntryOf (space va : Nat) (x : Xlat) : TlbEntry :=
  let b := pageBits x.size
  ⟨space, va / 2 ^ b, x.size, x.pa / 2 ^ b * 2 ^ b, x.rd, x.wr, x.obj, x.cacheable⟩

/-- Kinds of access. -/
inductive Access where
  | load | store | atomic | fetch
  deriving DecidableEq, Repr

/-- Whether a translation permits an access (R102, Table 15.3). -/
def Xlat.permits (x : Xlat) : Access → Bool
  | .load => x.rd
  | .store => x.wr
  | .atomic => x.rd && x.wr
  | .fetch => x.rd

end Sys2Proof.Machine
end

