-- ==== Sys2Proof/Machine/Base.lean ====
section
/-! DEFINITION. The parts of the state by number: threads, cores and plots, and how agents are numbered. -/

namespace Sys2Proof.Machine

/-! ### Agents

A group or sprout of core c in context x has key 32 c + x: groups are contexts 0–15, sprouts 16–31 (R18). System core k
has key 40960 + k: the plot system cores are 0–47 (R12), the manager core of die d is 48 + d. -/

def sysKey (k : Nat) : Nat := 40960 + k
def isSysKey (key : Nat) : Bool := decide (40960 ≤ key)
def coreOfKey (key : Nat) : Nat := key / 32
def ctxOfKey (key : Nat) : Nat := key % 32
def isSproutKey (key : Nat) : Bool := !isSysKey key && decide (16 ≤ key % 32)
def groupKey (core g : Nat) : Nat := core * 32 + g

def State.thread (s : State) (key : Nat) : Thread := fgetD s.threads key {}
def State.setThread (s : State) (key : Nat) (t : Thread) : State := { s with threads := fset s.threads key t }
def State.modThread (s : State) (key : Nat) (f : Thread → Thread) : State := s.setThread key (f (s.thread key))
def State.core (s : State) (c : Nat) : Core := fgetD s.cores c {}
def State.setCore (s : State) (c : Nat) (x : Core) : State := { s with cores := fset s.cores c x }
def State.modCore (s : State) (c : Nat) (f : Core → Core) : State := s.setCore c (f (s.core c))
def State.plot (s : State) (p : Nat) : Plot := fgetD s.plots p { id := p }
def State.setPlot (s : State) (p : Nat) (x : Plot) : State := { s with plots := fset s.plots p x }
def State.modPlot (s : State) (p : Nat) (f : Plot → Plot) : State := s.setPlot p (f (s.plot p))
def State.withMem (s : State) (m : Store) : State := { s with mem := m }

end Sys2Proof.Machine
end

