-- ==== Sys2Proof/Machine/Crypto.lean ====
section
/-! DEFINITION. The public algorithms that the spec names: AES-256 (FIPS 197) with GCM (R211) and key wrap (R331),
SHAKE256 (R330, R332, R360), and the CRC-64 of R363. Bytes are natural numbers below 256. -/

namespace Sys2Proof.Machine

/-! ### AES-256 -/

def xtime (x : Nat) : Nat := if x < 128 then 2 * x else (2 * x - 256) ^^^ 0x1B

/-- The product in GF(2^8): n bits of b, from the lowest. -/
def gmulAux : Nat → Nat → Nat → Nat
  | 0, _, _ => 0
  | n + 1, a, b => (if b % 2 = 1 then a else 0) ^^^ gmulAux n (xtime a) (b / 2)

def gmul (a b : Nat) : Nat := gmulAux 8 a b

/-- The inverse in GF(2^8), a^254; 0 for 0. -/
def ginv (a : Nat) : Nat :=
  let a2 := gmul a a
  let a3 := gmul a2 a
  let a6 := gmul a3 a3
  let a12 := gmul a6 a6
  let a15 := gmul a12 a3
  let a30 := gmul a15 a15
  let a60 := gmul a30 a30
  let a120 := gmul a60 a60
  let a126 := gmul a120 a6
  let a127 := gmul a126 a
  gmul a127 a127

def rotl8 (x n : Nat) : Nat := (x * 2 ^ n + x / 2 ^ (8 - n)) % 256

def aesSub (x : Nat) : Nat :=
  let b := ginv x
  b ^^^ rotl8 b 1 ^^^ rotl8 b 2 ^^^ rotl8 b 3 ^^^ rotl8 b 4 ^^^ 0x63

def aesUnsub (x : Nat) : Nat := ginv (rotl8 x 1 ^^^ rotl8 x 3 ^^^ rotl8 x 6 ^^^ 5)

def xorBytes (a b : List Nat) : List Nat := List.zipWith (· ^^^ ·) a b

/-- Round constants of the key schedule. -/
def aesRcon : Nat → Nat
  | 0 => 1
  | n + 1 => xtime (aesRcon n)

/-- Extend a key schedule of 4-byte words, newest first, by n words; `i` is the next word's index. -/
def aesExpand : Nat → Nat → List (List Nat) → List (List Nat)
  | 0, _, ws => ws
  | n + 1, i, ws =>
    let prev := ws.getD 0 []
    let t :=
      if i % 8 = 0 then
        match (prev.drop 1 ++ prev.take 1).map aesSub with
        | [] => []
        | x :: xs => (x ^^^ aesRcon (i / 8 - 1)) :: xs
      else if i % 8 = 4 then prev.map aesSub
      else prev
    aesExpand n (i + 1) (xorBytes (ws.getD 7 []) t :: ws)

/-- The fifteen round keys, in order. -/
def aesKeys (key : List Nat) : List (List Nat) :=
  let ws := (aesExpand 52 8 (((List.range 8).map (fun k => (key.drop (4 * k)).take 4)).reverse)).reverse
  (List.range 15).map (fun r => ((ws.drop (4 * r)).take 4).flatten)

/-- Byte 4c + r of the state moves within its row by `step` columns. -/
def aesShift (step : Nat) (b : List Nat) : List Nat :=
  (List.range 16).map (fun i => b.getD (4 * ((i / 4 + step * (i % 4)) % 4) + i % 4) 0)

/-- One column times the circulant matrix of a row of coefficients. -/
def aesMix (m : List Nat) (b : List Nat) : List Nat :=
  (List.range 16).map (fun i =>
    (List.range 4).foldl (fun t k => t ^^^ gmul (m.getD ((k + 4 - i % 4) % 4) 0) (b.getD (4 * (i / 4) + k) 0)) 0)

def aesEncrypt (key blk : List Nat) : List Nat :=
  match aesKeys key with
  | [] => blk
  | k0 :: ks =>
    let mid := (ks.take 13).foldl (fun s k => xorBytes (aesMix [2, 3, 1, 1] (aesShift 1 (s.map aesSub))) k) (xorBytes blk k0)
    xorBytes (aesShift 1 (mid.map aesSub)) (ks.getD 13 [])

def aesDecrypt (key blk : List Nat) : List Nat :=
  match (aesKeys key).reverse with
  | [] => blk
  | k14 :: ks =>
    let top := (aesShift 3 (xorBytes blk k14)).map aesUnsub
    (ks.take 13).foldl (fun s k => (aesShift 3 (aesMix [14, 11, 13, 9] (xorBytes s k))).map aesUnsub) top
      |> fun s => xorBytes s (ks.getD 13 [])

/-! ### GCM -/

def beNat (bs : List Nat) : Nat := bs.foldl (fun n b => n * 256 + b) 0

def beBytes (n v : Nat) : List Nat := (List.range n).map (fun i => v / 2 ^ (8 * (n - 1 - i)) % 256)

/-- The product in GF(2^128) of GCM: the bits of x from the most significant of the remaining n. -/
def ghashMul : Nat → Nat → Nat → Nat
  | 0, _, _ => 0
  | n + 1, x, v =>
    (if x / 2 ^ n % 2 = 1 then v else 0) ^^^ ghashMul n x (if v % 2 = 1 then v / 2 ^^^ (0xE1 * 2 ^ 120) else v / 2)

/-- Blocks of 16 bytes, the last padded with zeros. -/
def blocks16 (bs : List Nat) : List (List Nat) :=
  (List.range ((bs.length + 15) / 16)).map (fun i => let b := (bs.drop (16 * i)).take 16; b ++ List.replicate (16 - b.length) 0)

def ghash (h : Nat) (bs : List (List Nat)) : Nat := bs.foldl (fun y b => ghashMul 128 (y ^^^ beNat b) h) 0

/-- The keystream over a text, from counter c. -/
def gcmCtr (key nonce : List Nat) : Nat → List (List Nat) → List Nat
  | _, [] => []
  | c, b :: bs => xorBytes b (aesEncrypt key (nonce ++ beBytes 4 c)) ++ gcmCtr key nonce (c + 1) bs

/-- Open an AES-256-GCM text under a 12-byte nonce: the plaintext, when the tag verifies. -/
def gcmOpen (key nonce aad ct tag : List Nat) : Option (List Nat) :=
  let h := beNat (aesEncrypt key (List.replicate 16 0))
  let s := ghash h (blocks16 aad ++ blocks16 ct ++ [beBytes 8 (8 * aad.length) ++ beBytes 8 (8 * ct.length)])
  let t := xorBytes (beBytes 16 s) (aesEncrypt key (nonce ++ beBytes 4 1))
  if t = tag then some ((gcmCtr key nonce 2 (blocks16 ct)).take ct.length) else none

/-! ### Key wrap (RFC 3394) -/

/-- One unwrapping step t: A and R[i] from AES⁻¹((A XOR t) | R[i]). -/
def unwrapStep (key : List Nat) (n t : Nat) (x : List Nat × List (List Nat)) : List Nat × List (List Nat) :=
  let i := (t - 1) % n
  let b := aesDecrypt key (beBytes 8 (beNat x.1 ^^^ t) ++ x.2.getD i [])
  (b.take 8, x.2.set i (b.drop 8))

def unwrapFrom (key : List Nat) (n : Nat) : Nat → List Nat × List (List Nat) → List Nat × List (List Nat)
  | 0, x => x
  | t + 1, x => unwrapFrom key n t (unwrapStep key n (t + 1) x)

/-- Unwrap a key of 8n bytes wrapped in 8(n + 1); none when the integrity check fails. -/
def keyUnwrap (key bs : List Nat) : Option (List Nat) :=
  let n := bs.length / 8 - 1
  let r := unwrapFrom key n (6 * n) (bs.take 8, (List.range n).map (fun i => (bs.drop (8 * (i + 1))).take 8))
  if r.1 = List.replicate 8 0xA6 then some r.2.flatten else none

/-! ### SHAKE256 -/

def rot64 (x n : Nat) : Nat := if n = 0 then x else (x * 2 ^ n) % 2 ^ 64 + x / 2 ^ (64 - n)

/-- Lane (x, y) is entry x + 5y. -/
def keccakAt (s : List Nat) (x y : Nat) : Nat := s.getD (x % 5 + 5 * (y % 5)) 0

def keccakRot : List Nat :=
  [0, 1, 62, 28, 27, 36, 44, 6, 55, 20, 3, 10, 43, 25, 39, 41, 45, 15, 21, 8, 18, 2, 61, 56, 14]

/-- The bits of the round constants: the output of the LFSR x^8 + x^6 + x^5 + x^4 + 1. -/
def keccakLfsr : Nat → Nat
  | 0 => 1
  | n + 1 => let r := 2 * keccakLfsr n; if r < 256 then r else (r - 256) ^^^ 0x71

def keccakRc (round : Nat) : Nat :=
  (List.range 7).foldl (fun c j => if keccakLfsr ((j + 7 * round) % 255) % 2 = 1 then c + 2 ^ (2 ^ j - 1) else c) 0

def keccakRound (round : Nat) (s : List Nat) : List Nat :=
  let col (x : Nat) : Nat := (List.range 5).foldl (fun t y => t ^^^ keccakAt s x y) 0
  let a := (List.range 25).map (fun i => s.getD i 0 ^^^ col ((i + 4) % 5) ^^^ rot64 (col ((i + 1) % 5)) 1)
  let b := (List.range 25).map (fun i =>
    let x := i % 5
    let y := i / 5
    let x' := (x + 3 * y) % 5
    rot64 (keccakAt a x' x) (keccakRot.getD (x' + 5 * x) 0))
  let c := (List.range 25).map (fun i =>
    let x := i % 5
    let y := i / 5
    keccakAt b x y ^^^ ((2 ^ 64 - 1 - keccakAt b (x + 1) y) &&& keccakAt b (x + 2) y))
  match c with
  | [] => []
  | h :: t => (h ^^^ keccakRc round) :: t

def keccakF (s : List Nat) : List Nat := (List.range 24).foldl (fun s r => keccakRound r s) s

/-- Absorb 136-byte blocks. -/
def shakeAbsorb (s : List Nat) : List (List Nat) → List Nat
  | [] => s
  | b :: bs =>
    shakeAbsorb (keccakF ((List.range 25).map (fun i =>
      s.getD i 0 ^^^ (if i < 17 then leNat (((b.drop (8 * i)).take 8).map (BitVec.ofNat 8)) else 0)))) bs

/-- SHAKE256 to at most 136 bytes. -/
def shake256 (msg : List Nat) (n : Nat) : List Nat :=
  let k := msg.length / 136 + 1
  let padded := msg ++ [0x1F] ++ List.replicate (136 * k - msg.length - 1) 0
  let bs := (List.range k).map (fun i =>
    let b := (padded.drop (136 * i)).take 136
    if i + 1 = k then b.set 135 (b.getD 135 0 ^^^ 0x80) else b)
  ((shakeAbsorb (List.replicate 25 0) bs).flatMap (fun w => (List.range 8).map (fun i => w / 2 ^ (8 * i) % 256))).take n

/-! ### CRC-64/ECMA-182 (R363) -/

/-- One bit of the register. -/
def crcBit (c : Nat) : Nat := if c < 2 ^ 63 then 2 * c else (2 * c - 2 ^ 64) ^^^ 0x42F0E1EBA9EA3693

def crcByte (c b : Nat) : Nat := (List.range 8).foldl (fun c _ => crcBit c) (c ^^^ (b * 2 ^ 56))

/-- The CRC of a message, from a register value. -/
def crc64 (init : Nat) (bs : List Byte) : Nat := bs.foldl (fun c b => crcByte c b.toNat) init

end Sys2Proof.Machine
end

