-- ==== Sys2Proof/Machine/Keys.lean ====
section
/-! DEFINITION. Keys and the encryption of lines (R22, R330): AES-256-XTS with the line's tweak, under keys that SHAKE256
derives from the device secret. -/

namespace Sys2Proof.Machine

open Sys2Proof

/-- A key of n bytes of a kind (1 plot, 2 link, 3 context) from the numbers that R330 names for it. -/
def deriveKey (kind : Nat) (nums : List Nat) (n : Nat) : List Nat :=
  shake256 (((List.range 32).map Config.deviceSecret ++ (List.range 64).map (Config.keyInput kind nums)).map (·.toNat)) n

/-- The boot nonce, as numbers. -/
def State.nonce (s : State) : List Nat := s.mgr.bootNonce.map (·.toNat)

/-- Plot key: plot number, boot nonce and the plot's start count. -/
def State.plotKey (s : State) (plot : Nat) : List Nat := deriveKey 1 (plot :: fgetD s.mgr.starts plot 0 :: s.nonce) 64

/-- Link key: bridge or link number and boot nonce. -/
def State.linkKey (s : State) (link : Nat) : List Nat := deriveKey 2 (link :: s.nonce) 32

/-- Context key: plot, virtual function and its generation. -/
def State.contextKey (s : State) (plot vf : Nat) : List Nat := deriveKey 3 [plot, vf, (fgetD (s.plot plot).vfs vf {}).gen] 64

/-- The tweak's number times α, for the next block of a data unit. -/
def xtsNext (t : Nat) : Nat := if t < 2 ^ 127 then 2 * t else (2 * t - 2 ^ 128) ^^^ 0x87

/-- A little-endian block. -/
def leBlock (n : Nat) : List Nat := (List.range 16).map (fun i => n / 256 ^ i % 256)
def leOfBlock (b : List Nat) : Nat := b.foldr (fun x n => x + 256 * n) 0

/-- The blocks of a data unit, each between two additions of the tweak's number. -/
def xtsBlocks (cipher : List Nat → List Nat) : Nat → List (List Nat) → List Nat
  | _, [] => []
  | t, b :: bs => xorBytes (cipher (xorBytes b (leBlock t))) (leBlock t) ++ xtsBlocks cipher (xtsNext t) bs

/-- AES-256-XTS of a data unit under a double key: the first half ciphers, the second makes the tweak's number. -/
def xtsRun (cipher : List Nat → List Nat → List Nat) (key : List Nat) (tweak : Nat) (bs : List Nat) : List Nat :=
  xtsBlocks (cipher (key.take 32)) (leOfBlock (aesEncrypt (key.drop 32) (leBlock tweak))) (blocks16 bs)

/-- The tweak of a line (R330): its address in units of lines, and the generation of its frame. -/
def State.tweakOf (s : State) (plot pa : Nat) : Nat :=
  pa / 256 % 2 ^ 44 + 2 ^ 44 * (fgetD (s.plot plot).tweak (pa / 4096 * 4096) 0).toNat

/-- Bytes of a line in ciphertext. -/
def State.seal (s : State) (key : List Nat) (plot pa : Nat) (bs : List Byte) : List Byte :=
  (xtsRun aesEncrypt key (s.tweakOf plot pa) (bs.map (·.toNat))).map (fun n => BitVec.ofNat 8 n)

/-- Ciphertext of a line, opened. -/
def State.unseal (s : State) (key : List Nat) (plot pa : Nat) (bs : List Byte) : List Byte :=
  (xtsRun aesDecrypt key (s.tweakOf plot pa) (bs.map (·.toNat))).map (fun n => BitVec.ofNat 8 n)

/-- A line of a plot's memory as it stands outside the logic die (R22). -/
def State.cipherLine (s : State) (plot line : Nat) : List Byte := s.seal (s.plotKey plot) plot line (s.mem.bytes line 256)

end Sys2Proof.Machine
end

