-- ==== Sys2Proof/Machine/Remote.lean ====
section
/-! DEFINITION. Traffic with the outside: what leaves by a gate's port (R354, R407, R410), what the device itself writes to a
plot's memory, and reads of host and CXL memory, which leave as requests and wait for their answers (R24). -/

namespace Sys2Proof.Machine

/-! ### Outbound traffic -/

/-- The requester ID of a virtual function: function 0 is 0, and virtual function n is n + 1 (R403, R404). -/
def State.requester (s : State) (plot vf : Nat) : Nat :=
  ((s.functions.find? (fun f => f.2.plot == plot && f.2.vf == vf)).map (·.1 + 1)).getD 0

/-- A transaction leaves towards a gate's port (R354); a request to the host carries the requester ID of its plot's first
virtual function (R407). -/
def State.outbound (s : State) (gate kind target plot : Nat) (payload : List Byte) (status : Nat := 0) : State :=
  let a : Arrival :=
    { kind := kind, source := if gate = 0 then s.requester plot 0 else 0, target := target, payload := payload, plot := plot
      status := status }
  { s with gates := fmod s.gates gate (fun g => { g with outq := g.outq ++ [a] }) }

/-- Something that a gate admitted has been acted on. -/
def State.drop (s : State) (x : Nat × Arrival) : State := { s with entered := s.entered.erase x }

/-- The first admitted arrival that meets a test. -/
def State.enteredBy (s : State) (p : Nat → Arrival → Bool) : Option (Nat × Arrival) := s.entered.find? (fun x => p x.1 x.2)

/-- The gate by which an access to this address leaves: PCIe for host memory, the CXL port for CXL memory (R20, R167). -/
def State.portOf (s : State) (pa : Nat) : Option Nat :=
  if isHost pa then some 0 else if isCxl pa then some (homeOf s.mem.cxlSize pa - 1279) else none

/-- A write that leaves follows the reads that have left before it: what such a read brings is older. -/
def State.writeBehind (s : State) (gate pa : Nat) (bs : List Byte) : State :=
  { s with asks := s.asks.map (fun q =>
      if q.gate = gate ∧ !q.answered ∧ (linesOf pa bs.length).contains (lineOf q.pa) then { q with since := q.since ++ [(pa, bs)] } else q) }

/-- Bytes that have been written leave where their home is outside: to the host as they are, to CXL memory as the ciphertext of
their lines (R22, R167, R410). -/
def State.leaves (s : State) (plot pa : Nat) (bs : List Byte) : State :=
  match s.portOf pa with
  | some 0 => (s.writeBehind 0 pa bs).outbound 0 0 pa plot bs
  | some g => (linesOf pa bs.length).foldl (fun s' l => s'.outbound g 0 l plot (s'.cipherLine plot l)) (s.writeBehind g pa bs)
  | none => s

/-- The device writes bytes of its own to a plot's memory: a ring entry, a record, a spilled mask-stack entry. -/
def State.put (s : State) (plot pa : Nat) (bs : List Byte) : State := (s.withMem (s.mem.write pa bs)).leaves plot pa bs

/-! ### Reads that the outside answers -/

/-- The answer to a read brings what the bytes at an address held when the host or the device answered, under what has been
written there since the read left. -/
def State.brought (s : State) (pa : Nat) (bs : List Byte) (since : List (Nat × List Byte)) : State :=
  let m := since.foldl (fun m w => m.write w.1 w.2) (s.mem.write pa bs)
  if m.bytes pa bs.length = s.mem.bytes pa bs.length then s else s.withMem m

/-- The corresponding plot of a pair (R365). -/
def State.otherHalf (s : State) (plot : Nat) : Option Nat := (s.plot plot).pair.map (·.1)

/-- Mark the first read of some that has not been answered. In the other half of a pair the same read of its copy is answered with
it, or in advance where it has not been made (R365). -/
def answerIn (qs : List Ask) (hit : Ask → Bool) : Option (List Ask) :=
  match qs with
  | [] => none
  | q :: rest => if hit q && !q.answered then some ({ q with answered := true } :: rest) else (answerIn rest hit).map (q :: ·)

/-- The reads of an address that leave by a gate. A CXL read is of a whole line. -/
def Ask.at (q : Ask) (gate pa : Nat) : Bool := q.gate == gate && (if gate = 0 then q.pa == pa else lineOf q.pa == lineOf pa)

/-- An answer for a copy: its read of an address by a gate, or the one that it has still to make. -/
def State.answerCopy (s : State) (gate plot pa : Nat) : State :=
  let early := s.asks ++ [{ who := .early, gate := gate, plot := plot, pa := pa, copy := true, answered := true }]
  { s with asks := (answerIn s.asks (fun q => q.at gate pa && q.plot == plot && q.copy)).getD early }

/-- The first read of a plot, at an address by a gate, is answered. -/
def State.answer (s : State) (gate plot pa : Nat) : State :=
  { s with asks := (answerIn s.asks (fun q => q.at gate pa && q.plot == plot && !q.copy)).getD s.asks }

/-- The read that a completion or response answers: of its requester, the first that waits for this address. -/
def State.answersFor (s : State) (gate : Nat) (a : Arrival) : Option Ask :=
  s.asks.find? (fun q => q.at gate a.target && !q.answered && !q.copy && (gate != 0 || s.requester q.plot 0 == a.source % 2 ^ 16))

/-- The copy of a pair takes an answer that has come for it in advance. -/
def State.earlyFor (s : State) (gate plot pa : Nat) : Option Ask :=
  s.asks.find? (fun q => q.who == .early && q.plot == plot && q.at gate pa)

/-- How far a read of an address has come: its home is in the package, or its answer has come; its request leaves now; or its
answer is still to come. -/
inductive Asking where
  | ready (s : State)
  | leaves (s : State)
  | waits

/-- A read of host or CXL memory sends its request, and then waits for the answer. The copy of a paired launch sends none: its
half takes the answer that the primary gets (R365). -/
def State.asking (s : State) (who : Reader) (plot : Nat) (copy : Bool) (pa : Nat) : Asking :=
  match s.portOf pa with
  | none => .ready s
  | some g =>
    match s.asks.find? (fun q => q.at g pa && (q.who == who || (copy && q.who == .early && q.plot == plot))) with
    | some q => if q.answered then .ready { s with asks := s.asks.erase q } else .waits
    | none =>
      let s1 : State := { s with asks := s.asks ++ [{ who := who, gate := g, plot := plot, pa := pa, copy := copy }] }
      .leaves (if copy then s1 else s1.outbound g 1 (if g = 0 then pa else lineOf pa) plot [])

/-- The answer that a read has waited for is taken. -/
def State.taken (s : State) (who : Reader) (plot : Nat) (copy : Bool) (pa : Nat) : State :=
  match s.asking who plot copy pa with
  | .ready s1 => s1
  | .leaves _ => s
  | .waits => s

/-- Go on with a read once it may be made. -/
def State.fromOutside (s : State) (who : Reader) (plot : Nat) (copy : Bool) (pa : Nat) (go : State → Option State) : Option State :=
  match s.asking who plot copy pa with
  | .ready s1 => go s1
  | .leaves s1 => some s1
  | .waits => none

end Sys2Proof.Machine
end

