-- ==== Sys2Proof/Machine/Ops.lean ====
section
/-! DEFINITION. The named operations over the state: agents, registers, the launch a block belongs to, translation on
behalf of an agent, interrupts, triggers, and taking a trap and returning from one (R285–R291, R311). -/

namespace Sys2Proof.Machine

/-- A bulk read's request on a core. -/
def Core.req? (c : Core) (id : Nat) : Option HreadReq := c.hreads.find? (fun r => r.id == id)

/-- The group whose registers of Table 4.4 and counters an agent reads: a sprout reads those of the issuing group. -/
def State.countKey (s : State) (key : Nat) : Nat :=
  if isSproutKey key then groupKey (coreOfKey key) (((s.core (coreOfKey key)).req? (s.thread key).req).elim 0 (·.group)) else key

/-- GROUP.ID as an agent reads it (Table 4.4); 0 on a system core. -/
def State.groupNo (s : State) (key : Nat) : Nat := if isSysKey key then 0 else ctxOfKey (s.countKey key)

/-- The thread that runs. -/
def State.th (s : State) : Thread := s.thread s.cur

/-- A scalar register; none is hardwired (R48). -/
def Thread.sreg (t : Thread) (r : SReg) : Word := fgetD t.sregs r.val 0
def Thread.setSreg (t : Thread) (r : SReg) (v : Word) : Thread := { t with sregs := fset t.sregs r.val v }
def Thread.pred (t : Thread) (p : Nat) : BitVec 64 := fgetD t.preds p 0
def Thread.setPred (t : Thread) (p : Nat) (v : BitVec 64) : Thread := { t with preds := fset t.preds p v }
def Thread.bt (t : Thread) (b : Nat) : Translation := fgetD t.bts b {}

/-- FLAGS (Table 4.4): bit k is set while an operation that set fk is outstanding (R92). -/
def Thread.flags (t : Thread) : BitVec 12 :=
  t.longOps.foldl (fun f o => match o.flag with | some k => f ||| BitVec.ofNat 12 (2 ^ k.val) | none => f) 0

/-! ### Launch records (Table 13.1) -/

/-- The record as one number. -/
def recNum (r : List Word) : Nat :=
  match r with
  | [] => 0
  | w :: ws => w.toNat + 2 ^ 64 * recNum ws

/-- A field of the record: n bits from bit lo. -/
def recField (r : List Word) (lo n : Nat) : Nat := recNum r / 2 ^ lo % 2 ^ n

def Launch.entry (l : Launch) : Nat := recField l.record 0 64
def Launch.laneBase (l : Launch) : Nat := recField l.record 64 64
def Launch.arg (l : Launch) : Nat := recField l.record 128 64
def Launch.spill (l : Launch) : Nat := recField l.record 192 64
def Launch.logW (l : Launch) : Nat := recField l.record 256 3
def Launch.logH (l : Launch) : Nat := recField l.record 260 3
def Launch.w (l : Launch) : Nat := 2 ^ l.logW
def Launch.h (l : Launch) : Nat := 2 ^ l.logH
def Launch.groups (l : Launch) : Nat := recField l.record 264 5
def Launch.rows (l : Launch) : Nat := recField l.record 272 8
def Launch.tiles (l : Launch) : Nat := recField l.record 280 5
def Launch.scratch (l : Launch) : Nat := recField l.record 288 21
def Launch.prio (l : Launch) : Nat := recField l.record 309 3
def Launch.det (l : Launch) : Bool := recField l.record 312 1 == 1
def Launch.trapEn (l : Launch) : Bool := recField l.record 313 1 == 1
def Launch.pairedFlag (l : Launch) : Bool := recField l.record 314 1 == 1
def Launch.phase (l : Launch) : Nat := recField l.record 320 32
def Launch.handlerOff (l : Launch) : Int := (BitVec.ofNat 32 (recField l.record 352 32)).toInt
def Launch.maxLat (l : Launch) : Nat := recField l.record 384 32
def Launch.compVal (l : Launch) : Nat := recField l.record 448 56
def Launch.compKind (l : Launch) : Nat := recField l.record 509 3
/-- One launch of a plot: its sequence number, and whether it is the copy of a pair's other half (R365). -/
def Launch.same (a b : Launch) : Bool := a.seq == b.seq && a.copy == b.copy
/-- Rows from one group's first row to the next (R276). -/
def Launch.rowStride (l : Launch) : Nat := if l.trapEn then l.rows + 4 else l.rows
def Launch.handlerPc (l : Launch) : BitVec 56 := BitVec.ofInt 56 ((l.entry : Int) + l.handlerOff)

/-- The block of an agent on a compute core. -/
def State.blockOf (s : State) (key : Nat) : Option Block := (s.core (coreOfKey key)).block
def State.launchOf (s : State) (key : Nat) : Launch :=
  match s.blockOf key with
  | some b => b.launch
  | none => {}
def State.modBlock (s : State) (c : Nat) (f : Block → Block) : State :=
  s.modCore c (fun x => { x with block := x.block.map f })

/-- Change a block, wherever it stands: on a core, halted in place behind another, or recalled (R277, R327, R329). -/
def Parked.onBlock (q : Parked) (id : Nat) (f : Block → Block) : Parked :=
  if q.block.id = id then { q with block := f q.block } else q

def Core.onBlock (c : Core) (id : Nat) (f : Block → Block) : Core :=
  { c with block := c.block.map (fun b => if b.id = id then f b else b), parked := c.parked.map (·.onBlock id f) }

def State.modBlockId (s : State) (id : Nat) (f : Block → Block) : State :=
  { s with
    cores := s.cores.map (fun c => (c.1, c.2.onBlock id f))
    plots := s.plots.map (fun p => (p.1, { p.2 with recalled := p.2.recalled.map (·.onBlock id f) })) }

/-- Change a thread of a block, wherever the block stands. -/
def Parked.onThread (q : Parked) (id key : Nat) (f : Thread → Thread) : Parked :=
  if q.block.id = id then { q with threads := fmod q.threads key f } else q

def State.modThreadOf (s : State) (id key : Nat) (f : Thread → Thread) : State :=
  if (s.core (coreOfKey key)).block.elim false (fun b => b.id == id) then s.modThread key f
  else
    { s with
      cores := s.cores.map (fun c => (c.1, { c.2 with parked := c.2.parked.map (·.onThread id key f) }))
      plots := s.plots.map (fun p => (p.1, { p.2 with recalled := p.2.recalled.map (·.onThread id key f) })) }

/-- Blocks that stand on no core: halted in place behind another, or recalled. -/
def State.offCore (s : State) : List Parked := s.cores.flatMap (·.2.parked) ++ s.plots.flatMap (·.2.recalled)

/-- A thread of a block, wherever the block stands. -/
def State.threadOf (s : State) (id key : Nat) : Option Thread :=
  if (s.core (coreOfKey key)).block.elim false (fun b => b.id == id) then fget? s.threads key
  else (s.offCore.find? (fun q => q.block.id == id)).bind (fun q => fget? q.threads key)

/-- A block, wherever it stands. -/
def State.blockById (s : State) (id : Nat) : Option Block :=
  (s.cores.flatMap (·.2.block.toList) ++ s.offCore.map (·.block)).find? (fun b => b.id == id)

/-- The block of an agent, by number; 0 for a system core. -/
def State.blockIdOf (s : State) (key : Nat) : Nat := (s.core (coreOfKey key)).block.elim 0 (·.id)

/-- The block area of a block (R270). -/
def Block.area (b : Block) : Nat := b.launch.spill + 0x100000 * b.blockId

/-- The plot an agent belongs to. -/
def State.plotOf (s : State) (key : Nat) : Nat := (s.thread key).plot

/-- The address space of an agent: its launch's virtual function, or the system core's own space 64. R21 gives a system core in
user mode no space of its own: the model uses space 64 in both modes, so that what is mapped there is reachable in both
(DESIGN CHOICE, log entry 108). -/
def State.spaceOf (s : State) (key : Nat) : Nat := if isSysKey key then 64 else (s.launchOf key).vf

/-- A system core in privileged mode (R310). -/
def Thread.privileged (t : Thread) : Bool := t.sys.smode.toNat % 2 == 1

/-- The party an agent acts as (R180, R181). -/
def State.partyOf (s : State) (key : Nat) : Party :=
  if isSysKey key then
    { slot := 0x7FE, sysCore := true, unchecked := (s.thread key).privileged, die := (s.thread key).core / 6 }
  else
    { slot := (s.blockOf key).elim 0x7FF (·.slot), cluster := clusterOf (coreOfKey key), die := dieOf (coreOfKey key) }

/-! ### Vector rows (R17, R276, R219) -/

/-- The row of the register file that vk names for group g of a launch, where R17 admits the name. -/
def rowOfReg (l : Launch) (g k : Nat) : Option Nat :=
  if k < l.rows then some (g * l.rowStride + k)
  else if l.trapEn ∧ 124 ≤ k ∧ k < 128 then some (g * l.rowStride + l.rows + (k - 124))
  else none

/-- Whether an agent's clause may name vk. -/
def State.rowOk (s : State) (key k : Nat) : Bool :=
  if isSproutKey key then decide (k < 16) else (rowOfReg (s.launchOf key) (ctxOfKey key) k).isSome

/-- Row vk of an agent. -/
def State.row (s : State) (key k : Nat) : Row :=
  if isSproutKey key then fgetD (s.thread key).ownRows k []
  else
    match rowOfReg (s.launchOf key) (ctxOfKey key) k with
    | some r => fgetD (s.core (coreOfKey key)).rows r []
    | none => []

def State.setRow (s : State) (key k : Nat) (r : Row) : State :=
  if isSproutKey key then s.modThread key (fun t => { t with ownRows := fset t.ownRows k r })
  else
    match rowOfReg (s.launchOf key) (ctxOfKey key) k with
    | some i => s.modCore (coreOfKey key) (fun c => { c with rows := fset c.rows i r })
    | none => s

/-- One lane of a row. -/
def Row.at (r : Row) (i : Nat) : Elem := r.getD i 0

/-- A row with the lanes of a mask replaced. -/
def Row.blend (old : Row) (mask : BitVec 64) (f : Nat → Elem) : Row :=
  (List.range 64).map (fun i => if mask.getLsbD i then f i else old.at i)

/-! ### Free values -/

/-- How many free values have been drawn from the counter in use, and the one n places on (the model's own account). -/
def State.draws (s : State) : Nat := fgetD s.fresh s.drawer 0
def State.freeAt (s : State) (n : Nat) : Word := Config.freeValue s.drawer (s.draws + n)
def State.drawn (s : State) (n : Nat) : State := { s with fresh := fset s.fresh s.drawer (s.draws + n) }

/-- Bytes that the spec does not fix, one free value each. -/
def State.freeBytes (s : State) (n : Nat) : State × List Byte := (s.drawn n, (List.range n).map (fun i => (s.freeAt i).setWidth 8))

/-! ### Counters (Table 17.5) -/

def satAdd63 (a n : Nat) : Nat := min (a + n) 0x7FFFFFFFFFFFFFFF
def bumpMap (m : FMap Nat) (k n : Nat) : FMap Nat := fset m k (satAdd63 (fgetD m k 0) n)
def State.countThread (s : State) (key k n : Nat) : State :=
  s.modThread key (fun t => { t with counters := bumpMap t.counters k n })
def State.countBlock (s : State) (c k n : Nat) : State :=
  s.modBlock c (fun b => { b with counters := bumpMap b.counters k n })
def State.countPlot (s : State) (p k n : Nat) : State :=
  s.modPlot p (fun x => { x with counters := bumpMap x.counters k n })

/-! ### Interrupts of system cores (R311) and triggers (R370) -/

/-- An asynchronous cause occurs: its bit of IPEND is set and its value merged. -/
def State.raiseAsync (s : State) (plot cause : Nat) (val : Word) : State :=
  s.modThread (sysKey plot) (fun t =>
    let i := cause - 0x30
    let set := t.sys.ipend.getLsbD i
    let old := fgetD t.sys.vals i 0
    let v := if set ∧ (cause = 0x32 ∨ cause = 0x37) then old ||| val else val
    { t with sys := { t.sys with ipend := t.sys.ipend ||| BitVec.ofNat 32 (2 ^ i), vals := fset t.sys.vals i v } })

/-- The manager's log: a code and an argument. -/
def State.managerLog (s : State) (code arg : Nat) : State :=
  { s with mgr := { s.mgr with logCount := s.mgr.logCount + 1, log := s.mgr.log ++ [(code, arg)] } }

/-- The die of a line's home (Table 1.1): that of its channel, or of the CXL port of its window part; of host memory that of the
PCIe port. -/
def lineDie (cxlSize : FMap Nat) (pa : Nat) : Nat :=
  if isDram pa then dieOf (pa / 2 ^ 28) else if isCxl pa then [1, 2, 5].getD (homeOf cxlSize pa - 1280) 5 else 0

/-- An error on a die: its manager core logs it, and reports to the lead manager (R12). -/
def State.errorLog (s : State) (die arg : Nat) : State :=
  ({ s with mgr := { s.mgr with dieLogs := fset s.mgr.dieLogs die (fgetD s.mgr.dieLogs die [] ++ [(9, arg)]) } } : State).managerLog 9 arg

/-- Fields of a trigger register (Table 17.6). -/
def trigField (w : Word) (lo n : Nat) : Nat := w.toNat / 2 ^ lo % 2 ^ n

/-- Fire trigger n of a plot: the fired bit, and the one-shot disarm. Its action is due in this cycle, with those of the other
triggers that fire in it (R370). -/
def State.fireTrig (s : State) (plot n : Nat) : State :=
  s.modPlot plot (fun p =>
    let w := fgetD p.trig n 0
    let w1 := (w ||| 0x200) &&& (if w.getLsbD 8 then BitVec.ofNat 64 (2 ^ 64 - 16) else BitVec.allOnes 64)
    { p with trig := fset p.trig n w1, fired := fset p.fired n w })

/-- The action of a trigger that has fired with a register value. -/
def Plot.act (p : Plot) (cycle : Nat) (w : Word) : Plot :=
  match trigField w 4 4 with
  | 1 => if p.trcState = 2 then p else { p with trcState := 1 }
  | 2 => { p with trcState := 0 }
  | 3 => { p with trcState := 2 }
  | 4 => { p with stopAt := BitVec.ofNat 64 (cycle + trigField w 12 20) }
  | 5 => { p with stopNow := true }
  | _ => p

/-- The triggers that have fired in a cycle act, in ascending number (R370). -/
def Plot.actFired (p : Plot) (cycle : Nat) : Plot := { p.fired.foldl (fun q n => q.act cycle n.2) p with fired := [] }

/-- Fire, in ascending number, every trigger of the plot whose register satisfies a test. -/
def State.fireWhere (s : State) (plot : Nat) (test : Nat → Word → Bool) : State :=
  (List.range 16).foldl (fun s' n => if test n (fgetD (s.plot plot).trig n 0) then s'.fireTrig plot n else s') s

/-- Triggers of kinds 3 and 4 at an interrupt entry. -/
def State.fireEntry (s : State) (plot : Nat) (cause : BitVec 8) (val : Word) : State :=
  s.fireWhere plot (fun _ w =>
    (trigField w 0 4 == 3 && cause == 0x20 && trigField w 32 32 == val.toNat % 2 ^ 32)
      || (trigField w 0 4 == 4 && trigField w 32 8 == cause.toNat))

/-- Interrupt entry of a system core (R311): where execution is to resume, the cause and its value. -/
def State.enterInterrupt (s : State) (key : Nat) (resume : BitVec 56) (cause : BitVec 8) (val : Word) : State :=
  let s1 := s.modThread key (fun t =>
    { t with
      pc := t.sys.ivec
      sys := { t.sys with ipc := resume, imode := t.sys.smode, smode := 1, icause := cause, ival := val } })
  s1.fireEntry (s1.plotOf key) cause val

/-- The page-fault path has told the operating system of a walk that read an entry not present: the next access walks
again (R72, R172). -/
def Plot.forgetMissed (p : Plot) (keep : Walk → Bool) : Plot := { p with walks := p.walks.filter (fun w => !w.missed || keep w) }

def State.forgetMissed (s : State) (plot : Nat) (keep : Walk → Bool) : State :=
  if (s.plot plot).walks.any (fun w => w.missed && !keep w) then s.modPlot plot (fun p => p.forgetMissed keep) else s

/-- A synchronous cause of a system core: the entry, or the stop of R311 in privileged mode with interrupts
disabled. -/
def State.syncInterrupt (s : State) (key : Nat) (resume : BitVec 56) (cause : BitVec 8) (val : Word) : State :=
  let s1 := s.forgetMissed (s.plotOf key) (fun w => w.agent != key)
  if (s.thread key).sys.smode = 1 then
    (s1.modThread key (fun t => { t with status := .stopped })).managerLog 1 key
  else s1.enterInterrupt key resume cause val

/-! ### Rings and physical areas of a plot (R312, R318, R334) -/

/-- Whether a ring has room for one more entry. -/
def Ring.room (r : Ring) : Bool := decide (r.cap ≠ 0) && decide ((r.head - r.tail).toNat < r.cap.toNat)

/-- The physical address of the entry at the head. -/
def Ring.at (r : Ring) (size : Nat) : Nat := r.base.toNat + size * (r.head.toNat % r.cap.toNat)

/-- The bytes of a mask-stack entry (Table 4.10). -/
def maskKindCode : MaskKind → Nat
  | .ifK => 1
  | .elseK => 2
  | .loopK => 3

def maskEntryNum (e : MaskEntry) : Nat :=
  e.outer.toNat * 2 ^ 192 + e.pending.toNat * 2 ^ 128 + e.target.toNat * 2 ^ 72 + maskKindCode e.kind

/-- The entry that 32 bytes hold; a kind of 0 is never stored. -/
def maskEntryOf (n : Nat) : MaskEntry :=
  { kind := if n % 4 = 1 then .ifK else if n % 4 = 2 then .elseK else .loopK
    outer := BitVec.ofNat 64 (n / 2 ^ 192), pending := BitVec.ofNat 64 (n / 2 ^ 128)
    target := BitVec.ofNat 56 (n / 2 ^ 72) }

/-- The trap record (Table 13.6), 2048 bytes; the reserved word at 0x38 takes the fault log's extra fields (R334). -/
def trapRecord (t : Thread) (top : List MaskEntry) (pt : PendingTrap) (g extra : Nat) : List Byte :=
  let laneFault := pt.cause.getLsbD 7
  let head := leBytes 1 pt.cause.toNat ++ leBytes 1 ((if laneFault then 1 else 0) + (if pt.sproutFault then 2 else 0))
    ++ leBytes 1 g ++ leBytes 1 t.fptrap.toNat ++ leBytes 4 pt.code.toNat ++ leBytes 8 pt.pc.toNat
    ++ leBytes 8 pt.clause.toNat ++ leBytes 1 pt.index.toNat ++ leBytes 1 pt.rest.toNat ++ leBytes 2 (t.mstack.length + t.mspilled)
    ++ leBytes 4 0 ++ leBytes 8 pt.lanes.toNat ++ leBytes 8 pt.clauseMask.toNat ++ leBytes 8 t.mask.toNat
    ++ leBytes 8 extra ++ leBytes 8 0 ++ leBytes 8 (if laneFault then (pt.clauseMask &&& ~~~pt.lanes).toNat else 0)
    ++ leBytes 0x30 0
  let stack := (List.range 4).flatMap (fun i => leBytes 32 ((top[i]?).elim 0 maskEntryNum))
  let lanes := (List.range 64).flatMap (fun i =>
    match fget? pt.laneInfo i with
    | some (a, c) => leBytes 8 a ++ leBytes 8 c.toNat
    | none => leBytes 16 0)
  let sprouts := leBytes 4 (min pt.sprouts.length 16)
    ++ ((pt.sprouts.take 16).flatMap (fun x => leBytes 4 x.1 ++ leBytes 4 x.2.toNat))
  let body := if pt.sproutFault then sprouts ++ leBytes (0x400 - sprouts.length) 0 else lanes
  head ++ stack ++ body ++ leBytes 0x300 0

/-! ### Refresh (R348) -/

/-- The start of a channel's refresh that is under way or was the last. -/
def refreshStart (channel cycle : Nat) : Nat := 341 * (channel % 16) + (cycle - 341 * (channel % 16)) / 5460 * 5460

/-- A channel refreshes at a cycle: from 5460 k + 341 (c mod 16), k ≥ 1, for 490 cycles. -/
def inRefresh (channel cycle : Nat) : Bool :=
  let t := refreshStart channel cycle
  decide (5460 ≤ t) && decide (cycle < t + 490)

/-- A write to a channel in refresh waits. -/
def State.refreshing (s : State) (pa : Nat) : Bool :=
  isDram pa && (inRefresh (pa / 2 ^ 28) s.cycle || decide (s.cycle < fgetD s.refresh (pa / 2 ^ 28) 0))

/-- A write waits for its channel: the channel refreshes, or writers that reached it earlier have still to proceed, one in a
cycle. -/
def State.blocks (s : State) (w : Writer) (pa : Nat) : Bool :=
  s.refreshing pa || (isDram pa &&
    match fgetD s.waiters (pa / 2 ^ 28) [] with
    | [] => false
    | v :: _ => decide (v ≠ w) || decide (s.cycle < fgetD s.proceed (pa / 2 ^ 28) 0))

/-- A writer has a place in front of a channel. -/
def State.hasPlace (s : State) (w : Writer) : Bool := s.waiters.any (fun q => q.2.contains w)

/-- A writer gives up the places it has; behind it a channel's next writer proceeds in a later cycle. -/
def State.leave (s : State) (w : Writer) : State :=
  if s.hasPlace w then
    { s with
      proceed := (s.waiters.filter (fun q => q.2.contains w)).foldl (fun m q => fset m q.1 (s.cycle + 1)) s.proceed
      waiters := (s.waiters.map (fun q => (q.1, q.2.filter (· ≠ w)))).filter (fun q => !q.2.isEmpty) }
  else s

/-- A writer takes its place behind those that wait for a channel. -/
def State.join (s : State) (w : Writer) (pa : Nat) : Option State :=
  let c := pa / 2 ^ 28
  if (fgetD s.waiters c []).contains w then none
  else
    let s1 := s.leave w
    some { s1 with waiters := fset s1.waiters c (fgetD s1.waiters c [] ++ [w]) }

/-- A write proceeds, or waits in its place. -/
def State.through (s : State) (w : Writer) (pa : Nat) (go : State → Option State) : Option State :=
  if s.blocks w pa then s.join w pa else go (s.leave w)

/-- Writes of one step proceed together, or wait for the first channel that takes none. -/
def State.throughAll (s : State) (w : Writer) (pas : List Nat) (go : State → Option State) : Option State :=
  match pas.find? (s.blocks w) with
  | some pa => s.join w pa
  | none => go (s.leave w)

/-- Whether a write proceeds now, with its place given up; one that does not takes its place. -/
def State.admitWrite (s : State) (w : Writer) (pa : Nat) : State × Bool :=
  if s.blocks w pa then ((s.join w pa).getD s, false) else (s.leave w, true)

/-- A write of the device's own is made, with what follows it. -/
def State.pay (s : State) (plot : Nat) (o : Owed) : State :=
  let s1 := s.put plot o.pa o.bytes
  match o.kind with
  | .faultLog =>
    let head := (s.plot plot).flog.head
    (s1.modPlot plot (fun p => { p with flog := { p.flog with head := head + 1 } })).raiseAsync plot 0x35 (head.setWidth 64)
  | .publication n => (s1.modPlot plot (fun p => { p with pubRecords := p.pubRecords + 1 })).raiseAsync plot 0x36 (BitVec.ofNat 64 n)
  | .record => s1

/-- Make a write of the device's own, behind those that it still owes the plot. -/
def State.owe (s : State) (plot : Nat) (kind : OwedKind) (pa : Nat) (bytes : List Byte) : State :=
  let p := s.plot plot
  let o : Owed := { n := p.nextOwed, kind := kind, pa := pa, bytes := bytes }
  let w : Writer := .owed plot p.nextOwed
  if p.owed.isEmpty && !s.blocks w pa then s.pay plot o
  else
    let s1 := (s.join w pa).getD s
    s1.modPlot plot (fun p => { p with owed := p.owed ++ [o], nextOwed := p.nextOwed + 1 })

/-- The oldest write that the device owes a plot is made when its channel takes it. -/
def State.payNext (s : State) (plot : Nat) : Option State :=
  match (s.plot plot).owed with
  | [] => none
  | o :: rest =>
    s.through (.owed plot o.n) o.pa (fun s => some ((s.modPlot plot (fun p => { p with owed := rest })).pay plot o))

/-- How many records of the fault log, and of publications, are still to be written. -/
def Plot.owedFaults (p : Plot) : Nat := p.owed.countP (fun o => decide (o.kind = .faultLog))
def Plot.owedRecords (p : Plot) : Nat :=
  p.owed.countP (fun o => match o.kind with | .publication _ => true | .faultLog => false | .record => false)

/-- Write a record into the plot's fault log (Table 15.2, R334). -/
def State.faultLog (s : State) (plot : Nat) (bytes : List Byte) : State :=
  let p := s.plot plot
  let r : Ring := { p.flog with head := p.flog.head + BitVec.ofNat 32 p.owedFaults }
  if r.room then s.owe plot .faultLog (r.at 2048) bytes
  else s.modPlot plot (fun p => { p with flog := { p.flog with lost := p.flog.lost + 1 } })

/-- Send a fault message (R318) when the ring has room and its channel takes a write; answers the fault id. -/
def State.sendFault (s : State) (plot : Nat) (va kind vf slot ctx : Nat) : State × Option (BitVec 32) :=
  let p := s.plot plot
  let r := if p.fring.room then s.admitWrite (.fault plot) (p.fring.at 32) else (s, false)
  if r.2 then
    let id := p.nextFault
    let bytes := leBytes 8 va ++ leBytes 4 id.toNat ++ leBytes 1 kind ++ leBytes 1 vf ++ leBytes 2 slot
      ++ leBytes 1 ctx ++ leBytes 7 0 ++ leBytes 8 s.cycle
    let s2 := (r.1.put plot (p.fring.at 32) bytes).modPlot plot (fun p =>
      { p with
        fring := { p.fring with head := p.fring.head + 1 }
        nextFault := p.nextFault + 1
        outstanding := p.outstanding ++ [id]
        vfs := fmod p.vfs vf (fun v => { v with faults := satAdd63 v.faults 1 }) })
    (s2.raiseAsync plot 0x30 (id.setWidth 64), some id)
  else (r.1, none)

/-! ### Translation for an agent (R21, R314, R315) -/

/-- The TLB an agent's accesses go through: a compute core's own; a system core's is kept at its key. -/
def tlbPlace (key : Nat) : Nat := if isSysKey key then key else coreOfKey key

/-- The walk cache of a die for a plot (R315). -/
def walkCache (die plot : Nat) : Nat := 44000 + 64 * die + plot

/-- The TLB of a plot's ports: the host's, the network's and the storage engine's (R315, R405). -/
def portTlb (plot : Nat) : Nat := 46000 + plot

/-- The translations an agent's accesses look at, nearest first: its own TLB, its cluster's, and its die's walk cache. -/
def State.tlbPath (s : State) (key : Nat) : List Nat :=
  if isSysKey key then [key, walkCache ((s.thread key).core / 6) (s.plotOf key)]
  else [coreOfKey key, 43000 + clusterOf (coreOfKey key), walkCache (dieOf (coreOfKey key)) (s.plotOf key)]

/-- A walk of an address space reads tables in host or CXL memory. -/
def State.walkAway (s : State) (plot space va : Nat) : Bool := let p := s.plot plot; walkRemote s.mem p space va 4 (p.rootOf space)

/-- A walk on present values, all its words in one step. One that reads tables in host or CXL memory goes word by word, for each
word is a read that leaves (R24, R407). -/
def State.walkNow (s : State) (plot space va : Nat) : WalkResult :=
  let p := s.plot plot
  if va < 2 ^ 56 then (if s.walkAway plot space va then .moving else walkFrom s.mem p space va 4 (p.rootOf space)) else .absent

/-- A frame that lies in another plot's memory alone: its home answers as for a page not present (R168). -/
def State.foreign (s : State) (plot pa : Nat) : Bool :=
  !inRanges (s.plot plot).ranges pa 1 && s.plots.any (fun p => decide (p.1 ≠ plot) && inRanges p.2.ranges pa 1)

/-- Whether an invalidation covers some byte of a run in an address space. -/
def Invalidation.covers (v : Invalidation) (space a n : Nat) : Bool :=
  (match v.space with | none => true | some k => k == space)
    && (decide (v.span = 0) || (decide (a < v.base + v.span) && decide (v.base < a + n)))

/-- An invalidation drops a TLB entry. -/
def TlbEntry.hit (e : TlbEntry) (v : Invalidation) : Bool := v.covers e.space (e.vpage * 2 ^ pageBits e.size) (2 ^ pageBits e.size)

/-- An entry of the TLB k on a path is passed over: an invalidation that drops it has been applied at a TLB nearer on the path
and has still to reach k (R316, R336). -/
def State.passedOver (s : State) (path : List Nat) (plot k : Nat) (e : TlbEntry) : Bool :=
  (s.plot plot).invs.any (fun v =>
    v.cores.contains k && (path.takeWhile (· ≠ k)).any (fun j => !v.cores.contains j) && e.hit v)

/-- What the TLB k on a path gives for an address. -/
def State.tlbAt (s : State) (path : List Nat) (plot space va k : Nat) : Option Xlat :=
  match (s.plot plot).invs with
  | [] => tlbFind (s.core k).tlb space va
  | _ => tlbFind ((s.core k).tlb.filter (fun e => !s.passedOver path plot k e)) space va

/-- The translation that the TLBs on a path hold. -/
def State.tlbHit (s : State) (path : List Nat) (plot space va : Nat) : Option Xlat := path.findSome? (s.tlbAt path plot space va)

/-- Translate through the TLBs on a path and, on a miss, by a walk. -/
def State.xlatBy (s : State) (path : List Nat) (plot space va : Nat) (walk : WalkResult) : WalkResult :=
  match s.tlbHit path plot space va with
  | some x => if s.foreign plot x.pa then .absent else .ok x
  | none => walk

/-- What the walk of a page gives an agent, or a plot's units, which walk under the number of their TLB: what a walk of its own on
the way has read so far, or a walk on present values (R161, R172). -/
def State.walkBy (s : State) (agent plot space va : Nat) : WalkResult :=
  match (s.plot plot).walks.find? (fun w => w.agent == agent && w.space == space && w.va / 4096 == va / 4096) with
  | some w => if w.missed then .absent else .moving
  | none => s.walkNow plot space va

def State.walkFor (s : State) (key va : Nat) : WalkResult := s.walkBy key (s.plotOf key) (s.spaceOf key) va

/-- Hold the translation in the TLB; not-present results are never held (R172). -/
def State.fillTlb (s : State) (place space va : Nat) (r : WalkResult) : State :=
  match r with
  | .ok x =>
    match tlbFind (s.core place).tlb space va with
    | some _ => s
    | none => s.modCore place (fun c => { c with tlb := c.tlb ++ [tlbEntryOf space va x] })
  | .absent => s
  | .moving => s

def State.xlat (s : State) (key va : Nat) : WalkResult := s.xlatBy (s.tlbPath key) (s.plotOf key) (s.spaceOf key) va (s.walkFor key va)
/-- The TLBs nearer than the one that gave the translation take it; after a walk, every one on the path. -/
def State.fillPath (s : State) (path : List Nat) (plot space va : Nat) (r : WalkResult) : State :=
  (path.takeWhile (fun k => (s.tlbAt path plot space va k).isNone)).foldl (fun s' k => s'.fillTlb k space va r) s

/-! ### Lines in the caches (R23, R109), and what Table 17.5 counts of them

The caches of the model evict nothing of their own accord, so a line hits once it has been touched; the counts are kept at the
core that made the access, by block and by plot. -/

/-- Keys of a block's and of a plot's counts. -/
def statB (id k : Nat) : Nat := (64 * id + k) * 2
def statP (plot k : Nat) : Nat := (64 * plot + k) * 2 + 1

def Core.stat (c : Core) (k n : Nat) : Core := { c with stats := bumpMap c.stats k n }

/-- A count of an agent's plot, and one of its block. -/
def State.statPlot (s : State) (key k n : Nat) : State := s.modCore (tlbPlace key) (fun c => c.stat (statP (s.plotOf key) k) n)
def State.statBlock (s : State) (key k n : Nat) : State :=
  if isSysKey key then s else s.modCore (coreOfKey key) (fun c => c.stat (statB (c.block.elim 0 (·.id)) k) n)

/-- What the cores have counted under a key. -/
def State.statSum (s : State) (k : Nat) : Nat := satAdd63 ((s.cores.map (fun c => fgetD c.2.stats k 0)).sum) 0

/-- The die on which an agent runs. -/
def State.dieOfKey (s : State) (key : Nat) : Nat := if isSysKey key then (s.thread key).core / 6 else dieOf (coreOfKey key)

/-- The mark of a line after an access under a hint; evict-last stays. -/
def Core.touch (c : Core) (h : Hint) (line : Nat) : Core :=
  let put (k : Nat) : Core := { c with l1 := fset c.l1 line k }
  match fget? c.l1 line, h with
  | some 2, _ => c
  | some _, .evictFirst => put 1
  | some _, .evictLast => put 2
  | some _, .normal => c
  | some _, .noL1 => c
  | none, .noL1 => c
  | none, .normal => put 0
  | none, .evictFirst => put 1
  | none, .evictLast => put 2

/-- The mark of a line in its home slice, which allocates under every hint; evict-last stays. -/
def sliceMark (old : Option Nat) (h : Hint) : Nat :=
  match old, h with
  | some 2, _ => 2
  | _, .evictFirst => 1
  | _, .evictLast => 2
  | some k, _ => k
  | none, _ => 0

/-- The home of a line is on another die than a core's. -/
def isFar (die line : Nat) : Bool := isDram line && dieOf (line / 2 ^ 28) != die

/-- A core's access leaves the line in its home slice, and in its die's remote-data cache where the home is on another die
(R23, R109). -/
def State.touchSlice (s : State) (die : Nat) (h : Hint) (line : Nat) : State :=
  { s with
    l2 := fset s.l2 line (sliceMark (fget? s.l2 line) h)
    rdc := if isFar die line then fset s.rdc die (insNat (fgetD s.rdc die []) line) else s.rdc }

/-- Counters 0x030 to 0x037: an access that has missed in the L1 looks in the remote-data cache of a far line, in the home
slice, and in the LLC segment, which keeps no line that its slice does not. -/
def State.countSlice (s : State) (key line : Nat) : State :=
  let far := isFar (s.dieOfKey key) line
  let there := (fgetD s.rdc (s.dieOfKey key) []).contains line
  let s1 := if far then s.statPlot key (if there then 0x36 else 0x37) 1 else s
  if far && there then s1
  else if (fget? s.l2 line).isSome then s1.statPlot key 0x30 1
  else
    let s2 := (s1.statPlot key 0x31 1).statPlot key 0x33 1
    if isDram line then s2.statPlot key 0x34 1 else s2

/-- Counters 0x020 and 0x021: a line that an access touches hits or misses in the L1 (Table 17.5). -/
def State.countLine (s : State) (key line : Nat) : State :=
  if (fget? (s.core (tlbPlace key)).l1 line).isSome then s.statBlock key 0x20 1 else (s.statBlock key 0x21 1).countSlice key line

/-- An agent's access through the L1 touches a line. -/
def State.touchLine (s : State) (key : Nat) (h : Hint) (line : Nat) : State :=
  ((s.countLine key line).modCore (tlbPlace key) (fun c => c.touch h line)).touchSlice (s.dieOfKey key) h line

/-- An access that does not look in the L1 touches a line: an engine's, or a write that drains at its home. -/
def State.touchHome (s : State) (key : Nat) (line : Nat) : State := (s.countSlice key line).touchSlice (s.dieOfKey key) .normal line

/-- Counters 0x022 and 0x038: an L1 TLB miss of a block, and a walk of a plot (Table 17.5). -/
def State.countXlat (s : State) (key va : Nat) : State :=
  let hit (k : Nat) : Bool := (s.tlbAt (s.tlbPath key) (s.plotOf key) (s.spaceOf key) va k).isSome
  let s1 := if hit (tlbPlace key) then s else s.statBlock key 0x22 1
  if (s.tlbPath key).any hit then s1 else s1.statPlot key 0x38 1

/-- An agent's access has taken a translation. -/
def State.fill (s : State) (key va : Nat) (r : WalkResult) : State :=
  (s.countXlat key va).fillPath (s.tlbPath key) (s.plotOf key) (s.spaceOf key) va r

/-- Virtual address of spilled mask-stack entry j of a group (R81, R270). -/
def Block.spillVa (b : Block) (g j : Nat) : Nat := b.area + 0x8000 * g + 32 * j

/-- The top four entries of a group's mask stack: those in hardware, then those in its spill region (R80). -/
def State.topEntries (s : State) (key : Nat) : List MaskEntry :=
  let t := s.thread key
  match s.blockOf key with
  | none => t.mstack
  | some b =>
    t.mstack ++ ((List.range (min 4 t.mspilled)).map (fun i =>
      match s.xlat key (b.spillVa (ctxOfKey key) (t.mspilled - 1 - i)) with
      | .ok x => maskEntryOf (s.mem.num x.pa 32)
      | .absent => maskEntryOf 1
      | .moving => maskEntryOf 1))

/-! ### Fetching ahead of a branch (R53) -/

/-- Where an agent stands. -/
def Thread.point (t : Thread) : Point :=
  { pc := t.pc, sregs := t.sregs, bts := t.bts, mask := t.mask, mstack := t.mstack, mspilled := t.mspilled, ftv := t.ftv
    rmode := t.rmode, fpx := t.fpx, fptrap := t.fptrap, fmtBlock := t.fmtBlock, retStack := t.retStack, region := t.region, pend := t.pendS
    mark := t.nextId }

/-- Change every point that an agent may be taken back to: of its loads, its log entries and its unresolved branch. -/
def Thread.mapPoints (t : Thread) (f : Point → Point) : Thread :=
  { t with
    win := t.win.map (fun l => { l with back := l.back.map f })
    log := t.log.map (fun e => { e with back := e.back.map f })
    spec := t.spec.map (fun p => { p with back := f p.back }) }

/-- An instruction past an unresolved branch (R53), by its number. -/
def Thread.isSpec (t : Thread) (n : Nat) : Bool := t.spec.elim false (fun p => decide (p.back.mark ≤ n))

/-- Go back to a point: the scalar state of later instructions and their loads are given up. -/
def Thread.retreat (t : Thread) (p : Point) : Thread :=
  let early (d : LoadDest) (id : Nat) : Bool := match d with
    | .scalar _ _ => decide (id < p.mark)
    | .lane _ _ _ _ => true
  { t with
    pc := p.pc, sregs := p.sregs, bts := p.bts, mask := p.mask, mstack := p.mstack, mspilled := p.mspilled, ftv := p.ftv
    rmode := p.rmode, fpx := p.fpx, fptrap := p.fptrap, fmtBlock := p.fmtBlock, retStack := p.retStack, region := p.region
    hold := false
    win := t.win.filter (fun l => early l.dest l.id)
    returning := t.returning.filter (fun r => p.pend.getLsbD r.1.val)
    pendS := p.pend }

/-- The path past an unresolved branch is discarded in full (R53). -/
def Thread.unspec (t : Thread) : Thread :=
  match t.spec with
  | none => t
  | some p => { t.retreat p.back with spec := none, counters := fset t.counters 0 p.retired }

def State.unspec (s : State) (key : Nat) : State := s.modThread key Thread.unspec

/-! ### Ending groups (R294, R288) -/

/-- Store-queue entries that survive a `gend`: those ahead of the first held one. -/
def sqBeforeHeld : List SqEntry → List SqEntry
  | [] => []
  | e :: es => if e.held then [] else e :: sqBeforeHeld es

/-- End a group as `gend` does: its lane queue and operand log are dropped, entries held on the page-fault path go
with every entry behind them, and the group counts as ended. -/
def State.endGroup (s : State) (key : Nat) : State :=
  let s1 := (s.unspec key).modThread key (fun t =>
    { t with
      status := .ended, queue := [], longOps := [], log := [], win := [], returning := [], aside := [], aband := none
      sq := sqBeforeHeld t.sq, trap := none, wait := .none, hold := false, laneStop := false, region := none
      haltedBy := none, walkHold := none, pendS := 0, lastPc := t.pc })
  s1.modBlock (coreOfKey key) (fun b =>
    { b with gone := insNat b.gone (ctxOfKey key), endedCount := b.endedCount + 1 })

/-- Every group of the block on a core has exited or ended, and its stores, engine and matrix operations and sprouts
are done (R277). -/
def State.blockDone (s : State) (c : Nat) : Bool :=
  let x := s.core c
  match x.block with
  | none => false
  | some b =>
    (List.range b.launch.groups).all (fun g => b.gone.contains g && (s.thread (groupKey c g)).sq.isEmpty)
      && x.eops.isEmpty && x.mops.isEmpty && x.hreads.isEmpty

/-- A block that is done ends: its slot and its core are free, and its launch counts its ended groups. What its groups'
registers held at their end stays until the core's next block. -/
def State.reapBlock (s : State) (c : Nat) : State :=
  match (s.core c).block with
  | none => s
  | some b =>
    if !s.blockDone c then s
    else
      let s1 := s.modCore c (fun x => { x with block := none, bursts := [] })
      s1.modPlot b.launch.plot (fun p =>
        { p with running := p.running.map (fun l => if l.same b.launch then { l with ended := l.ended + b.endedCount } else l) })

/-- Resume every sibling that the entry of group g halted and that has neither ended nor resumed (R291). -/
def State.resumeSiblings (s : State) (core g : Nat) : State :=
  (List.range 16).foldl (fun s' x =>
    let k := groupKey core x
    if (s'.thread k).haltedBy = some g then
      s'.modThread k (fun t => { t with haltedBy := none, status := if t.status = .halted then .running else t.status })
    else s') s

/-- Leave handler mode on a core. -/
def State.leaveHandler (s : State) (core g : Nat) : State :=
  (s.resumeSiblings core g).modBlock core (fun b => { b with handler := none })

/-! ### Taking a trap (R286, R288, R223) -/

/-- Halt the siblings of a trapping group in place (R286 item 1). -/
def State.haltSiblings (s : State) (core g : Nat) : State :=
  (List.range 16).foldl (fun s' x =>
    let k := groupKey core x
    if x ≠ g ∧ (fget? s'.threads k).isSome ∧ (s'.thread k).status = .running then
      s'.modThread k (fun t => { t.unspec with status := .halted, haltedBy := some g })
    else s') s

/-- An acquiring atomic has issued, and what follows its performing has not been waited for (R76). -/
def Thread.acquiring (t : Thread) : Bool := t.hold && decide (t.wait = .acquire ∨ t.wait = .readback ∨ t.wait = .readbackSent ∨ t.wait = .readbackDone)

/-- The registers and mode of a group entering its handler (R286 items 2 and 4–7, R288). The wait that an acquiring atomic asks
of the instructions behind it holds those of the handler too (R76). -/
def Thread.enterHandler (t : Thread) (pt : PendingTrap) (recAddr : Nat) (handler : BitVec 56) : Thread :=
  { t with
    status := .handler, pc := handler, entryPc := pt.pc, entryMask := t.mask
    aside := t.queue, aband := pt.aband, queue := []
    tcause := pt.cause, tpc := pt.pc, tclause := pt.clause, tindex := pt.index, tlanes := pt.lanes
    trecord := BitVec.ofNat 56 recAddr
    sregs := fset (fset (fset (fset t.sregs 60 (pt.cause.setWidth 64)) 61 (pt.pc.setWidth 64)) 62
      (BitVec.ofNat 64 recAddr)) 63 t.mask
    mask := BitVec.allOnes 64, fptrap := 0
    trap := none, wait := if t.acquiring then t.wait else .none, hold := t.acquiring, laneStop := false, region := none
    walkHold := none }

/-- End a trapped group without a handler: the fault log takes the record, and siblings a failed handler had halted
resume (R288). -/
def State.trapEnds (s : State) (key : Nat) (pt : PendingTrap) : State :=
  let core := coreOfKey key
  let g := ctxOfKey key
  let l := s.launchOf key
  let slot := (s.blockOf key).elim 0 (·.slot)
  let s1 := s.faultLog (s.plotOf key) (trapRecord (s.thread key) (s.topEntries key) pt g (l.seq.toNat * 2 ^ 32 + slot))
  let inHandler := (s.thread key).status = .handler
  let s2 := s1.endGroup key
  (if inHandler then s2.leaveHandler core g else s2).reapBlock core

/-- A group of lower number in the block of a group has a trap pending that it can enter (R286). -/
def State.lowerTraps (s : State) (core g : Nat) : Bool :=
  (List.range g).any (fun x =>
    let t := s.thread (groupKey core x)
    t.trap.isSome && !t.frozen && decide (t.status = .running) && t.walkHold.isNone)

/-- A group enters its handler, with its record at a translated address (R286). -/
def State.enterTrap (s : State) (key : Nat) (pt : PendingTrap) (va : Nat) (x : Xlat) : State :=
  let core := coreOfKey key
  let g := ctxOfKey key
  let s1 := (s.haltSiblings core g).modBlock core (fun b => { b with handler := some g })
  let s2 := s1.put (s.plotOf key) x.pa (trapRecord (s1.thread key) (s1.topEntries key) pt g 0)
  (s2.modThread key (fun t => t.unspec.enterHandler pt va (s.launchOf key).handlerPc)).fill key va (.ok x)

/-- Where a group's trap record lies (R270, R286). -/
def Block.recordVa (b : Block) (g : Nat) : Nat := b.area + 0x80000 + 0x800 * g

/-- Take the trap of a group (R286): into the handler of a launch with trap-enable, or to its end. While another
group of the block is in its handler, one of lower number traps as well, the record's page is not present, or its channel takes
no write, the trap stays pending. -/
def State.takeTrap (s : State) (key : Nat) (pt : PendingTrap) : State :=
  let core := coreOfKey key
  let g := ctxOfKey key
  let l := s.launchOf key
  if !l.trapEn || decide ((s.thread key).status = .handler) then s.trapEnds key pt
  else
    match s.blockOf key with
    | none => s
    | some b =>
      let pend := s.modThread key (fun t => { t with trap := some pt })
      if b.handler.isSome || s.lowerTraps core g then pend
      else
        let va := b.recordVa g
        match s.xlat key va with
        | .ok x =>
          if x.wr then
            let r := s.admitWrite (.area key) x.pa
            if r.2 then r.1.enterTrap key pt va x else r.1.modThread key (fun t => { t with trap := some pt })
          else pend
        | .absent => pend
        | .moving => pend

/-- Free a sprout's context and take it out of its request. -/
def State.dropSprout (s : State) (key : Nat) (f : HreadReq → HreadReq) : State :=
  let t := s.thread key
  let s1 := { s with threads := ferase s.threads key }
  s1.modCore (coreOfKey key) (fun c =>
    { c with
      hreads := c.hreads.map (fun r => if r.id = t.req then f { r with live := r.live.filter (· ≠ t.burst) } else r)
      eops := c.eops.filter (fun o => o.group != ctxOfKey key) })

/-- Abandon a sprout (R223): its held entries are discarded, its context is freed, and its burst index and cause are
recorded. -/
def State.abandon (s : State) (key : Nat) (cause : BitVec 8) : State :=
  let n := (s.thread key).burst
  (s.dropSprout key (fun r => { r with abandoned := r.abandoned ++ [(n, cause, 4)] })).countBlock (coreOfKey key) 0x13 1

/-- Raise a trap in an agent: a system core takes an interrupt, a sprout is abandoned, a group takes its trap. -/
def State.raise (s : State) (key : Nat) (pt : PendingTrap) : State :=
  if isSysKey key then (s.unspec key).syncInterrupt key pt.pc pt.cause pt.value
  else if isSproutKey key then s.abandon key pt.cause
  else s.takeTrap key pt

/-- Raise a trap that an earlier instruction of an agent met: a group's is pending until TRAP_ENTRY (R286, R299). -/
def State.raiseAt (s : State) (key : Nat) (pt : PendingTrap) : State :=
  if (s.thread key).frozen || !(isSysKey key || isSproutKey key) then s.modThread key (fun t => { t with trap := some pt })
  else s.raise key pt

/-- Raise a precise trap at the instruction that runs (R88). -/
def State.trapNow (s : State) (cause : BitVec 8) : State := s.raise s.cur { cause := cause, pc := s.th.pc }

/-- The TLBs translate an address to a frame in another plot's memory alone (R168). -/
def State.foreignVa (s : State) (key va : Nat) : Bool :=
  (s.tlbHit (s.tlbPath key) (s.plotOf key) (s.spaceOf key) va).elim false (fun x => s.foreign (s.plotOf key) x.pa)

/-- The manager logs a request that a home answers as for a page not present, for its line is another plot's (R168). -/
def State.logForeign (s : State) (key : Nat) (vas : List Nat) : State :=
  if vas.any (s.foreignVa key) then s.managerLog 2 (s.plotOf key) else s

/-- The same, with the faulting virtual address for a system core's IVAL (Table 15.1). -/
def State.trapVa (s : State) (cause : BitVec 8) (va : Nat) : State :=
  (if cause = 0x0C then s.logForeign s.cur [va] else s).raise s.cur { cause := cause, pc := s.th.pc, value := BitVec.ofNat 64 va }

/-! ### Trap causes (Table 13.5) -/

def cIllegal : BitVec 8 := 0x01
def cMisaligned : BitVec 8 := 0x02
def cRange : BitVec 8 := 0x03
def cEscape : BitVec 8 := 0x04
def cNotRef : BitVec 8 := 0x05
def cDeferredFp : BitVec 8 := 0x06
def cPoison : BitVec 8 := 0x07
def cSoftware : BitVec 8 := 0x08
def cBreak : BitVec 8 := 0x09
def cSprout : BitVec 8 := 0x0A
def cSpill : BitVec 8 := 0x0B
def cPage : BitVec 8 := 0x0C
def cTime : BitVec 8 := 0x0D

/-! ### Returning from a trap (R291, R333) -/

/-- The rest of an abandoned clause, to run under the resume mask (R105, R291). -/
def Clause.rest (c : Clause) (from1 : Nat) (mask : BitVec 64) : Clause :=
  { c with next := from1 - 1, started := false, mask := mask }

/-- The byte that the newest store in an agent's own queue writes at a place, if any does (R71). -/
def Thread.queuedByte (t : Thread) (pa : Nat) : Option Byte :=
  t.sq.reverse.findSome? (fun e =>
    match e.kind with
    | .store | .laneStore _ =>
      if e.held then none
      else (e.parts.reverse.find? (fun p => decide (p.pa ≤ pa ∧ pa < p.pa + p.data.length))).map (fun p => p.data.getD (pa - p.pa) 0)
    | .atomic _ _ | .laneAtomic _ _ _ _ | .ringInit _ | .ringRelease | .engine _ => none)

/-- A number in memory as the agent's own loads see it: its queued stores before the cells (R71, R162). -/
def State.ownNum (s : State) (key pa n : Nat) : Nat :=
  leNat ((List.range n).map (fun i => ((s.thread key).queuedByte (pa + i)).getD (s.mem.byte (pa + i))))

/-- Return from the handler to the PC in s61, with what the record says of FPTRAP and of the abandoned clause. -/
def State.returnTrap (s : State) (key : Nat) : State :=
  let core := coreOfKey key
  let g := ctxOfKey key
  let t := s.thread key
  let a := (s.blockOf key).elim 0 (fun b => b.recordVa g)
  let pa := match s.xlat key a with
    | .ok x => x.pa
    | .absent => 0
    | .moving => 0
  let laneFault := (s.ownNum key (pa + 1) 1).testBit 0
  let rest := s.ownNum key (pa + 0x19) 1
  let again := match t.aband with
    | some c =>
      if laneFault && decide (s.ownNum key (pa + 0x40) 8 = 0) && decide (rest ≠ 0) then [c.rest rest (BitVec.ofNat 64 (s.ownNum key (pa + 0x48) 8))]
      else []
    | none => []
  let s1 := s.setThread key
    { t with
      status := .running, pc := BitVec.ofNat 56 (fgetD t.sregs 61 0).toNat, mask := fgetD t.sregs 63 0
      fptrap := BitVec.ofNat 6 (s.ownNum key (pa + 3) 1)
      queue := again ++ t.aside, aside := [], aband := none }
  s1.leaveHandler core g

/-- `iret` of a system core (R333). -/
def State.returnInterrupt (s : State) (key : Nat) : State :=
  s.modThread key (fun t => { t with pc := t.sys.ipc, sys := { t.sys with smode := t.sys.imode } })

end Sys2Proof.Machine
end

