-- ==== Sys2Proof/Machine/Operands.lean ====
section
/-! DEFINITION. Issue of a scalar instruction (R33, R34, R50, R51), its operand forms, and its retirement. -/

namespace Sys2Proof.Machine

/-- Which agents execute an instruction (R26, R34, R175, R219). -/
structure Who where
  group : Bool := true
  sprout : Bool := true
  system : Bool := true
  /-- on a system core, in privileged mode alone -/
  privileged : Bool := false
  deriving DecidableEq, Repr

def anyone : Who := {}
/-- Compute instructions that a sprout executes as well. -/
def computeOnly : Who := { system := false }
def groupOnly : Who := { system := false, sprout := false }
def notSprout : Who := { sprout := false }
def systemOnly : Who := { group := false, sprout := false, privileged := true }

/-- Whether the running agent executes an instruction that names the given scalar registers: R34's system-core column,
a sprout's instruction set (R219) and register bounds (R50). -/
def State.admits (s : State) (w : Who) (names : List SReg) : Bool :=
  if isSysKey s.cur then w.system && (!w.privileged || s.th.privileged)
  else if isSproutKey s.cur then w.sprout && names.all (fun r => decide (r.val < 16))
  else w.group

/-- A scalar register whose value has not been written yet (R51). -/
def Thread.isPending (t : Thread) (r : SReg) : Bool := t.pendS.getLsbD r.val

/-- A scalar atomic in the store queue. -/
def SqEntry.isAtomic (e : SqEntry) : Bool :=
  match e.kind with
  | .atomic _ _ => true
  | .laneAtomic _ _ _ _ => true
  | .ringInit _ => true
  | .ringRelease => true
  | .store => false
  | .laneStore _ => false
  | .engine _ => false

/-- A clause has finished (R54): every instruction has issued, and every long-latency operation of it is complete. -/
def Thread.finished (t : Thread) (c : Clause) : Bool :=
  decide (c.instrs.length ≤ c.next) && !t.longOps.any (fun o => o.clause == c.id)

/-- A clause that trap entry set aside, or abandoned (R286). -/
def Thread.isAside (t : Thread) (id : Nat) : Bool :=
  t.aside.any (fun c => c.id == id) || t.aband.elim false (fun c => c.id == id)

/-- Every clause enqueued earlier has finished (R54); in a handler, those of the handler (R291). -/
def Thread.clausesDone (t : Thread) : Bool := t.queue.all t.finished && t.longOps.all (fun o => t.isAside o.clause)

/-- The hold of an `ldref` or of an acquiring atomic is over: it has bound or performed, every earlier load has
bound, those of clauses enqueued before an atomic among them, and a read-back that its scope asks for is back (R74, R76,
R167, R170). The ordering bits of an atomic are no delivery point (R129). -/
def Thread.holdOver (t : Thread) : Bool :=
  t.win.isEmpty && t.returning.isEmpty && !t.sq.any SqEntry.isAtomic && decide (t.wait ≠ .readback ∧ t.wait ≠ .readbackSent)
    && (decide (t.wait ≠ .acquire ∧ t.wait ≠ .readbackDone) || t.clausesDone)

/-- The agent can issue an instruction that names these registers (R51, R74, R76). -/
def Thread.canIssue (t : Thread) (names : List SReg) : Bool :=
  (!t.hold || t.holdOver) && !names.any t.isPending

/-- Issue: the illegal-instruction checks, then readiness, then the instruction's own effect. An instruction that is
not ready leaves the state as it is and is fetched again. -/
def State.issue (s : State) (w : Who) (names : List SReg) (body : State → State) : State :=
  if !s.admits w names then s.trapNow cIllegal
  else if !s.th.canIssue names then s
  else if s.th.hold then body (s.modThread s.cur (fun t => { t with hold := false, wait := .none }))
  else body s

/-! ### Retirement -/

/-- Retire the instruction and go on at an address; counter 0x000 counts it (Table 17.5). -/
def Thread.goto (t : Thread) (pc : BitVec 56) : Thread :=
  { t with pc := pc, counters := bumpMap t.counters 0 1 }

def Thread.advance (t : Thread) : Thread := t.goto (t.pc + 4)
def State.goto (s : State) (pc : BitVec 56) : State := s.modThread s.cur (fun t => t.goto pc)
def State.advance (s : State) : State := s.modThread s.cur Thread.advance

/-- Write the result and retire. -/
def State.finish (s : State) (d : SReg) (v : Word) : State := s.modThread s.cur (fun t => (t.setSreg d v).advance)

/-! ### Operand forms of the arithmetic families -/

/-- sd ← f(sa, sb) (R63). -/
def State.alu2 (s : State) (d a b : SReg) (f : Word → Word → Word) : State :=
  s.issue anyone [d, a, b] (fun s => s.finish d (f (s.th.sreg a) (s.th.sreg b)))

/-- sd ← f(sa) (R63, R64). -/
def State.alu1 (s : State) (d a : SReg) (f : Word → Word) : State :=
  s.issue anyone [d, a] (fun s => s.finish d (f (s.th.sreg a)))

/-- SignExt(imm13, 13). -/
def sx13 (i : BitVec 13) : Word := i.signExtend 64

/-- SignExt(imm19, 19). -/
def sx19 (i : BitVec 19) : Word := i.signExtend 64

/-- The target of a word offset from an address (R32). An address past 2^56 is taken modulo 2^56, here and for PC + 4: the spec
states no wrap for the scalar PC (DESIGN CHOICE, log entry 111). -/
def wordTarget (pc : BitVec 56) (off : Int) : BitVec 56 := pc + BitVec.ofInt 56 (4 * off)

/-! ### Lane rows as operands (R17, R37, R38, R94, R96) -/

/-- The combined guard of one lane, given the predicate bits (R37). -/
def guardHolds (pred : PReg → BitVec 64) (c : LaneCtl) (i : Nat) : Bool :=
  let g (x : Guard) : Bool := if x.p = 63 ∧ x.neg then true else ((pred x.p).getLsbD i) != x.neg
  if c.orGuards then g c.g1 || g c.g2 else g c.g1 && g c.g2

/-- The lanes that take part: the captured mask and the combined guard (R37). -/
def participants (mask : BitVec 64) (pred : PReg → BitVec 64) (c : LaneCtl) : BitVec 64 :=
  BitVec.ofNat 64 (((List.range 64).filter (fun i => mask.getLsbD i && guardHolds pred c i)).foldl (fun n i => n + 2 ^ i) 0)

end Sys2Proof.Machine
end

