-- ==== Sys2Proof/Machine/Flags.lean ====
section
/-! DEFINITION. Flags: the sticky floating-point flags of FPX and their delivery (R127–R129), and the completion flags
f0–f11 (R92). -/

namespace Sys2Proof.Machine

/-- The agent that a sprout's or group's FPX belongs to: the flags are the agent's own until its exit (R128). -/
def Thread.raiseFp (t : Thread) (f : Flags) : Thread := { t with fpx := t.fpx ||| f }

/-- Flags that an instruction raises stand at a point it comes before too (R88); `num` is its clause's number, 0 where it has none. -/
def Point.raiseFp (p : Point) (f : Flags) (num : Nat) : Point := if num < p.mark then { p with fpx := p.fpx ||| f } else p

/-- OR flags into an agent's FPX (R127). -/
def State.raiseFp (s : State) (key : Nat) (f : Flags) (num : Nat := 0) : State :=
  if f = 0 then s else s.modThread key (fun t => (t.raiseFp f).mapPoints (fun p => p.raiseFp f num))

/-- The delivery condition: FPX AND FPTRAP is not zero (R129). -/
def Thread.fpDue (t : Thread) : Bool := decide (t.fpx &&& t.fptrap ≠ 0)

/-- Join the flags of several operations. -/
def joinFlags (xs : List Flags) : Flags := xs.foldl (· ||| ·) 0

end Sys2Proof.Machine
end

