-- ==== Sys2Proof/Machine/Access.lean ====
section
/-! DEFINITION. The memory path shared by the scalar and lane families: the checks of R69, the page-fault path
(R72, R317–R319), the load window and the store queue of the reference machine (R160–R165). -/

namespace Sys2Proof.Machine

/-! ### Poison (R417, R321) -/

/-- A line in error is met: the plots it belongs to are told once (R417). -/
def State.noticePoison (s : State) (pa : Nat) : State :=
  let l := lineOf pa
  if s.mem.noticed.contains l then s
  else
    let s1 := s.withMem { s.mem with noticed := insNat s.mem.noticed l }
    (s1.plots.foldl (fun s' p =>
      if inRanges p.2.ranges l 256 then s'.raiseAsync p.1 0x34 (BitVec.ofNat 64 l) else s') s1).errorLog (lineDie s.mem.cxlSize l) l

/-! ### Fault messages and the operand log -/

/-- Send messages for the addresses in order while the fault ring has room (R318). -/
def State.sendMsgs (s : State) (key kind : Nat) : List Nat → List FaultMsg → State × List FaultMsg × List Nat
  | [], ms => (s, ms, [])
  | va :: vs, ms =>
    let r := s.sendFault (s.plotOf key) va kind (s.launchOf key).vf ((s.blockOf key).elim 0 (·.slot)) (ctxOfKey key)
    match r.2 with
    | some id => State.sendMsgs r.1 key kind vs (ms ++ [⟨va, id, none⟩])
    | none => (r.1, ms, va :: vs)

/-- A faulted scalar instruction or held lane instruction enters the operand log and sends its messages
(R317, R318); counter 0x004 counts the hold. -/
def State.openFault (s : State) (key : Nat) (e : LogEntry) (vas : List Nat) : State :=
  let r := (s.logForeign key vas).sendMsgs key e.access vas []
  r.1.modThread key (fun t =>
    { t with
      log := t.log ++ [{ e with id := t.nextId, msgs := r.2.1, unsent := r.2.2 }]
      nextId := t.nextId + 1
      counters := bumpMap t.counters 4 1 })

/-- All four entries of a group's log are in use (R317); sprouts do not use the log. -/
def State.logBusy (s : State) (key : Nat) : Bool :=
  !isSproutKey key && !isSysKey key && decide (4 ≤ (s.thread key).log.length)

/-- Replace a log entry. -/
def Thread.setEntry (t : Thread) (id : Nat) (f : LogEntry → LogEntry) : Thread :=
  { t with log := t.log.map (fun e => if e.id = id then f e else e) }

/-! ### Reads at the home (R24) -/

/-- An agent's instruction or fetch reads at the home: in host or CXL memory its request leaves, and it waits for the answer. -/
def State.askHome (s : State) (who : Reader) (key pa : Nat) (go : State → State) : State :=
  match s.asking who (s.plotOf key) (s.launchOf key).copy pa with
  | .ready s1 => go (if (s1.thread key).asking.isSome then s1.modThread key (fun t => { t with asking := none }) else s1)
  | .leaves s1 => s1.modThread key (fun t => { t with asking := some (lineOf pa) })
  | .waits => s

/-! ### The checks of R69 -/

inductive MemCheck where
  | ok (x : Xlat)
  | trap (cause : BitVec 8)
  /-- the page is not present or does not permit the access: the page-fault path -/
  | hold
  /-- a leaf is moving: the walk waits (R320) -/
  | wait
  deriving DecidableEq, Repr

/-- Items 1 to 4 of R69 for an access of n bytes. A system core's translation fault is precise (Table 15.1). -/
def State.checkAccess (s : State) (key : Nat) (acc : Access) (ea : Word) (n : Nat) : MemCheck :=
  if ea.toNat % n ≠ 0 then .trap cMisaligned
  else if 2 ^ 56 ≤ ea.toNat then .trap cRange
  else
    match s.xlat key ea.toNat with
    | .moving => .wait
    | .absent => if isSysKey key then .trap cPage else .hold
    | .ok x =>
      if !x.permits acc then (if isSysKey key then .trap cPage else .hold)
      else if s.mem.escapesRun (s.partyOf key) x.obj (acc != .load && acc != .fetch) x.pa n then .trap cEscape
      else .ok x

/-- A read that binds only at its cell: an uncacheable page, a page of two plots, or host memory (R162). -/
def Xlat.cellOnly (x : Xlat) : Bool := !x.cacheable || isHost x.pa

/-! ### Sprouts (R222, R223) -/

/-- What a sprout's operation on the page-fault path stops counting (R223). -/
def Thread.holding (t : Thread) : Bool :=
  t.log.any (fun e => !e.replayed) || t.sq.any (·.held) || t.win.any (·.held)

/-- A sprout holds an entry back in its queue until its `exit`, or until an atomic begins to drain it (R222). -/
def State.queueOpen (s : State) (key : Nat) : Bool := !isSproutKey key || (s.thread key).draining || (s.thread key).released

/-! ### Entering the window and the queue -/

/-- Enter a load; its destination is pending until it is written (R161). It can be taken back to until it binds (R88). -/
def Thread.enterLoad (t : Thread) (d : SReg) (signed : Bool) (va pa size : Nat) (ref uncached held : Bool) : Thread :=
  { t with
    win := t.win ++ [{ id := t.nextId, dest := .scalar d signed, va := va, pa := pa, size := size, mark := t.nextId,
                       ref := ref, uncached := uncached, held := held, back := some t.point }]
    nextId := t.nextId + 1
    pendS := t.pendS ||| BitVec.ofNat 64 (2 ^ d.val) }

/-- Enter an entry in the store queue. -/
def Thread.enqueue (t : Thread) (k : SqKind) (parts : List Part) (held : Bool) : Thread :=
  { t with sq := t.sq ++ [{ seq := t.nextId, kind := k, parts := parts, held := held }], nextId := t.nextId + 1 }

/-- Room for one more entry (R73): a full queue of a group makes the instruction not ready; a sprout that would hold
a seventeenth entry is abandoned with cause out-of-range (R223). -/
def Thread.queueFull (t : Thread) : Bool := decide (16 ≤ t.sq.length)

/-- Enter an entry for the running agent, and go on with the rest of the instruction. A sprout's seventeenth held store has
that cause whatever its own access would meet (DESIGN CHOICE, log entry 115). -/
def State.withRoom (s : State) (body : State → State) : State :=
  if s.th.queueFull then
    (if isSproutKey s.cur && !s.th.draining then s.abandon s.cur cRange else s)
  else body s

/-- Mark an atomic: a sprout's queue drains up to it (R222). -/
def Thread.beginAtomic (t : Thread) (sprout : Bool) : Thread :=
  if sprout then { t with drained := true, draining := true } else t

/-- Enter an atomic of the running agent: in a full queue a sprout's held entries drain first, for an atomic is no held
entry (R222). -/
def State.withDrain (s : State) (body : State → State) : State :=
  if s.th.queueFull then
    (if isSproutKey s.cur then s.modThread s.cur (fun t => t.beginAtomic true) else s)
  else body s

/-! ### Scalar loads (R68, R69) -/

/-- The effective address of an SM word (R68). -/
def eaOf (s : State) (a : SReg) (imm : BitVec 13) : Word := s.th.sreg a + sx13 imm

/-- Issue a load of n bytes at ea. An `ldref` holds the group until it has bound (R74). -/
def State.loadAt (s : State) (d : SReg) (ea : Word) (n : Nat) (signed ref : Bool) : State :=
  if s.logBusy s.cur then s
  else
    match s.checkAccess s.cur .load ea n with
    | .trap c => s.trapVa c ea.toNat
    | .wait => s
    | .ok x =>
      if s.mem.isPoison x.pa then (s.noticePoison x.pa).trapVa cPoison ea.toNat
      else
        (s.modThread s.cur (fun t =>
          let t1 := t.enterLoad d signed ea.toNat x.pa n ref x.cellOnly false
          if ref then { t1 with hold := true, refAt := t.pc } else t1.advance)).fill s.cur ea.toNat (.ok x)
    | .hold =>
      let id := s.th.nextId
      let pc := s.th.pc
      let s1 := s.modThread s.cur (fun t =>
        let t1 := t.enterLoad d signed ea.toNat 0 n ref false true
        if ref then { t1 with hold := true, refAt := t.pc } else t1.advance)
      s1.openFault s.cur { id := 0, target := .load id, access := 0, pc := pc, back := some s.th.point } [ea.toNat]

def State.scalarLoad (s : State) (d a : SReg) (imm : BitVec 13) (n : Nat) (signed : Bool) : State :=
  s.issue anyone [d, a] (fun s => s.loadAt d (eaOf s a imm) n signed false)

/-! ### References (R74, R178, R182) -/

def refEa (s : State) (a : SReg) (off : BitVec 10) : Word := s.th.sreg a + BitVec.ofInt 64 (8 * off.toInt)

/-- The translation of a reference's header line, where the value is a well-formed reference (R178): in an OBJ page,
16 past a line's start, with its object's lines in that page. -/
def State.wellFormedRef (s : State) (key : Nat) (v : Word) : Option Nat :=
  let r := v.toNat
  if 2 ^ 56 ≤ r ∨ r % 256 ≠ 16 then none
  else
    match s.xlat key (r - 16) with
    | .ok x =>
      let len := s.mem.hdrLength x.pa
      let page := 2 ^ pageBits x.size
      if x.obj && decide ((r - 16) / page = (r + len - 1) / page) then some x.pa else none
    | .absent => none
    | .moving => none

/-- Whether `stref` of a value into a container raises escape (R182). -/
def State.strefEscapes (s : State) (key : Nat) (v : Word) (container : Nat) : Bool :=
  decide (1 ≤ container) &&
    match s.wellFormedRef key v with
    | none => false
    | some h =>
      decide (s.mem.hdrState h ≠ 2) || decide (s.mem.hdrScope h < container)

/-- The page of the object that a value may name is moving: the walk that looks at its header waits (R320). -/
def State.refMoving (s : State) (key : Nat) (v : Word) (container : Nat) : Bool :=
  decide (1 ≤ container) && decide (v.toNat < 2 ^ 56 ∧ v.toNat % 256 = 16) && decide (s.xlat key (v.toNat - 16) = .moving)

def State.loadRef (s : State) (d a : SReg) (off : BitVec 10) : State :=
  s.issue anyone [d, a] (fun s => s.loadAt d (refEa s a off) 8 false true)

/-! ### Scalar stores (R68, R69, R74) -/

/-- The low n bytes of a register. -/
def lowBytes (v : Word) (n : Nat) : List Byte := leBytes n v.toNat

/-- Issue a store of n bytes at ea; a reference's is checked against its container when its page is translated (R74). -/
def State.storeAt (s : State) (ea : Word) (v : Word) (n : Nat) (tag : Bool) : State :=
  s.withRoom (fun s =>
    if s.logBusy s.cur then s
    else
      match s.checkAccess s.cur .store ea n with
      | .trap c => s.trapVa c ea.toNat
      | .wait => s
      | .ok x =>
        if tag && s.refMoving s.cur v (s.mem.container x.obj x.pa) then s
        else if tag && s.strefEscapes s.cur v (s.mem.container x.obj x.pa) then s.trapVa cEscape ea.toNat
        else
          (s.modThread s.cur (fun t =>
            (t.enqueue .store [{ lane := 0, va := ea.toNat, pa := x.pa, data := lowBytes v n, tag := tag, obj := x.obj }] false).advance)).fill s.cur ea.toNat (.ok x)
      | .hold =>
        let seq := s.th.nextId
        let pc := s.th.pc
        let s1 := s.modThread s.cur (fun t =>
          (t.enqueue .store [{ lane := 0, va := ea.toNat, pa := 0, data := lowBytes v n, tag := tag }] true).advance)
        s1.openFault s.cur { id := 0, target := .queue seq, access := 1, pc := pc, back := some s.th.point } [ea.toNat])

def State.scalarStore (s : State) (d a : SReg) (imm : BitVec 13) (n : Nat) : State :=
  s.issue anyone [d, a] (fun s => s.storeAt (eaOf s a imm) (s.th.sreg d) n false)

def State.storeRef (s : State) (d a : SReg) (off : BitVec 10) : State :=
  s.issue anyone [d, a] (fun s => s.storeAt (refEa s a off) (s.th.sreg d) 8 true)

/-! ### Scalar atomics (R75, R76) -/

/-- Every earlier load has bound, and every value has been written. -/
def Thread.loadsBound (t : Thread) : Bool := t.win.isEmpty

/-- Every earlier store and atomic has drained or performed. -/
def Thread.drainedAll (t : Thread) : Bool := t.sq.isEmpty

def ordAcq : AmoOrd → Bool
  | .relaxed => false
  | .acq => true
  | .rel => false
  | .ar => true

def ordRel : AmoOrd → Bool
  | .relaxed => false
  | .acq => false
  | .rel => true
  | .ar => true

/-- The new value of an atomic, or none for a `cas` that fails (R75, R111). -/
def amoNew (op : AmoOp) (w : Nat) (old b cmp : Nat) : Option Nat :=
  let sg (x : Nat) : Int := (BitVec.ofNat w x).toInt
  match op with
  | .add => some ((old + b) % 2 ^ w)
  | .and => some (old &&& b)
  | .or => some (old ||| b)
  | .xor => some (old ^^^ b)
  | .minS => some (if sg b < sg old then b else old)
  | .minZ => some (min old b)
  | .maxS => some (if sg old < sg b then b else old)
  | .maxZ => some (max old b)
  | .swap => some b
  | .cas => if old = cmp then some b else none

/-- The wait of a release at a scope before the next access: earlier loads have bound and earlier entries have left
the queue. In a sprout the atomic itself makes the held entries drain ahead of it (R222). -/
def State.relReady (s : State) (key : Nat) : Bool :=
  let t := s.thread key
  t.clausesDone && t.loadsBound && (t.drainedAll || isSproutKey key)

/-- The checks of an atomic at an address raise a trap. -/
def State.amoTraps (s : State) (ea : Word) : Bool :=
  match s.checkAccess s.cur .atomic ea 8 with
  | .trap _ => true
  | .ok _ => false
  | .hold => false
  | .wait => false

/-- The scalar atomics (R75, R76). With an acquiring order nothing later issues until the atomic has performed and
earlier loads have bound; at scope s the host read-back of R167 is awaited as well. -/
def State.amo (s : State) (op : AmoOp) (d a b : SReg) (ord : AmoOrd) (sc : Scope) : State :=
  s.issue anyone [d, a, b] (fun s =>
    let ea := s.th.sreg a
    if ordRel ord && !s.relReady s.cur then s
    else if ordRel ord && decide (sc = .s) && decide (s.th.wait ≠ .readbackDone) && !s.amoTraps ea then
      s.modThread s.cur (fun t => { t.beginAtomic (isSproutKey s.cur) with wait := if s.th.wait = .readbackSent then .readbackSent else .readback })
    else
      let enter (pa : Nat) (obj held : Bool) (s : State) : State :=
        s.modThread s.cur (fun t =>
          let t1 := (t.enqueue (.atomic op d)
            [{ lane := 0, va := ea.toNat, pa := pa, data := lowBytes (t.sreg b) 8, cmp := lowBytes (t.sreg d) 8,
               obj := obj }] held).beginAtomic (isSproutKey s.cur)
          { t1.advance with
            pendS := t1.pendS ||| BitVec.ofNat 64 (2 ^ d.val)
            region := none
            hold := ordAcq ord
            wait := if !ordAcq ord then .none else if sc = .s then .readback else .acquire })
      if s.logBusy s.cur then s
      else
        match s.checkAccess s.cur .atomic ea 8 with
        | .trap c => s.trapVa c ea.toNat
        | .wait => s
        | .ok x => s.withDrain (fun s => (enter x.pa x.obj false s).fill s.cur ea.toNat (.ok x))
        | .hold =>
          s.withDrain (fun s =>
            (enter 0 false true s).openFault s.cur
              { id := 0, target := .queue s.th.nextId, access := 2, pc := s.th.pc, back := some s.th.point } [ea.toNat]))

end Sys2Proof.Machine
end

