-- ==== Sys2Proof/Machine/Branch.lean ====
section
/-! DEFINITION. Branches, jumps and divergence (R52, R77–R84). Prediction is kept as state and never changes a
result; what is fetched past an unresolved branch is in Cycle.lean (R53). -/

namespace Sys2Proof.Machine

/-- One step of a two-bit counter (R52). -/
def count2 (c : BitVec 2) (taken : Bool) : BitVec 2 :=
  if taken then (if c = 3 then 3 else c + 1) else (if c = 0 then 0 else c - 1)

/-- The predictor entry of a branch: PC[11:2] XOR GROUP.ID. -/
def predictorIndex (pc : BitVec 56) (g : Nat) : Nat := (pc.toNat / 4 % 1024) ^^^ g

/-- Train the predictor of the core (R52). -/
def State.train (s : State) (taken : Bool) : State :=
  s.modCore (tlbPlace s.cur) (fun c =>
    let i := predictorIndex s.th.pc (s.groupNo s.cur)
    { c with predictor := fset c.predictor i (count2 (fgetD c.predictor i 1) taken) })

/-- A conditional branch (R77). -/
def State.branchIf (s : State) (a b : SReg) (off : BitVec 13) (test : Word → Word → Bool) : State :=
  s.issue anyone [a, b] (fun s =>
    let taken := test (s.th.sreg a) (s.th.sreg b)
    (s.train taken).goto (if taken then wordTarget s.th.pc off.toInt else s.th.pc + 4))

def execBeq (a b : SReg) (off : BitVec 13) (s : State) : Host.Outcome State Fault Refusal :=
  .next (s.branchIf a b off (fun x y => x == y))
def execBne (a b : SReg) (off : BitVec 13) (s : State) : Host.Outcome State Fault Refusal :=
  .next (s.branchIf a b off (fun x y => x != y))
def execBltS (a b : SReg) (off : BitVec 13) (s : State) : Host.Outcome State Fault Refusal :=
  .next (s.branchIf a b off (fun x y => x.slt y))
def execBgeS (a b : SReg) (off : BitVec 13) (s : State) : Host.Outcome State Fault Refusal :=
  .next (s.branchIf a b off (fun x y => !x.slt y))
def execBltZ (a b : SReg) (off : BitVec 13) (s : State) : Host.Outcome State Fault Refusal :=
  .next (s.branchIf a b off (fun x y => x.ult y))
def execBgeZ (a b : SReg) (off : BitVec 13) (s : State) : Host.Outcome State Fault Refusal :=
  .next (s.branchIf a b off (fun x y => !x.ult y))

/-- Push a return address; the stack keeps its eight newest entries. -/
def pushRet (r : List (BitVec 56)) (a : BitVec 56) : List (BitVec 56) := (a :: r).take 8

/-- `jal` (R78). -/
def execJal (d : SReg) (off : BitVec 19) (s : State) : Host.Outcome State Fault Refusal :=
  .next (s.issue anyone [d] (fun s =>
    s.modThread s.cur (fun t =>
      let t1 := t.setSreg d ((t.pc + 4).setWidth 64)
      { t1 with retStack := pushRet t.retStack (t.pc + 4) }.goto (wordTarget t.pc off.toInt))))

/-- `jalr` (R78): sa is read before sd is written. -/
def execJalr (d a : SReg) (off : BitVec 13) (s : State) : Host.Outcome State Fault Refusal :=
  .next (s.issue anyone [d, a] (fun s =>
    let t := s.th.sreg a + BitVec.ofInt 64 (4 * off.toInt)
    if t.toNat % 4 ≠ 0 then s.trapVa cMisaligned t.toNat
    else if 2 ^ 56 ≤ t.toNat then s.trapVa cRange t.toNat
    else
      s.modThread s.cur (fun th =>
        let th1 := th.setSreg d ((th.pc + 4).setWidth 64)
        { th1 with retStack := th.retStack.drop 1 }.goto (BitVec.ofNat 56 t.toNat))))

/-! ### Instructions that read lane state (R54) -/

/-- Issue an instruction that first waits until every clause enqueued earlier has finished. -/
def State.issueLaneRead (s : State) (names : List SReg) (body : State → State) : State :=
  s.issue computeOnly names (fun s => if s.th.clausesDone then body s else s)

/-- A predicate that the running agent has: a sprout has p0–p15 (R50; for the branches DEDUCED, log entry 12). -/
def State.predOk (s : State) (p : PReg) : Bool := !isSproutKey s.cur || decide (p.val < 16)

/-- Issue an instruction that reads a predicate. -/
def State.issuePred (s : State) (p : PReg) (names : List SReg) (body : State → State) : State :=
  if s.predOk p then s.issueLaneRead names body else s.trapNow cIllegal

/-- `bany` and `ball` (R79). -/
def State.branchPred (s : State) (p : PReg) (off : BitVec 13) (test : BitVec 64 → BitVec 64 → Bool) : State :=
  s.issuePred p [] (fun s =>
    let t := s.th
    s.goto (if test t.mask (t.mask &&& t.pred p.val) then wordTarget t.pc off.toInt else t.pc + 4))

def execBany (p : PReg) (off : BitVec 13) (s : State) : Host.Outcome State Fault Refusal :=
  .next (s.branchPred p off (fun _ x => x != 0))
def execBall (p : PReg) (off : BitVec 13) (s : State) : Host.Outcome State Fault Refusal :=
  .next (s.branchPred p off (fun m x => x == m))

/-! ### The mask stack (R80, R81) -/

/-- What an access of the device on a group's behalf finds: a translation, or a wait on the page-fault path, which
takes no log entry (R317). -/
inductive AreaAccess where
  | ok (x : Xlat)
  | wait (s : State)
  /-- the page was declared fatal -/
  | fatal

/-- Reach a word of the block area for an agent. A miss sends one message of kind 6 and waits for its post. -/
def State.areaAccess (s : State) (key va : Nat) (wr : Bool) : AreaAccess :=
  let miss : AreaAccess :=
    let r := s.sendFault (s.plotOf key) va 6 (s.launchOf key).vf ((s.blockOf key).elim 0 (·.slot)) (ctxOfKey key)
    match r.2 with
    | some id => .wait ((r.1.logForeign key [va]).modThread key (fun t => { t with walkHold := some ⟨va, wr, some ⟨va, id, none⟩⟩ }))
    | none => .wait r.1
  let reach : AreaAccess :=
    match s.xlat key va with
    | .ok x => if (if wr then x.wr else x.rd) then .ok x else miss
    | .absent => miss
    | .moving => .wait s
  match (s.thread key).walkHold with
  | some h =>
    if h.va ≠ va then reach
    else
      match h.msg.bind (·.posted) with
      | some true => .fatal
      | some false => reach
      | none => .wait s
  | none => reach

/-- A spill or refill whose page is fatal (R81). -/
def State.spillFails (s : State) : State := (s.modThread s.cur (fun t => { t with walkHold := none })).trapNow cSpill

/-- MSTACK.DEPTH. -/
def Thread.depth (t : Thread) : Nat := t.mstack.length + t.mspilled

/-- Push an entry (R81), then go on: at depth 1024, or without a place to spill, the push raises mask-stack spill
failure; at hardware depth 32 the bottom hardware entry is first written to the spill region. R270 names no spill region for a
sprout: its push at that depth fails as well (DESIGN CHOICE, log entry 109). -/
def State.pushMask (s : State) (e : MaskEntry) (body : State → State) : State :=
  let t := s.th
  let push (s : State) : State := s.modThread s.cur (fun t => { t with mstack := e :: t.mstack })
  if 1024 ≤ t.depth then s.trapNow cSpill
  else if t.mstack.length < 32 then body (push s)
  else
    match s.blockOf s.cur, t.mstack.getLast? with
    | some b, some bottom =>
      if isSproutKey s.cur ∨ b.launch.spill = 0 then s.trapNow cSpill
      else
        match s.areaAccess s.cur (b.spillVa (ctxOfKey s.cur) t.mspilled) true with
        | .ok x =>
          let r := s.admitWrite (.area s.cur) x.pa
          if r.2 then
            body (push ((r.1.put (s.plotOf s.cur) x.pa (leBytes 32 (maskEntryNum bottom))).modThread s.cur (fun t =>
              { t with mstack := t.mstack.dropLast, mspilled := t.mspilled + 1, walkHold := none })))
          else r.1
        | .wait s' => s'
        | .fatal => s.spillFails
    | _, _ => s.trapNow cSpill

/-- Read the topmost entry in memory back into hardware, then go on (R81). -/
def State.refillMask (s : State) (body : State → State) : State :=
  let t := s.th
  match s.blockOf s.cur with
  | none => s.trapNow cSpill
  | some b =>
    match s.areaAccess s.cur (b.spillVa (ctxOfKey s.cur) (t.mspilled - 1)) false with
    | .ok x =>
      s.askHome (.home s.cur) s.cur x.pa (fun s =>
        body (s.modThread s.cur (fun t =>
          { t with mstack := [maskEntryOf (s.mem.num x.pa 32)], mspilled := t.mspilled - 1, walkHold := none })))
    | .wait s' => s'
    | .fatal => s.spillFails

/-- The top entry is in hardware when an instruction looks at it: after a region's discard it may still lie in memory. -/
def State.withTop (s : State) (body : State → State) : State :=
  if s.th.mstack.isEmpty && decide (0 < s.th.mspilled) then s.refillMask body else body s

/-- Pop the top entry (R81), then go on: a pop that leaves none in hardware while some lie in memory refills the
topmost of them. A pop below the depth at which a region opened first closes the region (R296). -/
def State.popMask (s0 : State) (body : State → State) : State :=
  let s := s0.modThread s0.cur (fun t =>
    { t with region := t.region.filter (fun r => decide (r.depth < t.depth)) })
  if s.th.mstack.length = 1 ∧ 0 < s.th.mspilled then s.refillMask body
  else body (s.modThread s.cur (fun t => { t with mstack := t.mstack.drop 1 }))

def State.setMask (s : State) (m : BitVec 64) : State := s.modThread s.cur (fun t => { t with mask := m })

/-! ### Divergence (R82–R84) -/

def execDivb (p : PReg) (off : BitVec 13) (s : State) : Host.Outcome State Fault Refusal :=
  .next (s.issuePred p [] (fun s =>
    let t := s.th
    let bits := t.pred p.val
    let then' := t.mask &&& bits
    s.pushMask { kind := .ifK, outer := t.mask, pending := t.mask &&& ~~~bits, target := t.pc } (fun s =>
      if then' ≠ 0 then (s.setMask then').advance else (s.setMask 0).goto (wordTarget t.pc off.toInt))))

def execDelse (off : BitVec 19) (s : State) : Host.Outcome State Fault Refusal :=
  .next (s.issue computeOnly [] (fun s => s.withTop (fun s =>
    let t := s.th
    match t.mstack with
    | e :: rest =>
      if e.kind = .ifK then
        let s1 := s.modThread s.cur (fun t => { t with mstack := { e with kind := .elseK, pending := 0 } :: rest })
        if e.pending ≠ 0 then (s1.setMask e.pending).advance else s1.goto (wordTarget t.pc off.toInt)
      else s.trapNow cIllegal
    | [] => s.trapNow cIllegal)))

def execDjoin (s : State) : Host.Outcome State Fault Refusal :=
  .next (s.issue computeOnly [] (fun s => s.withTop (fun s =>
    match s.th.mstack with
    | e :: _ => if e.kind = .loopK then s.trapNow cIllegal else s.popMask (fun s => (s.setMask e.outer).advance)
    | [] => s.trapNow cIllegal)))

def execDloop (off : BitVec 19) (s : State) : Host.Outcome State Fault Refusal :=
  .next (s.issue computeOnly [] (fun s =>
    let t := s.th
    s.pushMask { kind := .loopK, outer := t.mask, pending := 0, target := wordTarget t.pc off.toInt } State.advance))

def execDbrk (p : PReg) (s : State) : Host.Outcome State Fault Refusal :=
  .next (s.issuePred p [] (fun s => s.withTop (fun s =>
    let t := s.th
    match t.mstack with
    | e :: _ =>
      if e.kind = .loopK then
        let m := t.mask &&& ~~~(t.pred p.val)
        if m = 0 then s.popMask (fun s => (s.setMask e.outer).goto e.target) else (s.setMask m).advance
      else s.trapNow cIllegal
    | [] => s.trapNow cIllegal)))

def execDnext (off : BitVec 19) (s : State) : Host.Outcome State Fault Refusal :=
  .next (s.issue computeOnly [] (fun s => s.withTop (fun s =>
    let t := s.th
    match t.mstack with
    | e :: _ =>
      if e.kind = .loopK then
        if t.mask ≠ 0 then s.goto (wordTarget t.pc off.toInt) else s.popMask (fun s => (s.setMask e.outer).advance)
      else s.trapNow cIllegal
    | [] => s.trapNow cIllegal)))

end Sys2Proof.Machine
end

