-- ==== Sys2Proof/Machine/Code.lean ====
section
/-! DEFINITION. Reading code through the scalar and lane code caches (R29, R30, R43). -/

namespace Sys2Proof.Machine

/-- What reading code bytes gives. -/
inductive CodeRead where
  | ok (s : State) (bs : List Byte)
  /-- the page at this address is not present or not readable -/
  | fault (va : Nat)
  /-- a leaf is moving, or the answer of a read of the line has not come -/
  | wait
  /-- the read of a line in host or CXL memory has left -/
  | ask (s : State)

/-- The listed cells of one 256-byte line. -/
def Store.lineCells (m : Store) (l : Nat) : List Host.Cell := m.cells.filter (fun c => decide (l ≤ c.1 ∧ c.1 < l + 256))

/-- The cache that a fetch reads. -/
def Core.codeLine (c : Core) (lane : Bool) (l : Nat) : Option (List Host.Cell) :=
  if lane then fget? c.lcache l else fget? c.icache l

def Core.fillLine (c : Core) (lane : Bool) (l : Nat) (cells : List Host.Cell) : Core :=
  if lane then { c with lcache := fset c.lcache l cells } else { c with icache := fset c.icache l cells }

/-- Read n bytes that lie in one line, filling the line when it is not resident. -/
def State.readLine (s : State) (key : Nat) (lane : Bool) (va n : Nat) : CodeRead :=
  if 2 ^ 56 ≤ va then .fault va
  else
    match s.xlat key va with
    | .absent => .fault va
    | .moving => .wait
    | .ok x =>
      if !x.permits .fetch then .fault va
      else
        let l := lineOf x.pa
        match (s.core (tlbPlace key)).codeLine lane l with
        | some cells => .ok (s.fill key va (.ok x)) (cellsGet cells x.pa n)
        | none =>
          match s.asking (.code key) (s.plotOf key) (s.launchOf key).copy l with
          | .waits => .wait
          | .leaves s1 => .ask (s1.modThread key (fun t => { t with asking := some l }))
          | .ready s1 =>
            let cells := s1.mem.lineCells l
            .ok ((s1.fill key va (.ok x)).modCore (tlbPlace key) (fun c => c.fillLine lane l cells)) (cellsGet cells x.pa n)

/-- Read n bytes of code, at most one line's worth. -/
def State.readCode (s : State) (key : Nat) (lane : Bool) (va n : Nat) : CodeRead :=
  let first := min n (256 - va % 256)
  match s.readLine key lane va first with
  | .fault a => .fault a
  | .wait => .wait
  | .ask s1 => .ask s1
  | .ok s1 bs =>
    if first = n then .ok s1 bs
    else
      match s1.readLine key lane (va + first) (n - first) with
      | .fault a => .fault a
      | .wait => .wait
      | .ask s2 => .ask s2
      | .ok s2 cs => .ok s2 (bs ++ cs)

/-- The fetch of a word, or of a clause at its `lrun`, meets a page not present: fetch stops until the fault is served
(R72, R43). A system core's fetch fault is its synchronous page fault (Table 15.1). -/
def State.fetchFault (s : State) (key va : Nat) : State :=
  let t := s.thread key
  if isSysKey key then s.syncInterrupt key t.pc cPage (BitVec.ofNat 64 va)
  else s.openFault key { id := 0, target := .fetch, access := 3, pc := t.pc } [va]

end Sys2Proof.Machine
end

