-- ==== Sys2Proof/Machine/ScalarArith.lean ====
section
/-! DEFINITION. Scalar integer arithmetic (R63–R66). -/

namespace Sys2Proof.Machine

/-! ### The functions of Table 4.6 -/

/-- A shift amount: b[5:0]. -/
def amount (b : Word) : Nat := b.toNat % 64

def mulHighS (a b : Word) : Word := BitVec.ofInt 64 (a.toInt * b.toInt / 2 ^ 64)
def mulHighZ (a b : Word) : Word := BitVec.ofNat 64 (a.toNat * b.toNat / 2 ^ 64)

/-- Truncated signed division; a zero divisor gives all ones, and −2^63 / −1 wraps to −2^63. -/
def divSigned (a b : Word) : Word := if b = 0 then BitVec.allOnes 64 else BitVec.ofInt 64 (a.toInt.tdiv b.toInt)
def divUnsigned (a b : Word) : Word := if b = 0 then BitVec.allOnes 64 else BitVec.ofNat 64 (a.toNat / b.toNat)
def remSigned (a b : Word) : Word := if b = 0 then a else BitVec.ofInt 64 (a.toInt.tmod b.toInt)
def remUnsigned (a b : Word) : Word := if b = 0 then a else BitVec.ofNat 64 (a.toNat % b.toNat)

def boolWord (x : Bool) : Word := if x then 1 else 0

/-- Leading zeros of an n-bit number. -/
def leadingZeros (n x : Nat) : Nat := if x = 0 then n else n - 1 - x.log2

/-- Trailing zeros of a number of at most n bits; n for 0. -/
def trailingZeros (x : Nat) : Nat → Nat
  | 0 => 0
  | n + 1 => if x % 2 = 1 then 0 else 1 + trailingZeros (x / 2) n

/-- Set bits among the low n bits. -/
def popCount (x : Nat) : Nat → Nat
  | 0 => 0
  | n + 1 => x % 2 + popCount (x / 2) n

/-- ZeroExt(x[pos + wid − 1 : pos]). -/
def fieldOf (x pos wid : Nat) : Nat := x / 2 ^ pos % 2 ^ wid

/-! ### Register arithmetic (R63) -/

def execAdd (d a b : SReg) (s : State) : Host.Outcome State Fault Refusal := .next (s.alu2 d a b (· + ·))
def execSub (d a b : SReg) (s : State) : Host.Outcome State Fault Refusal := .next (s.alu2 d a b (· - ·))
def execAnd (d a b : SReg) (s : State) : Host.Outcome State Fault Refusal := .next (s.alu2 d a b (· &&& ·))
def execOr (d a b : SReg) (s : State) : Host.Outcome State Fault Refusal := .next (s.alu2 d a b (· ||| ·))
def execXor (d a b : SReg) (s : State) : Host.Outcome State Fault Refusal := .next (s.alu2 d a b (· ^^^ ·))
def execAndn (d a b : SReg) (s : State) : Host.Outcome State Fault Refusal :=
  .next (s.alu2 d a b (fun x y => x &&& ~~~y))
def execShl (d a b : SReg) (s : State) : Host.Outcome State Fault Refusal :=
  .next (s.alu2 d a b (fun x y => x <<< amount y))
def execShrZ (d a b : SReg) (s : State) : Host.Outcome State Fault Refusal :=
  .next (s.alu2 d a b (fun x y => x >>> amount y))
def execShrS (d a b : SReg) (s : State) : Host.Outcome State Fault Refusal :=
  .next (s.alu2 d a b (fun x y => x.sshiftRight (amount y)))
def execNop (s : State) : Host.Outcome State Fault Refusal := .next (s.issue anyone [] State.advance)
def execMul (d a b : SReg) (s : State) : Host.Outcome State Fault Refusal := .next (s.alu2 d a b (· * ·))
def execMulhS (d a b : SReg) (s : State) : Host.Outcome State Fault Refusal := .next (s.alu2 d a b mulHighS)
def execMulhZ (d a b : SReg) (s : State) : Host.Outcome State Fault Refusal := .next (s.alu2 d a b mulHighZ)
def execDivS (d a b : SReg) (s : State) : Host.Outcome State Fault Refusal := .next (s.alu2 d a b divSigned)
def execDivZ (d a b : SReg) (s : State) : Host.Outcome State Fault Refusal := .next (s.alu2 d a b divUnsigned)
def execRemS (d a b : SReg) (s : State) : Host.Outcome State Fault Refusal := .next (s.alu2 d a b remSigned)
def execRemZ (d a b : SReg) (s : State) : Host.Outcome State Fault Refusal := .next (s.alu2 d a b remUnsigned)
def execMinS (d a b : SReg) (s : State) : Host.Outcome State Fault Refusal :=
  .next (s.alu2 d a b (fun x y => if x.slt y then x else y))
def execMinZ (d a b : SReg) (s : State) : Host.Outcome State Fault Refusal :=
  .next (s.alu2 d a b (fun x y => if x.ult y then x else y))
def execMaxS (d a b : SReg) (s : State) : Host.Outcome State Fault Refusal :=
  .next (s.alu2 d a b (fun x y => if x.slt y then y else x))
def execMaxZ (d a b : SReg) (s : State) : Host.Outcome State Fault Refusal :=
  .next (s.alu2 d a b (fun x y => if x.ult y then y else x))
def execSltS (d a b : SReg) (s : State) : Host.Outcome State Fault Refusal :=
  .next (s.alu2 d a b (fun x y => boolWord (x.slt y)))
def execSltZ (d a b : SReg) (s : State) : Host.Outcome State Fault Refusal :=
  .next (s.alu2 d a b (fun x y => boolWord (x.ult y)))
def execSeq (d a b : SReg) (s : State) : Host.Outcome State Fault Refusal :=
  .next (s.alu2 d a b (fun x y => boolWord (x == y)))
def execClz (d a : SReg) (s : State) : Host.Outcome State Fault Refusal :=
  .next (s.alu1 d a (fun x => BitVec.ofNat 64 (leadingZeros 64 x.toNat)))
def execCtz (d a : SReg) (s : State) : Host.Outcome State Fault Refusal :=
  .next (s.alu1 d a (fun x => BitVec.ofNat 64 (trailingZeros x.toNat 64)))
def execPopc (d a : SReg) (s : State) : Host.Outcome State Fault Refusal :=
  .next (s.alu1 d a (fun x => BitVec.ofNat 64 (popCount x.toNat 64)))
def execBext (d a b : SReg) (s : State) : Host.Outcome State Fault Refusal :=
  .next (s.alu2 d a b (fun x y => BitVec.ofNat 64 (fieldOf x.toNat (y.toNat % 64) (y.toNat / 64 % 64 + 1))))

/-! ### Immediate arithmetic (R64) -/

def execAddi (d a : SReg) (imm : BitVec 13) (s : State) : Host.Outcome State Fault Refusal :=
  .next (s.alu1 d a (fun x => x + sx13 imm))
def execAndi (d a : SReg) (imm : BitVec 13) (s : State) : Host.Outcome State Fault Refusal :=
  .next (s.alu1 d a (fun x => x &&& sx13 imm))
def execOri (d a : SReg) (imm : BitVec 13) (s : State) : Host.Outcome State Fault Refusal :=
  .next (s.alu1 d a (fun x => x ||| sx13 imm))
def execXori (d a : SReg) (imm : BitVec 13) (s : State) : Host.Outcome State Fault Refusal :=
  .next (s.alu1 d a (fun x => x ^^^ sx13 imm))
def execShli (d a : SReg) (n : Fin 64) (s : State) : Host.Outcome State Fault Refusal :=
  .next (s.alu1 d a (fun x => x <<< n.val))
def execShriZ (d a : SReg) (n : Fin 64) (s : State) : Host.Outcome State Fault Refusal :=
  .next (s.alu1 d a (fun x => x >>> n.val))
def execShriS (d a : SReg) (n : Fin 64) (s : State) : Host.Outcome State Fault Refusal :=
  .next (s.alu1 d a (fun x => x.sshiftRight n.val))
def execSltiS (d a : SReg) (imm : BitVec 13) (s : State) : Host.Outcome State Fault Refusal :=
  .next (s.alu1 d a (fun x => boolWord (x.slt (sx13 imm))))
def execSltiZ (d a : SReg) (imm : BitVec 13) (s : State) : Host.Outcome State Fault Refusal :=
  .next (s.alu1 d a (fun x => boolWord (x.ult (sx13 imm))))
def execBexti (d a : SReg) (pos wid1 : Fin 64) (s : State) : Host.Outcome State Fault Refusal :=
  .next (s.alu1 d a (fun x => BitVec.ofNat 64 (fieldOf x.toNat pos.val (wid1.val + 1))))

/-! ### Constants and addresses (R65, R66) -/

/-- The value `lhi` writes, given the old value of sd (R65). -/
def lhiValue (old : Word) (k : Fin 4) (v : BitVec 17) : Word :=
  let x : Word := v.signExtend 64
  if k = 0 then x <<< 13 else if k = 1 then old + (x <<< 30) else if k = 2 then old + (x <<< 47) else x

def execLhi (d : SReg) (k : Fin 4) (v : BitVec 17) (s : State) : Host.Outcome State Fault Refusal :=
  .next (s.alu1 d d (fun old => lhiValue old k v))
def execPcadd (d : SReg) (imm : BitVec 19) (s : State) : Host.Outcome State Fault Refusal :=
  .next (s.issue anyone [d] (fun s => s.finish d (s.th.pc.setWidth 64 + sx19 imm * 4096)))

end Sys2Proof.Machine
end

