-- ==== Sys2Proof/Machine/Special.lean ====
section
/-! DEFINITION. The special functions (R145–R157): the table algorithm of FTV = 1, step by step, and the correctly
rounded results of FTV = 2. Constants are computed from their closed formulas in fixed point. -/

namespace Sys2Proof.Machine

/-! ### Integer and fixed-point helpers -/

/-- The integer square root by bits, most significant first: the largest r with r² ≤ n. -/
def isqrtAux (n : Nat) : Nat → Nat → Nat
  | 0, r => r
  | k + 1, r => if (r + 2 ^ k) * (r + 2 ^ k) ≤ n then isqrtAux n k (r + 2 ^ k) else isqrtAux n k r

def isqrt (n : Nat) : Nat := isqrtAux n (n.log2 / 2 + 1) 0

/-- num / den rounded to the nearest integer, ties to even. -/
def divRne (num den : Nat) : Nat :=
  let q := num / den
  let r := num % den
  if den < 2 * r ∨ (2 * r = den ∧ q % 2 = 1) then q + 1 else q

/-- num / den as an FP32 value rounded by RNE. -/
def ratF32 (neg : Bool) (num den : Nat) : FVal :=
  if num = 0 then .fin neg 0 0
  else fp32.value (roundDy fp32 .rne neg (num * 2 ^ (den.log2 + 64) / den) (-((den.log2 + 64 : Nat) : Int))
    (decide (num * 2 ^ (den.log2 + 64) % den ≠ 0))).1

/-- Bits of the fixed-point fractions below. -/
def fixP : Nat := 640

def fixOne : Nat := 2 ^ fixP

/-- Σ_{k<n} 2^P / (k 2^k): ln 2. -/
def ln2Sum : Nat → Nat
  | 0 => 0
  | n + 1 => fixOne / ((n + 1) * 2 ^ (n + 1)) + ln2Sum n

/-- ln 2 in fixed point. -/
def ln2Fix : Nat := ln2Sum 660

/-- Σ (−1)^i 2^P / ((2i + 1) b^(2i + 1)), i < n, as an integer: arctan(1/b). -/
def atanInv (b : Nat) : Nat → Int
  | 0 => 0
  | n + 1 =>
    let t : Int := ((fixOne / ((2 * n + 1) * b ^ (2 * n + 1)) : Nat) : Int)
    (if n % 2 = 0 then t else -t) + atanInv b n

/-- π in fixed point: 16 arctan(1/5) − 4 arctan(1/239). -/
def piFix : Nat := (16 * atanInv 5 140 - 4 * atanInv 239 45).toNat

/-- A nonnegative fixed-point value rounded to FP32 by RNE. -/
def fixF32 (neg : Bool) (v : Nat) : FVal :=
  if v = 0 then .fin neg 0 0 else fp32.value (roundDy fp32 .rne neg v (-(fixP : Int)) true).1

/-- x^k / k! of a fixed-point x. -/
def powFact (x : Nat) : Nat → Nat
  | 0 => fixOne
  | n + 1 => powFact x n * x / fixOne / (n + 1)

/-- Σ_{k=1}^{n} x^k / k!, by Horner from the top; x in fixed point, below 2. -/
def expm1Aux (x : Nat) : Nat → Nat → Nat
  | 0, acc => acc
  | n + 1, acc => expm1Aux x n (x * (fixOne + acc) / fixOne / (n + 1))

/-- e^x − 1 in fixed point. -/
def expm1Fix (x : Nat) : Nat := expm1Aux x 200 0

/-- Σ z^k / k over odd k from the given one on: the terms of artanh. -/
def artanhAux (z2 : Nat) : Nat → Nat → Nat → Nat
  | 0, _, _ => 0
  | n + 1, k, w => w / k + artanhAux z2 n (k + 2) (w * z2 / fixOne)

/-- ln m = 2 artanh((m − 1)/(m + 1)) of a fixed-point m in [1, 2). -/
def lnFix (m : Nat) : Nat :=
  let z := (m - fixOne) * fixOne / (m + fixOne)
  2 * artanhAux (z * z / fixOne) 210 1 z

/-- sin and cos of a fixed-point angle below 1: the alternating sums. -/
def trigAux (x2 : Nat) : Nat → Nat → Nat → Nat
  | 0, _, acc => acc
  | n + 1, k, acc => trigAux x2 n (k - 2) (fixOne - x2 * acc / fixOne / (k * (k + 1)))

/-- sin x for a fixed-point x below 1. -/
def sinFix (x : Nat) : Nat := x * trigAux (x * x / fixOne) 70 140 fixOne / fixOne

/-- cos x for a fixed-point x below 1. -/
def cosFix (x : Nat) : Nat := trigAux (x * x / fixOne) 70 139 fixOne

/-! ### FP32 steps of FTV = 1 -/

/-- A value rounded to FP32 by RNE. -/
def r32 (x : FVal) : FVal := fp32.value (roundVal fp32 .rne x).1

def xMul (a b : FVal) : FVal := (a.mul b).1
def xAdd (a b : FVal) : FVal := (a.add .rne b).1
/-- a × b + c with one RNE rounding to FP32 (R147). -/
def fma32 (a b c : FVal) : FVal := r32 (a.fma .rne b c).1
def mul32 (a b : FVal) : FVal := r32 (xMul a b)
def fOne : FVal := .fin false 1 0
/-- x × 2^k, exactly. -/
def scale2 (x : FVal) (k : Int) : FVal :=
  match x with
  | .nan => .nan
  | .inf s => .inf s
  | .fin s m e => .fin s m (e + k)

/-- The significand of a nonzero value as an integer of 24 bits: m = sig / 2^23 in [1, 2). -/
def sig24 (m : Nat) : Nat := if m.log2 ≤ 23 then m * 2 ^ (23 - m.log2) else m / 2 ^ (m.log2 - 23)

/-- Horner with fma: the coefficients from the highest down. -/
def horner (z : FVal) : List FVal → FVal → FVal
  | [], p => p
  | c :: cs, p => horner z cs (fma32 p z c)

/-- T_rcp[j] (R149). -/
def tRcp (j : Nat) : FVal := .fin false (divRne (2 ^ 16 * 256) (257 + 2 * j)) (-16)

/-- √(num/den) rounded to the nearest integer. -/
def sqrtRne (num den : Nat) : Nat :=
  let n := isqrt (num / den)
  if (2 * n + 1) * (2 * n + 1) * den < 4 * num ∨ ((2 * n + 1) * (2 * n + 1) * den = 4 * num ∧ n % 2 = 1) then n + 1
  else n

/-- T_rsq[i] (R149): 2^16 / √(2^P (129 + 2 (i mod 64)) / 128). -/
def tRsq (i : Nat) : FVal :=
  .fin false (sqrtRne (2 ^ 32 * 128) (2 ^ (i / 64) * (129 + 2 * (i % 64)))) (-16)

/-- ⌊2^P · 2^(j/64)⌋ for 0 ≤ j < 64, by six nested roots. -/
def root64 (j : Nat) : Nat := isqrt (isqrt (isqrt (isqrt (isqrt (isqrt (2 ^ (j + 64 * 40)))))))

/-- T_exp[j] (R149), −32 ≤ j ≤ 32. -/
def tExp (j : Int) : FVal :=
  let k := (j % 64).toNat
  let q := j / 64
  fp32.value (roundDy fp32 .rne false (root64 k) (q - 40) (decide (k ≠ 0))).1

/-- Inv[j] (R149). -/
def tInv (j : Nat) : FVal := ratF32 false 64 (64 + j)

/-- log2 of m × 2^e as a signed fixed-point number. -/
def log2Fix (m : Nat) (e : Int) : Int :=
  let n := m.log2
  let u := m * 2 ^ (fixP - n)
  ((e + (n : Int)) * (fixOne : Int)) + ((lnFix u * fixOne / ln2Fix : Nat) : Int)

/-- Lg[j] (R149): −log2(Inv[j]). -/
def tLg (j : Nat) : FVal :=
  match tInv j with
  | .fin _ m e => if j = 0 then .fin false 0 0 else if j = 64 then fOne else
      let v := -(log2Fix m e)
      fixF32 (decide (v < 0)) v.natAbs
  | .nan => .nan
  | .inf s => .inf s

/-- The integer nearest to a finite value, ties to even. -/
def nearInt (x : FVal) : Int :=
  match x with
  | .fin s m e => let r := (intRound .rne s m e).1; if s then -(r : Int) else r
  | .nan => 0
  | .inf _ => 0

/-- Whether x ≥ y, both finite or infinite. -/
def geVal (x y : FVal) : Bool := 0 ≤ x.cmp y

def intF (n : Int) : FVal := .fin (decide (n < 0)) n.natAbs 0

/-- `vrcp` of a finite nonzero value (R150). -/
def rcp1 (s : Bool) (m : Nat) (e : Int) : FVal :=
  let g := sig24 m
  let ex := e + (m.log2 : Int)
  let mm : FVal := .fin false g (-23)
  let j := (g - 2 ^ 23) / 2 ^ 16
  let y0 := tRcp j
  let r0 := fma32 mm.neg y0 fOne
  let y1 := fma32 y0 r0 y0
  let r1 := fma32 mm.neg y1 fOne
  let y2 := xAdd (xMul y1 r1) y1
  let z := r32 (scale2 y2 (-ex))
  if s then z.neg else z

/-- The shared part of `vrsqrt` and `vsqrt` (R151): u, y and k. -/
def rsqSeed (m : Nat) (e : Int) : FVal × FVal × Int :=
  let g := sig24 m
  let ex := e + (m.log2 : Int)
  let p := (ex % 2).toNat
  let u : FVal := .fin false g (-23 + (p : Int))
  let k := (ex - (p : Int)) / 2
  let i := 64 * p + (g - 2 ^ 23) / 2 ^ 17
  let half (y : FVal) : FVal := scale2 y (-1)
  let y0 := tRsq i
  let r0 := fma32 (mul32 u y0).neg y0 fOne
  let y1 := fma32 (half y0) r0 y0
  let r1 := fma32 (mul32 u y1).neg y1 fOne
  let y2 := fma32 (half y1) r1 y1
  (u, y2, k)

def rsqrt1 (m : Nat) (e : Int) : FVal :=
  let q := rsqSeed m e
  r32 (scale2 q.2.1 (-q.2.2))

def sqrt1 (m : Nat) (e : Int) : FVal :=
  let q := rsqSeed m e
  let y := q.2.1
  let sv := mul32 q.1 y
  let d := fma32 sv.neg sv q.1
  r32 (scale2 (xAdd (xMul (scale2 y (-1)) d) sv) q.2.2)

/-- c_k = RoundNE((ln 2)^k / k!) (R152). -/
def expC (k : Nat) : FVal := fixF32 false (powFact ln2Fix k)

/-- `vexp2` of a finite value (R152). -/
def exp21 (x : FVal) : FVal :=
  if geVal x (intF 128) then .inf false
  else if geVal (intF (-150)) x then .fin false 0 0
  else
    let n := nearInt x
    let f := xAdd x (intF (-n))
    let j := nearInt (scale2 f 6)
    let g := xAdd f (scale2 (intF (-j)) (-6))
    let p := horner g [expC 3, expC 2, expC 1] (expC 4)
    let q := mul32 p g
    let t := tExp j
    r32 (scale2 (xAdd (xMul t q) t) n)

/-- k_i = RoundNE((−1)^(i+1) / (i ln 2)) (R153). -/
def logK (i : Nat) : FVal := fixF32 (decide (i % 2 = 0)) (fixOne * fixOne / (i * ln2Fix))

/-- `vlog2` of a positive finite value (R153). -/
def log21 (m : Nat) (e : Int) : FVal :=
  let g := sig24 m
  let ex := e + (m.log2 : Int)
  let mm : FVal := .fin false g (-23)
  let j := (nearInt (.fin false (g - 2 ^ 23) (-17))).toNat
  let r := fma32 mm (tInv j) fOne.neg
  let p := horner r [logK 4, logK 3, logK 2, logK 1] (logK 5)
  let q := mul32 p r
  let h := r32 (xAdd (intF ex) (tLg j))
  r32 (xAdd h q)

/-- (π/2)^k / k! rounded, with sign (R154). -/
def trigK (neg : Bool) (k : Nat) : FVal := fixF32 neg (powFact (piFix / 2) k)

/-- The two series of R154 at the reduced argument f. -/
def trigS (f : FVal) : FVal :=
  let z := mul32 f f
  mul32 f (horner z [trigK true 7, trigK false 5, trigK true 3, trigK false 1] (trigK false 9))
def trigC (f : FVal) : FVal :=
  let z := mul32 f f
  horner z [trigK false 8, trigK true 6, trigK false 4, trigK true 2, fOne] (trigK true 10)

/-- A selected zero is +0 (R154). -/
def plusZero (x : FVal) : FVal :=
  match x with
  | .fin s m e => .fin (s && decide (m ≠ 0)) m e
  | .nan => .nan
  | .inf s => .inf s

/-- `vsin` (`cosine = false`) and `vcos` of a finite nonzero value (R154). -/
def trig1 (cosine : Bool) (x : FVal) : FVal :=
  let t := scale2 x 2
  let q := nearInt t
  let f := xAdd t (intF (-q))
  let sel := ((q + if cosine then 1 else 0) % 4).toNat
  plusZero (if sel = 0 then trigS f else if sel = 1 then trigC f else if sel = 2 then (trigS f).neg else (trigC f).neg)

/-- Numerator and denominator of |B_2k| for k = 2 … 11. -/
def bernoulli : Nat → Nat × Nat
  | 2 => (1, 30)
  | 3 => (1, 42)
  | 4 => (1, 30)
  | 5 => (5, 66)
  | 6 => (691, 2730)
  | 7 => (7, 6)
  | 8 => (3617, 510)
  | 9 => (43867, 798)
  | 10 => (174611, 330)
  | 11 => (854513, 138)
  | _ => (0, 1)

def fact : Nat → Nat
  | 0 => 1
  | n + 1 => (n + 1) * fact n

/-- a_k of R155. -/
def tanhA (k : Nat) : FVal :=
  ratF32 (decide (k % 2 = 0)) (2 ^ (2 * k) * (2 ^ (2 * k) - 1) * (bernoulli k).1) ((bernoulli k).2 * fact (2 * k))

def tanhK1 : FVal := fixF32 false (fixOne * fixOne / ln2Fix)

/-- RoundNE(1/ln 2 − K1) (R155). -/
def tanhK2 : FVal :=
  match tanhK1 with
  | .fin _ m e =>
    let v : Int := ((fixOne * fixOne / ln2Fix : Nat) : Int) - ((m * 2 ^ (e + (fixP : Int)).toNat : Nat) : Int)
    fixF32 (decide (v < 0)) v.natAbs
  | .nan => .nan
  | .inf s => .inf s

def tanhLn2 : FVal := fixF32 false ln2Fix

/-- `vtanh` of a finite nonzero value (R155). -/
def tanh1 (s : Bool) (m : Nat) (e : Int) : FVal :=
  let x : FVal := .fin s m e
  let ax : FVal := .fin false m e
  if geVal ax (intF 9) then (if s then fOne.neg else fOne)
  else if !geVal ax (.fin false 1 (-12)) then x
  else if !geVal ax (.fin false 5 (-3)) then
    let z := mul32 x x
    let p := horner z [tanhA 10, tanhA 9, tanhA 8, tanhA 7, tanhA 6, tanhA 5, tanhA 4, tanhA 3, tanhA 2] (tanhA 11)
    let w := mul32 x z
    fma32 w p x
  else
    let a := scale2 ax 1
    let big := mul32 a tanhK1
    let dA := fma32 a tanhK2 (xAdd (xMul a tanhK1) big.neg)
    let e0 := exp21 big
    let e1 := fma32 e0 (mul32 dA tanhLn2) e0
    let d := r32 (xAdd e1 fOne)
    let y := match d with
      | .fin sg n k => rcp1 sg n k
      | .nan => .nan
      | .inf _ => .fin false 0 0
    let z := fma32 (intF (-2)) y fOne
    if s then z.neg else z

/-! ### FTV = 2: correctly rounded (R146) -/

/-- A positive fixed-point approximation of an inexact value, rounded once. -/
def roundFix (f : Fmt) (mode : RMode) (neg : Bool) (v : Nat) (k : Int) (sticky : Bool) : Nat × Flags :=
  if v = 0 then (f.pack neg 0, 0) else roundDy f mode neg v (k - fixP) sticky

/-- 2^x of a finite x, correctly rounded. -/
def exp22 (f : Fmt) (mode : RMode) (s : Bool) (m : Nat) (e : Int) : Nat × Flags :=
  let x : FVal := .fin s m e
  if geVal x (intF 400) then roundDy f mode false 1 400 true
  else if geVal (intF (-400)) x then roundDy f mode false (2 ^ fixP) (-400 - fixP) true
  else
    let lo := intRound .rdn s m e
    let n : Int := if s then -(lo.1 : Int) else lo.1
    match xAdd x (intF (-n)) with
    | .fin _ fm fe =>
      if fm = 0 then roundDy f mode false 1 n false
      else
        let fr := if 0 ≤ fe + (fixP : Int) then fm * 2 ^ (fe + (fixP : Int)).toNat else 0
        roundFix f mode false (fixOne + expm1Fix (fr * ln2Fix / fixOne)) n true
    | .nan => (f.cNan, 0)
    | .inf _ => (f.infMag, 0)

/-- log2 of a positive finite value, correctly rounded; a power of two is exact. -/
def log22 (f : Fmt) (mode : RMode) (m : Nat) (e : Int) : Nat × Flags :=
  if m = 2 ^ m.log2 then roundVal f mode (intF (e + (m.log2 : Int)))
  else
    let v := log2Fix m e
    roundFix f mode (decide (v < 0)) v.natAbs 0 true

/-- sin(2πx) or cos(2πx), correctly rounded; multiples of 0.25 turn are exact. -/
def trig2 (f : Fmt) (mode : RMode) (cosine : Bool) (x : FVal) : Nat × Flags :=
  let t := scale2 x 2
  let q := nearInt t
  let fr := xAdd t (intF (-q))
  let sel := ((q + if cosine then 1 else 0) % 4).toNat
  match fr with
  | .fin s m e =>
    if m = 0 then
      (if sel = 1 then roundVal f mode fOne else if sel = 3 then roundVal f mode fOne.neg else (0, 0))
    else
      let ang := (if 0 ≤ e + (fixP : Int) then m * 2 ^ (e + (fixP : Int)).toNat else 0) * (piFix / 2) / fixOne
      let neg := decide (2 ≤ sel)
      if sel % 2 = 0 then roundFix f mode (neg != s) (sinFix ang) 0 true
      else roundFix f mode neg (cosFix ang) 0 true
  | .nan => (f.cNan, 0)
  | .inf _ => (f.cNan, 0)

/-- tanh x of a finite nonzero x, correctly rounded. -/
def tanh2 (f : Fmt) (mode : RMode) (s : Bool) (m : Nat) (e : Int) : Nat × Flags :=
  if geVal (.fin false m e) (intF 128) then roundFix f mode s (fixOne - 1) 0 true
  else
    let a := if 0 ≤ e + (fixP : Int) then m * 2 ^ (e + (fixP : Int)).toNat else 0
    let t := 2 * a
    let n := t / ln2Fix
    let em := expm1Fix (t % ln2Fix)
    let big := em * 2 ^ n + fixOne * (2 ^ n - 1)
    roundFix f mode s (big * fixOne / (big + 2 * fixOne)) 0 true

/-- 1/x, correctly rounded. -/
def rcp2 (f : Fmt) (mode : RMode) (s : Bool) (m : Nat) (e : Int) : Nat × Flags :=
  roundDy f mode s (2 ^ 200 / m) (-e - 200) (decide (2 ^ 200 % m ≠ 0))

/-- √x, correctly rounded. -/
def sqrt2 (f : Fmt) (mode : RMode) (m : Nat) (e : Int) : Nat × Flags :=
  let p := (e % 2).toNat
  let n := m * 2 ^ (p + 200)
  let r := isqrt n
  roundDy f mode false r ((e - (p : Int)) / 2 - 100) (decide (r * r ≠ n))

/-- 1/√x, correctly rounded. -/
def rsqrt2 (f : Fmt) (mode : RMode) (m : Nat) (e : Int) : Nat × Flags :=
  let p := (e % 2).toNat
  let n := m * 2 ^ p
  let r := isqrt (2 ^ 400 / n)
  roundDy f mode false r (-((e - (p : Int)) / 2) - 200) (decide (r * r * n ≠ 2 ^ 400))

/-! ### The instructions (R157) -/

/-- The special functions. -/
inductive SFun where
  | rcp | rsqrt | sqrt | exp2 | log2 | sin | cos | tanh
  deriving DecidableEq, Repr

/-- Table 7.9: the special operands; `none` for every other operand. -/
def specialOperand (fn : SFun) (x : FVal) : Option (FVal × Flags) :=
  match fn, x with
  | _, .nan => some (.nan, 0)
  | .rcp, .inf s => some (.fin s 0 0, 0)
  | .rsqrt, .inf s => some (if s then (.nan, flInvalid) else (.fin false 0 0, 0))
  | .sqrt, .inf s => some (if s then (.nan, flInvalid) else (.inf false, 0))
  | .exp2, .inf s => some (if s then .fin false 0 0 else .inf false, 0)
  | .log2, .inf s => some (if s then (.nan, flInvalid) else (.inf false, 0))
  | .sin, .inf _ => some (.nan, flInvalid)
  | .cos, .inf _ => some (.nan, flInvalid)
  | .tanh, .inf s => some (.fin s 1 0, 0)
  | fn, .fin s m _ =>
    if m = 0 then
      match fn with
      | .rcp => some (.inf s, flDivZero)
      | .rsqrt => some (.inf s, flDivZero)
      | .sqrt => some (.fin s 0 0, 0)
      | .exp2 => some (fOne, 0)
      | .log2 => some (.inf true, flDivZero)
      | .sin => some (.fin s 0 0, 0)
      | .cos => some (fOne, 0)
      | .tanh => some (.fin s 0 0, 0)
    else if s then
      match fn with
      | .rsqrt => some (.nan, flInvalid)
      | .sqrt => some (.nan, flInvalid)
      | .log2 => some (.nan, flInvalid)
      | .rcp => none
      | .exp2 => none
      | .sin => none
      | .cos => none
      | .tanh => none
    else none

/-- The FP32 result of the table algorithm on a computed operand. -/
def sfun1 (fn : SFun) (s : Bool) (m : Nat) (e : Int) : FVal :=
  match fn with
  | .rcp => rcp1 s m e
  | .rsqrt => rsqrt1 m e
  | .sqrt => sqrt1 m e
  | .exp2 => exp21 (.fin s m e)
  | .log2 => log21 m e
  | .sin => trig1 false (.fin s m e)
  | .cos => trig1 true (.fin s m e)
  | .tanh => tanh1 s m e

/-- The operands whose result is an exact FP32 value (R147). -/
def exactOperand (fn : SFun) (s : Bool) (m : Nat) (e : Int) : Bool :=
  let pow := decide (m = 2 ^ m.log2)
  let ex := e + (m.log2 : Int)
  match fn with
  | .rcp => pow && decide (-127 ≤ ex)
  | .rsqrt => pow && decide (ex % 2 = 0)
  | .sqrt => pow && decide (ex % 2 = 0)
  | .exp2 =>
    let r := intRound .rtz s m e
    let v : Int := if s then -(r.1 : Int) else r.1
    !r.2 && decide (-149 ≤ v) && decide (v ≤ 127)
  | .log2 => false
  | .sin => false
  | .cos => false
  | .tanh => false

/-- Flags of a computed operand under FTV = 1 (R147), from the final result in the destination format. -/
def flags1 (f : Fmt) (fn : SFun) (exact : Bool) (code : Nat) : Flags :=
  let mag := code % 2 ^ (f.eb + f.fb)
  let sub := decide (mag < 2 ^ f.fb)
  let isInf := decide (mag = f.infMag)
  (if exact then 0 else flInexact)
    ||| (if sub && !(exact && decide (fn = .exp2) && decide (mag ≠ 0)) then flUnderflow else 0)
    ||| (if isInf then flOverflow else 0)

/-- FTV = 2 on a computed operand. -/
def sfun2 (f : Fmt) (mode : RMode) (fn : SFun) (s : Bool) (m : Nat) (e : Int) : Nat × Flags :=
  match fn with
  | .rcp => rcp2 f mode s m e
  | .rsqrt => rsqrt2 f mode m e
  | .sqrt => sqrt2 f mode m e
  | .exp2 => exp22 f mode s m e
  | .log2 => log22 f mode m e
  | .sin => trig2 f mode false (.fin s m e)
  | .cos => trig2 f mode true (.fin s m e)
  | .tanh => tanh2 f mode s m e

/-- A special function of one element (R145–R148, R157). `ftv` is the captured function-table version, 1 or 2. -/
def specialFun (fn : SFun) (f : Fmt) (mode : RMode) (ftv : Nat) (a : Nat) : Nat × Flags :=
  let x := f.value (a % 2 ^ f.width)
  match specialOperand fn x with
  | some r => roundPair f mode r
  | none =>
    match x with
    | .fin s m e =>
      if ftv = 2 then sfun2 f mode fn s m e
      else
        let code := (roundVal f .rne (sfun1 fn s m e)).1
        (code, flags1 f fn (exactOperand fn s m e) code)
    | .nan => (f.cNan, 0)
    | .inf _ => (f.cNan, 0)

end Sys2Proof.Machine
end

