-- ==== Sys2Proof/Machine/Lane.lean ====
section
/-! DEFINITION. Lane execution shared by every lane family: what a lane word names (R17, R50), the state a clause
captured (R59), operand reading and masked writing (R37, R91, R94, R137). -/

namespace Sys2Proof.Machine

/-! ### The registers a lane word names -/

/-- Vector rows, predicates and scalars named by a lane word. -/
structure LaneNames where
  rows : List Nat := []
  preds : List Nat := []
  scalars : List Nat := []
  deriving DecidableEq, Repr

def LaneNames.join (a b : LaneNames) : LaneNames := ⟨a.rows ++ b.rows, a.preds ++ b.preds, a.scalars ++ b.scalars⟩

/-- The rows of a vector operand: a pair for .i64 (R94). -/
def vregRows (t : IType) (v : VReg) : List Nat := if t = .i64 then [v.val, v.val + 1] else [v.val]

/-- A guard reads its predicate, but for the constant true (R37). -/
def guardNames (g : Guard) : List Nat := if g.p = 63 ∧ g.neg then [] else [g.p.val]
def ctlNames (c : LaneCtl) : LaneNames := { preds := guardNames c.g1 ++ guardNames c.g2 }
def rowNames (t : IType) (vs : List VReg) : LaneNames := { rows := vs.flatMap (vregRows t) }

def bNames (t : IType) : BSrc → LaneNames
  | .vec v => { rows := vregRows t v }
  | .sca r => { scalars := [r.val] }
  | .imm _ => {}

def cNames (t : IType) : CSrc → LaneNames
  | .vec v => { rows := vregRows t v }
  | .sca r => { scalars := [r.val] }

/-- The registers of an address. The index is one row at the types whose operands are one row, and at .i64 the pair of
a scratchpad form; the global forms, whose index is a single row at every type (R94), name it as at .i32. -/
def addrNames (t : IType) (m : LaneAddr) : LaneNames :=
  { rows := m.index.elim [] (fun x => vregRows t x.v), scalars := m.addend.elim [] (fun r => [r.val]) }

/-- Every register a lane word names; the scalar words name none here. -/
def laneNames : Instr → LaneNames
  | .vadd t d a b c | .vsub t d a b c | .vmul t d a b c | .vmulhS t d a b c | .vmulhZ t d a b c | .vand t d a b c
  | .vor t d a b c | .vxor t d a b c | .vandn t d a b c | .vshl t d a b c | .vshrZ t d a b c | .vshrS t d a b c
  | .vminS t d a b c | .vminZ t d a b c | .vmaxS t d a b c | .vmaxZ t d a b c | .vbext t d a b c
  | .vxchg t d a b c | .vshift t d a b c | .vbcast t d a b c =>
    ((rowNames t [d, a]).join (bNames t b)).join (ctlNames c)
  | .vmad t d a b x c => (((rowNames t [d, a]).join (bNames t b)).join (cNames t x)).join (ctlNames c)
  | .vabs t d a c | .vclz t d a c | .vpopc t d a c | .vred _ t d a c | .vscan _ t d a c =>
    (rowNames t [d, a]).join (ctlNames c)
  | .vsel t d a b p c =>
    (((rowNames t [d, a]).join (bNames t b)).join { preds := [p.val] }).join (ctlNames c)
  | .vmov t d b c => ((rowNames t [d]).join (bNames t b)).join (ctlNames c)
  | .vcmp t _ d a b c => (((rowNames t [a]).join (bNames t b)).join { preds := [d.val] }).join (ctlNames c)
  | .pand d a b c | .por d a b c | .pxor d a b c | .pandn d a b c =>
    ({ preds := [d.val, a.val] ++ (match b with | .pred p => [p.val] | .imm _ => []) } : LaneNames).join (ctlNames c)
  | .pset d b c => (({ preds := [d.val] } : LaneNames).join (bNames .i32 b)).join (ctlNames c)
  | .pget d a c => (({ preds := [a.val] } : LaneNames).join (rowNames .i32 [d])).join (ctlNames c)
  | .vperm t d a b c => (rowNames t [d, a, b]).join (ctlNames c)
  | .vld t d _ m _ _ c => ((rowNames t [d]).join (addrNames .i32 m)).join (ctlNames c)
  | .vst t _ m e _ _ c => ((rowNames t [e]).join (addrNames .i32 m)).join (ctlNames c)
  | .vlds t d m c => ((rowNames t [d]).join (addrNames t m)).join (ctlNames c)
  | .vsts t m e c => ((rowNames t [e]).join (addrNames t m)).join (ctlNames c)
  | .vamo _ t d _ m e _ _ c => ((rowNames t [d, e]).join (addrNames .i32 m)).join (ctlNames c)
  | .vrand d a k c =>
    ((rowNames .i32 [d, a]).join { scalars := [k.val, k.val + 1] }).join (ctlNames c)
  | .vnop c => ctlNames c
  | .vfadd _ _ d a b c | .vfsub _ _ d a b c | .vfmul _ _ d a b c | .vfmin _ _ d a b c | .vfmax _ _ d a b c
  | .vfsgn _ _ d a b c =>
    ((rowNames .i32 [d, a]).join (bNames .i32 b)).join (ctlNames c)
  | .vfma _ _ d a b x c => (((rowNames .i32 [d, a]).join (bNames .i32 b)).join (cNames .i32 x)).join (ctlNames c)
  | .vfcmp _ _ _ d a b c =>
    (((rowNames .i32 [a]).join (bNames .i32 b)).join { preds := [d.val] }).join (ctlNames c)
  | .vfcls _ _ d a c | .vfrnd _ _ d a c | .vrcp _ _ d a c | .vrsqrt _ _ d a c | .vsqrt _ _ d a c | .vexp2 _ _ d a c
  | .vlog2 _ _ d a c | .vsin _ _ d a c | .vcos _ _ d a c | .vtanh _ _ d a c =>
    (rowNames .i32 [d, a]).join (ctlNames c)
  | .vfcvt td ts _ d a b c =>
    ((({ rows := [d.val, a.val] ++ (if ts = .bf16x2 then [d.val + 1] else []) } : LaneNames).join
      (if td = .bf16x2 then bNames .i32 b else {}))).join (ctlNames c)
  | .vquant _ _ _ _ d a c => ({ rows := [d.val, d.val + 1, a.val] } : LaneNames).join (ctlNames c)
  | .vdequant _ _ _ _ d a b c => ((rowNames .i32 [d, a]).join (bNames .i32 b)).join (ctlNames c)
  | _ => {}

/-- The checks of R17 and R50 on what a lane word names, for an agent. -/
def State.laneNamesOk (s : State) (key : Nat) (n : LaneNames) : Bool :=
  n.rows.all (s.rowOk key) && (!isSproutKey key || (n.preds.all (· < 16) && n.scalars.all (· < 16)))

/-! ### The running clause -/

/-- What a lane instruction works under: its agent, and the mask, rounding mode and function-table version that its
clause captured at `lrun` (R59). -/
structure LaneCtx where
  key : Nat
  clause : Nat
  mask : BitVec 64
  rmode : BitVec 2
  ftv : Nat
  deriving DecidableEq, Repr

/-- The context of the lane instruction that runs: that of its clause, or, where the agent's queue holds no such
clause, the agent's own registers. -/
def State.laneCtx (s : State) : LaneCtx :=
  let t := s.thread s.laneCur
  match t.queue.find? (fun c => c.id == t.laneClause) with
  | some c => ⟨s.laneCur, c.id, c.mask, c.rmode, c.ftv.toNat⟩
  | none => ⟨s.laneCur, 0, t.mask, t.rmode, t.ftv.toNat⟩

/-- The lanes that take part in the lane instruction that runs (R37, R91). -/
def State.lanes (s : State) (c : LaneCtl) : BitVec 64 :=
  participants s.laneCtx.mask (fun p => (s.thread s.laneCur).pred p.val) c

def setLanes (m : BitVec 64) : List Nat := (List.range 64).filter (fun i => m.getLsbD i)

/-! ### Reading and writing elements (R94) -/

/-- Read(x, t). -/
def readElem (t : IType) (x : Nat) : Int :=
  match t with
  | .i8 | .i16 | .i32 | .i64 => (BitVec.ofNat t.width x).toInt
  | .z8 | .z16 | .z32 => (x % 2 ^ t.width : Nat)

/-- The w bits of an element. -/
def rawElem (t : IType) (x : Nat) : Nat := x % 2 ^ t.width

/-- The 32-bit element that Write(y, t) stores, w ≤ 32, or the low row of a pair. -/
def lowElem (t : IType) (y : Int) : Elem :=
  match t with
  | .i64 => BitVec.ofInt 32 y
  | .i8 | .i16 | .i32 | .z8 | .z16 | .z32 => BitVec.ofInt 32 (readElem t (BitVec.ofInt 64 y).toNat)

def highElem (y : Int) : Elem := BitVec.ofInt 32 (y / 2 ^ 32)

/-- The bits of a vector operand in one lane: a pair for .i64. -/
def State.vecBits (s : State) (key : Nat) (t : IType) (v : VReg) (i : Nat) : Nat :=
  let lo := ((s.row key v.val).at i).toNat
  if t = .i64 then lo + ((s.row key (v.val + 1)).at i).toNat * 2 ^ 32 else lo

/-- The bits of a second source (R38). -/
def State.bBits (s : State) (key : Nat) (t : IType) (b : BSrc) (i : Nat) : Nat :=
  match b with
  | .vec v => s.vecBits key t v i
  | .sca r => ((s.thread key).sreg r).toNat
  | .imm x => (x.signExtend 64).toNat

def State.cBits (s : State) (key : Nat) (t : IType) (x : CSrc) (i : Nat) : Nat :=
  match x with
  | .vec v => s.vecBits key t v i
  | .sca r => ((s.thread key).sreg r).toNat

/-- Write(y, t) into the lanes of a mask. -/
def State.writeLanes (s : State) (key : Nat) (t : IType) (d : VReg) (m : BitVec 64) (y : Nat → Int) : State :=
  let s1 := s.setRow key d.val ((s.row key d.val).blend m (fun i => lowElem t (y i)))
  if t = .i64 then s1.setRow key (d.val + 1) ((s.row key (d.val + 1)).blend m (fun i => highElem (y i))) else s1

/-- Bits of a predicate in the lanes of a mask. -/
def mergeBits (m new old : BitVec 64) : BitVec 64 := (new &&& m) ||| (old &&& ~~~m)

/-- The bit vector of a test over lanes. -/
def laneBits (f : Nat → Bool) : BitVec 64 :=
  BitVec.ofNat 64 (((List.range 64).filter f).foldl (fun n i => n + 2 ^ i) 0)

/-- Write a predicate in the lanes of a mask. -/
def State.writePred (s : State) (key : Nat) (p : PReg) (m : BitVec 64) (f : Nat → Bool) : State :=
  s.modThread key (fun t => t.setPred p.val (mergeBits m (laneBits f) (t.pred p.val)))

/-- Counters 0x001 and 0x002: lane instructions issued, and their participating lanes. -/
def State.countLane (s : State) (m : BitVec 64) : State :=
  s.modThread s.laneCur (fun t =>
    { t with counters := bumpMap (bumpMap t.counters 1 1) 2 (setLanes m).length })

end Sys2Proof.Machine
end

