-- ==== Sys2Proof/Machine/LaneMem.lean ====
section
/-! DEFINITION. Lane memory: address formation, checks, holds and faults of the global and scratchpad forms
(R102–R111). -/

namespace Sys2Proof.Machine

/-! ### The issuing instruction -/

/-- The clause whose instruction runs, if the agent's queue still holds it. -/
def Thread.runClause (t : Thread) : Option Clause := t.queue.find? (fun c => c.id == t.laneClause)

/-- The instruction stays at issue (R103, R340): its clause has not issued it. -/
def State.laneStay (s : State) : State :=
  s.modThread s.laneCur (fun t =>
    { t with queue := t.queue.map (fun c => if c.id = t.laneClause then { c with next := t.laneIdx } else c) })

/-- The completion flag that a memory instruction's flag-select bit chooses (R92). -/
def Thread.flagOf (t : Thread) (fb : Bool) : Option (Fin 12) :=
  match t.runClause with
  | some c => if fb then c.hdr.setB else c.hdr.setA
  | none => none

/-! ### Addresses (R102) -/

/-- The exact byte offset of a lane. -/
def State.laneOffset (s : State) (key : Nat) (m : LaneAddr) (eb i : Nat) : Int :=
  let u : Int := m.addend.elim 0 (fun r => ((s.thread key).sreg r).toInt)
  let x : Int := match m.index with
    | none => (i * eb : Nat)
    | some ix => ((s.row key ix.v.val).at i).toInt * 2 ^ ix.shift.val
  m.off.toInt + u + x

/-- Whether a translation register's attributes permit an access. -/
def Translation.permits (b : Translation) : Access → Bool
  | .load => b.rd
  | .store => b.wr
  | .atomic => b.rd && b.wr
  | .fetch => b.rd

/-- One participating lane's access: its offset, address and the result of checks 1–4 of R103. -/
structure LaneReq where
  lane : Nat
  o : Int
  va : Word
  check : MemCheck
  /-- on the direct path -/
  direct : Bool := false
  deriving DecidableEq, Repr

/-- A lane takes the direct path (R102). -/
def Translation.direct (b : Translation) (acc : Access) (o : Int) (eb : Nat) : Bool :=
  decide (0 ≤ o ∧ o + (eb : Int) ≤ (b.limit.toNat : Int)) && b.permits acc

/-- Checks 1–4 of one lane, on the direct path where the offset lies below the limit, else on the TLB path. The home of a line
that is another plot's answers as for a page not present on either (R168). -/
def State.laneCheck (s : State) (key : Nat) (b : Translation) (acc : Access) (o : Int) (eb : Nat) : Word × MemCheck :=
  let va : Word := b.vbase.setWidth 64 + BitVec.ofInt 64 o
  if b.direct acc o eb then
    let pa := b.frame.toNat + o.toNat
    (va,
      if va.toNat % eb ≠ 0 then .trap cMisaligned
      else if s.foreign (s.plotOf key) pa then .hold
      else if s.mem.escapesRun (s.partyOf key) b.obj (acc != .load) pa eb then .trap cEscape
      else .ok ⟨pa, b.rd, b.wr, b.obj, b.cacheable, 0⟩)
  else (va, s.checkAccess key acc va eb)

def State.laneReqs (s : State) (key : Nat) (bt : BtReg) (m : LaneAddr) (acc : Access) (eb : Nat) (lanes : BitVec 64) :
    List LaneReq :=
  (setLanes lanes).map (fun i =>
    let o := s.laneOffset key m eb i
    let b := (s.thread key).bt bt.val
    let r := s.laneCheck key b acc o eb
    ⟨i, o, r.1, r.2, b.direct acc o eb⟩)

/-- The faults of an instruction that nothing holds: lane, address and cause. -/
def laneFaults (rs : List LaneReq) : List (Nat × Nat × BitVec 8) :=
  rs.filterMap (fun r =>
    match r.check with
    | .trap c => some (r.lane, r.va.toNat, c)
    | .ok _ => none
    | .hold => none
    | .wait => none)

def laneOks (rs : List LaneReq) : List (LaneReq × Xlat) :=
  rs.filterMap (fun r =>
    match r.check with
    | .ok x => some (r, x)
    | .trap _ => none
    | .hold => none
    | .wait => none)

/-- One address for each distinct 4 KiB page, in order of its first lane (R104). -/
def firstOfPages : List Nat → List Nat → List Nat
  | [], _ => []
  | va :: vs, seen => if seen.contains (va / 4096) then firstOfPages vs seen else va :: firstOfPages vs (va / 4096 :: seen)

/-- The messages of a held instruction, in ascending order of the lowest lane of each page (R104). -/
def heldVas (rs : List LaneReq) : List Nat :=
  firstOfPages ((rs.filter (fun r => decide (r.check = .hold))).map (·.va.toNat)) []

/-- The lanes of a list as a mask. -/
def lanesMask (xs : List Nat) : BitVec 64 := laneBits (fun i => xs.contains i)

/-! ### Lane faults (R105) -/

/-- Raise a lane fault: the clause is abandoned at its first unissued instruction, and the trap waits for its entry.
It takes the place of a precise trap not yet entered (R106). A sprout is abandoned with the cause of its lowest
faulting lane. -/
def State.laneFault (s : State) (key : Nat) (addr : BitVec 56) (mask : BitVec 64) (clause idx : Nat)
    (faults : List (Nat × Nat × BitVec 8)) : State :=
  match faults with
  | [] => s
  | (_, _, c0) :: _ =>
    if isSproutKey key then s.abandon key c0
    else
      s.modThread key (fun t =>
        let cl := t.queue.find? (fun c => c.id == clause)
        let rest := cl.elim 0 (fun c => if c.next < c.instrs.length then c.next + 1 else 0)
        { t with
          queue := t.queue.filter (fun c => c.id != clause)
          laneStop := true
          trap := some
            { cause := 0x80 ||| c0, pc := t.unspec.pc, clause := addr, index := BitVec.ofNat 8 (idx + 1)
              rest := BitVec.ofNat 8 rest, lanes := lanesMask (faults.map (·.1)), clauseMask := mask
              laneInfo := faults.map (fun f => (f.1, f.2.1, f.2.2)), aband := cl } })

/-- The lane fault of the instruction that runs. -/
def State.laneFaultHere (s : State) (faults : List (Nat × Nat × BitVec 8)) : State :=
  let t := s.thread s.laneCur
  s.laneFault s.laneCur (t.runClause.elim 0 (·.addr)) s.laneCtx.mask t.laneClause t.laneIdx faults

def State.touchLines (s : State) (key : Nat) (h : Hint) (xs : List (LaneReq × Xlat)) : State :=
  xs.foldl (fun s' x => s'.touchLine key h (lineOf x.2.pa)) s

/-! ### The global forms (R103, R104, R110, R111) -/

/-- The manager logs a request of the direct path for a line of another plot (R168). -/
def State.logDirect (s : State) (rs : List LaneReq) : State :=
  if rs.any (fun r => r.direct && decide (r.check = .hold) && !s.foreignVa s.laneCur r.va.toNat) then s.managerLog 2 (s.plotOf s.laneCur) else s

/-- What a global memory instruction does when each of its lanes has its checks: it stays at issue while a walk
waits or the log is full, is held whole when a page is absent, and otherwise completes its good lanes and faults the
others. The lanes of the TLB path alone teach the TLBs (R102). -/
def State.laneGlobal (s : State) (rs : List LaneReq) (hold : State → List Nat → State)
    (go : State → List (LaneReq × Xlat) → State) : State :=
  if rs.any (fun r => decide (r.check = .wait)) then s.laneStay
  else if rs.any (fun r => decide (r.check = .hold)) then
    (if s.logBusy s.laneCur then s.laneStay else hold (s.logDirect rs) (heldVas rs))
  else
    let oks := laneOks rs
    ((oks.filter (fun x => !x.1.direct)).foldl (fun s' x => s'.fill s.laneCur x.1.va.toNat (.ok x.2)) (go s oks)).laneFaultHere (laneFaults rs)

/-- Begin a long-latency operation (R92, R93); with no lane it sets no flag. -/
def Thread.beginLong (t : Thread) (fb : Bool) (left : BitVec 64) (rows : List Nat) : Thread :=
  { t with
    longOps := t.longOps ++ [{ id := t.nextId, clause := t.laneClause, idx := t.laneIdx, addr := t.runClause.elim 0 (·.addr)
                               mask := t.runClause.elim t.mask (·.mask), flag := t.flagOf fb, left := left, rows := rows }]
    nextId := t.nextId + 1 }

/-- The log entry of the held instruction. -/
def State.laneEntry (s : State) (seq longOp access : Nat) (loads : List LoadReq) (hint : Hint) : LogEntry :=
  let t := s.thread s.laneCur
  { id := 0, target := .lane seq longOp t.laneClause t.laneIdx, access := access, pc := t.pc
    clauseAddr := t.runClause.elim 0 (·.addr), clauseMask := s.laneCtx.mask, loads := loads, hint := some hint }

/-- `vld`: a lane load for each lane that passes, all of one long operation. -/
def State.vldAt (s : State) (t : IType) (d : VReg) (bt : BtReg) (m : LaneAddr) (h : Hint) (fb : Bool) (c : LaneCtl) : State :=
  let key := s.laneCur
  let eb := t.width / 8
  let lanes := s.lanes c
  if lanes = 0 then s.countLane lanes
  else
    let op := (s.thread key).nextId
    let req (mark id : Nat) (r : LaneReq) (pa : Nat) (unc held : Bool) : LoadReq :=
      { id := id, dest := .lane d.val r.lane t op, va := r.va.toNat, pa := pa, size := eb, mark := mark, uncached := unc, held := held }
    let rs := s.laneReqs key bt m .load eb lanes
    let begin (s : State) (left : BitVec 64) : State :=
      (s.modThread key (fun th => th.beginLong fb left (vregRows t d))).countLane lanes
    s.laneGlobal rs
      (fun s vas =>
        let s1 := (begin s lanes).modThread key (fun th => { th with nextId := op + 65 })
        s1.openFault key (s1.laneEntry 0 op 0 (rs.map (fun r => req (op + 1) (op + 1 + r.lane) r 0 false true)) h) vas)
      (fun s oks =>
        let s1 := begin s (lanesMask (oks.map (·.1.lane)))
        (s1.modThread key (fun th =>
          { th with
            win := th.win ++ oks.map (fun x => req (op + 1) (op + 1 + x.1.lane) x.1 x.2.pa x.2.cellOnly false)
            nextId := op + 65 })).touchLines key h oks)

/-- A lane store or atomic: one queue entry, its lanes in ascending order. In a full queue an atomic of a sprout that will be made
lets the held entries drain first (R222). -/
def State.laneQueue (s : State) (bt : BtReg) (m : LaneAddr) (acc : Access) (access eb : Nat) (h : Hint) (fb : Bool)
    (c : LaneCtl) (rows : List Nat) (atomic : Bool) (kind : Nat → SqKind) (data cmp : Nat → Nat) : State :=
  let key := s.laneCur
  let lanes := s.lanes c
  if lanes = 0 then s.countLane lanes
  else if (s.thread key).queueFull then
    (if atomic && isSproutKey key then
        let rs := s.laneReqs key bt m acc eb lanes
        if rs.any (fun r => decide (r.check = .wait)) then s.laneStay
        else if !rs.any (fun r => decide (r.check = .hold)) && !(laneFaults rs).isEmpty then s.laneFaultHere (laneFaults rs)
        else (s.modThread key (fun t => t.beginAtomic true)).laneStay
      else if isSproutKey key && !(s.thread key).draining then s.abandon key cRange else s.laneStay)
  else
    let op := (s.thread key).nextId
    let part (r : LaneReq) (pa : Nat) (obj : Bool) : Part :=
      { lane := r.lane, va := r.va.toNat, pa := pa, data := leBytes eb (data r.lane), cmp := leBytes eb (cmp r.lane), obj := obj }
    let rs := s.laneReqs key bt m acc eb lanes
    let enter (s : State) (left : BitVec 64) (ps : List Part) (held : Bool) : State :=
      (s.modThread key (fun th =>
        let t1 := th.beginLong fb left rows
        let t2 := if ps.isEmpty then t1 else t1.enqueue (kind op) ps held
        if atomic then t2.beginAtomic (isSproutKey key) else t2)).countLane lanes
    s.laneGlobal rs
      (fun s vas =>
        let s1 := enter s lanes (rs.map (fun r => part r 0 false)) true
        s1.openFault key (s1.laneEntry (op + 1) op access [] h) vas)
      (fun s oks =>
        (enter s (if atomic then lanesMask (oks.map (·.1.lane)) else 0) (oks.map (fun x => part x.1 x.2.pa x.2.obj)) false).touchLines key h oks)

/-- The lanes of a global memory instruction that executes now, with their checks. -/
def State.laneGlobals (s : State) : Instr → Option (List LaneReq)
  | .vld t _ bt m _ _ c => some (s.laneReqs s.laneCur bt m .load (t.width / 8) (s.lanes c))
  | .vst t bt m _ _ _ c => some (s.laneReqs s.laneCur bt m .store (t.width / 8) (s.lanes c))
  | .vamo _ t _ bt m _ _ _ c => some (s.laneReqs s.laneCur bt m .atomic (t.width / 8) (s.lanes c))
  | _ => none

/-- Whether it would stay at issue: a walk waits, or the log or the queue is full (R90). One that makes a sprout's held entries
drain, or that abandons the sprout, does not. -/
def State.laneWaits (s : State) (i : Instr) : Bool :=
  match s.laneGlobals i with
  | none => false
  | some rs =>
    let t := s.thread s.laneCur
    let wait := rs.any (fun r => decide (r.check = .wait))
    let hold := rs.any (fun r => decide (r.check = .hold))
    let load := match i with | .vld .. => true | _ => false
    let atomic := match i with | .vamo .. => true | _ => false
    if rs.isEmpty then false
    else if load || !t.queueFull then wait || (hold && s.logBusy s.laneCur)
    else if !isSproutKey s.laneCur then true
    else if !atomic then t.draining
    else wait || (t.draining && (hold || (laneFaults rs).isEmpty))

def execVld (t : IType) (d : VReg) (bt : BtReg) (m : LaneAddr) (h : Hint) (fb : Bool) (c : LaneCtl) (s : State) :
    Host.Outcome State Fault Refusal :=
  .next (s.vldAt t d bt m h fb c)

def execVst (t : IType) (bt : BtReg) (m : LaneAddr) (e : VReg) (h : Hint) (fb : Bool) (c : LaneCtl) (s : State) :
    Host.Outcome State Fault Refusal :=
  .next (s.laneQueue bt m .store 1 (t.width / 8) h fb c [] false .laneStore (s.vecBits s.laneCur t e) (fun _ => 0))

def execVamo (op : AmoOp) (t : IType) (d : VReg) (bt : BtReg) (m : LaneAddr) (e : VReg) (h : Hint) (fb : Bool)
    (c : LaneCtl) (s : State) : Host.Outcome State Fault Refusal :=
  .next (s.laneQueue bt m .atomic 2 (t.width / 8) h fb c (vregRows t d) true (fun o => .laneAtomic op t d.val o)
    (s.vecBits s.laneCur t e) (s.vecBits s.laneCur t d))

/-! ### Scratchpad (R108, R418) -/

/-- The bytes of scratchpad at a linear offset. -/
def Core.padBytes (c : Core) (a n : Nat) : List Byte := (List.range n).map (fun i => fgetD c.pad (a + i) 0)

/-- Write scratchpad bytes; a bank word written whole is no longer in error (R418). -/
def Core.padWrite (c : Core) (a : Nat) (bs : List Byte) : Core :=
  let pad := (bs.zipIdx).foldl (fun m x => fset m (a + x.2) x.1) c.pad
  { c with
    pad := pad
    padBad := c.padBad.filter (fun w => !decide (a ≤ 8 * w ∧ 8 * w + 8 ≤ a + bs.length))
    reported := c.reported.filter (fun w => !decide (a ≤ 8 * w ∧ 8 * w + 8 ≤ a + bs.length)) }

/-- Whether a run of scratchpad holds a bank word in error. -/
def Core.padPoison (c : Core) (a n : Nat) : Option Nat :=
  c.padBad.find? (fun w => decide (8 * w < a + n ∧ a < 8 * w + 8))

/-- Tell the plot of an uncorrectable scratchpad word (kind 0) or accumulator element (kind 1) when it is first found
(R418). `unit` numbers the word or element; elements are kept above 2^32. -/
def State.noticeUnit (s : State) (c plot kind unit : Nat) : State :=
  let id := kind * 2 ^ 32 + unit
  if (s.core c).reported.contains id then s
  else
    let low := if kind = 0 then 8 * unit else unit
    let val := 2 ^ 63 + kind * 2 ^ 61 + c * 2 ^ 48 + low
    ((s.modCore c (fun x => { x with reported := insNat x.reported id })).raiseAsync plot 0x34 (BitVec.ofNat 64 val)).errorLog
      (dieOf c) val

/-- Items 1 to 3 of R108 for one lane. -/
def State.padCheck (s : State) (key : Nat) (load : Bool) (o : Int) (eb : Nat) : Option (BitVec 8) :=
  if o % (eb : Int) ≠ 0 then some cMisaligned
  else if o < 0 ∨ ((s.launchOf key).scratch : Int) < o + (eb : Int) then some cRange
  else if load && ((s.core (coreOfKey key)).padPoison o.toNat eb).isSome then some cPoison
  else none

/-- The lanes of a scratchpad instruction, with their offsets and faults. -/
def State.padReqs (s : State) (key : Nat) (m : LaneAddr) (load : Bool) (eb : Nat) (lanes : BitVec 64) :
    List (Nat × Int × Option (BitVec 8)) :=
  (setLanes lanes).map (fun i => let o := s.laneOffset key m eb i; (i, o, s.padCheck key load o eb))

def padFaults (rs : List (Nat × Int × Option (BitVec 8))) : List (Nat × Nat × BitVec 8) :=
  rs.filterMap (fun r => r.2.2.map (fun c => (r.1, (BitVec.ofInt 64 r.2.1).toNat, c)))

/-- Report every bank word in error that a scratchpad load met. -/
def State.noticePads (s : State) (key eb : Nat) (rs : List (Nat × Int × Option (BitVec 8))) : State :=
  rs.foldl (fun s' r =>
    if r.2.2 = some cPoison then
      match (s'.core (coreOfKey key)).padPoison r.2.1.toNat eb with
      | some w => s'.noticeUnit (coreOfKey key) (s'.plotOf key) 0 w
      | none => s'
    else s') s

def execVlds (t : IType) (d : VReg) (m : LaneAddr) (c : LaneCtl) (s : State) : Host.Outcome State Fault Refusal :=
  let key := s.laneCur
  let lanes := s.lanes c
  let eb := t.width / 8
  let rs := s.padReqs key m true eb lanes
  let ok := lanesMask ((rs.filter (·.2.2.isNone)).map (·.1))
  let pad := s.core (coreOfKey key)
  .next ((((s.writeLanes key t d ok (fun i => leNat (pad.padBytes (s.laneOffset key m eb i).toNat eb))).countLane lanes).noticePads
    key eb rs).laneFaultHere (padFaults rs))

def execVsts (t : IType) (m : LaneAddr) (e : VReg) (c : LaneCtl) (s : State) : Host.Outcome State Fault Refusal :=
  let key := s.laneCur
  let lanes := s.lanes c
  let eb := t.width / 8
  let rs := s.padReqs key m false eb lanes
  let oks := rs.filter (·.2.2.isNone)
  let s1 := s.modCore (coreOfKey key) (fun x =>
    oks.foldl (fun x r => x.padWrite r.2.1.toNat (leBytes eb (s.vecBits key t e r.1))) x)
  .next ((s1.countLane lanes).laneFaultHere (padFaults rs))

end Sys2Proof.Machine
end

