-- ==== Sys2Proof/Machine/LaneDispatch.lean ====
section
/-! DEFINITION. Lane dispatch, lane-state reads and translation registers (R43, R61, R85–R87), and the lane pipe's own
events: a clause starts, an instruction issues, a long-latency operation completes (R89–R93). -/

namespace Sys2Proof.Machine

/-! ### tbind (R61) -/

/-- The attributes that a run of pages shares. -/
def Xlat.sameAttr (x y : Xlat) : Bool :=
  x.rd == y.rd && x.wr == y.wr && x.obj == y.obj && x.cacheable == y.cacheable

/-- Examine further pages: the run so far, the next page's address and the physical address expected of it. Answers
the run, or none where a leaf is moving and the walk waits. -/
def State.bindRun (s : State) (key span : Nat) (x : Xlat) : Nat → Nat → Nat → Nat → Option Nat
  | 0, run, _, _ => some run
  | n + 1, run, va, pa =>
    if span ≤ run then some run
    else
      match s.xlat key va with
      | .moving => none
      | .absent => some run
      | .ok y =>
        let b := 2 ^ pageBits y.size
        if y.pa = pa ∧ va % b = 0 ∧ x.sameAttr y then s.bindRun key span x n (run + b) (va + b) (pa + b) else some run

/-- The translation that `tbind` sets, or none while its walk waits. -/
def State.bindOf (s : State) (key : Nat) (va span : Word) : Option Translation :=
  let off : Translation := { vbase := va.setWidth 56 }
  if 2 ^ 56 ≤ va.toNat ∨ span = 0 then some off
  else
    match s.xlat key va.toNat with
    | .moving => none
    | .absent => some off
    | .ok x =>
      if !x.rd && !x.wr then some off
      else
        let b := 2 ^ pageBits x.size
        let run := b - va.toNat % b
        (s.bindRun key span.toNat x 15 run (va.toNat + run) (x.pa + run)).map (fun r =>
          { vbase := va.setWidth 56, frame := BitVec.ofNat 52 x.pa
            limit := BitVec.ofNat 48 (min (min span.toNat r) (2 ^ 48 - 1))
            rd := x.rd, wr := x.wr, obj := x.obj, cacheable := x.cacheable })

def execTbind (b : BtReg) (a c : SReg) (s : State) : Host.Outcome State Fault Refusal :=
  .next (s.issue computeOnly [a, c] (fun s =>
    match s.bindOf s.cur (s.th.sreg a) (s.th.sreg c) with
    | none => s
    | some r =>
      (s.modThread s.cur (fun t => { t with bts := fset t.bts b.val r }.advance)).fill s.cur (s.th.sreg a).toNat
        (s.xlat s.cur (s.th.sreg a).toNat)))

/-! ### lrun (R43, R85) -/

/-- What reading and checking a clause gives. -/
inductive ClauseRead where
  | ok (s : State) (h : ClauseHeader) (is : List Instr)
  /-- illegal at this index: 0 the header, 1 + i instruction i -/
  | illegal (index : Nat)
  | fault (va : Nat)
  | wait
  | ask (s : State)

/-- Read the instruction words of a clause in order. -/
def State.readWords (s : State) (key va : Nat) : Nat → List (List Byte) → CodeRead × List (List Byte)
  | 0, acc => (.ok s [], acc)
  | n + 1, acc =>
    match s.readCode key true va 12 with
    | .ok s1 bs => State.readWords s1 key (va + 12) n (acc ++ [bs])
    | .fault a => (.fault a, acc)
    | .wait => (.wait, acc)
    | .ask s1 => (.ask s1, acc)

/-- Decode the words in order, up to the first that is illegal for the agent (R36–R41, R17, R50). -/
def State.checkWords (s : State) (key : Nat) : List (List Byte) → Nat → List Instr → List Instr × Option Nat
  | [], _, acc => (acc, none)
  | w :: ws, i, acc =>
    match decodeLaneBytes w with
    | .ok x => if s.laneNamesOk key (laneNames x) then State.checkWords s key ws (i + 1) (acc ++ [x]) else (acc, some (i + 1))
    | .error _ => (acc, some (i + 1))

def State.readClause (s : State) (key va : Nat) : ClauseRead :=
  match s.readCode key true va 12 with
  | .fault a => .fault a
  | .wait => .wait
  | .ask s1 => .ask s1
  | .ok s1 bs =>
    match decodeHeaderBytes bs with
    | .error _ => .illegal 0
    | .ok h =>
      match s1.readWords key (va + 12) h.length.val [] with
      | (.fault a, _) => .fault a
      | (.wait, _) => .wait
      | (.ask s2, _) => .ask s2
      | (.ok s2 _, ws) =>
        match s2.checkWords key ws 0 [] with
        | (_, some i) => .illegal i
        | (is, none) => .ok s2 h is

/-- A global lane memory instruction (R317). -/
def isLaneGlobal : Instr → Bool
  | .vld .. => true
  | .vst .. => true
  | .vamo .. => true
  | _ => false

def isVamo : Instr → Bool
  | .vamo .. => true
  | _ => false

/-- The unfinished clauses that a lane queue holds at most (R85, R219). -/
def laneQueueMax (key : Nat) : Nat := if isSproutKey key then 2 else 8

def execLrun (n : BitVec 19) (s : State) : Host.Outcome State Fault Refusal :=
  .next (s.issue computeOnly [] (fun s0 =>
    let s := s0.modThread s0.cur (fun t => { t with queue := t.queue.filter (fun c => !t.finished c) })
    let key := s.cur
    let t := s.th
    let va := ((s.launchOf key).laneBase + 12 * n.toNat) % 2 ^ 56
    if laneQueueMax key ≤ t.queue.length then s
    else
      match s.readClause key va with
      | .wait => s
      | .ask s1 => s1
      | .fault a => if s.logBusy key then s else s.fetchFault key a
      | .illegal i =>
        if t.clausesDone then
          s.raise key { cause := cIllegal, pc := t.pc, clause := BitVec.ofNat 56 va, index := BitVec.ofNat 8 i }
        else s
      | .ok s1 h is =>
        if is.any isLaneGlobal && s1.logBusy key then s
        else
          s1.modThread key (fun t =>
            { t with
              pc := t.pc + 4
              counters := bumpMap t.counters 0 1
              queue := t.queue ++ [{ id := t.nextId, addr := BitVec.ofNat 56 va, hdr := h, instrs := is,
                                     mask := t.mask, rmode := t.rmode, ftv := t.ftv }]
              nextId := t.nextId + 1
              region := if is.any isVamo then none else t.region })))

/-! ### lsync, sfromv, sfromp (R86, R87) -/

def execLsync (s : State) : Host.Outcome State Fault Refusal := .next (s.issueLaneRead [] State.advance)

/-- Rows that an issued operation has yet to write (R93). -/
def Thread.pendingRows (t : Thread) : List Nat := (t.longOps.filter (fun o => decide (o.left ≠ 0))).flatMap (·.rows)

def execSfromv (d : SReg) (v : VReg) (lane : Fin 64) (s : State) : Host.Outcome State Fault Refusal :=
  .next (s.issueLaneRead [d] (fun s =>
    if !s.rowOk s.cur v.val then s.trapNow cIllegal
    else if s.th.pendingRows.contains v.val then s
    else s.finish d (((s.row s.cur v.val).at lane.val).setWidth 64)))

def execSfromp (d : SReg) (p : PReg) (s : State) : Host.Outcome State Fault Refusal :=
  .next (s.issuePred p [d] (fun s => s.finish d (s.th.pred p.val)))

/-! ### The lane pipe -/

/-- The agent may issue lane work: it runs or is in its handler, and no lane fault, pending trap or debug stop holds it
(R105, R286, R299). -/
def Thread.laneLive (t : Thread) : Bool :=
  (decide (t.status = .running) || decide (t.status = .handler)) && !t.frozen && !t.laneStop && t.trap.isNone

/-- The first clause with an instruction left to issue. -/
def Thread.headClause (t : Thread) : Option Clause := t.queue.find? (fun c => decide (c.next < c.instrs.length))

def Thread.setClause (t : Thread) (id : Nat) (f : Clause → Clause) : Thread :=
  { t with queue := t.queue.map (fun c => if c.id = id then f c else c) }

/-- CLAUSE_START (R89): the first clause with an instruction left starts when the flags of its wait mask are clear. -/
def clauseStartStep (s : State) : Option State :=
  let key := s.subj.ag
  let t := s.thread key
  if !t.laneLive then none
  else
    match t.headClause with
    | none => none
    | some c =>
      if c.started ∨ c.hdr.waitMask &&& t.flags ≠ 0 then none
      else some (s.modThread key (fun t => t.setClause c.id (fun c => { c with started := true })))

def execClauseStart (s : State) : Host.Outcome State Fault Refusal := .next ((clauseStartStep s).getD s)

/-- The yield bit of a lane word. -/
def laneYield (i : Instr) : Bool :=
  match encodeLaneRaw i with
  | some r => r.ctl.yld
  | none => false

/-- The next instruction of an agent's running clause, with the state in which it executes, where no row that it names is
pending. -/
def State.laneNext (s : State) (key : Nat) : Option (State × Instr) :=
  let t := s.thread key
  if !t.laneLive then none
  else
    match t.headClause with
    | none => none
    | some c =>
      if !c.started then none
      else
        match c.instrs[c.next]? with
        | none => none
        | some i =>
          if (laneNames i).rows.any (fun r => t.pendingRows.contains r) then none
          else
            let s1 := s.modThread key (fun t =>
              { t.setClause c.id (fun c => { c with next := c.next + 1 }) with
                laneClause := c.id, laneIdx := c.next, laneStamp := none, laneLast := laneYield i })
            some ({ s1 with laneCur := key }, i)

/-- LANE_ISSUE (R90, R93): the next instruction of the running clause issues when no row it names is pending and, for a global
memory instruction, it would not stay at issue; `step` then executes it. Its yield bit marks the group last-in-cycle (R18). -/
def laneIssueStep (s : State) : Option State :=
  match s.laneNext s.subj.ag with
  | none => none
  | some (s1, i) => if s1.laneWaits i then none else some { s1 with agenda := .exec i {} :: s1.agenda }

def execLaneIssue (s : State) : Host.Outcome State Fault Refusal := .next ((laneIssueStep s).getD s)

/-- LONG_LATENCY_COMPLETE (R92): an operation with nothing outstanding completes; its flag clears with the last
operation that set it. -/
def longLatencyCompleteStep (s : State) : Option State :=
  let key := s.subj.ag
  let t := s.thread key
  match t.longOps.find? (fun o => decide (o.left = 0)) with
  | none => none
  | some o => some (s.modThread key (fun t => { t with longOps := t.longOps.filter (fun x => x.id != o.id) }))

def execLongLatencyComplete (s : State) : Host.Outcome State Fault Refusal := .next ((longLatencyCompleteStep s).getD s)

end Sys2Proof.Machine
end

