-- ==== Sys2Proof/Machine/Tile.lean ====
section
/-! DEFINITION. Tiles and layout words (R44–R46, R196–R201): what the octet of an engine operation says, and where a
position of a tile lies in scratchpad. -/

namespace Sys2Proof.Machine

/-! ### Layout words (R46) and bank modes (R200, R201) -/

structure Layout where
  offset : Nat
  core : Nat
  mode : Nat
  stride0 : Int
  stride1 : Int
  stride2 : Int
  deriving DecidableEq, Repr

/-- A signed field of w bits. -/
def sfield (n lo w : Nat) : Int := (BitVec.ofNat w (n / 2 ^ lo)).toInt

/-- The layout word in the low halves of three registers. -/
def layoutOf (a b c : Word) : Layout :=
  let n := a.toNat % 2 ^ 32 + b.toNat % 2 ^ 32 * 2 ^ 32 + c.toNat % 2 ^ 32 * 2 ^ 64
  { offset := n % 2 ^ 20, core := n / 2 ^ 20 % 8, mode := n / 2 ^ 23 % 16
    stride0 := sfield n 27 23, stride1 := sfield n 50 23, stride2 := sfield n 73 23 }

/-- X_m(ρ) (Table 9.4). -/
def bankXor (m rho : Nat) : Nat :=
  if m = 0 then 0
  else if m ≤ 5 then rho % 2 ^ m
  else if m ≤ 10 then rho / 2 % 2 ^ (m - 5)
  else rho / 4 % 2 ^ (m - 10)

/-- The physical place of scratchpad offset o under a bank mode: row, bank and byte. -/
def padPlace (m o : Nat) : Nat :=
  let rho := o / 256
  rho * 256 + ((o / 8 % 32) ^^^ bankXor m rho) * 8 + o % 8

/-- A byte of scratchpad read through a bank mode. -/
def Core.padAt (c : Core) (m o : Nat) : Byte := fgetD c.pad (padPlace m o) 0

/-- Bytes of scratchpad at rising offsets read through a bank mode. -/
def Core.padRun (c : Core) (m o n : Nat) : List Byte := (List.range n).map (fun i => c.padAt m (o + i))

/-- The number that n bytes of scratchpad hold, read through mode 0. -/
def Core.padNum (c : Core) (o n : Nat) : Nat := leNat (c.padBytes o n)

/-- The aligned bank words that bytes at the given places of one write cover whole. -/
def wholeWords (places : List Nat) : List Nat :=
  (places.map (· / 8)).eraseDups.filter (fun w => (List.range 8).all (fun i => places.contains (8 * w + i)))

/-- Write single bytes at physical places as one access; a bank word covered whole is no longer in error (R418). -/
def Core.padPoke (c : Core) (xs : List (Nat × Byte)) : Core :=
  let whole := if c.padBad.isEmpty ∧ c.reported.isEmpty then [] else wholeWords (xs.map (·.1))
  { c with
    pad := xs.foldl (fun m x => fset m x.1 x.2) c.pad
    padBad := c.padBad.filter (fun w => !whole.contains w)
    reported := c.reported.filter (fun w => !whole.contains w) }

/-- The first bank word in error among physical places. -/
def Core.padBadAt (c : Core) (places : List Nat) : Option Nat := c.padBad.find? (fun w => places.any (fun p => p / 8 == w))

/-! ### Octets (R44, R45, R196, R197) -/

/-- Word k of an octet. -/
def CopySpec.word (x : CopySpec) (k : Nat) : Word := x.oct.getD k 0
def CopySpec.rows (x : CopySpec) : Nat := (x.word 2).toNat / 2 ^ 32
def CopySpec.rowBytes (x : CopySpec) : Nat := (x.word 2).toNat % 2 ^ 32
def CopySpec.rowsLeft (x : CopySpec) : Nat := (x.word 3).toNat / 2 ^ 32
def CopySpec.bytesLeft (x : CopySpec) : Nat := (x.word 3).toNat % 2 ^ 32
def CopySpec.size (x : CopySpec) : Nat := x.rows * x.rowBytes
def CopySpec.layout (x : CopySpec) : Layout := layoutOf (x.word 4) (x.word 5) (x.word 6)
/-- Field of word 7. -/
def CopySpec.w7 (x : CopySpec) (lo n : Nat) : Nat := (x.word 7).toNat / 2 ^ lo % 2 ^ n
def CopySpec.multicast (x : CopySpec) : Bool := x.w7 31 1 == 1
def CopySpec.barrierOn (x : CopySpec) : Bool := x.w7 20 1 == 1
def CopySpec.barrier (x : CopySpec) : Nat := x.w7 0 20

/-- The engine that runs the operation (Table 9.5): 0 copy, 1 ring, 2 bin. -/
def CopySpec.engine (x : CopySpec) : Nat := if x.kind = 4 then 1 else if x.kind = 5 then 2 else 0

/-- An engine's queue is full (Table 9.5). -/
def Core.engineFull (c : Core) (e : Nat) : Bool :=
  decide ((if e = 1 then 8 else 16) ≤ (c.eops.filter (fun o => o.spec.engine == e)).length)

/-- Whether position (r, b) is clipped; `tgather` clips rows by index (R197, R210). -/
def CopySpec.clipped (x : CopySpec) (idx : Nat → Nat) (r b : Nat) : Bool :=
  decide ((if x.kind = 3 then idx r else r) ≥ x.rowsLeft) || decide (b ≥ x.bytesLeft)

/-- P(r, b) of R198. -/
def Layout.pos (l : Layout) (r b : Nat) : Int :=
  (l.offset : Int) + (r : Int) * l.stride0 + ((b / 256 : Nat) : Int) * (if l.stride1 = 0 then 256 else l.stride1) + ((b % 256 : Nat) : Int)

/-- The global address of position (r, b), modulo 2^64 (R209). -/
def CopySpec.globalAt (x : CopySpec) (row b : Nat) : Nat :=
  (x.word 0 + BitVec.ofNat 64 row * x.word 1 + BitVec.ofNat 64 b).toNat

/-- The offset of the four corner positions, where a tile has any (R199). -/
def Layout.corners (l : Layout) (rows bytes : Nat) : List Int :=
  if rows = 0 ∨ bytes = 0 then []
  else [0, rows - 1].flatMap (fun r => ([0, bytes - 1] ++ (if 256 ≤ bytes then [255, (bytes - 1) / 256 * 256, (bytes - 1) / 256 * 256 - 1] else [])).map
    (fun b => l.pos r b))

/-- Every position lies in an allocation. -/
def Layout.fits (l : Layout) (rows bytes alloc : Nat) : Bool :=
  (l.corners rows bytes).all (fun o => decide (0 ≤ o ∧ o < (alloc : Int)))

/-- The last position of a `tcopy.out` that writes the byte at a virtual address: search the rows downward. -/
def CopySpec.findOut (x : CopySpec) (va : Nat) : Nat → Option (Nat × Nat)
  | 0 => none
  | r + 1 =>
    let b := (BitVec.ofNat 64 va - x.word 0 - BitVec.ofNat 64 r * x.word 1).toNat
    if b < x.rowBytes ∧ !x.clipped id r b then some (r, b) else x.findOut va r

/-- The byte that a held `tcopy.out` of a sprout writes at a virtual address (R222). -/
def State.outByte (s : State) (key : Nat) (x : CopySpec) (va : Nat) : Option Byte :=
  if x.kind ≠ 1 then none
  else
    (x.findOut va x.rows).map (fun p =>
      (s.core (clusterMate (coreOfKey key) x.layout.core)).padAt x.layout.mode (x.layout.pos p.1 p.2).toNat)

end Sys2Proof.Machine
end

