-- ==== Sys2Proof/Machine/Drain.lean ====
section
/-! DEFINITION. The load window and the store queue at work (R56, R70, R71, R161–R167, R222): loads bind, entries
drain, atomics perform and values return. -/

namespace Sys2Proof.Machine

/-! ### The pair comparator -/

/-- The channels of a plot in ascending index (R9, R365). -/
def Plot.channels (p : Plot) : List Nat := (p.clusters.flatMap clusterTiles).mergeSort (· ≤ ·)

/-- Both halves record the comparator's finding in PAIR.STAT. -/
def State.pairFlag (s : State) (a b : Nat) (v : Word) (stop : Bool) : State :=
  [a, b].foldl (fun s' p =>
    s'.modPlot p (fun x => { x with pairStat := x.pairStat ||| v, stopNow := x.stopNow || stop })) s

/-- The pair comparator takes a store of a paired launch (R366). -/
def State.pairStore (s : State) (plot : Nat) (paired : Bool) (pa : Nat) (bs : List Byte) : State :=
  match (s.plot plot).pair with
  | none => s
  | some (other, isPrimary) =>
    if !paired || !isDram pa then s
    else
      let pos := (s.plot plot).channels.idxOf (pa / 2 ^ 28)
      let pri := if isPrimary then plot else other
      let sec := if isPrimary then other else plot
      let P := s.plot pri
      let mine := 2 * pos + (if isPrimary then 0 else 1)
      let theirs := 2 * pos + (if isPrimary then 1 else 0)
      if P.pairOff.contains pos || P.pairStat.getLsbD 63 then s
      else
        let item := (pa % 2 ^ 28, bs)
        match fgetD P.pairBuf theirs [] with
        | [] =>
          if 65536 ≤ (fgetD P.pairBuf mine []).length then
            (s.modPlot pri (fun p => { p with pairOff := insNat p.pairOff pos })).pairFlag pri sec (BitVec.ofNat 64 (2 ^ 62)) false
          else s.modPlot pri (fun p => { p with pairBuf := fset p.pairBuf mine (fgetD p.pairBuf mine [] ++ [item]) })
        | h :: rest =>
          let s1 := s.modPlot pri (fun p => { p with pairBuf := fset p.pairBuf theirs rest })
          if h = item then s1
          else
            let line : Word := BitVec.ofNat 64 (lineOf ((P.channels.getD pos 0) * 2 ^ 28 + (if isPrimary then pa % 2 ^ 28 else h.1)))
            ((s1.pairFlag pri sec (BitVec.ofNat 64 (2 ^ 63 + s.cycle % 2 ^ 48)) true).raiseAsync pri 0x39 line).raiseAsync sec
              0x39 line

/-! ### Drains (R71, R73, R107, R180) -/

/-- The words a write covers, with the index of the value each now holds, for `tfence` (R172). -/
def State.noteWritten (s : State) (key a n : Nat) : State :=
  s.modThread key (fun t =>
    { t with written := (wordsOf a n).foldl (fun m w => fset m w (fgetD s.mem.hist w {}).past.length) t.written })

/-- Bytes of a party reach their cells: the line is claimed, the bytes and the tag are written, traffic to host or CXL
memory leaves by its port, to CXL memory as the line's ciphertext (R22, R410), and the pair comparator sees it. -/
def State.landAs (s : State) (p : Party) (plot : Nat) (paired : Bool) (pa : Nat) (obj tag : Bool) (bs : List Byte)
    (whole : Bool := false) : State :=
  let m := s.mem.claim p obj pa
  let s1 := s.withMem (if tag then m.writeRef pa bs else m.write pa bs)
  let s2 := if s1.mem.isPoison pa && !whole then s1.noticePoison pa else s1
  (s2.leaves plot pa bs).pairStore plot paired pa bs

/-- A write of a party in an agent's name: counter 0x035 counts the lines of DRAM that it writes (Table 17.5). -/
def State.landFor (s : State) (key pa : Nat) (p : Party) (obj tag : Bool) (bs : List Byte) (whole : Bool := false) : State :=
  let s1 := s.landAs p (s.plotOf key) (!isSysKey key && (s.launchOf key).paired) pa obj tag bs whole
  if isDram pa then s1.statPlot key 0x35 (linesOf pa bs.length).length else s1

/-- A store or atomic of an agent. -/
def State.land (s : State) (key pa : Nat) (obj tag : Bool) (bs : List Byte) (whole : Bool := false) : State :=
  (s.landFor key pa (s.partyOf key) obj tag bs whole).noteWritten key pa bs.length

/-- An access at its cell leaves the line in the caches, but for host memory, which nothing caches (R23, R162). -/
def State.touchCell (s : State) (key pa : Nat) : State := if isHost pa then s else s.touchLine key .normal (lineOf pa)

/-- The parts of an entry cover a line whole. -/
def coversLine (ps : List Part) (l : Nat) : Bool :=
  let qs := ps.filter (fun p => lineOf p.pa == l)
  decide (256 ≤ (qs.map (·.data.length)).sum)
    && (List.range 256).all (fun i => qs.any (fun p => decide (p.pa ≤ l + i ∧ l + i < p.pa + p.data.length)))

/-- The line of the part about to be written belongs to those its entry writes whole. -/
def SqEntry.inWhole (e : SqEntry) (p : Part) : Bool := e.whole.contains (lineOf p.pa) || coversLine e.parts (lineOf p.pa)

/-- The part about to be written is the last in a line that its entry writes whole. -/
def SqEntry.endsWhole (e : SqEntry) (p : Part) : Bool :=
  e.inWhole p && !(e.parts.drop 1).any (fun q => lineOf q.pa == lineOf p.pa)

/-- The error of a line written whole ends (R417). -/
def State.clearWhole (s : State) (whole : Bool) (p : Part) : State :=
  let l := lineOf p.pa
  if whole then s.withMem { s.mem with poison := s.mem.poison.filter (· ≠ l), noticed := s.mem.noticed.filter (· ≠ l) } else s

/-- The head entry loses its first part, or leaves with its last. -/
def Thread.popPart (t : Thread) : Thread :=
  match t.sq with
  | [] => t
  | e :: es =>
    match e.parts with
    | [] => { t with sq := es }
    | [_] => { t with sq := es }
    | p :: ps =>
      { t with sq := { e with
          parts := ps
          whole := if coversLine e.parts (lineOf p.pa) then insNat e.whole (lineOf p.pa) else e.whole } :: es }

/-- A sprout whose `exit` has retired and whose queue is empty is done: its context is free (R222). -/
def State.reapSprout (s : State) (key : Nat) : State :=
  if isSproutKey key && (s.thread key).released && (s.thread key).sq.isEmpty then s.dropSprout key id else s

/-- What the end of a queue entry may bring to an end: its sprout, or its block. -/
def State.reap (s : State) (key : Nat) : State := (s.reapSprout key).reapBlock (coreOfKey key)

/-- An entry of a lane instruction, which has touched its lines at issue (R109). -/
def SqEntry.isLane (e : SqEntry) : Bool :=
  match e.kind with
  | .laneStore _ | .laneAtomic _ _ _ _ => true
  | .store | .atomic _ _ | .ringInit _ | .ringRelease | .engine _ => false

/-- Engine operations of a sprout already begun (R222). -/
def Core.sproutOp (c : Core) (ctx : Nat) : Bool := c.eops.any (fun o => o.group == ctx)

/-- STORE_QUEUE_DRAIN (R71): the head entry leaves, a lane entry one lane a step. A sprout's engine entry begins on its
engine, and leaves when that is done. -/
def storeQueueDrainStep (s : State) : Option State :=
  let key := s.subj.ag
  match (s.thread key).sq with
  | [] => none
  | e :: _ =>
    if e.held || !s.queueOpen key then none
    else
      match e.kind with
      | .store | .laneStore _ =>
        match e.parts with
        | [] => some ((s.modThread key Thread.popPart).reap key)
        | p :: _ =>
          s.through (.queue key e.seq) p.pa (fun s0 =>
            let s := if e.isLane then s0 else s0.touchCell key p.pa
            some ((((s.land key p.pa p.obj p.tag p.data (e.inWhole p)).clearWhole (e.endsWhole p) p).modThread key Thread.popPart).reap key))
      | .engine spec =>
        let c := coreOfKey key
        if (s.core c).sproutOp (ctxOfKey key) || (s.core c).engineFull spec.engine then none
        else
          some (s.modCore c (fun x =>
            { x with
              eops := x.eops ++ [{ id := x.nextOp, spec := spec, group := ctxOfKey key, after := 0 }]
              nextOp := x.nextOp + 1 }))
      | .atomic _ _ | .laneAtomic _ _ _ _ | .ringInit _ | .ringRelease => none

def execStoreQueueDrain (s : State) : Host.Outcome State Fault Refusal := .next ((storeQueueDrainStep s).getD s)

/-! ### Atomics perform (R75, R111, R165, R217) -/

/-- Write one element of a row. -/
def State.writeElem (s : State) (key row : Nat) (t : IType) (lane : Nat) (v : Nat) : State :=
  s.writeLanes key t (Fin.ofNat 128 row) (BitVec.ofNat 64 (2 ^ lane)) (fun _ => readElem t v)

/-- A lane of a long operation is done. -/
def Thread.laneDone (t : Thread) (op lane : Nat) : Thread :=
  { t with longOps := t.longOps.map (fun o =>
      if o.id = op then { o with left := o.left &&& ~~~(BitVec.ofNat 64 (2 ^ lane)) } else o) }

/-- A sprout holds entries again once no atomic is left to perform (R222). -/
def Thread.endAtomic (t : Thread) : Thread := { t with draining := t.sq.any SqEntry.isAtomic }

/-- A lane is done for the lanes of parts, which leave the head entry; an entry without parts leaves the queue. -/
def Thread.dropParts (t : Thread) (op : Nat) (bad : List Part) : Thread :=
  let t1 := bad.foldl (fun t p => t.laneDone op p.lane) t
  match t1.sq with
  | [] => t1
  | e :: es =>
    let ps := e.parts.filter (fun p => !bad.contains p)
    { t1 with sq := if ps.isEmpty then es else { e with parts := ps } :: es }

/-- The lane fault of a `vamo` that reads a line in error (R103, item 5): the lanes there perform no atomic. -/
def State.poisonAtomic (s : State) (key op : Nat) (bad : List Part) : State :=
  let s1 := bad.foldl (fun s' p => s'.noticePoison p.pa) s
  let s2 := s1.modThread key (fun t => (t.dropParts op bad).endAtomic)
  match (s.thread key).longOps.find? (fun o => o.id == op) with
  | some o => s2.laneFault key o.addr o.mask o.clause o.idx (bad.map (fun p => (p.lane, p.va, cPoison)))
  | none => s2

/-- An atomic reads and writes its cell in one step; a lane atomic one lane a step (R165). A `cas` that fails writes nothing and
claims no line: R180 says both 'before it writes' and 'when it performs' (DESIGN CHOICE, log entry 112). -/
def State.perform (s : State) (key : Nat) (e : SqEntry) (p : Part) : Option State :=
        let pop (s : State) : State := (s.modThread key (fun t => t.popPart.endAtomic)).reap key
        match e.kind with
        | .atomic op d =>
          let old := s.mem.num p.pa 8
          let s1 := match amoNew op 64 old (leNat p.data) (leNat p.cmp) with
            | some v => s.land key p.pa p.obj false (leBytes 8 v)
            | none => s
          some (pop (s1.modThread key (fun t => { t with returning := t.returning ++ [(d, BitVec.ofNat 64 old)] })))
        | .laneAtomic op t row lop =>
          match e.parts.filter (fun p => s.mem.isPoison p.pa) with
          | [] =>
            let n := t.width / 8
            let old := s.mem.num p.pa n
            let s1 := match amoNew op t.width old (leNat p.data) (leNat p.cmp) with
              | some v => s.land key p.pa p.obj false (leBytes n v)
              | none => s
            some (pop ((s1.writeElem key row t p.lane old).modThread key (fun t => t.laneDone lop p.lane)))
          | bad => if (s.thread key).laneStop then none else some ((s.poisonAtomic key lop bad).reap key)
        | .ringInit v => some (pop (s.land key p.pa p.obj false (leBytes 8 v.toNat ++ leBytes 8 v.toNat)))
        | .ringRelease =>
          let wi := s.mem.word p.pa
          let ri := s.mem.word (p.pa + 8)
          if ri = wi then some (pop (s.modThread key (fun t => { t with wait := .ringRelEmpty })))
          else some (pop ((s.land key (p.pa + 8) p.obj false (leBytes 8 (ri + 1).toNat)).modThread key
            (fun t => { t with wait := .ringRelDone, region := none })))
        | .store | .laneStore _ | .engine _ => none

/-- ATOMIC_PERFORM (R165): the atomic at the head of a queue performs, when its channel takes a write. -/
def atomicPerformStep (s : State) : Option State :=
  let key := s.subj.ag
  match (s.thread key).sq with
  | [] => none
  | e :: _ =>
    match e.parts with
    | [] => none
    | p :: _ =>
      if e.held || !s.queueOpen key || !e.isAtomic then none
      else
        s.through (.queue key e.seq) p.pa (fun s =>
          s.fromOutside (.entry key e.seq) (s.plotOf key) (s.launchOf key).copy p.pa (fun s =>
            (if e.isLane then s else s.touchCell key p.pa).perform key e p))

def execAtomicPerform (s : State) : Host.Outcome State Fault Refusal := .next ((atomicPerformStep s).getD s)

/-! ### Loads bind (R162) -/

def overlaps (a n b m : Nat) : Bool := decide (a < b + m) && decide (b < a + n)

/-- Every load not yet bound, those held in the log among them. -/
def Thread.allLoads (t : Thread) : List LoadReq := t.win ++ t.log.flatMap (·.loads)

/-- An entry that a load waits for: held ones are matched by virtual address, atomics perform first, and a load that
binds only at its cell waits until older stores to its bytes have drained. -/
def SqEntry.blocks (e : SqEntry) (l : LoadReq) : Bool :=
  decide (e.seq < l.mark)
    && (if e.held then e.parts.any (fun p => overlaps p.va p.data.length l.va l.size)
        else (e.isAtomic || l.uncached) && e.parts.any (fun p => overlaps p.pa p.data.length l.pa l.size))

/-- A load may bind: it has its address, no earlier load touches a byte of it, and no entry blocks it. -/
def Thread.canBind (t : Thread) (l : LoadReq) : Bool :=
  !l.held
    && !t.allLoads.any (fun x =>
        decide (x.mark < l.mark) && (if x.held then overlaps x.va x.size l.va l.size else overlaps x.pa x.size l.pa l.size))
    && !t.sq.any (fun e => e.blocks l)

/-- The byte and tag that an entry gives a load at an offset, if it writes that byte. -/
def State.entryByte (s : State) (key : Nat) (e : SqEntry) (l : LoadReq) (i : Nat) : Option (Byte × Bool) :=
  if l.mark ≤ e.seq ∨ e.held then none
  else
    match e.kind with
    | .store | .laneStore _ =>
      (e.parts.reverse.find? (fun p => decide (p.pa ≤ l.pa + i ∧ l.pa + i < p.pa + p.data.length))).map
        (fun p => (p.data.getD (l.pa + i - p.pa) 0, p.tag))
    | .engine x => (s.outByte key x (l.va + i)).map (fun b => (b, false))
    | .atomic _ _ | .laneAtomic _ _ _ _ | .ringInit _ | .ringRelease => none

/-- A byte of a load: from the newest earlier entry of the agent's own queue that writes it, else from its cell. -/
def State.loadByte (s : State) (key : Nat) (l : LoadReq) (i : Nat) : Byte × Bool :=
  let cell := (s.mem.byte (l.pa + i), s.mem.tag l.pa)
  if l.uncached then cell
  else ((s.thread key).sq.reverse.findSome? (fun e => s.entryByte key e l i)).getD cell

/-- The tag of a load's word as its agent sees it: of the newest earlier entry of its own queue that writes a byte of the
word, else of the cell (R70, R162). -/
def State.loadTag (s : State) (key : Nat) (l : LoadReq) : Bool :=
  let own := (s.thread key).sq.reverse.findSome? (fun e =>
    (List.range l.size).findSome? (fun i => (s.entryByte key e l i).map (·.2)))
  if l.uncached then s.mem.tag l.pa else own.getD (s.mem.tag l.pa)

def State.loadNum (s : State) (key : Nat) (l : LoadReq) : Nat :=
  leNat ((List.range l.size).map (fun i => (s.loadByte key l i).1))

/-- The register value of a scalar load (R68). -/
def extendLoad (n size : Nat) (signed : Bool) : Word :=
  if signed then (BitVec.ofNat (8 * size) n).signExtend 64 else BitVec.ofNat 64 n

/-- The value of an instruction before a point. -/
def Point.deliver (p : Point) (d : SReg) (v : Word) : Point :=
  if p.pend.getLsbD d.val then { p with sregs := fset p.sregs d.val v, pend := p.pend &&& ~~~(BitVec.ofNat 64 (2 ^ d.val)) } else p

/-- A scalar value is written and its register is no longer pending, here and at the points behind its instruction. -/
def Thread.deliver (t : Thread) (d : SReg) (v : Word) : Thread :=
  ({ t.setSreg d v with pendS := t.pendS &&& ~~~(BitVec.ofNat 64 (2 ^ d.val)) } : Thread).mapPoints (fun p => p.deliver d v)

/-- A scalar destination is no longer pending, and keeps its value. -/
def Thread.unpend (t : Thread) (d : SReg) : Thread := { t with pendS := t.pendS &&& ~~~(BitVec.ofNat 64 (2 ^ d.val)) }

def Thread.dropLoad (t : Thread) (id : Nat) : Thread := { t with win := t.win.filter (fun x => x.id != id) }

/-- The loads of one long operation that wait in the window on a line in error (R103, item 5). -/
def State.poisoned (s : State) (key op : Nat) : List LoadReq :=
  (s.thread key).win.filter (fun x =>
    (match x.dest with | .lane _ _ _ o => o == op | .scalar _ _ => false) && !x.held && s.mem.isPoison x.pa)

def laneOfDest : LoadDest → Nat
  | .lane _ i _ _ => i
  | .scalar _ _ => 0

/-- The lane fault of loads that return poison (R103, R105). -/
def State.poisonFault (s : State) (key op : Nat) (bad : List LoadReq) : State :=
  let s1 := bad.foldl (fun s' x => s'.noticePoison x.pa) s
  let s2 := s1.modThread key (fun t =>
    bad.foldl (fun t x => (t.dropLoad x.id).laneDone op (laneOfDest x.dest)) t)
  match (s.thread key).longOps.find? (fun o => o.id == op) with
  | some o => s2.laneFault key o.addr o.mask o.clause o.idx (bad.map (fun x => (laneOfDest x.dest, x.va, cPoison)))
  | none => s2

/-- An `ldref` retires when it has bound: its agent goes on at the next word, unless its PC was set meanwhile (R293). -/
def Thread.endRef (t : Thread) : Thread :=
  let u := { t with hold := t.hold && decide (t.wait ≠ TWait.none) }
  if t.pc = t.refAt then u.advance else u.goto t.pc

/-- Take an agent back to an instruction whose fault was found late (R88): later instructions give up their registers,
their loads, their clauses, and their entries still in the queue or the log. The schedule keeps the stores, atomics and clauses
behind an instruction on the page-fault path from draining, performing and starting; what else of later instructions has
had its effect by then, as R72 lets it, stands (DEDUCED, log entry 78). -/
def Thread.takeBack (t : Thread) (p : Point) : Thread :=
  let cut := (t.queue.filter (fun c => decide (p.mark ≤ c.id))).map (·.id)
  let ops := (t.longOps.filter (fun o => cut.contains o.clause)).map (·.id)
  let mineQ (e : SqEntry) : Bool := match e.kind with
    | .laneStore op => !ops.contains op
    | .laneAtomic _ _ _ op => !ops.contains op
    | .store | .atomic _ _ | .ringInit _ | .ringRelease | .engine _ => decide (e.seq < p.mark)
  let mineL (e : LogEntry) : Bool := match e.target with
    | .lane _ _ clause _ => !cut.contains clause
    | .load _ | .queue _ | .launch _ _ | .fetch => decide (e.id < p.mark) || e.replayed
  let u := t.retreat p
  { u with
    queue := t.queue.filter (fun c => !cut.contains c.id)
    longOps := t.longOps.filter (fun o => !ops.contains o.id)
    win := u.win.filter (fun l => match l.dest with | .lane _ _ _ op => !ops.contains op | .scalar _ _ => true)
    sq := t.sq.filter mineQ
    log := t.log.filter mineL
    wait := .none }

/-- A scalar load whose line is in error when it binds traps at its instruction, with nothing behind it done (R69, R88). -/
def State.loadFails (s : State) (key : Nat) (l : LoadReq) : State :=
  let t := s.thread key
  let s1 := (s.noticePoison l.pa).modThread key (fun t => l.back.elim (t.unspec.dropLoad l.id) t.unspec.takeBack)
  if t.trap.isSome then s1
  else s1.raiseAt key { cause := cPoison, pc := l.back.elim t.pc (·.pc), value := BitVec.ofNat 64 l.va }

/-- An `ldref` whose word has no tag traps (R74); with a lane fault pending it does not retire, and raises its trap when it
executes again (R106). Past an unresolved branch it raises none, and waits for the branch (R53). -/
def State.refFails (s : State) (key : Nat) (l : LoadReq) (d : SReg) : Option State :=
  let t := s.thread key
  if t.isSpec l.id then
    if l.untagged then none
    else
      some (s.modThread key (fun t =>
        { t with win := t.win.map (fun x => if x.id = l.id then { x with untagged := true } else x) }))
  else
    let s1 := s.modThread key (fun t => { (t.dropLoad l.id).unpend d with hold := false })
    some (if t.trap.isSome then s1
      else s1.raiseAt key { cause := cNotRef, pc := t.refAt, value := BitVec.ofNat 64 l.va })

/-- A load takes its value (R162). A scalar value is written at once, or returns later (R56). A load past an unresolved branch
changes no cache and meets no error (R53). -/
def State.bindLoad (s : State) (key : Nat) (l : LoadReq) : Option State :=
  let t := s.thread key
  match l.dest with
  | .scalar d signed =>
    if s.mem.isPoison l.pa then (if t.isSpec l.id then none else some (s.loadFails key l))
    else if l.ref && (l.untagged || !s.loadTag key l) then s.refFails key l d
    else
      let v := extendLoad (s.loadNum key l) l.size signed
      some ((if l.uncached || t.isSpec l.id then s else s.touchCell key l.pa).modThread key (fun t =>
        let t1 := t.dropLoad l.id
        let t2 := if l.ref then t1.endRef else t1
        if s.subj.flag then { t2 with returning := t2.returning ++ [(d, v)] } else t2.deliver d v))
  | .lane row lane ty op =>
    match s.poisoned key op with
    | [] =>
      some ((s.writeElem key row ty lane (s.loadNum key l)).modThread key (fun t => (t.dropLoad l.id).laneDone op lane))
    | bad => if t.laneStop then none else some (s.poisonFault key op bad)

/-- LOAD_BIND (R162): a load that may bind does; one of host or CXL memory first leaves as a read, and binds when its answer has
entered (R24, R407, R410). -/
def loadBindStep (s : State) : Option State :=
  let key := s.subj.ag
  let t := s.thread key
  match t.win.find? (fun x => x.id == s.subj.n) with
  | none => none
  | some l =>
    if !t.canBind l then none
    else s.fromOutside (.load key l.id) (s.plotOf key) (s.launchOf key).copy l.pa (fun s => s.bindLoad key l)

def execLoadBind (s : State) : Host.Outcome State Fault Refusal := .next ((loadBindStep s).getD s)

/-- SCALAR_LOAD_RETURN (R56): a value that has bound at its home reaches its register. -/
def scalarLoadReturnStep (s : State) : Option State :=
  let key := s.subj.ag
  match (s.thread key).returning with
  | [] => none
  | (d, v) :: rest => some (s.modThread key (fun t => { t with returning := rest }.deliver d v))

def execScalarLoadReturn (s : State) : Host.Outcome State Fault Refusal := .next ((scalarLoadReturnStep s).getD s)

/-- The agent of the primary that corresponds to one of a copy in the secondary, channel by channel (R365); an agent of its own
else. -/
def State.mirror (s : State) (key : Nat) : Nat :=
  if isSysKey key || !(s.launchOf key).copy then key
  else
    match s.otherHalf (s.plotOf key) with
    | none => key
    | some o =>
      groupKey ((s.plot o).channels.getD ((s.plot (s.plotOf key)).channels.idxOf (coreOfKey key)) (coreOfKey key)) (ctxOfKey key)

/-- A completion for an agent's read-back has entered: its target is the tag of the read, the agent's number (DESIGN CHOICE, log
entry 101). -/
def readbackFor (key gate : Nat) (a : Arrival) : Bool := gate == 0 && a.kind == 2 && a.payload.isEmpty && a.target == key

/-- No store to host memory that can still drain stands in an agent's queue. -/
def State.hostDrained (s : State) (key : Nat) : Bool :=
  !s.queueOpen key || !(s.thread key).sq.any (fun e => e.held || e.parts.any (fun p => isHost p.pa))

/-- HOST_READBACK (R167): after the agent's last earlier store to host memory the PCIe port sends a zero-length read, whose
completion enters through gate 0. Stores that a sprout holds are not on their way. The copy of a paired launch sends none, and
takes the completion of the primary's (R365). -/
def hostReadbackStep (s : State) : Option State :=
  let key := s.subj.ag
  let t := s.thread key
  let plot := s.plotOf key
  let copy := (s.launchOf key).copy
  let goOn (s : State) (w : TWait) : State := s.modThread key (fun t => { t with wait := w })
  if t.wait = .readback ∧ s.hostDrained key then some (goOn (if copy then s else s.outbound 0 1 key plot []) .readbackSent)
  else if t.wait ≠ .readbackSent then none
  else if copy then
    (s.earlyFor 0 plot (s.mirror key)).map (fun q => goOn { s with asks := s.asks.erase q } .readbackDone)
  else
    (s.enteredBy (readbackFor key)).map (fun x =>
      goOn (((s.otherHalf plot).filter (fun _ => (s.launchOf key).paired)).elim (s.drop x) (fun o => (s.drop x).answerCopy 0 o key)) .readbackDone)

def execHostReadback (s : State) : Host.Outcome State Fault Refusal := .next ((hostReadbackStep s).getD s)

end Sys2Proof.Machine
end

