-- ==== Sys2Proof/Machine/Wait.lean ====
section
/-! DEFINITION. The waits that instructions share: the delivery of deferred FP traps (R129), matrix poison (R246), and
the waits of fences (R170, R171, R167). -/

namespace Sys2Proof.Machine

/-- Kinds of matrix operation that raise flags: every one but `mzero`, `mma.rn` and `mld`. -/
def MatrixOp.raisesFlags (o : MatrixOp) : Bool := o.kind != 0 && o.kind != 3 && o.kind != 7

/-- The matrix operations of an agent still in its core's unit. -/
def State.groupOps (s : State) (key : Nat) : List MatrixOp :=
  if isSysKey key then [] else (s.core (coreOfKey key)).mops.filter (fun o => o.group == ctxOfKey key)

/-- Batch b is at or before n (R257). -/
def atOrBefore (b n : BitVec 32) : Bool := decide ((n - b).toNat < 2 ^ 31)

/-- An operation not closed into a batch met an uncorrectable error (R246). -/
def Thread.openPoison (t : Thread) : Bool := t.mpoison.any (fun m => !atOrBefore m t.batch)

/-- The poison that a delivery point raises is met once. -/
def Thread.meetOpen (t : Thread) : Thread := { t with mpoison := t.mpoison.filter (fun m => atOrBefore m t.batch) }

/-- A delivery point (R129): the running agent's clauses have finished and its flag-raising matrix operations have
reached FPX; then matrix poison and the deferred FP trap are raised, a sprout's excepted (R128), or the instruction
goes on. -/
def State.delivery (s : State) (body : State → State) : State :=
  if !s.th.clausesDone || (s.groupOps s.cur).any MatrixOp.raisesFlags then s
  else if s.th.openPoison then (s.modThread s.cur Thread.meetOpen).trapNow cPoison
  else if s.th.fpDue && !isSproutKey s.cur then s.trapNow cDeferredFp
  else body s

/-- The waits of a fence, after those of its delivery point: earlier loads bound, earlier entries drained where the
kind asks, and at scope s the host read-back. -/
def State.fenceWaits (s : State) (drain : Bool) (sc : Scope) (body : State → State) : State :=
  s.delivery (fun s =>
    if !s.th.loadsBound || !s.th.returning.isEmpty || (drain && !s.th.drainedAll) then s
    else if sc = .s ∧ s.th.wait ≠ .readbackDone then
      s.modThread s.cur (fun t => { t with wait := if t.wait = .readbackSent then .readbackSent else .readback })
    else body (s.modThread s.cur (fun t => { t with wait := .none })))

/-! ### fence, tfence (R169–R172) -/

def execFenceAcq (sc : Scope) (s : State) : Host.Outcome State Fault Refusal :=
  .next (s.issue anyone [] (fun s => s.fenceWaits false sc State.advance))
def execFenceRel (sc : Scope) (s : State) : Host.Outcome State Fault Refusal :=
  .next (s.issue anyone [] (fun s => s.fenceWaits true sc State.advance))
def execFenceAr (sc : Scope) (s : State) : Host.Outcome State Fault Refusal :=
  .next (s.issue anyone [] (fun s => s.fenceWaits true sc State.advance))

/-- The instance of a scope that holds an agent: its block, cluster, die, or the plot. -/
def State.scopeInstance (s : State) (key : Nat) (sc : Scope) : Nat :=
  match sc with
  | .g => key
  | .b => if isSysKey key then key else coreOfKey key
  | .c => if isSysKey key then key else clusterOf (coreOfKey key)
  | .d => if isSysKey key then (s.thread key).core / 6 else dieOf (coreOfKey key)
  | .p => s.plotOf key
  | .s => 0

/-- The floor that one scope instance has set for a word. -/
def WordHist.floorOf (h : WordHist) (sc inst : Nat) : Nat :=
  ((h.floors.find? (fun f => f.1 == sc && f.2.1 == inst)).map (·.2.2)).getD 0

/-- Raise the walk floor of a word for one scope instance; a newer floor stays. -/
def WordHist.raiseFloor (h : WordHist) (sc inst idx : Nat) : WordHist :=
  { h with floors := (sc, inst, max idx (h.floorOf sc inst)) :: h.floors.filter (fun f => !(f.1 == sc && f.2.1 == inst)) }

/-- A `tfence` of scope p or wider in a plot: walks that wait on a moving leaf of its memory read it again (R320). -/
def WordHist.again (p : Plot) (w : Nat × WordHist) : Nat × WordHist :=
  if inRanges p.ranges w.1 8 then (w.1, { w.2 with reread := w.2.past.length }) else w

/-- Every word the agent's drained stores have written becomes the floor for walks of parties in the scope (R172); those of
a floor for everybody need no later one. A moving leaf is read again after a `tfence` of scope p or wider (R320), and a walk that
has read an entry not present begins again. -/
def State.setFloors (s : State) (key : Nat) (sc : Scope) : State :=
  let inst := s.scopeInstance key sc
  let wide := decide (4 ≤ Scope.code sc)
  let p := s.plot (s.plotOf key)
  let hist := (s.thread key).written.foldl (fun h w =>
    fset h w.1 ((fgetD h w.1 {}).raiseFloor (Scope.code sc) inst w.2)) s.mem.hist
  let s1 := (s.withMem { s.mem with hist := if wide then hist.map (WordHist.again p) else hist }).modThread key (fun t =>
    { t with written := if sc = .s then [] else t.written })
  s1.modPlot (s.plotOf key) (fun p =>
    { p with tlbStores := p.tlbStores + 1, walks := (p.walks.filter (fun w => !w.missed)).map (fun w => { w with waits := w.waits && !wide }) })

/-- `tfence` (R172): not a delivery point; it waits for the drain of earlier stores, those of clauses enqueued earlier
among them (R170 counts a clause at its `lrun`; DEDUCED, log entry 75). -/
def execTfence (sc : Scope) (s : State) : Host.Outcome State Fault Refusal :=
  .next (s.issue anyone [] (fun s => if s.th.clausesDone && s.th.drainedAll then (s.setFloors s.cur sc).advance else s))

end Sys2Proof.Machine
end

