-- ==== Sys2Proof/Machine/Matrix.lean ====
section
/-! DEFINITION. The matrix unit (R47, R234–R263): operands, the summation rule, residue arithmetic, the prologue,
resolves, tile loads and stores, batches, and tile stamp records. -/

namespace Sys2Proof.Machine

/-! ### The format-block word (R47, Table 3.16) -/

def fmtField (w : Word) (lo n : Nat) : Nat := w.toNat / 2 ^ lo % 2 ^ n
def fmtA (w : Word) : Nat := fmtField w 0 4
def fmtB (w : Word) : Nat := fmtField w 4 4
def fmtBlockCode (w : Word) : Nat := fmtField w 8 2
def fmtScale (w : Word) : Nat := fmtField w 10 2
def fmtScaleA (w : Word) : Nat := fmtField w 12 20
def fmtScaleB (w : Word) : Nat := fmtField w 32 20
def fmtMode (w : Word) : Nat := fmtField w 52 2
def fmtGroup (w : Word) : Nat := fmtField w 54 2

/-- The word that `mfmt` accepts (R47). -/
def fmtWordOk (w : Word) : Bool :=
  decide (fmtField w 56 8 = 0) && decide (fmtA w ≤ 8) && decide (fmtB w ≤ 8) && decide (fmtGroup w ≠ 3)

/-- Bits of an element of a matrix format code (Table 3.10, R237). -/
def matBits (c : Nat) : Nat :=
  match c with
  | 0 => 16
  | 1 => 16
  | 2 => 8
  | 3 => 8
  | 4 => 6
  | 5 => 6
  | 6 => 4
  | 7 => 8
  | _ => 4

/-- K and C of R237. -/
def matK (c : Nat) : Nat := if matBits c = 16 then 32 else if matBits c = 4 then 128 else 64
def matC (c : Nat) : Nat := matK c / 4

/-- The floating format of a code 0–6. -/
def matFmt (c : Nat) : Fmt :=
  match c with
  | 0 => bf16
  | 1 => fp16
  | 2 => e4m3
  | 3 => e5m2
  | 4 => e3m2
  | 5 => e2m3
  | _ => e2m1

def blockLen (code : Nat) : Nat := if code = 1 then 16 else if code = 2 then 32 else 64

/-- Table 11.2 for the multiplying instructions: kind 1 `mma`, 2 `mmaq`, 3 `mma.rn`. -/
def captureOk (kind : Nat) (w : Word) : Bool :=
  match kind with
  | 1 =>
    decide (fmtA w ≤ 6) && decide (fmtB w ≤ 6) && decide (matK (fmtA w) = matK (fmtB w)) && decide (fmtMode w = 0)
      && (decide (fmtScale w = 0 ∧ fmtBlockCode w = 0)
        || (decide (fmtScale w = 1 ∨ fmtScale w = 2) && decide (matBits (fmtA w) ≠ 16) && decide (1 ≤ fmtBlockCode w)
          && decide (blockLen (fmtBlockCode w) ≤ matK (fmtA w))))
  | 2 =>
    decide (fmtA w = 0) && decide (fmtB w = 8) && decide (fmtMode w = 0) && decide (fmtScale w = 3)
      && decide (fmtBlockCode w = 0)
  | _ =>
    decide ((fmtA w = 7 ∧ fmtB w = 7) ∨ (fmtA w = 8 ∧ fmtB w = 8)) && decide (fmtMode w = 1) && decide (fmtScale w = 0)
      && decide (fmtBlockCode w = 0)

/-! ### Triples and edges (R236, R238) -/

def tripleLayout (ws : List Word) : Layout := layoutOf (ws.getD 0 0) (ws.getD 1 0) (ws.getD 2 0)

/-- The triple in three consecutive registers. -/
def Thread.triple (t : Thread) (a : SReg) : List Word := [0, 1, 2].map (fun k => fgetD t.sregs (a.val + k) 0)

/-- The 23 bits of the edge field. -/
def Layout.edge (l : Layout) : Nat := (BitVec.ofInt 23 l.stride1).toNat
def Layout.rowsValid (l : Layout) : Nat := let r := l.edge / 256 % 128; if r = 0 then 64 else r
def Layout.lenValid (l : Layout) (full : Nat) : Nat := let n := l.edge % 256; if n = 0 then full else n

/-- The edge field is within Table 11.1. -/
def Layout.edgeOk (l : Layout) (full : Nat) : Bool :=
  decide (l.edge / 32768 = 0) && decide (l.rowsValid ≤ 64) && decide (l.lenValid full ≤ full)

/-- Every unmasked byte of a row-packed operand lies in the allocation: the first and last bytes of the first and last
unmasked rows. -/
def Layout.rowsFit (l : Layout) (rows bytes alloc : Nat) : Bool :=
  [0, rows - 1].all (fun i =>
    let o := (l.offset : Int) + (i : Int) * l.stride0
    decide (0 ≤ o) && decide (o + (bytes : Int) ≤ (alloc : Int)))

def Layout.rowAt (l : Layout) (i : Nat) : Nat := ((l.offset : Int) + (i : Int) * l.stride0).toNat

/-- n bits of a row read as one little-endian bit string, from bit p. -/
def Core.rowBits (c : Core) (l : Layout) (i p n : Nat) : Nat :=
  leNat (c.padRun l.mode (l.rowAt i + p / 8) ((p % 8 + n + 7) / 8)) / 2 ^ (p % 8) % 2 ^ n

/-- The physical places of the first n bytes of a row. -/
def Layout.rowPlaces (l : Layout) (i n : Nat) : List Nat := (List.range n).map (fun b => padPlace l.mode (l.rowAt i + b))

/-! ### The core a triple names (R240) -/

/-- Two blocks run one launch. -/
def Block.sameLaunch (a b : Block) : Bool := a.launch.seq == b.launch.seq && a.launch.plot == b.launch.plot

/-- The core that a layout names, where it runs a block of the same launch. R240 gives +0 for a block that has ended; a
block that is halted off its core or has moved when the operation runs reads +0 too, which is the model's choice (log
entry 117). -/
def State.namedCore (s : State) (c : Nat) (l : Layout) : Option Nat :=
  let k := clusterMate c l.core
  match (s.core c).block, (s.core k).block with
  | some a, some b => if a.sameLaunch b then some k else none
  | _, _ => none

/-! ### The summation rule (R242) -/

/-- A term of a sum: its exact value, and whether a NaN in it came from elsewhere than a NaN operand. -/
structure Term where
  v : FVal
  made : Bool := false
  deriving DecidableEq, Repr

/-- P_k. A NaN scale is no operand: its NaN counts as made, beside a NaN operand as well (log entry 28). -/
def productTerm (a sa b sb : FVal) : Term :=
  let p := (((a.mul sa).1.mul b).1.mul sb).1
  ⟨p, p.isNan && (sa.isNan || sb.isNan || (!a.isNan && !b.isNan))⟩

/-- floor(log2 |t|) of a nonzero finite term, or none. -/
def topExp : FVal → Option Int
  | .fin _ m e => if m = 0 then none else some (e + (m.log2 : Int))
  | .nan => none
  | .inf _ => none

def maxExp : List FVal → Option Int
  | [] => none
  | x :: xs =>
    match topExp x, maxExp xs with
    | some a, some b => some (max a b)
    | some a, none => some a
    | none, r => r

/-- sign(t) × floor(|t| / 2^k). -/
def truncAt (k : Int) : FVal → Int
  | .fin s m e =>
    let n : Nat := if k ≤ e then m * 2 ^ (e - k).toNat else m / 2 ^ (k - e).toNat
    if s then -(n : Int) else n
  | .nan => 0
  | .inf _ => 0

def minExp : List FVal → Int → Int
  | [], k => k
  | .fin _ _ e :: xs, k => minExp xs (min e k)
  | .nan :: xs, k => minExp xs k
  | .inf _ :: xs, k => minExp xs k

/-- Whether a rounded finite value equals the exact sum of the terms. -/
def equalsSum (y : FVal) (ts : List FVal) : Bool :=
  match y with
  | .fin s m e =>
    let k := minExp ts e
    scaledInt s m e k == (ts.map (truncAt k)).foldl (· + ·) 0
  | .nan => false
  | .inf _ => false

/-- ChunkSum: the FP32 code and flags of one chunk. -/
def chunkSum (ts : List Term) : Nat × Flags :=
  let vs := ts.map (·.v)
  if vs.any FVal.isNan then (fp32.cNan, if ts.any (·.made) then flInvalid else 0)
  else
    let pos := vs.contains (.inf false)
    let neg := vs.contains (.inf true)
    if pos && neg then (fp32.cNan, flInvalid)
    else if pos then (fp32.pack false fp32.infMag, 0)
    else if neg then (fp32.pack true fp32.infMag, 0)
    else
      match maxExp vs with
      | none => (fp32.pack (vs.all (fun v => match v with | .fin s _ _ => s | _ => false)) 0, 0)
      | some top =>
        let u := top - 60
        let S := (vs.map (truncAt u)).foldl (· + ·) 0
        let r := roundVal fp32 .rne (.fin (decide (S < 0)) S.natAbs u)
        let exact := equalsSum (fp32.value r.1) vs
        (r.1, (r.2 &&& (flOverflow ||| flUnderflow)) ||| (if exact then 0 else flInexact))

/-- The chunks of one element, in increasing k. -/
def chunks (c : Nat) (p : Nat → Term) : Nat → Nat → Nat × Flags → Nat × Flags
  | 0, _, acc => acc
  | n + 1, k, acc =>
    let r := chunkSum (⟨fp32.value acc.1, false⟩ :: (List.range c).map (fun i => p (k + i)))
    chunks c p n (k + c) (r.1, acc.2 ||| r.2)

/-! ### Residue form (R134–R136, R244) -/

def rnsM : Nat := 8191 * 8192 * 8193

def rnsRead (e : Nat) : Nat × Nat × Nat := (e % 2 ^ 13 % 8191, e / 2 ^ 13 % 2 ^ 13, e / 2 ^ 26 % 2 ^ 14 % 8193)

def rnsPack (r : Nat × Nat × Nat) : Nat := r.1 + r.2.1 * 2 ^ 13 + r.2.2 * 2 ^ 26

/-- The integer that an element represents (R135). -/
def rnsDecode (e : Nat) : Int :=
  let r := rnsRead e
  let x := (r.1 * (8192 * 8193) * 4096 + r.2.1 * (8191 * 8193) * 8191 + r.2.2 * (8191 * 8192) * 4097) % rnsM
  if 2 * x < rnsM then x else (x : Int) - rnsM

def rnsAdd (e : Nat) (p : Int) : Nat :=
  let r := rnsRead e
  rnsPack ((((r.1 : Int) + p) % 8191).toNat, (((r.2.1 : Int) + p) % 8192).toNat, (((r.2.2 : Int) + p) % 8193).toNat)

/-! ### Performing an operation (R242–R254) -/

/-- The key of element (i, j) of a physical tile. -/
def accKey (tile i j : Nat) : Nat := 4096 * tile + 64 * i + j

def accKeys (tile : Nat) : List Nat := (List.range 4096).map (fun k => 4096 * tile + k)

def Core.accAt (c : Core) (k : Nat) : Nat := (fgetD c.acc k 0).toNat

/-- The written tile: every element with its new value. -/
def Core.accWrite (c : Core) (xs : List (Nat × Nat)) : Core :=
  let ks := xs.map (·.1)
  { c with
    acc := xs.foldl (fun m x => if x.2 = 0 then ferase m x.1 else fset m x.1 (BitVec.ofNat 48 x.2)) c.acc
    accBad := c.accBad.filter (fun k => !ks.contains k)
    reported := c.reported.filter (fun r => !(decide (2 ^ 32 ≤ r) && ks.contains (r - 2 ^ 32))) }

/-- What an operation reads and writes: scratchpad places read by core, accumulator elements read, and its effect. -/
structure MatrixStep where
  padReads : List (Nat × List Nat) := []
  accReads : List Nat := []
  acc : List (Nat × Nat) := []
  pad : List (Nat × Byte) := []
  flags : Flags := 0

/-- An operand element's bits; a masked position, or a named core whose block has ended, reads +0. -/
def operandBits (c : Option Core) (l : Layout) (k0 bits i k : Nat) : Nat :=
  match c with
  | none => 0
  | some c => if l.rowsValid ≤ i ∨ l.lenValid k0 ≤ k then 0 else c.rowBits l i (k * bits) bits

def operandMasked (l : Layout) (k0 i k : Nat) : Bool := decide (l.rowsValid ≤ i) || decide (l.lenValid k0 ≤ k)

/-- The scale of a row and position (R239). -/
def scaleOf (c : Core) (w : Word) (base kk i k : Nat) : FVal :=
  if fmtScale w = 0 then fOneVal
  else
    let L := blockLen (fmtBlockCode w)
    scaleValue (if fmtScale w = 1 then .e8m0 else .e4m3) (c.padNum (base + kk / L * i + k / L) 1)
where
  fOneVal : FVal := .fin false 1 0

/-- The bytes an operand reads, by place. -/
def operandPlaces (l : Layout) (kk bits : Nat) : List Nat :=
  (List.range l.rowsValid).flatMap (fun i => l.rowPlaces i ((l.lenValid kk * bits + 7) / 8))

/-- The scale bytes that unmasked rows need. -/
def scalePlaces (l : Layout) (w : Word) (base kk : Nat) : List Nat :=
  if fmtScale w = 0 then []
  else
    let L := blockLen (fmtBlockCode w)
    (List.range l.rowsValid).flatMap (fun i => (List.range ((l.lenValid kk + L - 1) / L)).map (fun q => base + kk / L * i + q))

/-- The expanded weight of `mmaq` (R249): BF16 code and flags. -/
def expandWeight (c : Core) (w : Word) (k0 q j k : Nat) : Nat × Flags :=
  let g := k0 / (32 * 2 ^ fmtGroup w)
  let r := c.padNum (fmtScaleB w + 256 * g + 4 * j) 4
  let _ := k
  let d := (BitVec.ofNat 4 q).toInt - (BitVec.ofNat 4 (r / 2 ^ 16)).toInt
  roundPair bf16 .rne ((ofIntVal d).mul (bf16.value (r % 2 ^ 16)))

/-- The step of `mma`, `mmaq` and `mma.rn`. -/
def State.multiply (s : State) (c : Nat) (o : MatrixOp) (tile : Nat) : MatrixStep :=
  let w := o.fmt
  let core := s.core c
  let la := tripleLayout o.a
  let lb := tripleLayout o.b
  let ka := s.namedCore c la
  let kb := s.namedCore c lb
  let ca := ka.map s.core
  let cb := kb.map s.core
  let q := o.kind == 2
  let kk := if q then 32 else matK (fmtA w)
  let ba := matBits (fmtA w)
  let bb := matBits (fmtB w)
  let elems := (List.range 64).flatMap (fun i => (List.range 64).map (fun j => (i, j)))
  let aBits (i k : Nat) := operandBits ca la kk ba i k
  let bBits (j k : Nat) := operandBits cb lb kk bb j k
  let k0 := lb.stride2.toNat
  let reads := (match ka with | some x => [(x, operandPlaces la kk ba)] | none => [])
    ++ (match kb with | some x => [(x, operandPlaces lb kk bb)] | none => [])
    ++ (if o.kind = 1 then [(c, scalePlaces la w (fmtScaleA w) kk ++ scalePlaces lb w (fmtScaleB w) kk)] else [])
    ++ (if q then [(c, (List.range 256).map (fun b => fmtScaleB w + 256 * (k0 / (32 * 2 ^ fmtGroup w)) + b))] else [])
  if o.kind = 3 then
    let sgn (n x : Nat) : Int := (BitVec.ofNat n x).toInt
    { padReads := reads, accReads := accKeys tile
      acc := elems.map (fun e =>
        let p := (List.range kk).foldl (fun t k => t + sgn ba (aBits e.1 k) * sgn bb (bBits e.2 k)) (0 : Int)
        (accKey tile e.1 e.2, rnsAdd (core.accAt (accKey tile e.1 e.2)) p)) }
  else
    let weight (j k : Nat) : Nat × Flags :=
      if operandMasked lb kk j k then (0, 0) else expandWeight core w k0 (bBits j k) j k
    let term (i j k : Nat) : Term :=
      if operandMasked la kk i k || operandMasked lb kk j k then ⟨.fin false 0 0, false⟩
      else if q then productTerm (bf16.value (aBits i k)) (.fin false 1 0) (bf16.value (weight j k).1) (.fin false 1 0)
      else
        productTerm ((matFmt (fmtA w)).value (aBits i k)) (scaleOf core w (fmtScaleA w) kk i k)
          ((matFmt (fmtB w)).value (bBits j k)) (scaleOf core w (fmtScaleB w) kk j k)
    let rs := elems.map (fun e =>
      (accKey tile e.1 e.2,
        chunks (kk / 4) (term e.1 e.2) 4 0 (core.accAt (accKey tile e.1 e.2) % 2 ^ 32, 0)))
    let wf := if q then joinFlags ((List.range 64).flatMap (fun j => (List.range kk).map (fun k => (weight j k).2))) else 0
    { padReads := reads, accReads := accKeys tile, acc := rs.map (fun r => (r.1, r.2.1))
      flags := wf ||| joinFlags (rs.map (fun r => r.2.2)) }

/-- `mresolve` (R251). -/
def State.resolve (s : State) (c : Nat) (o : MatrixOp) (tile : Nat) : MatrixStep :=
  let core := s.core c
  let base := o.scalar.toNat
  let one (k : Nat) : Nat × Flags :=
    let v := rnsDecode (core.accAt k)
    if o.kind = 4 then
      let y := max (-2147483648) (min 2147483647 v)
      ((BitVec.ofInt 32 y).toNat, if y = v then 0 else flQSat)
    else
      let sc := if o.kind = 5 then base % 2 ^ 32 else core.padNum (base + 4 * (k / 64 % 64)) 4
      roundPair fp32 .rne ((ofIntVal v).mul (fp32.value sc))
  let rs := (accKeys tile).map (fun k => (k, one k))
  { padReads := if o.kind = 6 then [(c, (List.range 256).map (fun b => base + b))] else []
    accReads := accKeys tile, acc := rs.map (fun r => (r.1, r.2.1)), flags := joinFlags (rs.map (fun r => r.2.2)) }

/-- `mld` (R252). -/
def State.tileLoad (s : State) (c : Nat) (o : MatrixOp) (tile : Nat) : MatrixStep :=
  let l := tripleLayout o.a
  let k := s.namedCore c l
  let core := k.map s.core
  let elems := (List.range 64).flatMap (fun i => (List.range 64).map (fun j => (i, j)))
  { padReads := match k with
      | some x => [(x, (List.range l.rowsValid).flatMap (fun i => l.rowPlaces i (6 * l.lenValid 64)))]
      | none => []
    acc := elems.map (fun e => (accKey tile e.1 e.2, operandBits core l 64 48 e.1 e.2)) }

/-- Bits of an output element. -/
def outBits : MstFmt → Nat
  | .bf16 | .fp16 => 16
  | .e4m3 | .e5m2 | .int8 => 8
  | .e3m2 | .e2m3 => 6
  | .e2m1 | .int4 => 4
  | .fp32 => 32

def outFmt : MstFmt → Fmt
  | .bf16 => bf16
  | .fp16 => fp16
  | .e4m3 => e4m3
  | .e5m2 => e5m2
  | .e3m2 => e3m2
  | .e2m3 => e2m3
  | .e2m1 => e2m1
  | .int8 => fp32
  | .int4 => fp32
  | .fp32 => fp32

/-- An FP32 value as a signed integer of n bits (R253). -/
def toSmallInt (n : Nat) : FVal → Nat × Flags
  | .nan => (0, flInvalid)
  | .inf neg => ((BitVec.ofInt n (if neg then -(2 ^ (n - 1) : Nat) else (2 ^ (n - 1) : Nat) - 1)).toNat, flQSat)
  | .fin neg m e =>
    let r := intRound .rne neg m e
    let v : Int := if neg then -(r.1 : Int) else r.1
    let y := max (-((2 ^ (n - 1) : Nat) : Int)) (min (((2 ^ (n - 1) : Nat) : Int) - 1) v)
    ((BitVec.ofInt n y).toNat, if y ≠ v then flQSat else if r.2 then flInexact else 0)

/-- One element of a plain `mst` (R253). -/
def storeElem (f : MstFmt) (code : Nat) : Nat × Flags :=
  match f with
  | .fp32 => (code, 0)
  | .int8 => toSmallInt 8 (fp32.value code)
  | .int4 => toSmallInt 4 (fp32.value code)
  | .bf16 | .fp16 | .e4m3 | .e5m2 | .e3m2 | .e2m3 | .e2m1 => roundVal (outFmt f) .rne (fp32.value code)

/-- Codes of a row packed into bytes; the bits of a last partial byte that belong to masked columns stay. -/
def packRow (c : Core) (done : List (Nat × Byte)) (l : Layout) (i bits : Nat) (codes : List Nat) : List (Nat × Byte) :=
  let n := codes.foldr (fun x acc => x % 2 ^ bits + 2 ^ bits * acc) 0
  let total := codes.length * bits
  (List.range ((total + 7) / 8)).map (fun b =>
    let place := padPlace l.mode (l.rowAt i + b)
    let left := min 8 (total - 8 * b)
    let old := if left = 8 then 0 else (((done.reverse.find? (fun x => x.1 == place)).map (·.2)).getD (fgetD c.pad place 0)).toNat
    (place, BitVec.ofNat 8 (n / 2 ^ (8 * b) % 2 ^ left + old / 2 ^ left * 2 ^ left)))

/-- The values of one block of a row, and their quantised codes (R254). -/
def quantRow (g : Fmt) (sf : ScaleFmt) (L : Nat) (xs : List FVal) : Nat → Nat → List (Nat × Nat × List (Nat × Flags))
  | 0, _ => []
  | n + 1, q =>
    let ys := (xs.drop (q * L)).take L
    if ys.isEmpty then [] else (let r := quantBlock g sf .rne ys; (q, r.1, r.2)) :: quantRow g sf L xs n (q + 1)

/-- The rows of a store in order: bits past a row's end keep what an earlier row of the store wrote there. Where rows
overlap, R252 gives no order: the model writes them in ascending order of i (log entry 118). -/
def packRows (c : Core) (l : Layout) (bits : Nat) (rs : List (Nat × List Nat)) : List (Nat × Byte) :=
  rs.foldl (fun acc r => acc ++ packRow c acc l r.1 bits r.2) []

/-- `mst` (R252–R254). The tile goes to the named core; scales go to the issuing core. R240 speaks of fetches: a store
whose named block has ended by the time it runs writes nothing and raises no flag, which is the model's choice (log entry
119). -/
def State.tileStore (s : State) (c : Nat) (o : MatrixOp) (tile : Nat) : MatrixStep × List (Nat × Byte) :=
  let core := s.core c
  let l := tripleLayout o.a
  let k := s.namedCore c l
  let f := o.out.getD .fp32
  let rows := List.range l.rowsValid
  let cols := List.range (l.lenValid 64)
  let codeAt (i j : Nat) : Nat := core.accAt (accKey tile i j) % 2 ^ 32
  let reads := rows.flatMap (fun i => cols.map (fun j => accKey tile i j))
  match k with
  | none => ({ accReads := reads }, [])
  | some x =>
    let dst := s.core x
    if o.kind = 8 then
      let rs := rows.map (fun i => (i, cols.map (fun j => storeElem f (codeAt i j))))
      ({ accReads := reads, pad := packRows dst l (outBits f) (rs.map (fun r => (r.1, r.2.map (·.1))))
         flags := joinFlags (rs.flatMap (fun r => r.2.map (·.2))) }, [])
    else
      let L := blockLen (fmtBlockCode o.fmt)
      let sf : ScaleFmt := if o.kind = 9 then .e8m0 else .e4m3
      let rs := rows.map (fun i => (i, quantRow (outFmt f) sf L (cols.map (fun j => fp32.value (codeAt i j))) (64 / L) 0))
      ({ accReads := reads
         pad := packRows dst l (outBits f) (rs.map (fun r => (r.1, r.2.flatMap (fun b => b.2.2.map (·.1)))))
         flags := joinFlags (rs.flatMap (fun r => r.2.flatMap (fun b => b.2.2.map (·.2)))) },
       rs.flatMap (fun r => r.2.map (fun b => (fmtScaleA o.fmt + 64 / L * r.1 + b.1, BitVec.ofNat 8 b.2.1))))

/-- The core an operation writes scratchpad bytes of. -/
def State.storeCore (s : State) (c : Nat) (o : MatrixOp) : Nat := (s.namedCore c (tripleLayout o.a)).getD c

/-- The step of an operation, and the scale bytes that an `mst` writes in the issuing core. -/
def State.matrixStep (s : State) (c : Nat) (o : MatrixOp) (tile : Nat) : MatrixStep × List (Nat × Byte) :=
  match o.kind with
  | 0 => ({ acc := (accKeys tile).map (fun k => (k, 0)) }, [])
  | 1 => (s.multiply c o tile, [])
  | 2 => (s.multiply c o tile, [])
  | 3 => (s.multiply c o tile, [])
  | 4 => (s.resolve c o tile, [])
  | 5 => (s.resolve c o tile, [])
  | 6 => (s.resolve c o tile, [])
  | 7 => (s.tileLoad c o tile, [])
  | _ => s.tileStore c o tile

/-- The uncorrectable errors that a step meets: core, kind and unit (R246, R418). -/
def State.stepErrors (s : State) (c : Nat) (m : MatrixStep) : List (Nat × Nat × Nat) :=
  (m.padReads.flatMap (fun r => ((s.core r.1).padBad.filter (fun w => r.2.any (fun p => p / 8 == w))).map (fun w => (r.1, 0, w))))
    ++ ((s.core c).accBad.filter (fun k => m.accReads.contains k)).map (fun k => (c, 1, k))

/-! ### Tile stamp records (R263) -/

def State.modRec (s : State) (c tile : Nat) (f : TileRec → TileRec) : State :=
  s.modBlock c (fun b => { b with recs := fmod b.recs tile f })

/-- An operation naming the tile issues. -/
def State.recIssue (s : State) (c tile g : Nat) : State :=
  s.modRec c tile (fun r => { r with ops := min (r.ops + 1) 0xFFFFFFFF, named := r.named || r.group == g })

/-! ### Events of the unit (R258, R259, R262) -/

/-- Whether the units of a core run: its block is not halted in place by a plot stop or the end of its function's slice; those
of a block that a recall or a withdrawal halts drain (R226, R261, R300, R327, R359). -/
def State.unitRuns (s : State) (c : Nat) : Bool :=
  match (s.core c).block with
  | some b => !(s.plot b.launch.plot).stopped && (b.leaving || b.launch.vf == (s.plot b.launch.plot).vfCur)
  | none => true

/-- MATRIX_OP_START (R262): the operation at the head starts in the array. -/
def matrixOpStartStep (s : State) : Option State :=
  let c := s.subj.ag
  match (s.core c).mops with
  | [] => none
  | o :: rest =>
    if o.started || !s.unitRuns c then none
    else
      some ((s.modCore c (fun x => { x with mops := { o with started := true } :: rest })).modRec c o.tile
        (fun r => { r with cstart := if r.cstart = 0 then s.cycle else r.cstart }))

def execMatrixOpStart (s : State) : Host.Outcome State Fault Refusal := .next ((matrixOpStartStep s).getD s)

/-- MATRIX_OP_COMPLETE (R258): the started operation writes its elements and bytes, and its flags reach FPX; one that
meets an uncorrectable error writes nothing (R246). -/
def matrixOpCompleteStep (s : State) : Option State :=
  let c := s.subj.ag
  match (s.core c).mops with
  | [] => none
  | o :: rest =>
    if !o.started || !s.unitRuns c then none
    else
      let key := groupKey c o.group
      let tile := ((s.core c).block.elim 0 (·.pool)) + o.tile
      let r := s.matrixStep c o tile
      let bad := s.stepErrors c r.1
      let s0 := s.modCore c (fun x => { x with mops := rest })
      let s1 :=
        if bad.isEmpty then
          ((((s0.modCore c (fun x => x.accWrite r.1.acc)).modCore (s.storeCore c o) (fun x => x.padPoke r.1.pad)).modCore c
            (fun x => x.padPoke r.2)).raiseFp key r.1.flags).countBlock c 0x10 (if 1 ≤ o.kind ∧ o.kind ≤ 3 then 1 else 0)
        else
          (bad.foldl (fun s' e => s'.noticeUnit e.1 (s'.plotOf key) e.2.1 e.2.2) s0).modThread key
            (fun t => { t with mpoison := t.mpoison ++ [o.batch] })
      some ((s1.modRec c o.tile (fun x =>
        if 8 ≤ o.kind then { x with copyOut := s.cycle } else if 1 ≤ o.kind ∧ o.kind ≤ 3 ∧ bad.isEmpty then { x with cend := s.cycle } else x)).reapBlock c)

def execMatrixOpComplete (s : State) : Host.Outcome State Fault Refusal := .next ((matrixOpCompleteStep s).getD s)

/-! ### Issue (R234, R241, R245, R250–R254, R259) -/

/-- Bytes of scratchpad of the running agent's block (R108). -/
def State.alloc (s : State) : Nat := (s.launchOf s.cur).scratch

/-- Whether a run of bytes lies in the allocation. -/
def State.runFits (s : State) (a n : Nat) : Bool := decide (a + n ≤ s.alloc)

/-- Queue a matrix operation: the pool check, the instruction's own checks in order, room in the unit, and the entry
with its captured words. -/
def State.matrixIssue (s : State) (t : TileReg) (names : List SReg) (checks : State → Option (BitVec 8))
    (op : State → MatrixOp) : State :=
  s.issue groupOnly names (fun s =>
    let c := coreOfKey s.cur
    let g := ctxOfKey s.cur
    if (s.launchOf s.cur).tiles ≤ t.val then s.trapNow cIllegal
    else
      match checks s with
      | some cause => s.trapNow cause
      | none =>
        if 16 ≤ (s.core c).mops.length then s
        else
          ((s.modCore c (fun x =>
            { x with
              mops := x.mops ++ [{ op s with id := x.nextOp, group := g, tile := t.val, batch := s.th.batch + 1 }]
              nextOp := x.nextOp + 1 })).recIssue c t.val g).modThread s.cur (fun th => { th.advance with region := none }))

/-- Item 4 of R245 for one operand. -/
def State.operandOk (s : State) (ws : List Word) (kk bits : Nat) : Bool :=
  let l := tripleLayout ws
  l.edgeOk kk && (s.namedCore (coreOfKey s.cur) l).isSome
    && l.rowsFit l.rowsValid ((l.lenValid kk * bits + 7) / 8) s.alloc

/-- The scale run of one operand. -/
def State.scalesOk (s : State) (ws : List Word) (w : Word) (base kk : Nat) : Bool :=
  fmtScale w = 0 ||
    let l := tripleLayout ws
    let L := blockLen (fmtBlockCode w)
    s.runFits base (kk / L * (l.rowsValid - 1) + (l.lenValid kk + L - 1) / L)

def State.multiplyIssue (s : State) (kind : Nat) (t : TileReg) (a b : SReg) : State :=
  let three (r : SReg) : List SReg := [r, r + 1, r + 2]
  s.matrixIssue t (three a ++ three b)
    (fun s =>
      let w := s.th.fmtBlock
      let A := s.th.triple a
      let B := s.th.triple b
      let kk := if kind = 2 then 32 else matK (fmtA w)
      let k0 := (tripleLayout B).stride2
      if !captureOk kind w then some cIllegal
      else if !s.operandOk A kk (matBits (fmtA w)) || !s.operandOk B kk (matBits (fmtB w)) then some cRange
      else if kind = 1 && (!s.scalesOk A w (fmtScaleA w) kk || !s.scalesOk B w (fmtScaleB w) kk) then some cRange
      else if kind = 2 && (decide (k0 < 0) || decide (k0 % 32 ≠ 0)
          || !s.runFits (fmtScaleB w + 256 * (k0.toNat / (32 * 2 ^ fmtGroup w))) 256) then some cRange
      else none)
    (fun s =>
      { id := 0, group := 0, kind := kind, tile := 0, fmt := s.th.fmtBlock, a := s.th.triple a, b := s.th.triple b })

def execMfmt (a : SReg) (s : State) : Host.Outcome State Fault Refusal :=
  .next (s.issue groupOnly [a] (fun s =>
    if fmtWordOk (s.th.sreg a) then s.modThread s.cur (fun t => { t with fmtBlock := t.sreg a }.advance) else s.trapNow cIllegal))

def execMzero (t : TileReg) (s : State) : Host.Outcome State Fault Refusal :=
  .next (s.matrixIssue t [] (fun _ => none) (fun _ => { id := 0, group := 0, kind := 0, tile := 0 }))
def execMma (t : TileReg) (a b : SReg) (s : State) : Host.Outcome State Fault Refusal := .next (s.multiplyIssue 1 t a b)
def execMmaq (t : TileReg) (a b : SReg) (s : State) : Host.Outcome State Fault Refusal := .next (s.multiplyIssue 2 t a b)
def execMmaRn (t : TileReg) (a b : SReg) (s : State) : Host.Outcome State Fault Refusal := .next (s.multiplyIssue 3 t a b)

def State.resolveIssue (s : State) (kind : Nat) (t : TileReg) (a : SReg) (checks : State → Option (BitVec 8)) : State :=
  s.matrixIssue t [a] checks (fun s => { id := 0, group := 0, kind := kind, tile := 0, scalar := s.th.sreg a })

def execMresolveI32 (t : TileReg) (a : SReg) (s : State) : Host.Outcome State Fault Refusal :=
  .next (s.resolveIssue 4 t a (fun _ => none))
def execMresolveTile (t : TileReg) (a : SReg) (s : State) : Host.Outcome State Fault Refusal :=
  .next (s.resolveIssue 5 t a (fun _ => none))
def execMresolveRow (t : TileReg) (a : SReg) (s : State) : Host.Outcome State Fault Refusal :=
  .next (s.resolveIssue 6 t a (fun s =>
    let o := (s.th.sreg a).toNat
    if o % 4 ≠ 0 then some cMisaligned else if 2 ^ 20 ≤ o ∨ !s.runFits o 256 then some cRange else none))

def execMld (t : TileReg) (a : SReg) (s : State) : Host.Outcome State Fault Refusal :=
  .next (s.matrixIssue t [a, a + 1, a + 2]
    (fun s => if s.operandOk (s.th.triple a) 64 48 then none else some cRange)
    (fun s => { id := 0, group := 0, kind := 7, tile := 0, a := s.th.triple a }))

def execMst (t : TileReg) (a : SReg) (f : MstFmt) (s : State) : Host.Outcome State Fault Refusal :=
  .next (s.matrixIssue t [a, a + 1, a + 2]
    (fun s => if s.operandOk (s.th.triple a) 64 (outBits f) then none else some cRange)
    (fun s => { id := 0, group := 0, kind := 8, tile := 0, a := s.th.triple a, out := some f, fmt := s.th.fmtBlock }))

def State.quantIssue (s : State) (kind : Nat) (t : TileReg) (a : SReg) (f : MstFmt) : State :=
  s.matrixIssue t [a, a + 1, a + 2]
    (fun s =>
      let w := s.th.fmtBlock
      if fmtBlockCode w = 0 then some cIllegal
      else if !s.operandOk (s.th.triple a) 64 (outBits f) then some cRange
      else if !s.runFits (fmtScaleA w) (64 * (64 / blockLen (fmtBlockCode w))) then some cRange
      else none)
    (fun s => { id := 0, group := 0, kind := kind, tile := 0, a := s.th.triple a, out := some f, fmt := s.th.fmtBlock })

def execMstQE8m0 (t : TileReg) (a : SReg) (f : MstFmt) (s : State) : Host.Outcome State Fault Refusal :=
  .next (s.quantIssue 9 t a f)
def execMstQE4m3 (t : TileReg) (a : SReg) (f : MstFmt) (s : State) : Host.Outcome State Fault Refusal :=
  .next (s.quantIssue 10 t a f)

/-! ### Batches (R257, R258) -/

def execMbatch (d : SReg) (s : State) : Host.Outcome State Fault Refusal :=
  .next (s.issue groupOnly [d] (fun s =>
    s.modThread s.cur (fun t =>
      { (t.setSreg d ((t.batch + 1).setWidth 64)).advance with batch := t.batch + 1, region := none })))

def execMwait (a : SReg) (s : State) : Host.Outcome State Fault Refusal :=
  .next (s.issue groupOnly [a] (fun s =>
    let n : BitVec 32 := (s.th.sreg a).setWidth 32
    let done (s : State) : State := s.modThread s.cur (fun t => { t.advance with region := none })
    if n = 0 then done s
    else if !atOrBefore n s.th.batch then s.trapNow cRange
    else if (s.groupOps s.cur).any (fun o => atOrBefore o.batch n) then s
    else if s.th.mpoison.any (fun m => atOrBefore m n) then
      (s.modThread s.cur (fun t => { t with mpoison := t.mpoison.filter (fun m => !atOrBefore m n) })).trapNow cPoison
    else done s))

end Sys2Proof.Machine
end

