-- ==== Sys2Proof/Machine/Engines.lean ====
section
/-! DEFINITION. Engine instructions as they issue (R192–R218): copy tags and their waits, byte barriers, the checks of
copies, bin rows and ring operations. -/

namespace Sys2Proof.Machine

/-! ### Copy tags (R192–R194) -/

def Block.tag (b : Block) (t : Nat) : CopyTag := fgetD b.tags t {}
def State.tag (s : State) (c t : Nat) : CopyTag := (s.core c).block.elim {} (fun b => b.tag t)
def State.setTag (s : State) (c t : Nat) (x : CopyTag) : State := s.modBlock c (fun b => { b with tags := fset b.tags t x })

/-- A status word (Table 9.1). -/
def tagStatus (cause detail : Nat) : BitVec 32 := BitVec.ofNat 32 (cause * 2 ^ 28 + detail)

/-- The operation of a tag completes (R193): its status and, with a cause, its error bit. -/
def Block.tagDone (b : Block) (t cause detail : Nat) (sprouts : List (Nat × BitVec 8)) : Block :=
  { b with tags := fset b.tags t { b.tag t with ready := true, err := decide (cause ≠ 0), status := tagStatus cause detail, sprouts := sprouts } }

def State.tagDone (s : State) (c t cause detail : Nat) (sprouts : List (Nat × BitVec 8)) : State :=
  s.modBlock c (fun b => b.tagDone t cause detail sprouts)

/-- TAGREADY and TAGERR. -/
def State.tagBits (s : State) (c : Nat) (f : CopyTag → Bool) : BitVec 64 := laneBits (fun t => f (s.tag c t))
def State.tagReady (s : State) (c : Nat) : BitVec 64 := s.tagBits c (·.ready)
def State.tagErr (s : State) (c : Nat) : BitVec 64 := s.tagBits c (·.err)

def CopyTag.cause (t : CopyTag) : Nat := t.status.toNat / 2 ^ 28

/-- Retire an instruction that is not idempotent: an open region closes (R296). -/
def State.retire (s : State) : State := s.modThread s.cur (fun t => { t.advance with region := none })

/-! ### Byte barriers (R206, R207) -/

structure Barrier where
  phase : Nat
  pending : Nat
  arrivals : Nat
  arrived : Nat
  expected : Nat
  deriving DecidableEq, Repr

def barrierOf (n : Nat) : Barrier :=
  ⟨n / 2 ^ 96 % 2 ^ 32, n / 2 ^ 80 % 2 ^ 16, n / 2 ^ 64 % 2 ^ 16, n / 2 ^ 32 % 2 ^ 32, n % 2 ^ 32⟩

def Barrier.num (b : Barrier) : Nat :=
  b.phase * 2 ^ 96 + b.pending * 2 ^ 80 + b.arrivals * 2 ^ 64 + b.arrived * 2 ^ 32 + b.expected

/-- The flip check: at most one flip an update. -/
def Barrier.flip (b : Barrier) : Barrier :=
  if b.pending = 0 ∧ b.expected ≤ b.arrived then
    { phase := (b.phase + 1) % 2 ^ 32, pending := b.arrivals, arrivals := b.arrivals, arrived := b.arrived - b.expected, expected := 0 }
  else b

def sat32 (n : Nat) : Nat := min n 0xFFFFFFFF

def Core.barrier (c : Core) (o : Nat) : Barrier := barrierOf (c.padNum o 16)
def Core.setBarrier (c : Core) (o : Nat) (b : Barrier) : Core := c.padWrite o (leBytes 16 b.flip.num)

/-- An engine adds the bytes of an operation, with the flip check. -/
def State.barrierAdd (s : State) (c o n : Nat) : State :=
  s.modCore c (fun x => let b := x.barrier o; x.setBarrier o { b with arrived := sat32 (b.arrived + n) })

/-- The opener's waits stamp its open tiles until it first names them (R263). -/
def State.recInputs (s : State) : State :=
  s.modBlock (coreOfKey s.cur) (fun b =>
    { b with recs := b.recs.map (fun r =>
        (r.1, if r.2.group = ctxOfKey s.cur ∧ !r.2.named then { r.2 with inputs := s.cycle } else r.2)) })

/-- The checks and the effect of a `bar` instruction on the barrier at sa (R208). -/
def State.bar (s : State) (names : List SReg) (a : SReg) (body : State → Nat → Barrier → State) : State :=
  s.issue groupOnly names (fun s =>
    let o := (s.th.sreg a).toNat
    if o % 16 ≠ 0 then s.trapNow cMisaligned
    else if 2 ^ 20 ≤ o ∨ !s.runFits o 16 then s.trapNow cRange
    else body s o ((s.core (coreOfKey s.cur)).barrier o))

def State.putBarrier (s : State) (o : Nat) (b : Barrier) : State := s.modCore (coreOfKey s.cur) (fun c => c.setBarrier o b)

def execBarInit (a b : SReg) (s : State) : Host.Outcome State Fault Refusal :=
  .next (s.bar [a, b] a (fun s o _ =>
    let v := (s.th.sreg b).toNat
    let n := v / 2 ^ 32 % 2 ^ 16
    (s.putBarrier o ⟨0, n, n, 0, v % 2 ^ 32⟩).retire))

def execBarExpect (a b : SReg) (s : State) : Host.Outcome State Fault Refusal :=
  .next (s.bar [a, b] a (fun s o x =>
    (s.putBarrier o { x with expected := sat32 (x.expected + (s.th.sreg b).toNat % 2 ^ 32) }).retire))

def execBarArrive (a b : SReg) (s : State) : Host.Outcome State Fault Refusal :=
  .next (s.bar [a, b] a (fun s o x =>
    if x.pending = 0 then s.trapNow cRange
    else (s.putBarrier o { x with pending := x.pending - 1, arrived := sat32 (x.arrived + (s.th.sreg b).toNat % 2 ^ 32) }).retire))

/-- The phase has flipped since the parity in sb. -/
def Barrier.flipped (x : Barrier) (v : Word) : Bool := decide (x.phase % 2 ≠ v.toNat % 2)

def execBarWait (a b : SReg) (s : State) : Host.Outcome State Fault Refusal :=
  .next (s.bar [a, b] a (fun s _ x => s.delivery (fun s => if x.flipped (s.th.sreg b) then s.recInputs.retire else s)))

def execBarTest (d a b : SReg) (s : State) : Host.Outcome State Fault Refusal :=
  .next (s.bar [d, a, b] a (fun s _ x =>
    (s.modThread s.cur (fun t => t.setSreg d (if x.flipped (t.sreg b) then 1 else 0))).retire))

/-! ### Waits on tags (R195, R213) -/

/-- The trap cause that matches a tag's cause, where a wait raises one. -/
def waitCause (cause : Nat) : Option (BitVec 8) :=
  match cause with
  | 1 => some cEscape
  | 2 => some cPoison
  | 3 => some cPage
  | 4 => some cSprout
  | 6 => some cRange
  | _ => none

/-- The lowest of some tags whose cause a wait raises. -/
def State.tagTrap (s : State) (mask : BitVec 64) : Option (CopyTag × BitVec 8) :=
  (setLanes mask).findSome? (fun t => let x := s.tag (coreOfKey s.cur) t; (waitCause x.cause).map (fun c => (x, c)))

/-- A wait observes tags: the trap of R195, or its result. -/
def State.observe (s : State) (mask : BitVec 64) (d : SReg) (v : Word) (stamp : Bool) : State :=
  match s.tagTrap mask with
  | some (x, c) => s.raise s.cur { cause := c, pc := s.th.pc, sprouts := x.sprouts, sproutFault := decide (x.cause = 4) }
  | none =>
    let s1 := s.modThread s.cur (fun t => t.setSreg d v)
    (if stamp then s1.recInputs else s1).retire

/-- The result that names one tag. -/
def State.tagResult (s : State) (t : Nat) : Word :=
  let x := s.tag (coreOfKey s.cur) t
  BitVec.ofNat 64 (x.status.toNat * 2 ^ 32 + (if x.err then 128 else 0) + t)

/-- The ready tags of a mask. -/
def State.readyIn (s : State) (mask : BitVec 64) : BitVec 64 := s.tagReady (coreOfKey s.cur) &&& mask

def bit64 (t : Nat) : BitVec 64 := BitVec.ofNat 64 (2 ^ t)

def execTwaitAny (d a : SReg) (s : State) : Host.Outcome State Fault Refusal :=
  .next (s.issue groupOnly [d, a] (fun s =>
    if s.th.sreg a = 0 then s.observe 0 d 64 true
    else
      match setLanes (s.readyIn (s.th.sreg a)) with
      | [] => s
      | t :: _ => s.observe (bit64 t) d (s.tagResult t) true))

def execTwaitAll (d a : SReg) (s : State) : Host.Outcome State Fault Refusal :=
  .next (s.issue groupOnly [d, a] (fun s =>
    let m := s.th.sreg a
    if s.readyIn m = m then s.observe m d m true else s))

def execTfirst (d a : SReg) (s : State) : Host.Outcome State Fault Refusal :=
  .next (s.issue groupOnly [d, a] (fun s =>
    match setLanes (s.readyIn (s.th.sreg a)) with
    | [] => s.observe 0 d 64 false
    | t :: _ => s.observe (bit64 t) d (s.tagResult t) false))

def execTclr (a : SReg) (s : State) : Host.Outcome State Fault Refusal :=
  .next (s.issue groupOnly [a] (fun s =>
    let m := s.th.sreg a
    if s.readyIn m = m then
      ((setLanes m).foldl (fun s' t =>
        s'.setTag (coreOfKey s.cur) t { (s'.tag (coreOfKey s.cur) t) with err := false, status := 0, sprouts := [] }) s).retire
    else s))

/-! ### Issue of engine operations (R193, R196, R199, R202, R219, R222) -/

/-- The registers of an octet, and their values. -/
def octNames (a : SReg) : List SReg := (List.range 8).map (fun k => a + Fin.ofNat 64 k)
def Thread.octet (t : Thread) (a : SReg) : List Word := (octNames a).map t.sreg

/-- The destination placement of `tcopy.ss` (Table 9.3, R209). -/
def CopySpec.ssDest (x : CopySpec) : Layout :=
  let w := (x.word 0).toNat
  { offset := w % 2 ^ 20, core := w / 2 ^ 20 % 8, mode := 0, stride0 := (x.word 1).toInt, stride1 := 256, stride2 := 0 }

/-- The aligned sub-rectangle of R45 around a core: its corner and its sides. -/
def CopySpec.rect (x : CopySpec) (c : Nat) : Nat × Nat × Nat × Nat :=
  let w := 2 ^ x.w7 24 3
  let h := 2 ^ x.w7 28 3
  (tileX c / w * w, tileY c / h * h, w, h)

/-- The sides that word 7 gives are allowed, with multicast or without (Table 3.14). -/
def CopySpec.sidesOk (x : CopySpec) : Bool := decide (x.w7 28 3 ≤ 4) && decide (x.w7 24 3 ≤ 6)

/-- The sub-rectangle lies in the launch rectangle. -/
def CopySpec.rectOk (x : CopySpec) (b : Block) (c : Nat) : Bool :=
  let r := x.rect c
  decide (b.x0 ≤ r.1) && decide (b.y0 ≤ r.2.1)
    && decide (r.1 + r.2.2.1 ≤ b.x0 + b.launch.w) && decide (r.2.1 + r.2.2.2 ≤ b.y0 + b.launch.h)

/-- A barrier or an index list that is not aligned. -/
def CopySpec.misaligned (x : CopySpec) : Bool :=
  (x.barrierOn && decide (x.barrier % 16 ≠ 0)) || (decide (x.kind = 3) && decide (x.base % 4 ≠ 0))

/-- The scratchpad side of an operation is acceptable (R199). -/
def State.layoutOk (s : State) (x : CopySpec) : Bool :=
  let c := coreOfKey s.cur
  let l := x.layout
  l.fits x.rows x.rowBytes s.alloc &&
    (if x.multicast then true
     else if x.kind = 1 ∨ x.kind = 2 then (s.namedCore c l).isSome
     else clusterMate c l.core == c)

/-- What a copy or fill must meet at issue (R44, R45, R196, R197, R199, R202, R210, R211). -/
def State.copyInRange (s : State) (x : CopySpec) : Bool :=
  let c := coreOfKey s.cur
  decide (x.size ≤ 0xFFFFFFFF)
    && (if x.kind = 2 then
          decide ((x.word 0).toNat < 2 ^ 27) && decide (-(2 ^ 22 : Int) ≤ (x.word 1).toInt)
            && decide ((x.word 1).toInt < 2 ^ 22) && (s.namedCore c x.ssDest).isSome
            && x.ssDest.fits x.rows x.rowBytes s.alloc
        else decide (x.kind = 4) || decide ((x.word 0).toNat < 2 ^ 56))
    && x.sidesOk && (!x.multicast || ((decide (x.kind = 0) || decide (x.kind = 3)) && (s.core c).block.elim false (fun b => x.rectOk b c)))
    && s.layoutOk x
    && (!x.barrierOn || s.runFits x.barrier 16)
    && (decide (x.kind ≠ 3) || (decide (x.base < 2 ^ 20) && s.runFits x.base (4 * x.rows)))
    && (x.key.isNone || (decide (x.word 1 = BitVec.ofNat 64 x.rowBytes) && decide (x.word 3 = x.word 2)))

/-- Issue an engine operation: not ready while its tag or its engine's queue is busy; then its checks; then it enters
the queue. A sprout names no tag, and holds the operation in its store queue (R219, R222). -/
def State.engineIssue (s : State) (w : Who) (tag : Nat) (names : List SReg) (spec : State → CopySpec)
    (check : State → CopySpec → Option (BitVec 8)) : State :=
  s.issue w names (fun s =>
    let x := spec s
    if isSproutKey s.cur then
      if tag ≠ 0 then s.trapNow cIllegal
      else
        match check s x with
        | some c => s.trapNow c
        | none => s.withRoom (fun s => s.modThread s.cur (fun t => (t.enqueue (.engine x) [] false).advance))
    else
      let c := coreOfKey s.cur
      if !(s.tag c tag).ready || (s.core c).engineFull x.engine then s
      else
        match check s x with
        | some c => s.trapNow c
        | none =>
          let id := (s.core c).nextOp
          ((s.setTag c tag { ready := false, owner := id }).modCore c (fun y =>
            { y with
              eops := y.eops ++ [{ id := id, spec := x, group := ctxOfKey s.cur, after := s.th.nextId }]
              nextOp := id + 1 })).retire)

def State.copyCheck (s : State) (x : CopySpec) : Option (BitVec 8) :=
  if x.misaligned then some cMisaligned else if s.copyInRange x then none else some cRange

def State.copyIssue (s : State) (w : Who) (kind : Nat) (tag : Fin 64) (a : SReg) (key : Option Nat) : State :=
  s.engineIssue w tag.val (octNames a) (fun s => { kind := kind, tag := tag.val, oct := s.th.octet a, key := key }) State.copyCheck

def execTcopyIn (tag : Fin 64) (a : SReg) (s : State) : Host.Outcome State Fault Refusal :=
  .next (s.copyIssue groupOnly 0 tag a none)
def execTcopyInKey (tag : Fin 64) (a : SReg) (k : Fin 16) (s : State) : Host.Outcome State Fault Refusal :=
  .next (s.copyIssue groupOnly 0 tag a (some k.val))
def execTcopyOut (tag : Fin 64) (a : SReg) (s : State) : Host.Outcome State Fault Refusal :=
  .next (s.copyIssue computeOnly 1 tag a none)
def execTcopySs (tag : Fin 64) (a : SReg) (s : State) : Host.Outcome State Fault Refusal :=
  .next (s.copyIssue groupOnly 2 tag a none)
def execTgather (tag : Fin 64) (a b : SReg) (s : State) : Host.Outcome State Fault Refusal :=
  .next (s.engineIssue groupOnly tag.val (b :: octNames a)
    (fun s => { kind := 3, tag := tag.val, oct := s.th.octet a, base := (s.th.sreg b).toNat }) State.copyCheck)

/-! ### tbin (R214, R215) -/

/-- The 256 bytes of a row. -/
def rowBytesOf (r : Row) : List Byte := (List.range 64).flatMap (fun i => leBytes 4 (r.at i).toNat)

/-- Whether the agent may name vk in `tbin`. -/
def State.binRowOk (s : State) (v : VReg) : Bool :=
  if isSproutKey s.cur then decide (v.val < 16) else decide (v.val < (s.launchOf s.cur).rows)

/-- Table + 32 × bin. -/
def CopySpec.binAt (x : CopySpec) (j : Nat) : Nat := (x.base + 32 * j) % 2 ^ 64

def execTbin (tag : Fin 64) (a b : SReg) (v : VReg) (s : State) : Host.Outcome State Fault Refusal :=
  .next (if !s.admits computeOnly [a, b] || !s.binRowOk v then s.trapNow cIllegal
    else if !s.th.clausesDone then s
    else
      s.engineIssue computeOnly tag.val [a, b]
        (fun s =>
          { kind := 5, tag := tag.val, oct := [], base := (s.th.sreg a).toNat, bin := (s.th.sreg b).toNat
            row := rowBytesOf (s.row s.cur v.val) })
        (fun _ x =>
          if x.base % 32 ≠ 0 then some cMisaligned
          else if 2 ^ 56 ≤ x.base ∨ 2 ^ 56 ≤ x.binAt x.bin then some cRange
          else none))

/-! ### Rings (R216, R217) -/

/-- A ring object (Table 9.13). -/
structure RingObj where
  base : Nat
  slotBytes : Nat
  slots : Nat
  wi : Nat
  ri : Nat
  deriving DecidableEq, Repr

def State.ringAt (s : State) (pa : Nat) : RingObj :=
  ⟨s.mem.num pa 8, s.mem.num (pa + 8) 4, s.mem.num (pa + 12) 2, s.mem.num (pa + 16) 8, s.mem.num (pa + 24) 8⟩

/-- The fields are as Table 9.13 asks, and the object lies in bonded DRAM or CXL memory. -/
def RingObj.ok (r : RingObj) (pa : Nat) : Bool :=
  decide (r.base < 2 ^ 56) && decide (r.slotBytes ≠ 0) && decide (r.slotBytes % 8 = 0) && decide (1 ≤ r.slots)
    && decide (r.slots ≤ 4096) && decide (2 ^ r.slots.log2 = r.slots) && (isDram pa || isCxl pa)

/-- The address of slot i. -/
def RingObj.slot (r : RingObj) (i : Nat) : Nat := (r.base + i % r.slots * r.slotBytes) % 2 ^ 64

/-- An access that must be made before its instruction can go on meets an absent page: it enters the operand log, and
the instruction runs again when the fault is served (R72, R217). -/
def State.retryFault (s : State) (access va : Nat) : State :=
  s.openFault s.cur { id := 0, target := .fetch, access := access, pc := s.th.pc } [va]

/-- A queue entry of the agent touches the object. -/
def Thread.touchesRing (t : Thread) (va pa : Nat) : Bool :=
  t.sq.any (fun e => e.parts.any (fun p =>
    if e.held then overlaps p.va p.data.length va 32 else overlaps p.pa p.data.length pa 32))

/-- Reach the ring object at sa for an access, once the agent's queued entries that write a byte of it have drained or
performed; then go on with its translation and fields. -/
def State.reachRing (s : State) (acc : Access) (a : SReg) (body : State → Xlat → RingObj → State) : State :=
  let ea := s.th.sreg a
  if s.logBusy s.cur then s
  else
    match s.checkAccess s.cur acc ea 32 with
    | .trap c => s.trapVa c ea.toNat
    | .wait => s
    | .hold => s.retryFault (if acc = .load then 0 else 2) ea.toNat
    | .ok x =>
      if s.th.touchesRing ea.toNat x.pa then s
      else
        s.askHome (.home s.cur) s.cur x.pa (fun s =>
          let r := s.ringAt x.pa
          if !r.ok x.pa then s.trapVa cRange ea.toNat
          else body (s.fill s.cur ea.toNat (.ok x)) x r)

def execRingInit (a b : SReg) (s : State) : Host.Outcome State Fault Refusal :=
  .next (s.issue groupOnly [a, b] (fun s =>
    s.withRoom (fun s => s.reachRing .atomic a (fun s x _ =>
      s.modThread s.cur (fun t =>
        { (t.enqueue (.ringInit (t.sreg b))
            [{ lane := 0, va := (t.sreg a).toNat + 16, pa := x.pa + 16, data := leBytes 16 0, obj := x.obj }] false).advance
          with region := none })))))

def execRingFill (tag : Fin 64) (a b : SReg) (s : State) : Host.Outcome State Fault Refusal :=
  .next (s.engineIssue groupOnly tag.val (a :: octNames b)
    (fun s => { kind := 4, tag := tag.val, oct := s.th.octet b, base := (s.th.sreg a).toNat })
    (fun s x =>
      if x.misaligned ∨ x.base % 32 ≠ 0 then some cMisaligned
      else if s.copyInRange x ∧ x.base < 2 ^ 56 then none
      else some cRange))

def execRingAwait (d a : SReg) (s : State) : Host.Outcome State Fault Refusal :=
  .next (s.issue groupOnly [d, a] (fun s =>
    s.reachRing .load a (fun s x r =>
      if s.mem.isPoison x.pa then (s.noticePoison x.pa).trapVa cPoison (s.th.sreg a).toNat
      else if r.wi ≤ r.ri then s
      else ((s.modThread s.cur (fun t => t.setSreg d (BitVec.ofNat 64 (r.slot r.ri)))).recInputs).retire)))

def execRingRelease (a : SReg) (s : State) : Host.Outcome State Fault Refusal :=
  .next (s.issue groupOnly [a] (fun s =>
    let clear (s : State) : State := s.modThread s.cur (fun t => { t with wait := .none })
    match s.th.wait with
    | .ringRel => s
    | .ringRelDone => (clear s).retire
    | .ringRelEmpty => (clear s).trapNow cRange
    | .none | .bsync | .bsyncDone | .rsync _ _ | .rsyncDone | .rsyncBad | .syscPort | .syscSent _ | .syscDone | .readback
    | .readbackSent | .readbackDone | .acquire | .closing _ | .publish _ | .publishDone _ | .event =>
      if (s.th.sreg a).toNat % 32 ≠ 0 then s.trapVa cMisaligned (s.th.sreg a).toNat
      else
        s.fenceWaits true .p (fun s => s.reachRing .atomic a (fun s x _ =>
          s.modThread s.cur (fun t =>
            { t.enqueue .ringRelease
                [{ lane := 0, va := (t.sreg a).toNat + 16, pa := x.pa + 16, data := leBytes 16 0, obj := x.obj }] false
              with wait := .ringRel })))))

end Sys2Proof.Machine
end

