-- ==== Sys2Proof/Machine/EngineRun.lean ====
section
/-! DEFINITION. Engine operations as they run and complete (R192, R197, R203–R205, R209–R217), and bulk reads with their
sprouts (R219–R226). -/

namespace Sys2Proof.Machine

/-! ### Reaching global memory (R203) -/

/-- What one access of an engine finds: a translation, a failure with its cause, an uncorrectable error, a wait, or a
hold on the page-fault path with its message. -/
inductive Reach where
  | ok (x : Xlat)
  | fail (cause : Nat)
  | poison (pa : Nat)
  | wait
  /-- its request has taken its place in front of a channel, or has left -/
  | later (s : State)
  | held (s : State) (h : EngineHold)

/-- The fault message of an access of a unit, or its wait for room in the ring and for the ring's channel. -/
def State.reachFault (s : State) (plot va kind vf slot : Nat) (wr : Bool) : Reach :=
  let r := s.sendFault plot va kind vf slot 0xFF
  match r.2 with
  | some id => .held r.1 ⟨va, wr, some ⟨va, id, none⟩⟩
  | none => if s.hasPlace (.fault plot) || !(s.plot plot).fring.room then .wait else .later r.1

/-- Reach n bytes of one line for the operation of an agent. A page that was declared fatal fails, for the access that met it and
for every later one of the operation (R203). A burst whose address has a bit set in [63:56] fails as out-of-range, a cause that
R220 does not list (DESIGN CHOICE, log entry 116). -/
def State.engineReach (s : State) (key va n : Nat) (acc : Access) (hold : Option EngineHold) (fatal : List Nat) : Reach :=
  let wr := acc != .load
  let send : Reach :=
    (s.logForeign key [va]).reachFault (s.plotOf key) va (if wr then 5 else 4) (s.launchOf key).vf ((s.blockOf key).elim 0 (·.slot)) wr
  let look : Reach :=
    match s.xlat key va with
    | .moving => .wait
    | .absent => send
    | .ok x =>
      if !x.permits acc then send
      else if s.mem.escapesRun (s.partyOf key) x.obj wr x.pa n then .fail 1
      else if acc != .store && s.mem.isPoison x.pa then .poison x.pa
      else .ok x
  if 2 ^ 56 ≤ va then .fail 6
  else if fatal.contains (va / 4096) then .fail 3
  else
    match hold with
    | none => look
    | some h =>
      match h.msg with
      | none => look
      | some m => match m.posted with
        | none => .wait
        | some true => .fail 3
        | some false => look

def Core.op? (c : Core) (id : Nat) : Option EngineOp := c.eops.find? (fun o => o.id == id)

def State.modOp (s : State) (c id : Nat) (f : EngineOp → EngineOp) : State :=
  s.modCore c (fun x => { x with eops := x.eops.map (fun o => if o.id = id then f o else o) })

/-- The operation keeps the cause of its first failure. -/
def EngineOp.fail (o : EngineOp) (cause : Nat) : EngineOp := { o with cause := if o.cause = 0 then cause else o.cause }

/-- An access of an engine leaves the line in the caches between its core and the line's home (R23, R203). -/
def State.touchUnit (s : State) (key pa : Nat) : State := if isHost pa then s else s.touchHome key (lineOf pa)

/-- One access of an operation: what it does with a translation, and what with a failure. A read of host or CXL memory waits for
its answer (R24); a write waits for its channel (R348). -/
def State.opReach (s : State) (c : Nat) (o : EngineOp) (va n : Nat) (acc : Access) (go : State → Xlat → State)
    (failed : State → Nat → State) : Option State :=
  let key := groupKey c o.group
  let free (s : State) : State := s.modOp c o.id (fun p => { p with hold := none })
  let lose (s : State) : State :=
    s.modOp c o.id (fun p => if p.hold.isSome then { p with fatal := va / 4096 :: p.fatal } else p)
  match s.engineReach key va n acc o.hold o.fatal with
  | .ok x =>
    let act (s : State) : Option State := some (go (((free s).fill key va (.ok x)).touchUnit key x.pa) x)
    let read (s : State) : Option State := s.fromOutside (.engine c o.id) (s.plotOf key) (s.launchOf key).copy x.pa act
    if acc = .load then read s else s.through (.engine c o.id) x.pa (if acc = .store then act else read)
  | .fail cause => some (failed ((free (if cause = 3 then lose s else s)).leave (.engine c o.id)) cause)
  | .poison pa => some (failed (((free s).leave (.engine c o.id)).noticePoison pa) 2)
  | .wait => none
  | .later s1 => some s1
  | .held s1 h => some ((s1.leave (.engine c o.id)).modOp c o.id (fun p => { p with hold := some h }))

/-- Bytes of an operation reach their cells. -/
def State.opLand (s : State) (c : Nat) (o : EngineOp) (x : Xlat) (pa : Nat) (bs : List Byte) : State :=
  let key := groupKey c o.group
  s.landFor key pa (s.partyOf key) x.obj false bs

/-! ### The scratchpad side (R198, R201, R205, R418) -/

/-- The positions of a tile in row-major order. -/
def CopySpec.cells (x : CopySpec) : List (Nat × Nat) :=
  (List.range x.rows).flatMap (fun r => (List.range x.rowBytes).map (fun b => (r, b)))

def EngineOp.idxOf (o : EngineOp) (r : Nat) : Nat := o.idx.getD r 0

def EngineOp.clipped (o : EngineOp) (r b : Nat) : Bool := o.spec.clipped o.idxOf r b

/-- The physical place of a position. -/
def Layout.place (l : Layout) (r b : Nat) : Nat := padPlace l.mode (l.pos r b).toNat

/-- The scratchpad source of an operation in row-major order: each byte, and whether its word is in error. Clipped
positions are not read. -/
def EngineOp.source (o : EngineOp) (c : Core) : List (Byte × Bool) :=
  o.spec.cells.map (fun q =>
    if o.clipped q.1 q.2 then (0, false)
    else
      let p := o.spec.layout.place q.1 q.2
      if c.padBad.contains (p / 8) then (0, true) else (fgetD c.pad p 0, false))

/-- Report the words in error of a source. -/
def State.noticeSource (s : State) (c k : Nat) (o : EngineOp) : State :=
  o.spec.cells.foldl (fun s' q =>
    let p := o.spec.layout.place q.1 q.2
    if !o.clipped q.1 q.2 && (s'.core k).padBad.contains (p / 8) then s'.noticeUnit k (s'.plotOf (groupKey c o.group)) 0 (p / 8)
    else s') s

/-- The core whose scratchpad a layout names. -/
def EngineOp.sourceCore (o : EngineOp) (c : Nat) : Nat := clusterMate c o.spec.layout.core

/-- Take the whole source at once: `blob` is its bytes, `slot` one past its first position in error. -/
def State.takeSource (s : State) (c : Nat) (o : EngineOp) : State :=
  let k := o.sourceCore c
  let xs := o.source (s.core k)
  (s.noticeSource c k o).modOp c o.id (fun p =>
    { p with blob := xs.map (·.1), slot := (xs.findIdx? (·.2)).elim 0 (· + 1), phase := 1 })

/-- The cores that an operation writes (R212): the issuing core, or those of the sub-rectangle that still run a block
of the launch. -/
def State.receivers (s : State) (c : Nat) (x : CopySpec) : List Nat :=
  if !x.multicast then [c]
  else
    let r := x.rect c
    ((List.range r.2.2.2).flatMap (fun j => (List.range r.2.2.1).map (fun i => tileOf (r.1 + i) (r.2.1 + j)))).filter (fun k =>
      match (s.core c).block, (s.core k).block with
      | some a, some b => a.sameLaunch b
      | _, _ => false)

/-- Write a tile of bytes in row-major order to scratchpad through a layout. -/
def Core.putTile (c : Core) (x : CopySpec) (l : Layout) (bs : List Byte) : Core :=
  c.padPoke ((x.cells.zip bs).map (fun q => (l.place q.1.1 q.1.2, q.2)))

/-! ### tcopy.in, tgather, tcopy.in.key (R209–R212) -/

/-- Unseal the blob of R211: the plaintext, where the slot holds a key and the tag verifies. -/
def EngineOp.unseal (o : EngineOp) : Option (List Byte) :=
  let n := o.spec.size
  let nat (bs : List Byte) : List Nat := bs.map (·.toNat)
  match o.key with
  | none => none
  | some k =>
    (gcmOpen (nat k) (nat (o.blob.take 12)) (nat (leBytes 8 n)) (nat ((o.blob.drop 16).take n)) (nat (o.blob.drop (16 + n)))).map
      (fun p => p.map (fun b => BitVec.ofNat 8 b))

/-- What a tile that has been read holds, and the cause that its unsealing gives. -/
def EngineOp.plain (o : EngineOp) : List Byte × Nat :=
  let zeros : List Byte := List.replicate o.spec.size 0
  if o.spec.key.isSome then
    match o.unseal with
    | some p => if o.cause = 0 then (p, 0) else (zeros, o.cause)
    | none => (zeros, 5)
  else (o.blob, 0)

/-- Every byte has been read: the tile is written in each receiving core, one a step, and in the issuing core last (R212). -/
def State.putTiles (s : State) (c : Nat) (o : EngineOp) : State :=
  let r := o.plain
  let ends (s : State) : State := s.modOp c o.id (fun p => { p.fail r.2 with todo := some [], finished := true })
  match o.todo with
  | none =>
    let rs := s.receivers c o.spec
    s.modOp c o.id (fun p => { p with todo := some (rs.filter (· ≠ c) ++ rs.filter (· = c)) })
  | some [] => ends s
  | some (k :: ks) =>
    let s1 :=
      if (s.receivers c o.spec).contains k then s.modCore k (fun x => x.putTile o.spec o.spec.layout r.1) else s
    if ks.isEmpty then ends s1 else s1.modOp c o.id (fun p => { p with todo := some ks })

/-- The next run of a tile from a position: its length, and whether it is clipped. A run ends with its row, at the
clipping bound, or with the line of its global address. R176 leaves the order of an operation's writes open: the model's is
row-major, one run a step (DESIGN CHOICE, log entry 113). -/
def EngineOp.run (o : EngineOp) : Nat × Nat × Nat × Bool :=
  let x := o.spec
  let r := o.done / x.rowBytes
  let b := o.done % x.rowBytes
  if o.clipped r b then (r, b, x.rowBytes - b, true)
  else (r, b, min (min x.rowBytes x.bytesLeft - b) (256 - x.globalAt (if x.kind = 3 then o.idxOf r else r) b % 256), false)

def State.copyIn (s : State) (c : Nat) (o : EngineOp) : Option State :=
  let x := o.spec
  let take (s : State) (bs : List Byte) (cause : Nat) : State :=
    s.modOp c o.id (fun p => { p.fail cause with blob := p.blob ++ bs, done := p.done + bs.length })
  let read (va n : Nat) : Option State :=
    s.opReach c o va n .load (fun s y => take s (s.mem.bytes y.pa n) 0) (fun s cause => take s (List.replicate n 0) cause)
  if x.key.isSome then
    if o.done < x.size + 32 then
      let va := ((x.word 0).toNat + o.done) % 2 ^ 64
      read va (min (x.size + 32 - o.done) (256 - va % 256))
    else some (s.putTiles c o)
  else if o.done < x.size then
    let q := o.run
    if q.2.2.2 then some (take s (List.replicate q.2.2.1 0) 0)
    else read (x.globalAt (if x.kind = 3 then o.idxOf q.1 else q.1) q.2.1) q.2.2.1
  else some (s.putTiles c o)

/-! ### tcopy.out, tcopy.ss (R209) -/

def State.copyOut (s : State) (c : Nat) (o : EngineOp) : Option State :=
  let x := o.spec
  if o.phase = 0 then some (s.takeSource c o)
  else if x.size ≤ o.done then some (s.modOp c o.id (fun p => { p with finished := true }))
  else
    let q := o.run
    let n := q.2.2.1
    let past (s : State) (cause : Nat) : State :=
      let bad := decide (o.slot ≠ 0 ∧ o.slot - 1 < o.done + n)
      s.modOp c o.id (fun p => { (p.fail cause).fail (if bad then 2 else 0) with done := p.done + n })
    if q.2.2.2 then some (past s 0)
    else
      s.opReach c o (x.globalAt q.1 q.2.1) n .store
        (fun s y => past (s.opLand c o y y.pa ((o.blob.drop o.done).take n)) 0) past

def State.copySs (s : State) (c : Nat) (o : EngineOp) : State :=
  let k := o.sourceCore c
  let xs := o.source (s.core k)
  let d := clusterMate c o.spec.ssDest.core
  ((s.noticeSource c k o).modCore d (fun y => y.putTile o.spec o.spec.ssDest (xs.map (·.1)))).modOp c o.id (fun p =>
    { p.fail (if xs.any (·.2) then 2 else 0) with finished := true })

/-! ### tbin (R215) -/

/-- An indivisible saturating step of a 32-bit field at an entry's home. -/
def State.stepField (s : State) (c : Nat) (o : EngineOp) (y : Xlat) (pa : Nat) : State :=
  s.opLand c o y pa (leBytes 4 (sat32 (s.mem.num pa 4 + 1)))

/-- A `tbin` step by step. A counter step that fails has read zeros, and writes nothing; every other step is still made
(R203). -/
def State.binStep (s : State) (c : Nat) (o : EngineOp) : Option State :=
  let x := o.spec
  let stop (s : State) (cause : Nat) : State := s.modOp c o.id (fun p => { p.fail cause with outcome := 2, finished := true })
  let spill (s : State) (bin cause : Nat) : State :=
    s.modOp c o.id (fun p => if bin ≠ 0xFFFFFFFF ∧ bin ≠ x.bin then { p.fail cause with slot := bin, phase := 1 } else { p.fail cause with phase := 2 })
  let place (s : State) (base rowBytes n outcome : Nat) : State :=
    s.modOp c o.id (fun p => { p with slot := n, outcome := outcome, windex := BitVec.ofNat 64 (base + n * rowBytes), phase := 3 })
  match o.phase with
  | 0 =>
    s.opReach c o (x.binAt x.bin) 32 .atomic
      (fun s y =>
        let n := s.mem.num (y.pa + 16) 4
        let ovf := s.mem.num (y.pa + 24) 4
        let s1 := s.stepField c o y (y.pa + 16)
        if n < s.mem.num (y.pa + 12) 4 then place s1 (s.mem.num y.pa 8) (s.mem.num (y.pa + 8) 4) n 0
        else spill s1 ovf 0)
      (fun s cause => spill s 0 cause)
  | 1 =>
    s.opReach c o (x.binAt o.slot) 32 .atomic
      (fun s y =>
        let n := s.mem.num (y.pa + 16) 4
        let s1 := s.stepField c o y (y.pa + 16)
        if n < s.mem.num (y.pa + 12) 4 then place s1 (s.mem.num y.pa 8) (s.mem.num (y.pa + 8) 4) n 1
        else s1.modOp c o.id (fun p => { p with phase := 2 }))
      (fun s cause => s.modOp c o.id (fun p => { p.fail cause with phase := 2 }))
  | 2 => s.opReach c o (x.binAt x.bin) 32 .atomic (fun s y => stop (s.stepField c o y (y.pa + 20)) 0) stop
  | _ =>
    let va := (o.windex.toNat + o.done) % 2 ^ 64
    let n := min (256 - o.done) (256 - va % 256)
    if 256 ≤ o.done then some (s.modOp c o.id (fun p => { p with finished := true }))
    else
      let past (s : State) (cause : Nat) : State := s.modOp c o.id (fun p => { p.fail cause with done := p.done + n })
      s.opReach c o va n .store (fun s y => past (s.opLand c o y y.pa ((x.row.drop o.done).take n)) 0) past

/-! ### ring.fill (R216, R217) -/

/-- Fills of one ring in order of their arrival, those of one cycle in ascending core: no earlier one is still served. -/
def State.firstAtRing (s : State) (core : Nat) (o : EngineOp) : Bool :=
  s.cores.all (fun c => c.2.eops.all (fun p =>
    !(p.spec.kind == 4 && p.started && !p.finished && p.ring == o.ring
      && (decide (p.arrived < o.arrived) || (p.arrived == o.arrived && (decide (c.1 < core) || (c.1 == core && decide (p.id < o.id))))))))

/-- The fill has arrived at its ring. -/
def State.fillArrives (s : State) (c : Nat) (o : EngineOp) : Option State :=
  let stop (s : State) (cause : Nat) : State := s.modOp c o.id (fun p => { p.fail cause with started := true, finished := true })
  s.opReach c o o.spec.base 32 .atomic
    (fun s y =>
      if isDram y.pa || isCxl y.pa then s.modOp c o.id (fun p => { p with started := true, arrived := s.cycle, ring := y.pa })
      else stop s 6)
    stop

/-- RING_FILL_START (R217): the first fill of a ring takes its slot and its source. -/
def ringFillStartStep (s : State) : Option State :=
  let c := s.subj.ag
  match (s.core c).op? s.subj.n with
  | none => none
  | some o =>
    if o.spec.kind ≠ 4 ∨ !o.started ∨ o.finished ∨ o.phase ≠ 0 ∨ !s.firstAtRing c o then none
    else
      let r := s.ringAt o.ring
      let stop (s : State) : State := s.modOp c o.id (fun p => { p.fail 6 with finished := true })
      if !r.ok o.ring then some (stop s)
      else if r.ri + r.slots ≤ r.wi then none
      else if r.slotBytes < o.spec.size then some (stop s)
      else
        some ((s.takeSource c o).modOp c o.id (fun p =>
          { p with windex := BitVec.ofNat 64 r.wi, outcome := p.slot, slot := r.slot r.wi }))

def execRingFillStart (s : State) : Host.Outcome State Fault Refusal := .next ((ringFillStartStep s).getD s)

/-- The slot's frames are looked at, its bytes written, and then the write index. `outcome` is one past the first position of the
source in error, whose cause is that of its place among the slot's writes (R203). -/
def State.fillStep (s : State) (c : Nat) (o : EngineOp) : Option State :=
  let n := o.spec.size
  let va := (o.slot + o.done) % 2 ^ 64
  match o.phase with
  | 0 => none
  | 1 =>
    let past (s : State) : State :=
      s.modOp c o.id (fun p =>
        let d := p.done + (4096 - va % 4096)
        if n ≤ d then { p with done := 0, phase := 2 } else { p with done := d })
    let stop (s : State) : State := s.modOp c o.id (fun p => { p.fail 6 with finished := true })
    s.opReach c o va 1 .store (fun s y => if isDram y.pa || isCxl y.pa then past s else stop s)
      (fun s cause => if cause = 6 then stop s else past s)
  | 2 =>
    if n ≤ o.done then some (s.modOp c o.id (fun p => { p with phase := 3 }))
    else
      let k := min (n - o.done) (256 - va % 256)
      let past (s : State) (cause : Nat) : State :=
        let bad := decide (o.outcome ≠ 0 ∧ o.outcome - 1 < o.done + k)
        s.modOp c o.id (fun p => { (p.fail cause).fail (if bad then 2 else 0) with done := p.done + k })
      s.opReach c o va k .store (fun s y => past (s.opLand c o y y.pa ((o.blob.drop o.done).take k)) 0) past
  | _ =>
    s.opReach c o o.spec.base 32 .atomic
      (fun s y => (s.opLand c o y (y.pa + 16) (leBytes 8 (o.windex + 1).toNat)).modOp c o.id (fun p => { p with finished := true }))
      (fun s cause => s.modOp c o.id (fun p => { p.fail cause with finished := true }))

/-! ### An operation starts, runs and completes (R193, R204) -/

/-- Operations of one engine start in issue order. -/
def Core.mayStart (c : Core) (o : EngineOp) : Bool :=
  c.eops.all (fun p => !(decide (p.id < o.id) && p.spec.engine == o.spec.engine && !p.started))

/-- An operation waits until the entries that stood in its group's queue at its issue have left it (R176). -/
def State.queuedBefore (s : State) (key after : Nat) : Bool := (s.thread key).sq.any (fun e => decide (e.seq < after))

/-- The bank word that holds index r of a `tgather`, where it is in error (R418). -/
def Core.indexBad (c : Core) (x : CopySpec) (r : Nat) : Option Nat := c.padPoison (x.base + 4 * r) 4

/-- The index list of a `tgather`: a failed read delivers zeros (R203). -/
def Core.indexList (c : Core) (x : CopySpec) : List Nat :=
  (List.range x.rows).map (fun r => if (c.indexBad x r).isSome then 0 else c.padNum (x.base + 4 * r) 4)

/-- An operation begins: it captures its key, and a `tgather` its index list. -/
def State.opBegin (s : State) (c : Nat) (o : EngineOp) : State :=
  let plot := s.plotOf (groupKey c o.group)
  let x := o.spec
  let bad := if x.kind = 3 then (List.range x.rows).filterMap ((s.core c).indexBad x) else []
  (bad.foldl (fun s' w => s'.noticeUnit c plot 0 w) s).modOp c o.id (fun p =>
    { p.fail (if bad.isEmpty then 0 else 2) with
      started := true
      key := x.key.bind (fun k => (fget? (s.plot plot).keys k).map (·.key))
      idx := if x.kind = 3 then (s.core c).indexList x else [] })

/-- One step of an operation. One of size 0 reads and writes nothing, and a `tgather` among them does not read its index list, so
that it counts no row as clipped (DESIGN CHOICE, log entry 114). -/
def State.opStep (s : State) (c : Nat) (o : EngineOp) : Option State :=
  if o.finished then none
  else if o.spec.kind ≠ 5 ∧ o.spec.size = 0 then some (s.modOp c o.id (fun p => { p with started := true, finished := true }))
  else if !o.started && !(s.core c).mayStart o then none
  else if s.queuedBefore (groupKey c o.group) o.after then none
  else if !o.started then
    if o.spec.kind = 4 then s.fillArrives c o else some (s.opBegin c o)
  else
    match o.spec.kind with
    | 0 => s.copyIn c o
    | 1 => s.copyOut c o
    | 2 => some (s.copySs c o)
    | 3 => s.copyIn c o
    | 4 => s.fillStep c o
    | _ => s.binStep c o

/-- Detail bits of a completed operation (Table 9.2). -/
def EngineOp.detail (o : EngineOp) : Nat :=
  if o.spec.kind = 5 then o.outcome * 2 ^ 24 + (if o.outcome = 2 then 0 else min o.slot 0xFFFFFF)
  else
    let rows := if o.spec.kind = 3 then (o.idx.filter (fun i => decide (o.spec.rowsLeft ≤ i))).length
      else o.spec.rows - o.spec.rowsLeft
    min rows 0x3FFF * 2 ^ 14 + min (o.spec.rowBytes - o.spec.bytesLeft) 0x3FFF

/-- The size of an operation, counted by barriers and by counter 0x011. -/
def EngineOp.bytes (o : EngineOp) : Nat := if o.spec.kind = 5 then 256 else o.spec.size

/-- The bytes of a completed operation are added to the barrier of its core, or of each receiver that still runs a block of the
launch (R193, R207, R212). -/
def State.addBytes (s : State) (c : Nat) (o : EngineOp) : State :=
  if o.spec.kind ≠ 5 ∧ o.spec.barrierOn then
    (s.receivers c o.spec).foldl (fun s' k => s'.barrierAdd k o.spec.barrier o.spec.size) s
  else s

/-- ENGINE_OPERATION_COMPLETE (R193): the tag turns ready and then the barrier additions are made, in one step. An operation of a sprout
leaves its store queue; one that failed abandons the sprout (R223, DEDUCED, log entry 40). -/
def engineOperationCompleteStep (s : State) : Option State :=
  let c := s.subj.ag
  match (s.core c).op? s.subj.n with
  | none => none
  | some o =>
    if !o.finished then none
    else
      let s1 := (s.modCore c (fun x => { x with eops := x.eops.filter (fun p => p.id != o.id) })).countBlock c 0x11 o.bytes
      if 16 ≤ o.group then
        match waitCause o.cause with
        | some cause => some ((s1.addBytes c o).abandon (groupKey c o.group) cause)
        | none =>
          some (((s1.addBytes c o).modThread (groupKey c o.group) Thread.popPart).reap (groupKey c o.group))
      else some (((s1.tagDone c o.spec.tag o.cause o.detail []).addBytes c o).reapBlock c)

def execEngineOperationComplete (s : State) : Host.Outcome State Fault Refusal :=
  .next ((engineOperationCompleteStep s).getD s)

/-! ### hread (R196, R202, R220) -/

/-- Bursts in a row, the stride, and the barrier of word 1. -/
def HreadReq.spec (r : HreadReq) : CopySpec := { kind := 6, tag := r.tag, oct := r.oct }
def HreadReq.perRow (r : HreadReq) : Nat := (r.spec.rowBytes + 255) / 256
def HreadReq.barrierOn (r : HreadReq) : Bool := ((r.spec.word 1).getLsbD 60)
def HreadReq.barrier (r : HreadReq) : Nat := (r.spec.word 1).toNat / 2 ^ 40 % 2 ^ 20
def HreadReq.row (r : HreadReq) (n : Nat) : Nat := n / r.perRow
def HreadReq.off (r : HreadReq) (n : Nat) : Nat := 256 * (n % r.perRow)
/-- The address of burst n. -/
def HreadReq.addr (r : HreadReq) (n : Nat) : Word :=
  let stride : Word := ((r.spec.word 1).setWidth 40).signExtend 64
  r.spec.word 0 + BitVec.ofNat 64 (r.row n) * stride + BitVec.ofNat 64 (r.off n)
/-- Bytes of burst n that are read. -/
def HreadReq.len (r : HreadReq) (n : Nat) : Nat :=
  min 256 (min (r.spec.rowBytes - r.off n) (r.spec.bytesLeft - r.off n))
def HreadReq.read (r : HreadReq) (n : Nat) : Bool := decide (r.row n < r.spec.rowsLeft) && decide (r.off n < r.spec.bytesLeft)

/-- The home that orders deliveries; an address without translation comes last. -/
def State.homeKey (s : State) (key va : Nat) : Nat :=
  match s.xlat key va with
  | .ok x => homeOf s.mem.cxlSize x.pa
  | .absent => 2 ^ 30
  | .moving => 2 ^ 30

/-- The bursts to be read, in ascending home and then ascending address (R225). -/
def State.burstOrder (s : State) (key : Nat) (r : HreadReq) : List Nat :=
  let ns := (List.range (r.spec.rows * r.perRow)).filter r.read
  let k (n : Nat) : Nat × Nat := (s.homeKey key (r.addr n).toNat, (r.addr n).toNat)
  ns.mergeSort (fun a b => decide ((k a).1 < (k b).1) || (decide ((k a).1 = (k b).1) && decide ((k a).2 ≤ (k b).2)))

/-- The checks of an `hread` (R202, R220). -/
def State.hreadCheck (s : State) (r : HreadReq) : Option (BitVec 8) :=
  let x := r.spec
  if r.barrierOn && decide (r.barrier % 16 ≠ 0) then some cMisaligned
  else if 2 ^ 56 ≤ (x.word 0).toNat ∨ (x.word 1).toNat / 2 ^ 61 ≠ 0 ∨ 0xFFFFFFFF < x.size ∨ 2 ^ 32 ≤ x.rows * r.perRow
      ∨ (r.barrierOn ∧ !s.runFits r.barrier 16) then some cRange
  else none

def execHread (a : SReg) (tag : SReg) (off : BitVec 13) (s : State) : Host.Outcome State Fault Refusal :=
  .next (s.issue groupOnly (octNames a) (fun s =>
    let c := coreOfKey s.cur
    let t := s.th
    if !(s.tag c tag.val).ready || decide (4 ≤ (s.core c).hreads.length) then s
    else
      let id := (s.core c).nextOp
      let r : HreadReq :=
        { id := id, tag := tag.val, group := ctxOfKey s.cur, handler := wordTarget t.pc off.toInt, oct := t.octet a
          after := t.nextId, ftv := t.ftv, rmode := t.rmode, fptrap := t.fptrap, toRead := [] }
      match s.hreadCheck r with
      | some cause => s.trapNow cause
      | none =>
        let ns := if r.spec.size = 0 then [] else s.burstOrder s.cur r
        let total := if r.spec.size = 0 then 0 else r.spec.rows * r.perRow
        ((s.setTag c tag.val { ready := false, owner := id }).modCore c (fun y =>
          { y with hreads := y.hreads ++ [{ r with toRead := ns, clipped := total - ns.length }], nextOp := id + 1 })).retire))

/-! ### Bursts (R220–R225) -/

def State.modReq (s : State) (c id : Nat) (f : HreadReq → HreadReq) : State :=
  s.modCore c (fun x => { x with hreads := x.hreads.map (fun r => if r.id = id then f r else r) })

/-- The bytes of a burst, piece by piece within lines; a piece in host or CXL memory waits for its answer. -/
def State.burstPieces (s : State) (key id : Nat) (hold : Option EngineHold) (fatal : List Nat) :
    List (Nat × Nat) → List Byte → State × Reach × List Byte
  | [], acc => (s, .ok ⟨0, false, false, false, false, 0⟩, acc)
  | (va, n) :: rest, acc =>
    match s.engineReach key va n .load (hold.filter (fun h => h.va == va)) fatal with
    | .ok x =>
      match s.asking (.hread (coreOfKey key) id) (s.plotOf key) (s.launchOf key).copy x.pa with
      | .ready _ =>
        match State.burstPieces ((s.fill key va (.ok x)).touchUnit key x.pa) key id hold fatal rest (acc ++ s.mem.bytes x.pa n) with
        | (s2, .ok y, bs) => (s2.taken (.hread (coreOfKey key) id) (s.plotOf key) (s.launchOf key).copy x.pa, .ok y, bs)
        | r => r
      | .leaves s1 => (s, .later s1, acc)
      | .waits => (s, .wait, acc)
    | .fail c => (s, .fail c, acc)
    | .poison pa => (s, .poison pa, acc)
    | .wait => (s, .wait, acc)
    | .later s1 => (s, .later s1, acc)
    | .held s1 h => (s, .held s1 h, acc)

/-- The pages of a burst's hold, where it was declared fatal. -/
def HreadReq.lostPages (r : HreadReq) : List Nat :=
  (r.hold.toList.filter (fun h => h.msg.any (fun m => m.posted == some true))).map (fun h => h.va / 4096)

/-- A block whose bulk reads run: no recall or withdrawal halts it (R226). -/
def State.burstsRun (s : State) (c : Nat) : Bool := s.unitRuns c && !(s.core c).block.elim false (·.leaving)

/-- An earlier request has not started: it waits for its group's queue (R204). -/
def State.hreadBehind (s : State) (c : Nat) (r : HreadReq) : Bool :=
  (s.core c).hreads.any (fun q => decide (q.id < r.id) && s.queuedBefore (groupKey c q.group) q.after)

/-- The engine reads the next burst of a request while its buffer has room (R220, R221). -/
def State.burstRead (s : State) (c id : Nat) : Option State :=
  match (s.core c).req? id with
  | none => none
  | some r =>
    match r.toRead with
    | [] => none
    | n :: rest =>
      let key := groupKey c r.group
      if 32 ≤ (s.core c).bursts.length ∨ s.queuedBefore key r.after ∨ s.hreadBehind c r then none
      else
        let va := (r.addr n).toNat
        let len := r.len n
        let first := min len (256 - va % 256)
        let pieces := if first = len then [(va, len)] else [(va, first), ((va + first) % 2 ^ 64, len - first)]
        let lost (s : State) (cause : Nat) : State :=
          s.modReq c id (fun r =>
            { r with toRead := rest, hold := none, fatal := r.fatal ++ r.lostPages, abandoned := r.abandoned ++ [(n, (waitCause cause).getD 0, cause)] })
        match s.burstPieces key id r.hold r.fatal pieces [] with
        | (s1, .ok _, bs) =>
          some ((s1.modReq c id (fun r => { r with toRead := rest, hold := none })).modCore c (fun x =>
            { x with bursts := x.bursts ++ [⟨id, n, bs ++ List.replicate (256 - len) 0⟩] }))
        | (s1, .fail cause, _) => some (lost s1 cause)
        | (s1, .poison pa, _) => some (lost (s1.noticePoison pa) 2)
        | (_, .wait, _) => none
        | (_, .later s1, _) => some s1
        | (_, .held s1 h, _) => some (s1.modReq c id (fun r => { r with hold := some h }))

/-- ENGINE_ACCESS (R203, R209, R215, R217, R220): one access of an operation, or of a bulk read. -/
def engineAccessStep (s : State) : Option State :=
  if !s.unitRuns s.subj.ag then none
  else if s.subj.flag then (if s.burstsRun s.subj.ag then s.burstRead s.subj.ag s.subj.n else none)
  else
    match (s.core s.subj.ag).op? s.subj.n with
    | none => none
    | some o => s.opStep s.subj.ag o

def execEngineAccess (s : State) : Host.Outcome State Fault Refusal := .next ((engineAccessStep s).getD s)

/-- The state in which a burst starts its sprout (R221). -/
def sproutStart (r : HreadReq) (c ctx plot cycle : Nat) (b : Burst) : Thread :=
  let n := b.n
  let args := [BitVec.ofNat 64 n, r.addr n, BitVec.ofNat 64 (r.row n), BitVec.ofNat 64 (r.off n)]
    ++ [4, 5, 6, 7].map (fun k => r.spec.word k)
  { core := c, ctx := ctx, plot := plot, pc := r.handler
    sregs := args.zipIdx.map (fun x => (x.2, x.1))
    ownRows := [(0, (List.range 64).map (fun i => BitVec.ofNat 32 (leNat ((b.data.drop (4 * i)).take 4))))]
    ftv := r.ftv, rmode := r.rmode, fptrap := r.fptrap, nextId := 1
    req := r.id, burst := n, baddr := r.addr n, brow := BitVec.ofNat 32 (r.row n), boff := BitVec.ofNat 32 (r.off n)
    startCycle := cycle }

/-- BURST_DELIVERY (R221): the first burst of a request in the buffer starts its sprout on the lowest free context. -/
def burstDeliveryStep (s : State) : Option State :=
  let c := s.subj.ag
  if !s.burstsRun c then none
  else
  match (s.core c).req? s.subj.n, (s.core c).bursts.find? (fun b => b.req == s.subj.n),
      (List.range 16).find? (fun i => (fget? s.threads (groupKey c (16 + i))).isNone) with
  | some r, some b, some i =>
    let key := groupKey c (16 + i)
    let s1 := s.modCore c (fun x => { x with bursts := x.bursts.filter (fun y => !(y.req == b.req && y.n == b.n)) })
    some ((s1.setThread key (sproutStart r c (16 + i) (s.plotOf (groupKey c r.group)) s.cycle b)).modReq c r.id (fun r =>
      { r with live := r.live ++ [b.n] }))
  | _, _, _ => none

def execBurstDelivery (s : State) : Host.Outcome State Fault Refusal := .next ((burstDeliveryStep s).getD s)

/-- SPROUT_TIME_LIMIT (R223). -/
def sproutTimeLimitStep (s : State) : Option State :=
  let key := s.subj.ag
  let t := s.thread key
  if isSproutKey key && (fget? s.threads key).isSome && !t.released && decide (t.startCycle + 65536 + t.heldCycles ≤ s.cycle) then
    some (s.abandon key cTime)
  else none

def execSproutTimeLimit (s : State) : Host.Outcome State Fault Refusal := .next ((sproutTimeLimitStep s).getD s)

/-- The abandoned burst with the lowest number. -/
def lowestLost : List (Nat × BitVec 8 × Nat) → Option (Nat × BitVec 8 × Nat)
  | [] => none
  | x :: xs =>
    match lowestLost xs with
    | some y => if y.1 < x.1 then some y else some x
    | none => some x

/-- LAST_BURST_EVENT (R224): every burst is delivered or lost and every sprout is done. -/
def lastBurstEventStep (s : State) : Option State :=
  let c := s.subj.ag
  match (s.core c).req? s.subj.n with
  | none => none
  | some r =>
    if !r.toRead.isEmpty || !r.live.isEmpty || (s.core c).bursts.any (fun b => b.req == r.id) then none
    else
      let cause := (lowestLost r.abandoned).elim 0 (·.2.2)
      let s1 := s.modCore c (fun x => { x with hreads := x.hreads.filter (fun q => q.id != r.id) })
      let s2 := (s1.countBlock c 0x11 r.spec.size).tagDone c r.tag cause
        (min r.abandoned.length 0xFFF * 2 ^ 16 + min r.clipped 0xFFFF) (r.abandoned.map (fun x => (x.1, x.2.1)))
      some ((if r.barrierOn then s2.barrierAdd c r.barrier r.spec.size else s2).reapBlock c)

def execLastBurstEvent (s : State) : Host.Outcome State Fault Refusal := .next ((lastBurstEventStep s).getD s)

end Sys2Proof.Machine
end

