-- ==== Sys2Proof/Machine/Ordering.lean ====
section
/-! DEFINITION. Barriers of groups and their checksums (R173–R175, R363, R364), publication and the rake (R183–R188,
R334). -/

namespace Sys2Proof.Machine

/-! ### Arrival (R173, R174) -/

/-- The groups of the block on a core, by key. -/
def State.groupKeys (s : State) (c : Nat) : List Nat :=
  (s.core c).block.elim [] (fun b => (List.range b.launch.groups).map (groupKey c))

/-- A group has exited or was ended. -/
def State.isGone (s : State) (key : Nat) : Bool := (s.blockOf key).elim true (fun b => b.gone.contains (ctxOfKey key))

/-- A group has arrived at an ordinal, or counts as arrived. -/
def State.arrived (s : State) (key : Nat) (count : Thread → Nat) (n : Nat) : Bool :=
  s.isGone key || decide (n ≤ count (s.thread key))

def State.setWait (s : State) (w : TWait) : State := s.modThread s.cur (fun t => { t with wait := w })

def execBsync (s : State) : Host.Outcome State Fault Refusal :=
  .next (s.issue notSprout [] (fun s =>
    if isSysKey s.cur then s.fenceWaits true .p State.advance
    else if s.th.wait = .bsync then s
    else if s.th.wait = .bsyncDone then (s.setWait .none).retire
    else s.fenceWaits true .b (fun s => s.modThread s.cur (fun t => { t with bsyncs := t.bsyncs + 1, wait := .bsync }))))

/-- The aligned w × h sub-rectangle around a core: its corner (R174). -/
def rectOf (c w h : Nat) : Nat × Nat := (tileX c / w * w, tileY c / h * h)

def rectTiles (x y w h : Nat) : List Nat :=
  (List.range h).flatMap (fun j => (List.range w).map (fun i => tileOf (x + i) (y + j)))

/-- The sub-rectangle of a core lies in its block's launch rectangle. -/
def Block.holdsRect (b : Block) (c w h : Nat) : Bool :=
  let r := rectOf c w h
  decide (b.x0 ≤ r.1) && decide (b.y0 ≤ r.2) && decide (r.1 + w ≤ b.x0 + b.launch.w) && decide (r.2 + h ≤ b.y0 + b.launch.h)

/-- The cores of a sub-rectangle that run a block of the launch of core c, in ascending block slot. -/
def State.rectCores (s : State) (c w h : Nat) : List Nat :=
  let r := rectOf c w h
  let cs := (rectTiles r.1 r.2 w h).filter (fun k =>
    match (s.core c).block, (s.core k).block with
    | some a, some b => a.sameLaunch b
    | _, _ => false)
  let slot (k : Nat) : Nat := (s.core k).block.elim 0 (·.slot)
  cs.mergeSort (fun a b => decide (slot a ≤ slot b))

/-- A group that waits at ordinal n with other sizes, in a sub-rectangle that holds core c. -/
def State.clashAt (s : State) (c n w h : Nat) (key : Nat) : Bool :=
  match (s.thread key).wait with
  | .rsync w' h' =>
    decide ((s.thread key).rsyncs = n) && decide ((w', h') ≠ (w, h)) && decide (rectOf (coreOfKey key) w' h' = rectOf c w' h')
  | _ => false

/-- A group waits at ordinal n of `rsync`. -/
def State.waitsIn (s : State) (n key : Nat) : Bool :=
  match (s.thread key).wait with
  | .rsync _ _ => decide ((s.thread key).rsyncs = n)
  | _ => false

/-- The core of a group lies in the sub-rectangle that a waiting group named. -/
def State.sameRect (s : State) (waiter key : Nat) : Bool :=
  match (s.thread waiter).wait with
  | .rsync w h => decide (rectOf (coreOfKey waiter) w h = rectOf (coreOfKey key) w h)
  | _ => false

/-- The groups of the launch of core c. -/
def State.launchKeys (s : State) (c : Nat) : List Nat :=
  match (s.core c).block with
  | none => []
  | some a => (s.cores.filter (fun k => k.2.block.elim false (fun b => a.sameLaunch b))).flatMap (fun k => s.groupKeys k.1)

/-- An `rsync` with sizes that clash at ordinal n: it traps, and the groups waiting there will (R174). -/
def State.rsyncClash (s : State) (n : Nat) (bad : List Nat) : State :=
  let s1 := bad.foldl (fun s' k => s'.modThread k (fun t => { t with wait := .rsyncBad })) s
  (s1.modThread s.cur (fun t => { t with rsyncs := n })).trapNow cRange

def execRsync (lw : Fin 7) (lh : Fin 5) (s : State) : Host.Outcome State Fault Refusal :=
  .next (s.issue notSprout [] (fun s =>
    let w := 2 ^ lw.val
    let h := 2 ^ lh.val
    let c := coreOfKey s.cur
    if isSysKey s.cur then s.fenceWaits true .p State.advance
    else if !(s.core c).block.elim false (fun b => b.holdsRect c w h) then s.trapNow cRange
    else if s.th.wait = .rsync w h then s
    else if s.th.wait = .rsyncDone then (s.setWait .none).retire
    else if s.th.wait = .rsyncBad then (s.setWait .none).trapNow cRange
    else
      s.fenceWaits true .p (fun s =>
        let n := s.th.rsyncs + 1
        match (s.launchKeys c).filter (s.clashAt c n w h) with
        | [] => s.modThread s.cur (fun t => { t with rsyncs := n, wait := .rsync w h })
        | bad =>
          let others := (s.launchKeys c).filter (fun k => s.waitsIn n k && bad.any (fun b => s.sameRect b k))
          s.rsyncClash n others)))

/-! ### Barrier checksums (R363, R364) -/

/-- The message that a group folds. -/
def State.foldBytes (s : State) (key : Nat) : List Byte :=
  let t := s.thread key
  let l := s.launchOf key
  let c := s.core (coreOfKey key)
  (List.range 64).flatMap (fun k => leBytes 8 (fgetD t.sregs k 0).toNat)
    ++ (List.range l.rowStride).flatMap (fun k => rowBytesOf (fgetD c.rows (ctxOfKey key * l.rowStride + k) []))
    ++ (List.range 64).flatMap (fun k => leBytes 8 (t.pred k).toNat)

/-- A completed barrier releases a group: with CKS.CTL set once its entry is written, for which the ring must have
room. -/
def State.releaseGroup (s : State) (kind : Nat) (done : TWait) (key : Nat) : State :=
  let plot := s.plotOf key
  let p := s.plot plot
  let l := s.launchOf key
  let free (s : State) : State := s.modThread key (fun t => { t with wait := done })
  if p.cksCtl = 0 then free s
  else if !p.cks.room then s
  else
    let entry := leBytes 8 s.cycle ++ leBytes 8 (crc64 0 (s.foldBytes key)) ++ leBytes 8 (s.thread key).pc.toNat
      ++ leBytes 2 ((s.blockOf key).elim 0 (·.slot)) ++ leBytes 1 (ctxOfKey key) ++ leBytes 1 kind ++ leBytes 4 l.seq.toNat
    free ((s.put plot (p.cks.at 32) entry).modPlot plot (fun p => { p with cks := { p.cks with head := p.cks.head + 1 } }))

/-- BARRIER_COMPLETE (R173, R174): every group has arrived at the ordinal of the waiting group; those that wait there
are released. -/
def barrierCompleteStep (s : State) : Option State :=
  let key := s.subj.ag
  let c := coreOfKey key
  let t := s.thread key
  let finish (s1 : State) : Option State := if (s1.thread key).wait = t.wait then none else some s1
  match t.wait with
  | .bsync =>
    let keys := s.groupKeys c
    if keys.all (fun k => s.arrived k (·.bsyncs) t.bsyncs) then
      finish ((keys.filter (fun k => decide ((s.thread k).wait = .bsync ∧ (s.thread k).bsyncs = t.bsyncs))).foldl
        (fun s' k => s'.releaseGroup 0 .bsyncDone k) s)
    else none
  | .rsync w h =>
    let keys := (s.rectCores c w h).flatMap s.groupKeys
    if keys.all (fun k => s.arrived k (·.rsyncs) t.rsyncs) then
      finish ((keys.filter (fun k => decide ((s.thread k).wait = .rsync w h ∧ (s.thread k).rsyncs = t.rsyncs))).foldl
        (fun s' k => s'.releaseGroup 1 .rsyncDone k) s)
    else none
  | _ => none

def execBarrierComplete (s : State) : Host.Outcome State Fault Refusal := .next ((barrierCompleteStep s).getD s)

/-! ### publish (R183, R187) -/

/-- The header line's owner admits the publisher: form B, or form A with its slot (R183, item 5). -/
def Store.publishable (m : Store) (slot hdr : Nat) : Bool := isFormB (m.sideOf hdr) || decide (ownerOf (m.sideOf hdr) = slot)

def scopeCode (sc : Scope) : Nat := Scope.code sc

/-- Start the publication of a root that passed its checks, or none where it is published already. -/
def State.startPublication (s : State) (tag : Nat) (sc : Scope) (hdr : Nat) : State :=
  let k := scopeCode sc
  let sys := isSysKey s.cur
  let c := coreOfKey s.cur
  let plot := s.plotOf s.cur
  if s.mem.hdrState hdr = 2 ∧ k ≤ s.mem.hdrScope hdr then
    (if sys then s else s.setTag c tag {}).retire
  else
    let id := (s.plot plot).nextPub
    let r := { id := id, core := if sys then s.th.core else c, block := (s.blockOf s.cur).elim 0 (·.id)
               slot := (s.partyOf s.cur).slot, tag := tag, scope := k, space := s.spaceOf s.cur, marked := [hdr]
               queue := [⟨hdr + 16, hdr, none⟩], sysAgent := if sys then some s.cur else none : Publication }
    let s1 := s.modPlot plot (fun p => { p with pubs := p.pubs ++ [r], nextPub := id + 1 })
    if sys then s1.setWait (.publish id) else (s1.setTag c tag { ready := false, owner := id }).retire

/-- `publish` (R183). On a system core it retires after the tag step, and recorded faults then raise escape (R187). -/
def execPublish (tag : Fin 64) (a : SReg) (sc : Scope) (s : State) : Host.Outcome State Fault Refusal :=
  .next (s.issue notSprout [a] (fun s =>
    let v := (s.th.sreg a).toNat
    let sys := isSysKey s.cur
    if sys && decide (tag.val ≠ 0) then s.trapNow cIllegal
    else
      match s.th.wait with
      | .publish _ => s
      | .publishDone bad =>
        let s1 := (s.setWait .none).advance
        if bad then s1.syncInterrupt s.cur s1.th.pc cEscape 0 else s1
      | _ =>
        if 2 ^ 56 ≤ v ∨ v % 256 ≠ 16 then s.trapVa cNotRef v
        else
          let absent (s : State) : State :=
            if sys then s.trapVa cPage (v - 16) else if s.logBusy s.cur then s else s.retryFault 0 (v - 16)
          match s.xlat s.cur (v - 16) with
          | .moving => s
          | .absent => absent s
          | .ok x =>
            if !x.rd then absent s
            else
              match s.wellFormedRef s.cur (s.th.sreg a) with
              | none => s.trapVa cNotRef v
              | some hdr =>
                if !s.mem.publishable (s.partyOf s.cur).slot hdr then s.trapVa cEscape v
                else if !sys && !(s.tag (coreOfKey s.cur) tag.val).ready then s
                else s.fenceWaits true .b (fun s =>
                  s.askHome (.home s.cur) s.cur hdr (fun s => s.startPublication tag.val sc hdr))))

/-! ### The rake (R184, R185, R187) -/

/-- The rake translates references in the space of the publisher, as the plot's units do. -/
def State.rakeXlat (s : State) (plot space va : Nat) : WalkResult :=
  s.xlatBy [portTlb plot] plot space va (s.walkBy (portTlb plot) plot space va)

def State.modPub (s : State) (plot id : Nat) (f : Publication → Publication) : State :=
  s.modPlot plot (fun p => { p with pubs := p.pubs.map (fun r => if r.id = id then f r else r) })

/-- Write a publication record (R334): kind 1 escape, 2 spill failure, 3 fatal page. -/
def State.pubRecord (s : State) (plot : Nat) (r : Publication) (kind ref : Nat) : State :=
  let p := s.plot plot
  let s1 := s.modPub plot r.id (fun r => { r with bad := true })
  if p.walkCap = 0 then s1
  else
    let n := (p.pubRecords + p.owedRecords) % 2048
    let bytes := leBytes 1 kind ++ leBytes 1 r.tag ++ leBytes 2 r.slot ++ leBytes 4 0 ++ leBytes 8 ref ++ leBytes 8 s.cycle
      ++ leBytes 8 0
    s1.owe plot (.publication n) (p.walkBase.toNat + 32 * n) bytes

/-- Mark entries of a plot that the rake of a die holds in its own queue; the entries of another plot do not count (R342). -/
def State.rakeLoad (s : State) (plot die : Nat) : Nat :=
  ((s.plot plot).pubs.flatMap (·.queue)).countP (fun e => decide (e.slot = none) && dieOf (e.hdr / 2 ^ 28) == die)

/-- The lowest free spill slot of a plot's walker area. -/
def Plot.freeSlot (p : Plot) : Option Nat :=
  let used := p.pubs.flatMap (fun r => r.queue.filterMap (·.slot))
  (List.range (used.length + 1)).find? (fun i => !used.contains i && decide (0x10000 + 8 * i + 8 ≤ p.walkCap.toNat))

/-- Append a marked object to the queue of its home's rake, spilling beyond 4096 entries; without room the marking
phase ends. -/
def State.appendMark (s : State) (plot id ref hdr : Nat) : State :=
  match (s.plot plot).pubs.find? (fun r => r.id == id) with
  | none => s
  | some r =>
    let die := dieOf (hdr / 2 ^ 28)
    let behind := r.queue.any (fun e => e.slot.isSome && dieOf (e.hdr / 2 ^ 28) == die)
    let s1 := s.modPub plot id (fun r => { r with marked := r.marked ++ [hdr] })
    if !behind && decide (s.rakeLoad plot die < 4096) then s1.modPub plot id (fun r => { r with queue := r.queue ++ [⟨ref, hdr, none⟩] })
    else
      match (s.plot plot).freeSlot with
      | some i =>
        (s1.owe plot .record ((s.plot plot).walkBase.toNat + 0x10000 + 8 * i) (leBytes 8 ref)).modPub plot id (fun r =>
          { r with queue := r.queue ++ [⟨ref, hdr, some i⟩] })
      | none => (s1.pubRecord plot r 2 ref).modPub plot id (fun r => { r with queue := [], setting := true, left := hdr :: r.marked.reverse })

/-- What the rake does with one value of a tagged word. -/
def State.rakeFollow (s : State) (plot id v : Nat) : State :=
  match (s.plot plot).pubs.find? (fun r => r.id == id) with
  | none => s
  | some r =>
    if r.setting ∨ 2 ^ 56 ≤ v ∨ v % 256 ≠ 16 then s
    else if r.fatal.contains ((v - 16) / 4096) then s.pubRecord plot r 3 v
    else
      match s.rakeXlat plot r.space (v - 16) with
      | .absent => s
      | .moving => s
      | .ok x =>
        let page := 2 ^ pageBits x.size
        let hdr := x.pa
        if !x.obj || decide ((v - 16) / page ≠ (v + s.mem.hdrLength hdr - 1) / page) then s
        else if s.mem.hdrState hdr = 2 ∧ r.scope ≤ s.mem.hdrScope hdr then s
        else if r.marked.contains hdr then s
        else
          let side := s.mem.sideOf hdr
          let others := (s.plot plot).pubs.filter (fun q => q.id != id && q.marked.contains hdr)
          if (!isFormB side && decide (ownerOf side ≠ r.slot) && decide (ownerOf side ≠ 0x7FF)) || others.any (fun q => q.slot != r.slot) then
            s.pubRecord plot r 1 v
          else
            match others.filter (fun q => decide (q.id < id)) with
            | [] => s.appendMark plot id v hdr
            | q :: _ => s.modPub plot id (fun r => { r with waits := r.waits ++ [q.id] })

/-- The values of the tagged words of an object, in ascending address. -/
def Store.taggedValues (m : Store) (hdr : Nat) : List Nat :=
  ((List.range ((m.hdrLength hdr) / 8)).map (fun i => hdr + 16 + 8 * i)).filterMap (fun a => if m.tag a then some (m.num a 8) else none)

/-- A page that the rake must reach and cannot yet. -/
def State.rakeBlocked (s : State) (plot : Nat) (r : Publication) (vs : List Nat) : Option (Nat × Bool) :=
  vs.findSome? (fun v =>
    if 2 ^ 56 ≤ v ∨ v % 256 ≠ 16 ∨ r.fatal.contains ((v - 16) / 4096) then none
    else
      match s.rakeXlat plot r.space (v - 16) with
      | .absent => some (v - 16, false)
      | .moving => some (v - 16, true)
      | .ok _ => none)

/-- The rake has written a header: the line leaves where its home is outside. -/
def State.putHdr (s : State) (plot hdr : Nat) (m : Store) : State := (s.withMem m).leaves plot hdr (m.bytes hdr 16)

/-- The lines of an object, from its header line on. -/
def Store.objLines (m : Store) (hdr : Nat) : List Nat := linesOf hdr (16 + m.hdrLength hdr)

/-- The rake reads an object's lines: those in host or CXL memory are asked for, and it goes on when all have come (R24). -/
def State.rakeReads (s : State) (plot id : Nat) (lines : List Nat) (go : State → Option State) : Option State :=
  let who : Reader := .unit plot id
  match lines.find? (fun l => match s.asking who plot false l with | .ready _ => false | .leaves _ => true | .waits => true) with
  | none => go (lines.foldl (fun s' l => s'.taken who plot false l) s)
  | some l => s.fromOutside who plot false l some

/-- The oldest object of a publication's queue leaves it, with its header marked publishing. -/
def State.rakeMarked (s : State) (plot : Nat) (r : Publication) (e : MarkEntry) (rest : List MarkEntry) : State :=
  let side := s.mem.sideOf e.hdr
  let owner := if isFormB side then s.mem.hdrOwner e.hdr else ownerOf side
  (s.putHdr plot e.hdr (s.mem.setHdr e.hdr owner (s.mem.hdrScope e.hdr) 1)).modPub plot r.id (fun r => { r with hold := none, queue := rest })

/-- RAKE_MARK (R184): the oldest object of a publication's queue is marked publishing, and its references are followed.
A page not present holds the walk on the page-fault path. -/
def rakeMarkStep (s : State) : Option State :=
  let plot := s.subj.ag
  match (s.plot plot).pubs.find? (fun r => r.id == s.subj.n) with
  | none => none
  | some r =>
    match r.queue with
    | [] => none
    | e :: rest =>
      let vs := s.mem.taggedValues e.hdr
      let posted := r.hold.bind (fun h => h.msg.bind (·.posted))
      if r.hold.any (fun h => h.msg.any (fun m => m.posted.isNone)) then none
      else if posted = some true then
        some (s.modPub plot r.id (fun r => { r with hold := none, fatal := r.fatal ++ (r.hold.map (fun h => h.va / 4096)).toList }))
      else
        match s.rakeBlocked plot r vs with
        | some (_, true) => none
        | some (va, false) =>
          match s.reachFault plot va 6 (if r.space = 64 then 0 else r.space) r.slot false with
          | .held s1 h => some (s1.modPub plot r.id (fun r => { r with hold := some h }))
          | .later s1 => some s1
          | .ok _ => none
          | .fail _ => none
          | .poison _ => none
          | .wait => none
        | none =>
          s.through (.rake plot r.id) e.hdr (fun s =>
            s.rakeReads plot r.id (s.mem.objLines e.hdr) (fun s =>
              some (vs.foldl (fun s' v => s'.rakeFollow plot r.id v) (s.rakeMarked plot r e rest))))

def execRakeMark (s : State) : Host.Outcome State Fault Refusal := .next ((rakeMarkStep s).getD s)

/-- The publisher's cluster in form B (Table 8.5). -/
def Publication.cluster (r : Publication) : Nat := if r.sysAgent.isSome then 0xF8 + r.core / 6 else clusterOf r.core

/-- Set one object published (R185). -/
def Store.setPublished (m : Store) (r : Publication) (hdr : Nat) : Store :=
  let m1 := m.setHdr hdr (m.hdrOwner hdr) r.scope 2
  if r.scope < 2 then m1
  else (m.objLines hdr).foldl (fun m' l => m'.setSide l (formB r.scope r.cluster)) m1

/-- RAKE_SET (R185): the marked objects are set published in the reverse of their marking order; after the root and the
publications waited for, the tag turns ready. -/
def rakeSetStep (s : State) : Option State :=
  let plot := s.subj.ag
  match (s.plot plot).pubs.find? (fun r => r.id == s.subj.n) with
  | none => none
  | some r =>
    if !r.queue.isEmpty then none
    else
      match (if r.setting then r.left else r.marked.reverse) with
      | hdr :: rest =>
        s.through (.rake plot r.id) hdr (fun s =>
          some ((s.putHdr plot hdr (s.mem.setPublished r hdr)).modPub plot r.id (fun r => { r with setting := true, left := rest })))
      | [] =>
        if r.waits.any (fun w => (s.plot plot).pubs.any (fun q => q.id == w)) then none
        else
          let s1 := s.modPlot plot (fun p => { p with pubs := p.pubs.filter (fun q => q.id != r.id) })
          match r.sysAgent with
          | some k => some (s1.modThread k (fun t => { t with wait := .publishDone r.bad }))
          | none =>
            some (s1.modBlockId r.block (fun b => b.tagDone r.tag (if r.bad then 7 else 0) 0 []))

def execRakeSet (s : State) : Host.Outcome State Fault Refusal := .next ((rakeSetStep s).getD s)

end Sys2Proof.Machine
end

