-- ==== Sys2Proof/Machine/LaunchUnit.lean ====
section
/-! DEFINITION. Launch records, the launch unit's queues, placement and completion (R268–R282), `exit`, `yield` and
`phase` (R28, R282–R284), and the saving of halted blocks (R327). -/

namespace Sys2Proof.Machine

open Sys2Proof

/-! ### Records (R268, R269) -/

/-- Eight 64-bit words of memory. -/
def Store.words8 (m : Store) (a : Nat) : List Word := (List.range 8).map (fun i => m.word (a + 8 * i))

/-- Clusters that the plot's launch unit may use: its own that are not lent, and those it borrows (R275, R328). -/
def State.usable (s : State) (plot : Nat) : List Nat :=
  let p := s.plot plot
  p.clusters.filter (fun k => !p.lends.any (fun l => l.cluster == k && !l.back)) ++ p.borrowed

/-- The recall deadline of a borrowed cluster. -/
def State.lendLimit (s : State) (plot cluster : Nat) : Option Nat :=
  s.plots.findSome? (fun p => (p.2.lends.find? (fun l => l.cluster == cluster && l.borrower == plot && !l.back)).map (·.limit))

/-- Aligned origins, least y0 first, then least x0 (R275). -/
def Launch.origins (l : Launch) : List (Nat × Nat) :=
  (List.range (20 / l.h)).flatMap (fun j => (List.range (64 / l.w)).map (fun i => (i * l.w, j * l.h)))

/-- The cores of the rectangle at an origin, in block order (R58). -/
def Launch.tilesAt (l : Launch) (o : Nat × Nat) : List Nat := rectTiles o.1 o.2 l.w l.h

/-- A rectangle lies wholly in the plot's clusters. -/
def State.rectInPlot (s : State) (plot : Nat) (l : Launch) (o : Nat × Nat) : Bool :=
  let us := s.usable plot
  (l.tilesAt o).all (fun c => us.contains (clusterOf c))

/-- The phase rule (R281). -/
def Plot.phaseBelow (p : Plot) (l : Launch) : Bool := l.det && p.running.any (fun r => r.det && decide (l.phase < r.phase))

/-- The first check of Table 13.2 that a record fails, by its reason code; 0 when it passes. `scratch` is the launching
block's allocation, for a launch from a group. -/
def State.rejectReason (s : State) (plot : Nat) (l : Launch) (scratch : Option Nat) : Nat :=
  let hi (n : Nat) : Bool := decide (n / 2 ^ 56 ≠ 0)
  let handler : Nat := (BitVec.ofInt 64 ((l.entry : Int) + l.handlerOff)).toNat
  let p := s.plot plot
  if l.entry % 4 ≠ 0 ∨ l.laneBase % 256 ≠ 0 ∨ l.spill % 4096 ≠ 0 ∨ l.handlerOff % 4 ≠ 0 then 1
  else if hi l.entry || hi l.laneBase || hi l.spill || hi handler then 2
  else if 6 < l.logW ∨ 4 < l.logH then 3
  else if l.groups = 0 ∨ 16 < l.groups ∨ l.rows = 0 ∨ (if l.trapEn then 124 else 128) < l.rows ∨ 2048 < l.groups * l.rowStride then 4
  else if l.tiles = 0 ∨ 16 < l.tiles then 5
  else if l.scratch % 256 ≠ 0 ∨ 0x100000 < l.scratch then 6
  else if !l.origins.any (fun o => s.rectInPlot plot l o) then 7
  else if p.phaseBelow l then 8
  else if l.pairedFlag && !(p.pair.elim false (·.2)) then 9
  else if 3 < l.compKind ∨ (l.compKind = 3 ∧ l.compVal % 32 ≠ 0)
      ∨ (l.compKind = 2 ∧ (l.compVal % 2 ^ 20 % 16 ≠ 0 ∨ scratch.elim true (fun n => decide (n < l.compVal % 2 ^ 20 + 16)))) then 10
  else if l.trapEn && decide (l.spill = 0) then 11
  else 0

/-! ### Queues (R271–R273, R325) -/

/-- Hardware entries of a level, for one virtual function. -/
def Plot.levelCount (p : Plot) (vf level : Nat) : Nat := p.waiting.countP (fun l => l.vf == vf && l.level == level)

/-- Records that a function's part of the overflow area holds: the area is divided equally among the plot's functions, in
ascending index (DESIGN CHOICE, log entry 38). -/
def Plot.ovfCap (p : Plot) : Nat := p.lovfCap.toNat / max 1 p.vfCount

/-- The number of the next record of a function, and of its oldest still in the area. -/
def Plot.ovfNext (p : Plot) (vf : Nat) : Nat := fgetD p.ovfTail vf 0
def Plot.ovfHead (p : Plot) (vf : Nat) : Nat := ((p.spilled.filter (fun l => l.vf == vf)).map (·.ovf)).foldl min (p.ovfNext vf)

/-- A function's ring has room behind its newest record (R272). -/
def Plot.ovfRoom (p : Plot) (vf : Nat) : Bool := decide (p.ovfNext vf - p.ovfHead vf < p.ovfCap)

/-- Where the record of a function with a number lies. -/
def Plot.ovfAt (p : Plot) (vf n : Nat) : Nat := p.lovfBase.toNat + 64 * (vf * p.ovfCap + n % p.ovfCap)

/-- Write a launch's record at the tail of its function's ring. -/
def State.spill (s : State) (plot : Nat) (l : Launch) : State :=
  let p := s.plot plot
  let n := p.ovfNext l.vf
  (s.owe plot .record (p.ovfAt l.vf n) (l.record.flatMap (fun w => leBytes 8 w.toNat))).modPlot plot (fun p =>
    { p with spilled := p.spilled ++ [{ l with ovf := n }], ovfTail := fset p.ovfTail l.vf (n + 1) })

/-- A spilled launch with its record as the area holds it, or is still to hold it. -/
def State.respilled (s : State) (plot : Nat) (l : Launch) : Launch :=
  let p := s.plot plot
  let a := p.ovfAt l.vf l.ovf
  if p.owed.any (fun o => o.pa == a) then l else { l with record := s.mem.words8 a }

/-- The function whose armed host ring has a slot at a physical address (R409). -/
def State.hostRingVf (s : State) (plot pa : Nat) : Option Nat :=
  let at? (vf va : Nat) : Option Nat :=
    match s.rakeXlat plot vf va with
    | .ok x => some x.pa
    | .absent => none
    | .moving => none
  (s.plot plot).vfs.findSome? (fun v =>
    if v.2.hring = 0 then none
    else
      (at? v.1 v.2.hring.toNat).bind (fun h =>
        let r := s.ringAt h
        if r.ok h && (List.range r.slots).any (fun i => (List.range r.slotBytes).any (fun j => at? v.1 (r.slot i + j) == some pa))
        then some v.1 else none))

/-- Offer an accepted record to the launch unit: the status of R271 and the state. The launch belongs to the running
function, or to the owner of the host ring it was read from (R325, R409). -/
def State.enqueueLaunch (s : State) (plot vf : Nat) (l : Launch) : State × Nat :=
  let p := s.plot plot
  let l1 := { l with seq := p.seq, plot := plot, vf := vf, since := s.cycle, level := l.prio, paired := l.pairedFlag }
  if p.levelCount vf l.prio < 64 ∧ !p.spilled.any (fun x => x.vf == vf && x.level == l.prio) then
    (s.modPlot plot (fun p => { p with waiting := p.waiting ++ [l1], seq := p.seq + 1 }), 0)
  else if p.ovfRoom vf then ((s.spill plot l1).modPlot plot (fun p => { p with seq := p.seq + 1 }), 1)
  else (s, 3)

/-- The record at sa as a launch of the running agent, as its own loads see it. -/
def State.launchAt (s : State) (pa : Nat) : Launch :=
  { record := (List.range 8).map (fun i => BitVec.ofNat 64 (s.ownNum s.cur (pa + 8 * i) 8)), launcher := some s.cur, launcherBlock := (s.blockOf s.cur).elim 0 (·.id) }

/-- The tag that a record asks for: a group's, of completion kind 1. -/
def State.launchTag (s : State) (l : Launch) : Option Nat :=
  if !isSysKey s.cur && decide (l.compKind = 1) then some (l.compVal % 64) else none

/-- `launch` of a group that asks for a tag clears it, when it is ready, and goes on with its waits (R271). The tag stays with the
group until the `launch` retires, over a trap as well. -/
def State.takeTag (s : State) (tag : Option Nat) : Option State :=
  match tag with
  | none => some s
  | some n =>
    let c := coreOfKey s.cur
    let t := s.tag c n
    if t.taker = some (ctxOfKey s.cur) then some s
    else if t.ready then some (s.setTag c n { ready := false, taker := some (ctxOfKey s.cur) })
    else none

/-- Tags that the group has taken for a record that no longer asks for them are ready again. -/
def State.leaveTags (s : State) (tag : Option Nat) : State :=
  s.modBlock (coreOfKey s.cur) (fun b =>
    { b with tags := b.tags.map (fun t => if t.2.taker = some (ctxOfKey s.cur) ∧ some t.1 ≠ tag then (t.1, {}) else t) })

/-- `launch` from its read of the record on (R271): the state, and the status word. It waits while the tag that the record asks for
is not ready. -/
def State.offerLaunch (s : State) (pa : Nat) : Option (State × Word) :=
  let sys := isSysKey s.cur
  let plot := s.plotOf s.cur
  let l := s.launchAt pa
  let tag := s.launchTag l
  ((s.leaveTags tag).takeTag tag).map (fun s =>
    let reason := s.rejectReason plot l (if sys then none else some s.alloc)
    let put (s : State) (x : CopyTag) : State := tag.elim s (fun n => s.setTag (coreOfKey s.cur) n x)
    if reason ≠ 0 then (put s {}, BitVec.ofNat 64 (reason * 256 + 2))
    else
      let owner := if sys then s.hostRingVf plot pa else none
      let r := s.enqueueLaunch plot (owner.getD (s.plot plot).vfCur) l
      (put r.1 { ready := false }, BitVec.ofNat 64 (if r.2 = 3 then 3 else (s.plot plot).seq.toNat * 2 ^ 32 + r.2)))

/-- `launch` after its waits. -/
def State.doLaunch (s : State) (d : SReg) (pa : Nat) : State :=
  (s.offerLaunch pa).elim s (fun r => (r.1.modThread s.cur (fun t => t.setSreg d r.2)).retire)

/-- A `launch` whose record lies on a page not present goes on from the operand log: its status register is pending, and the group
continues (R72). -/
def State.holdLaunch (s : State) (d : SReg) (va : Nat) : State :=
  let t := s.th
  (((s.modThread s.cur (fun t => { t with pendS := t.pendS ||| BitVec.ofNat 64 (2 ^ d.val) })).retire).openFault s.cur
    { id := 0, target := .launch d va, access := 0, pc := t.pc, back := some t.point } [va])

def execLaunch (d a : SReg) (s : State) : Host.Outcome State Fault Refusal :=
  .next (s.issue notSprout [d, a] (fun s =>
    let va := s.th.sreg a
    if va.toNat % 64 ≠ 0 then s.trapVa cMisaligned va.toNat
    else if 2 ^ 56 ≤ va.toNat then s.trapVa cRange va.toNat
    else
      let tag := match s.xlat s.cur va.toNat with
        | .ok x => s.launchTag (s.launchAt x.pa)
        | .absent => none
        | .moving => none
      (s.takeTag tag).elim s (fun s => s.fenceWaits true .p (fun s =>
        match s.checkAccess s.cur .load va 64 with
        | .trap c => s.trapVa c va.toNat
        | .wait => s
        | .hold => if s.logBusy s.cur then s else s.holdLaunch d va.toNat
        | .ok x =>
          if s.mem.isPoison x.pa then (s.noticePoison x.pa).trapVa cPoison va.toNat
          else s.askHome (.home s.cur) s.cur x.pa (fun s => (s.doLaunch d x.pa).fill s.cur va.toNat (.ok x))))))

/-- How long ago a sequence number was given. -/
def Plot.age (p : Plot) (l : Launch) : Nat := (p.seq - l.seq).toNat

/-- The oldest of some launches. -/
def Plot.oldest (p : Plot) : List Launch → Option Launch
  | [] => none
  | l :: ls =>
    match p.oldest ls with
    | some m => if p.age l < p.age m then some m else some l
    | none => some l

/-- OVERFLOW_REFILL (R272): a level of the running function with a free entry takes its oldest spilled record. -/
def overflowRefillStep (s : State) : Option State :=
  let plot := s.subj.ag
  let p := s.plot plot
  let level := s.subj.n
  if 64 ≤ p.levelCount p.vfCur level then none
  else
    (p.oldest (p.spilled.filter (fun l => l.vf == p.vfCur && l.level == level))).map (fun l =>
      s.modPlot plot (fun p =>
        { p with spilled := p.spilled.filter (fun x => !x.same l), waiting := p.waiting ++ [s.respilled plot l] }))

def execOverflowRefill (s : State) : Host.Outcome State Fault Refusal := .next ((overflowRefillStep s).getD s)

/-- A launch that has waited 2^20 cycles below level 7 (R273). -/
def Launch.due (l : Launch) (cycle : Nat) : Bool := decide (l.level < 7) && decide (l.since + 2 ^ 20 ≤ cycle)

/-- LAUNCH_AGING (R273): every launch of a plot that is due moves up one level. -/
def launchAgingStep (s : State) : Option State :=
  let plot := s.subj.ag
  let p := s.plot plot
  let up (l : Launch) : Launch := if l.due s.cycle then { l with level := l.level + 1, since := l.since + 2 ^ 20 } else l
  if (p.waiting ++ p.spilled).any (fun l => l.due s.cycle) then
    some (s.modPlot plot (fun p => { p with waiting := p.waiting.map up, spilled := p.spilled.map up }))
  else none

def execLaunchAging (s : State) : Host.Outcome State Fault Refusal := .next ((launchAgingStep s).getD s)

/-! ### Blocks of halted functions (R15, R327) -/

/-- Units of a core that a block holds: kind and number. -/
def Block.units (b : Block) : List (Nat × Nat) :=
  (List.range (b.launch.groups * b.launch.rowStride)).map (fun r => (0, r))
    ++ (List.range b.launch.tiles).map (fun t => (1, b.pool + t))
    ++ (List.range (b.launch.scratch / 256)).map (fun i => (2, i))

/-- Offset and size of a unit in the save area (R327). -/
def unitPlace (kind idx : Nat) : Nat × Nat :=
  match kind with
  | 0 => (256 * idx, 256)
  | 1 => (0x80000 + 0x6000 * idx, 0x6000)
  | _ => (0x140000 + 256 * idx, 256)

/-- A block holds a unit of its core. -/
def Block.holds (b : Block) (kind idx : Nat) : Bool :=
  match kind with
  | 0 => decide (idx < b.launch.groups * b.launch.rowStride)
  | 1 => decide (b.pool ≤ idx ∧ idx < b.pool + b.launch.tiles)
  | _ => decide (idx < b.launch.scratch / 256)

/-- Copy a unit of a core into a parked block. -/
def Parked.take (p : Parked) (c : Core) (kind idx : Nat) : Parked :=
  match kind with
  | 0 => { p with rows := fset p.rows idx (fgetD c.rows idx []) }
  | 1 => { p with acc := p.acc ++ c.acc.filter (fun e => e.1 / 4096 == idx) }
  | _ => { p with pad := p.pad ++ c.pad.filter (fun e => e.1 / 256 == idx) }

/-- The place of a core among its plot's: the plot's own in ascending channel index, then those it borrows (R327; the last
a DESIGN CHOICE, log entry 94). -/
def Plot.coreIndex (p : Plot) (c : Nat) : Nat :=
  (p.channels ++ (p.borrowed.flatMap clusterTiles).mergeSort (· ≤ ·)).idxOf c

/-- The plaintext of a unit of a core: a row, the 48-bit elements of a tile as 6 bytes each, or a scratchpad granule. -/
def Core.unitBytes (c : Core) (kind idx : Nat) : List Byte :=
  match kind with
  | 0 => (List.range 64).flatMap (fun i => leBytes 4 ((fgetD c.rows idx []).at i).toNat)
  | 1 => (List.range 4096).flatMap (fun i => leBytes 6 (fgetD c.acc (4096 * idx + i) 0).toNat)
  | _ => (List.range 256).map (fun i => fgetD c.pad (256 * idx + i) 0)

/-- Lines written under a context key, where the area lies in the plot's memory (R327, R330). -/
def State.sealLines (s : State) (key : List Nat) (plot a : Nat) (bs : List Byte) : State :=
  if inRanges (s.plot plot).ranges a bs.length then
    (List.range (bs.length / 256)).foldl (fun s' i =>
      s'.withMem (s'.mem.write (a + 256 * i) (s'.seal key plot (a + 256 * i) ((bs.drop (256 * i)).take 256)))) s
  else s

/-- Lines opened under a context key. -/
def State.unsealLines (s : State) (key : List Nat) (plot a n : Nat) : List Byte :=
  (List.range (n / 256)).flatMap (fun i => s.unseal key plot (a + 256 * i) (s.mem.bytes (a + 256 * i) 256))

/-- Write ciphertext of n bytes, free in its content, where the area lies in the plot's memory. -/
def State.saveBytes (s : State) (plot a n : Nat) : State × List Byte :=
  if inRanges (s.plot plot).ranges a n then
    let r := s.freeBytes n
    (r.1.withMem (r.1.mem.write a r.2), r.2)
  else (s, s.mem.bytes a n)

/-- The first claimed units of a parked block that it still holds unsaved are written to its save area. -/
def State.saveUnits (s : State) (c plot : Nat) (claims : List (Nat × Nat)) (p : Parked) : State × Parked :=
  let v := fgetD (s.plot plot).vfs p.block.launch.vf {}
  let base := v.save.toNat + 0x240000 * (s.plot plot).coreIndex c
  let key := s.contextKey plot p.block.launch.vf
  (p.block.units.filter (fun u => claims.contains u && !p.saved.any (fun x => x.kind == u.1 && x.idx == u.2))).foldl
    (fun r u =>
      let a := base + (unitPlace u.1 u.2).1
      (r.1.sealLines key plot a ((s.core c).unitBytes u.1 u.2),
        { (r.2.take (s.core c) u.1 u.2) with saved := r.2.saved ++ [⟨u.1, u.2, a, []⟩] })) (s, p)

/-- Scalar state and queues of each group go to the block area, page by page, where it is mapped (R270, R327). -/
def State.saveScalars (s : State) (plot : Nat) (p : Parked) : State × Parked :=
  let b := p.block
  (List.range (7 * b.launch.groups)).foldl
    (fun r i =>
      let va := b.area + 0x88000 + 0x1000 * i
      match r.1.rakeXlat plot b.launch.vf va with
      | .ok x =>
        let w := r.1.saveBytes plot x.pa 4096
        (w.1, { r.2 with saved := r.2.saved ++ [⟨3, i / 7, x.pa, w.2⟩] })
      | .absent => r
      | .moving => r) (s, p)

/-- The threads of a core. -/
def State.coreThreads (s : State) (c : Nat) : FMap Thread := s.threads.filter (fun t => decide (t.1 / 32 = c))

/-- Free a core of the halted block on it, if any: the block is parked, and parked blocks save the units that the
incoming block claims. -/
def State.claimCore (s : State) (c plot : Nat) (claims : List (Nat × Nat)) : State :=
  let x := s.core c
  let r0 : State × List Parked :=
    match x.block with
    | none => ({ s with threads := s.threads.filter (fun t => decide (t.1 / 32 ≠ c)) }, x.parked)
    | some b =>
      let q : Parked := { block := b, threads := s.coreThreads c, mops := x.mops, eops := x.eops, hreads := x.hreads, bursts := x.bursts }
      let r := s.saveScalars plot q
      ({ (r.1.modCore c (fun x => { x with block := none, mops := [], eops := [], hreads := [], bursts := [] })) with
          threads := s.threads.filter (fun t => decide (t.1 / 32 ≠ c)) }, x.parked ++ [r.2])
  let r1 := r0.2.foldl (fun (r : State × List Parked) p => let w := r.1.saveUnits c plot claims p; (w.1, r.2 ++ [w.2])) (r0.1, [])
  r1.1.modCore c (fun x => { x with parked := r1.2 })

/-- The plaintext of a unit goes back to its place on a core. -/
def Core.putUnit (x : Core) (kind idx : Nat) (bs : List Byte) : Core :=
  let num (k n : Nat) : Nat := leNat ((bs.drop (n * k)).take n)
  match kind with
  | 0 => { x with rows := fset x.rows idx ((List.range 64).map (fun i => BitVec.ofNat 32 (num i 4))) }
  | 1 => { x with acc := (List.range 4096).foldl (fun m i => fset m (4096 * idx + i) (BitVec.ofNat 48 (num i 6))) x.acc }
  | _ => { x with pad := (List.range 256).foldl (fun m i => fset m (256 * idx + i) (bs.getD i 0)) x.pad }

/-- The copy of a unit that a parked block carries. -/
def Parked.unitBytes (p : Parked) (kind idx : Nat) : List Byte :=
  ({ rows := p.rows, acc := p.acc, pad := p.pad } : Core).unitBytes kind idx

/-- Refill one saved unit from its save area; one whose area is not in the plot's memory keeps what it held. -/
def State.refillUnit (s : State) (c : Nat) (p : Parked) (u : SavedUnit) : State :=
  let n := (unitPlace u.kind u.idx).2
  let plot := p.block.launch.plot
  if u.kind = 3 then s
  else
    let bs := if inRanges (s.plot plot).ranges u.addr n then s.unsealLines (s.contextKey plot p.block.launch.vf) plot u.addr n
      else p.unitBytes u.kind u.idx
    s.modCore c (fun x => x.putUnit u.kind u.idx bs)

/-- The groups whose scalar save fails its authentication. -/
def State.badSaves (s : State) (p : Parked) : List Nat :=
  (p.saved.filter (fun u => u.kind == 3 && decide (s.mem.bytes u.addr u.bytes.length ≠ u.bytes))).map (·.idx)

/-- A parked block of a function returns to its core: the block there is parked in turn, units are refilled, and a
group whose save fails is ended with cause poison in the fault log (R327). -/
def State.unpark (s : State) (c plot vf : Nat) : State :=
  match (s.core c).parked.find? (fun p => p.block.launch.vf == vf && p.block.launch.plot == plot && !p.block.leaving) with
  | none => s
  | some q =>
    let s0 := s.modCore c (fun x => { x with parked := x.parked.filter (fun p => p.block.id != q.block.id) })
    let s1 := s0.claimCore c plot q.block.units
    let s2 := q.saved.foldl (fun s' u => s'.refillUnit c q u) s1
    let s3 := s2.modCore c (fun x => { x with block := some q.block, mops := q.mops, eops := q.eops, hreads := q.hreads, bursts := q.bursts })
    let s4 := q.threads.foldl (fun s' t => s'.setThread t.1 t.2) s3
    ((s.badSaves q).eraseDups.foldl (fun s' g =>
      let key := groupKey c g
      let t := s'.thread key
      if (s'.blockOf key).elim true (fun b => b.gone.contains g) then s'
      else
        let l := q.block.launch
        (s'.faultLog plot (trapRecord t (s'.topEntries key) { cause := cPoison, pc := t.unspec.pc } g (l.seq.toNat * 2 ^ 32 + q.block.slot))).endGroup
          key) s4).reapBlock c

/-! ### Placement (R273–R276, R279, R365) -/

/-- Accepted deterministic launches that have not completed (R279). -/
def Plot.detLaunches (p : Plot) : List Launch := (p.waiting ++ p.spilled ++ p.running).filter (·.det)

/-- PP. -/
def Plot.phaseNow (p : Plot) : Option Nat := (p.detLaunches.map (·.phase)).min?

def Plot.eligible (p : Plot) (l : Launch) : Bool := !l.det || p.phaseNow == some l.phase

/-- Queued launches of the running function in candidate order: highest level first, then the one a recall returned, then
the oldest. -/
def Plot.candidates (p : Plot) : List Launch :=
  (p.waiting.filter (fun l => l.vf == p.vfCur)).mergeSort (fun a b =>
    decide (b.level < a.level)
      || (decide (a.level = b.level) && ((a.head && !b.head) || (a.head == b.head && decide (p.age b ≤ p.age a)))))

/-- The core's halted block can be claimed: its accesses already issued have run to completion, but for those held on the
page-fault path and those that its sprouts hold back (R299, R222). -/
def State.settled (s : State) (c : Nat) : Bool :=
  (s.coreThreads c).all (fun t =>
    t.2.win.all (·.held) && t.2.returning.isEmpty
      && (t.2.sq.all (·.held) || (isSproutKey t.1 && !t.2.draining && !t.2.released)))

/-- A core is free for a launch of a plot: no block of its running function holds it, or is still to return to it (R327). -/
def State.coreFree (s : State) (plot c : Nat) : Bool :=
  !(s.core c).parked.any (fun q =>
      q.block.launch.plot == plot && q.block.launch.vf == (s.plot plot).vfCur && !q.block.leaving) &&
  match (s.core c).block with
  | none => true
  | some b => decide (b.launch.plot = plot) && decide (b.launch.vf ≠ (s.plot plot).vfCur) && s.settled c

/-- A borrowed cluster accepts the launch's pre-emption latency. -/
def State.latencyOk (s : State) (plot : Nat) (l : Launch) (c : Nat) : Bool :=
  match s.lendLimit plot (clusterOf c) with
  | some n => decide (l.maxLat ≠ 0) && decide (l.maxLat ≤ n)
  | none => true

/-- The core of the secondary that corresponds to a core of the primary (R365). -/
def State.pairedCore (s : State) (plot other c : Nat) : Nat :=
  (s.plot other).channels.getD ((s.plot plot).channels.idxOf c) c

def State.qualifies (s : State) (plot : Nat) (l : Launch) (o : Nat × Nat) : Bool :=
  s.rectInPlot plot l o && (l.tilesAt o).all (fun c =>
    s.coreFree plot c && s.latencyOk plot l c && (!l.det || fgetD s.ratios (clusterOf c) 7 == 7)
      && (match (s.plot plot).pair with
          | some (other, _) => !l.paired || s.coreFree other (s.pairedCore plot other c)
          | none => true))

/-- The slots that blocks of a plot hold (R180). -/
def State.slotsOf (s : State) (plot : Nat) : List Nat :=
  s.cores.flatMap (fun c =>
    ((c.2.block.toList ++ c.2.parked.map (·.block)).filter (fun b => decide (b.launch.plot = plot))).map (·.slot))
    ++ (s.plot plot).recalled.map (·.block.slot)

def lowestFree (used : List Nat) : Nat := ((List.range (used.length + 1)).find? (fun i => !used.contains i)).getD 0

/-- A group at its start (R27, R276). -/
def groupStart (l : Launch) (c g plot cycle : Nat) : Thread :=
  { core := c, ctx := g, plot := plot, pc := BitVec.ofNat 56 l.entry, sregs := [(0, BitVec.ofNat 64 l.arg)], nextId := 1
    startCycle := cycle }

/-- Start one block: its core is claimed; rows and tiles read 0; the code caches drop every line (R30). -/
def State.startBlock (s : State) (l : Launch) (o : Nat × Nat) (c blockId : Nat) : State :=
  let b : Block := { id := s.nextBlock, launch := l, slot := lowestFree (s.slotsOf l.plot), blockId := blockId, x0 := o.1, y0 := o.2 }
  let s1 := s.claimCore c l.plot b.units
  let rows := l.groups * l.rowStride
  let s2 := s1.modCore c (fun x =>
    { x with
      block := some b
      rows := x.rows.filter (fun r => decide (rows ≤ r.1))
      acc := x.acc.filter (fun e => decide (l.tiles ≤ e.1 / 4096))
      icache := [], lcache := [] })
  (List.range l.groups).foldl (fun s' g => s'.setThread (groupKey c g) (groupStart l c g l.plot s.cycle))
    { s2 with nextBlock := s.nextBlock + 1 }

/-- What names the agents of a block's core follows the block to another core. -/
def Plot.rekey (p : Plot) (c d bid : Nat) : Plot :=
  let re (k : Nat) : Nat := if k / 32 = c then groupKey d (k % 32) else k
  let go (l : Launch) : Launch := if l.launcherBlock = bid then { l with launcher := l.launcher.map re } else l
  { p with
    syscPort := p.syscPort.map (fun w => if w.block = bid then { w with agent := re w.agent } else w)
    pubs := p.pubs.map (fun r => if r.block = bid then { r with core := d } else r)
    walks := p.walks.map (fun w => { w with agent := re w.agent })
    waiting := p.waiting.map go
    spilled := p.spilled.map go
    running := p.running.map go }

/-- A core takes the units that a block carries; the units of others on it stay. -/
def Core.graft (x : Core) (q : Parked) : Core :=
  let b := q.block
  { x with
    rows := (q.rows.filter (fun r => b.holds 0 r.1)).foldr (fun r m => fset m r.1 r.2) (x.rows.filter (fun r => !b.holds 0 r.1))
    acc := (q.acc.filter (fun r => b.holds 1 (r.1 / 4096))).foldr (fun r m => fset m r.1 r.2)
      (x.acc.filter (fun r => !b.holds 1 (r.1 / 4096)))
    pad := (q.pad.filter (fun r => b.holds 2 (r.1 / 256))).foldr (fun r m => fset m r.1 r.2)
      (x.pad.filter (fun r => !b.holds 2 (r.1 / 256))) }

/-- Put a lifted block on a core, with its threads, units and queues (R189). -/
def State.putBlock (s : State) (q : Parked) (c x0 y0 : Nat) (thaw : Bool) : State :=
  let s0 := { s with threads := s.threads.filter (fun t => decide (t.1 / 32 ≠ c)) }
  let s1 := s0.modCore c (fun x =>
    { x.graft q with
      block := some { q.block with x0 := x0, y0 := y0 }, mops := q.mops
      eops := q.eops, hreads := q.hreads, bursts := q.bursts, icache := [], lcache := [] })
  let s2 := q.threads.foldl (fun s' t => s'.setThread (groupKey c (t.1 % 32)) { t.2 with core := c, frozen := t.2.frozen && !thaw }) s1
  s2.modPlot q.block.launch.plot (fun p => p.rekey (q.threads.head?.elim c (fun t => t.1 / 32)) c q.block.id)

/-- The block of a recalled launch returns on a core of its new rectangle (R189, R329); one that had ended does not. -/
def State.replant (s : State) (l : Launch) (o : Nat × Nat) (c blockId : Nat) : State :=
  match (s.plot l.plot).recalled.find? (fun q => q.block.launch.same l && q.block.blockId == blockId) with
  | none => s
  | some q =>
    let s1 := (s.claimCore c l.plot q.block.units).modPlot l.plot (fun p =>
      { p with recalled := p.recalled.filter (fun r => r.block.id != q.block.id) })
    s1.putBlock q c o.1 o.2 true

/-- Place a launch at an origin. -/
def State.placeAt (s : State) (l : Launch) (o : Nat × Nat) (tiles : List Nat) : State :=
  (tiles.zipIdx).foldl (fun s' x => if l.head then s'.replant l o x.1 x.2 else s'.startBlock l o x.1 x.2) s

/-- LAUNCH_PLACEMENT (R274, R275): the eligible candidate is placed on the first qualifying origin; a paired launch has
its copy placed in the secondary (R365). -/
def launchPlacementStep (s : State) : Option State :=
  let plot := s.subj.ag
  let p := s.plot plot
  if p.stopped then none
  else
    match p.candidates.find? p.eligible with
    | none => none
    | some l =>
      match l.origins.find? (fun o => s.qualifies plot l o) with
      | none => none
      | some o =>
        let s1 := s.modPlot plot (fun p => { p with waiting := p.waiting.filter (fun x => x.seq != l.seq), running := p.running ++ [{ l with head := false }], vfs := fmod p.vfs l.vf (fun v => { v with missing := [] }) })
        let s2 := s1.placeAt l o (l.tilesAt o)
        match p.pair with
        | some (other, _) =>
          if l.paired then
            let l2 := { l with plot := other, launcher := none, copy := true }
            let tiles := (l.tilesAt o).map (s.pairedCore plot other)
            let t0 := tiles.getD 0 0
            some ((s2.modPlot other (fun p => { p with running := p.running ++ [l2] })).placeAt l2 (tileX t0, tileY t0) tiles)
          else some s2
        | none => some s2

def execLaunchPlacement (s : State) : Host.Outcome State Fault Refusal := .next ((launchPlacementStep s).getD s)

/-! ### Completion (R277) -/

/-- A block of a launch still stands on some core. -/
def State.launchLive (s : State) (l : Launch) : Bool :=
  s.cores.any (fun c => (c.2.block.toList ++ c.2.parked.map (·.block)).any (fun b =>
    b.launch.same l && decide (b.launch.plot = l.plot)))

/-- Reach memory of a virtual function for a unit of the device that is no core, through the TLBs on its path. -/
def State.unitReach (s : State) (plot space va kind slot : Nat) (acc : Access) (hold : Option EngineHold)
    (path : List Nat := []) : Reach :=
  let send : Reach :=
    (if (s.tlbHit path plot space va).elim false (fun x => s.foreign plot x.pa) then s.managerLog 2 plot else s).reachFault plot va kind
      (if space = 64 then 0 else space) slot (acc != .load)
  let look : Reach :=
    match s.xlatBy path plot space va (s.walkBy (portTlb plot) plot space va) with
    | .moving => .wait
    | .absent => send
    | .ok x => if !x.permits acc then send else .ok x
  match hold.bind (fun h => if h.va = va then h.msg else none) with
  | none => look
  | some m =>
    match m.posted with
    | none => .wait
    | some true => .fail 3
    | some false => look

/-- The completion record of R277. -/
def State.completionBytes (s : State) (l : Launch) : List Byte :=
  leBytes 4 l.seq.toNat ++ leBytes 4 l.ended ++ leBytes 8 s.cycle ++ leBytes 48 0

/-- LCOMP bits are set, and raise cause 0x32 (R277, Table 15.1). -/
def State.setLcomp (s : State) (plot t : Nat) : State :=
  let new : Word := bit64 t &&& ~~~(s.plot plot).lcomp
  (s.modPlot plot (fun p => { p with lcomp := p.lcomp ||| bit64 t })).raiseAsync plot 0x32 new

/-- A step of a launch's completion record that reaches memory: its hold, or what it goes on with; a failure ends it. -/
def State.compReach (s : State) (plot : Nat) (l : Launch) (va : Nat) (acc : Access) (done : State → State)
    (go : State → Xlat → Option State) : Option State :=
  let hold (s1 : State) (h : EngineHold) : State :=
    s1.modPlot plot (fun p => { p with running := p.running.map (fun x => if x.same l then { x with hold := some h } else x) })
  match s.unitReach plot l.vf va 5 0x7FF acc l.hold [portTlb plot] with
  | .wait => none
  | .later s1 => some s1
  | .held s1 h => some (hold s1 h)
  | .fail _ => some (done s)
  | .poison _ => some (done s)
  | .ok x => go s x

/-- Write a completion record into a ring as a fill writes a slot, and then the write index; a malformed ring takes nothing. Each
part waits for its channel (R348), and a ring in CXL memory is read there. -/
def State.ringComplete (s : State) (plot : Nat) (l : Launch) (done : State → State) : Option State :=
  let w : Writer := .comp plot l.seq.toNat
  s.compReach plot l l.compVal .atomic done (fun s x =>
    s.fromOutside (.unit plot (2 ^ 40 + l.seq.toNat)) plot false x.pa (fun s =>
      let r := s.ringAt x.pa
      if !r.ok x.pa || decide (r.slotBytes < 64) then some (done s)
      else if r.slots ≤ r.wi - r.ri then none
      else
        let a := r.slot r.wi
        let first := min 64 (256 - a % 256)
        let bs := s.completionBytes l
        let index (s : State) : State := done (s.put plot (x.pa + 16) (leBytes 8 (r.wi + 1)))
        s.compReach plot l a .store done (fun s y =>
          if !(isDram y.pa || isCxl y.pa) then some (done s)
          else if first = 64 then s.throughAll w [y.pa, x.pa] (fun s => some (index (s.put plot y.pa bs)))
          else
            s.compReach plot l (a + first) .store done (fun s z =>
              s.throughAll w [y.pa, z.pa, x.pa] (fun s =>
                some (index ((s.put plot y.pa (bs.take first)).put plot z.pa (bs.drop first))))))))

/-- The addresses at which a completion record may be written: its own, or a ring's and its slot's. -/
def State.compVas (s : State) (plot : Nat) (l : Launch) : List Nat :=
  l.compVal :: (match s.xlatBy [portTlb plot] plot l.vf l.compVal (s.walkBy (portTlb plot) plot l.vf l.compVal) with
    | .ok x => let a := (s.ringAt x.pa).slot (s.ringAt x.pa).wi; [a, a + min 64 (256 - a % 256)]
    | .absent => []
    | .moving => [])

/-- Bytes are added to the barrier of a block, wherever the block stands: on its core, in a unit that it still holds there,
in one that it carries, or in one saved (R277, R327). -/
def State.barrierSignal (s : State) (bid o n : Nat) : State :=
  match s.cores.find? (fun c => c.2.block.elim false (fun b => b.id == bid)
      || c.2.parked.any (fun q => q.block.id == bid && !q.saved.any (fun u => u.kind == 2 && u.idx == o / 256))) with
  | some c => s.barrierAdd c.1 o n
  | none =>
    let bump (pad : FMap Byte) : FMap Byte :=
      let x : Core := { pad := pad }
      let b := x.barrier o
      (x.setBarrier o { b with arrived := sat32 (b.arrived + n) }).pad
    let saved (q : Parked) (s : State) : State :=
      match q.saved.find? (fun u => u.kind == 2 && u.idx == o / 256) with
      | none => s
      | some u =>
        let plot := q.block.launch.plot
        if !inRanges (s.plot plot).ranges u.addr 256 then s
        else
          let key := s.contextKey plot q.block.launch.vf
          let x : Core := ({ } : Core).putUnit 2 u.idx (s.unsealLines key plot u.addr 256)
          s.sealLines key plot u.addr (({ pad := bump x.pad } : Core).unitBytes 2 u.idx)
    let onPad (q : Parked) : Parked := if q.block.id = bid then { q with pad := bump q.pad } else q
    let s1 : State := { s with
      cores := s.cores.map (fun c => (c.1, { c.2 with parked := c.2.parked.map onPad }))
      plots := s.plots.map (fun p => (p.1, { p.2 with recalled := p.2.recalled.map onPad })) }
    (s.offCore.find? (fun q => q.block.id == bid)).elim s1 (fun q => saved q s1)

/-- What a saved unit of a block off its core holds now. -/
def State.savedNow (s : State) (q : Parked) (u : SavedUnit) : List Byte :=
  let plot := q.block.launch.plot
  let n := (unitPlace u.kind u.idx).2
  if inRanges (s.plot plot).ranges u.addr n then s.unsealLines (s.contextKey plot q.block.launch.vf) plot u.addr n
  else q.unitBytes u.kind u.idx

/-- Let something happen to a block halted in place behind another, as if it stood on its core: its threads, its queues and its
saved units take their places for it, and go back. -/
def State.inPlace (s : State) (c : Nat) (q : Parked) (f : State → State) : State :=
  let x := s.core c
  let us := q.saved.filter (fun u => decide (u.kind ≠ 3))
  let here (s : State) (ts : FMap Thread) : State :=
    { s with threads := ts.foldl (fun m t => fset m t.1 t.2) (s.threads.filter (fun t => decide (t.1 / 32 ≠ c))) }
  let y := us.foldl (fun (y : Core) u => y.putUnit u.kind u.idx (s.savedNow q u))
    { x with
      block := some q.block, mops := q.mops, eops := q.eops, hreads := q.hreads, bursts := q.bursts
      parked := x.parked.filter (fun p => p.block.id != q.block.id) }
  let s1 := f ((here s q.threads).setCore c y)
  let z := s1.core c
  let key := s1.contextKey q.block.launch.plot q.block.launch.vf
  let s2 := us.foldl (fun s' u =>
    if z.unitBytes u.kind u.idx = y.unitBytes u.kind u.idx then s'
    else s'.sealLines key q.block.launch.plot u.addr (z.unitBytes u.kind u.idx)) s1
  let carried := us.foldl (fun (p : Parked) u => p.take z u.kind u.idx) { q with acc := [], pad := [] }
  let out := z.block.toList.map (fun b =>
    { carried with block := b, threads := s1.coreThreads c, mops := z.mops, eops := z.eops, hreads := z.hreads, bursts := z.bursts })
  let own := us.foldl (fun (w : Core) u => w.putUnit u.kind u.idx (x.unitBytes u.kind u.idx)) z
  (here s2 (s.coreThreads c)).setCore c
    { own with
      block := x.block, mops := x.mops, eops := x.eops, hreads := x.hreads, bursts := x.bursts, parked := out ++ z.parked }

/-- LAUNCH_COMPLETION (R277): every block of the launch has ended; its target is signalled once. -/
def launchCompletionStep (s : State) : Option State :=
  let plot := s.subj.ag
  match (s.plot plot).running.find? (fun l => l.seq.toNat == s.subj.n && l.copy == s.subj.flag) with
  | none => none
  | some l =>
    if s.launchLive l then none
    else
      let done (s : State) : State := s.modPlot plot (fun p => { p with running := p.running.filter (fun x => !x.same l) })
      if l.copy then some (done s)
      else
        let fromGroup := match l.launcher with | some k => !isSysKey k | none => false
        match l.compKind with
        | 1 =>
          if !fromGroup then some ((done s).setLcomp plot (l.compVal % 64))
          else some ((done s).modBlockId l.launcherBlock (fun b => b.tagDone (l.compVal % 64) 0 (min l.ended 0xFFF * 2 ^ 16) []))
        | 2 => some ((done s).barrierSignal l.launcherBlock (l.compVal % 2 ^ 20) 64)
        | 3 => s.ringComplete plot l done
        | _ => some (done s)

def execLaunchCompletion (s : State) : Host.Outcome State Fault Refusal := .next ((launchCompletionStep s).getD s)

/-! ### phase, yield, exit (R28, R282, R284, R310, R313) -/

def execPhase (a : SReg) (s : State) : Host.Outcome State Fault Refusal :=
  .next (s.issue notSprout [a] (fun s =>
    let n := (s.th.sreg a).toNat % 2 ^ 32
    let l := s.launchOf s.cur
    if !isSysKey s.cur && l.det && decide (l.phase < n) then s.trapNow cRange
    else
      s.delivery (fun s =>
        if (s.plot (s.plotOf s.cur)).detLaunches.any (fun x => decide (x.phase < n)) then s
        else s.fenceWaits false .p State.advance)))

def execYield (s : State) : Host.Outcome State Fault Refusal :=
  .next (s.issue notSprout [] (fun s => s.modThread s.cur (fun t => { t.advance with last := !isSysKey s.cur })))

/-- Operations of a group on its engines and in the matrix unit have all completed (R28). -/
def State.opsDone (s : State) (key : Nat) : Bool :=
  let c := s.core (coreOfKey key)
  let g := ctxOfKey key
  !c.mops.any (fun o => o.group == g) && !c.eops.any (fun o => o.group == g) && !c.hreads.any (fun r => r.group == g)

/-- The `exit` of a sprout releases its held entries; its FPX reaches the issuing group (R128, R222). -/
def State.sproutExit (s : State) : State :=
  let key := s.cur
  let c := coreOfKey key
  let t := s.th
  let owner := ((s.core c).req? t.req).map (fun r => groupKey c r.group)
  let s1 := s.modThread key (fun t => { t.advance with status := .exited, released := true, lastPc := t.pc })
  let s2 := match owner with
    | some k => s1.raiseFp k t.fpx
    | none => s1
  (s2.countBlock c 0x12 1).reapSprout key

def execExit (s : State) : Host.Outcome State Fault Refusal :=
  .next (
    if isSysKey s.cur then
      if s.th.privileged then s.trapNow cIllegal
      else s.issue anyone [] (fun s => s.syncInterrupt s.cur (s.th.pc + 4) 0x21 0)
    else
      s.issue anyone [] (fun s => s.delivery (fun s =>
        if isSproutKey s.cur then s.sproutExit
        else if !s.th.drainedAll || !s.opsDone s.cur then s
        else
          let c := coreOfKey s.cur
          let g := ctxOfKey s.cur
          if s.th.status = .handler then ((s.endGroup s.cur).leaveHandler c g).reapBlock c
          else
            ((s.modThread s.cur (fun t => { t.advance with status := .exited, region := none, lastPc := t.pc })).modBlock c
              (fun b => { b with gone := insNat b.gone g })).reapBlock c)))

end Sys2Proof.Machine
end

