-- ==== Sys2Proof/Machine/Replay.lean ====
section
/-! DEFINITION. The service of held instructions (R72, R104, R317–R319, R340): messages that waited for room, replays, and the
entries of the operand log that free. -/

namespace Sys2Proof.Machine

/-- Every message of the entry has been sent and posted. -/
def LogEntry.served (e : LogEntry) : Bool := !e.replayed && e.unsent.isEmpty && e.msgs.all (fun m => m.posted.isSome)

/-- A page of the entry was declared fatal. -/
def LogEntry.fatalAt (e : LogEntry) (va : Nat) : Bool := e.msgs.any (fun m => m.posted == some true && m.va / 4096 == va / 4096)

def LogEntry.isFatal (e : LogEntry) : Bool := e.msgs.any (fun m => m.posted == some true)

/-- The access kind of an entry (R318). -/
def accessOf (k : Nat) : Access := if k = 0 then .load else if k = 1 then .store else if k = 2 then .atomic else .fetch

def State.closeEntry (s : State) (key id : Nat) : State :=
  s.modThread key (fun t => t.setEntry id (fun e => { e with replayed := true, loads := [] }))

/-- The instruction is held again, with new messages; pages declared fatal stay so (R104). -/
def State.holdAgain (s : State) (key : Nat) (e : LogEntry) (vas : List Nat) : State :=
  let r := s.sendMsgs key e.access vas (e.msgs.filter (fun m => m.posted == some true))
  r.1.modThread key (fun t => t.setEntry e.id (fun x => { x with msgs := r.2.1, unsent := r.2.2 }))

/-- The destination register of a queue entry. -/
def SqEntry.dest (e : SqEntry) : Option SReg :=
  match e.kind with
  | .atomic _ d => some d
  | .store | .laneStore _ | .laneAtomic _ _ _ _ | .ringInit _ | .ringRelease | .engine _ => none

/-- Give up what stands for a scalar instruction in the window or the queue. -/
def Thread.giveUp (t : Thread) (e : LogEntry) : Thread :=
  match e.target with
  | .load id =>
    match t.win.find? (fun (x : LoadReq) => x.id == id) with
    | some l =>
      { t.dropLoad id with
        pendS := (match l.dest with | .scalar d _ => (t.unpend d).pendS | .lane _ _ _ _ => t.pendS)
        hold := t.hold && !l.ref }
    | none => t
  | .queue seq =>
    match t.sq.find? (fun (x : SqEntry) => x.seq == seq) with
    | some x => { (x.dest.elim t t.unpend) with sq := t.sq.filter (fun y => y.seq != seq), wait := .none }
    | none => t
  | .launch d _ => t.unpend d
  | .lane _ _ _ _ => t
  | .fetch => t

/-- A scalar instruction's replay fails: its place is given up, its agent goes back to it, and traps. An `ldref` with a
lane fault pending raises its trap when it executes again (R106). -/
def State.scalarFails (s : State) (key : Nat) (e : LogEntry) (cause : BitVec 8) (va : Nat) : State :=
  let s1 := s.modThread key (fun t =>
    let t1 := (t.unspec.giveUp e).setEntry e.id (fun x => { x with replayed := true })
    e.back.elim t1 t1.takeBack)
  if (s.thread key).trap.isSome then s1 else s1.raiseAt key { cause := cause, pc := e.pc, value := BitVec.ofNat 64 va }

/-- Replay of a load in the window. -/
def State.replayLoad (s : State) (key : Nat) (e : LogEntry) (l : LoadReq) : Option State :=
  if e.isFatal then some (s.scalarFails key e cPage l.va)
  else
    match s.checkAccess key .load (BitVec.ofNat 64 l.va) l.size with
    | .wait => none
    | .hold => some (s.holdAgain key e [l.va])
    | .trap c => some (s.scalarFails key e c l.va)
    | .ok x =>
      if s.mem.isPoison x.pa then some ((s.noticePoison x.pa).scalarFails key e cPoison l.va)
      else
        some (((s.modThread key (fun t =>
          { t with win := t.win.map (fun y => if y.id = l.id then { y with pa := x.pa, held := false, uncached := x.cellOnly } else y) })).closeEntry
            key e.id).fill key l.va (.ok x))

/-- Replay of a scalar store, reference store, atomic or ring access in the queue. -/
def State.replayQueue (s : State) (key : Nat) (e : LogEntry) (x : SqEntry) : Option State :=
  match x.parts with
  | [] => some (s.closeEntry key e.id)
  | p :: _ =>
    if e.isFatal then some (s.scalarFails key e cPage p.va)
    else
      match s.checkAccess key (accessOf e.access) (BitVec.ofNat 64 p.va) p.data.length with
      | .wait => none
      | .hold => some (s.holdAgain key e [p.va])
      | .trap c => some (s.scalarFails key e c p.va)
      | .ok y =>
        if p.tag && s.refMoving key (BitVec.ofNat 64 (leNat p.data)) (s.mem.container y.obj y.pa) then none
        else if p.tag && s.strefEscapes key (BitVec.ofNat 64 (leNat p.data)) (s.mem.container y.obj y.pa) then
          some (s.scalarFails key e cEscape p.va)
        else
          some (((s.modThread key (fun t =>
            { t with sq := t.sq.map (fun z =>
                if z.seq = x.seq then { z with parts := [{ p with pa := y.pa, obj := y.obj }], held := false } else z) })).closeEntry
              key e.id).fill key p.va (.ok y))

/-- One lane of a replay: every lane takes the TLB path, and a fatal page fails check 3, after checks 1 and 2 (R103,
R104). -/
def State.replayLane (s : State) (key : Nat) (e : LogEntry) (lane va eb : Nat) : LaneReq :=
  ⟨lane, 0, BitVec.ofNat 64 va,
    if e.fatalAt va && decide (va % eb = 0 ∧ va < 2 ^ 56) then .trap cPage
    else s.checkAccess key (accessOf e.access) (BitVec.ofNat 64 va) eb, false⟩

/-- A long operation keeps only the lanes of a mask outstanding. -/
def Thread.keepLanes (t : Thread) (op : Nat) (m : BitVec 64) : Thread :=
  { t with longOps := t.longOps.map (fun o => if o.id = op then { o with left := o.left &&& m } else o) }

/-- Replay of a lane instruction (R104, R105). -/
def State.replayLanes (s : State) (key : Nat) (e : LogEntry) (seq op clause idx : Nat) : Option State :=
  let entry := (s.thread key).sq.find? (fun x => x.seq == seq)
  let rs := if seq = 0 then e.loads.map (fun l => s.replayLane key e (laneOfDest l.dest) l.va l.size)
    else entry.elim [] (fun x => x.parts.map (fun p => s.replayLane key e p.lane p.va p.data.length))
  if rs.any (fun r => decide (r.check = .wait)) then none
  else if rs.any (fun r => decide (r.check = .hold)) then some (s.holdAgain key e (heldVas rs))
  else
    let oks := laneOks rs
    let good := lanesMask (oks.map (·.1.lane))
    let paOf (lane : Nat) : Xlat := ((oks.find? (fun x => x.1.lane == lane)).map (·.2)).getD ⟨0, false, false, false, false, 0⟩
    let isStore := match entry.map (·.kind) with | some (.laneStore _) => true | _ => false
    let s1 := s.modThread key (fun t =>
      let t1 := t.keepLanes op (if isStore then 0 else good)
      if seq = 0 then
        { t1 with win := t1.win ++ (e.loads.filter (fun l => good.getLsbD (laneOfDest l.dest))).map (fun l =>
            let x := paOf (laneOfDest l.dest)
            { l with pa := x.pa, held := false, uncached := x.cellOnly }) }
      else
        { t1 with sq := (t1.sq.map (fun z =>
            if z.seq = seq then
              { z with held := false, parts := (z.parts.filter (fun p => good.getLsbD p.lane)).map (fun p =>
                  { p with pa := (paOf p.lane).pa, obj := (paOf p.lane).obj }) }
            else z)).filter (fun z => z.seq != seq || !z.parts.isEmpty) })
    some (((s1.closeEntry key e.id).touchLines key (e.hint.getD .noL1) oks).laneFault key e.clauseAddr e.clauseMask clause idx
      (if (s.thread key).laneStop then [] else laneFaults rs))

/-- Replay of a `launch` whose record lay on a page not present (R72, R271): the launch goes on from its read. -/
def State.replayLaunch (s : State) (key : Nat) (e : LogEntry) (d : SReg) (va : Nat) : Option State :=
  if e.isFatal then some (s.scalarFails key e cPage va)
  else
    match s.checkAccess key .load (BitVec.ofNat 64 va) 64 with
    | .wait => none
    | .hold => some (s.holdAgain key e [va])
    | .trap c => some (s.scalarFails key e c va)
    | .ok x =>
      if s.mem.isPoison x.pa then some ((s.noticePoison x.pa).scalarFails key e cPoison va)
      else
        s.fromOutside (.home key) (s.plotOf key) (s.launchOf key).copy x.pa (fun s =>
          (({ s with cur := key } : State).offerLaunch x.pa).map (fun r =>
            let u : State := { r.1 with cur := s.cur }
            ((u.modThread key (fun t => t.deliver d r.2)).closeEntry key e.id).fill key va (.ok x)))

/-- A page of a logged instruction is present now and permits the access. -/
def State.pageThere (s : State) (key access va : Nat) : Bool :=
  match s.xlat key va with
  | .ok x => x.permits (accessOf access)
  | .absent => false
  | .moving => false

/-- An instruction whose messages wait for room in the fault ring waits as if its walk had not finished (R318): what its
pages are then is read again, and the messages still due are sent. -/
def State.resend (s : State) (key : Nat) (e : LogEntry) : State :=
  let r := s.sendMsgs key e.access (e.unsent.filter (fun va => !s.pageThere key e.access va)) e.msgs
  r.1.modThread key (fun t => t.setEntry e.id (fun x => { x with msgs := r.2.1, unsent := r.2.2 }))

def State.canResend (s : State) (key : Nat) (e : LogEntry) : Bool :=
  !e.unsent.isEmpty && ((s.plot (s.plotOf key)).fring.room || e.unsent.any (s.pageThere key e.access))

/-- The entry of an `ldref` that has not bound. -/
def Thread.refEntry (t : Thread) (e : LogEntry) : Bool :=
  match e.target with
  | .load id => t.win.any (fun x => x.id == id && x.ref)
  | .queue _ | .lane _ _ _ _ | .launch _ _ | .fetch => false

/-- A load of a lane instruction. -/
def LoadReq.isLane (l : LoadReq) : Bool :=
  match l.dest with
  | .lane _ _ _ _ => true
  | .scalar _ _ => false

/-- A lane fault is about to end its group: it has no handler, or is in it (R105, R288). -/
def State.endsByFault (s : State) (key : Nat) : Bool :=
  (s.thread key).laneStop && (!(s.launchOf key).trapEn || decide ((s.thread key).status = .handler))

/-- A held instruction that is made again before a lane fault ends its group: lane instructions that issued before the fault
complete, and take the outcome of their own posts (R105, R344); so do the scalar accesses that their loads wait for. -/
def State.finishes (s : State) (key : Nat) (e : LogEntry) : Bool :=
  let t := s.thread key
  s.endsByFault key && !e.replayed &&
    (match e.target with
      | .lane _ _ _ _ => true
      | .queue seq => t.sq.any (fun x => x.seq == seq && t.win.any (fun l => l.isLane && x.blocks l))
      | .load id => t.win.any (fun x => x.id == id && t.win.any (fun l => l.isLane && decide (x.mark < l.mark) && overlaps x.va x.size l.va l.size))
      | .launch _ _ => false
      | .fetch => false)

/-- Lane loads of a group that a lane fault is to end bind before it ends (R105). -/
def State.finishing (s : State) (key : Nat) : Bool :=
  s.endsByFault key && ((s.thread key).win.any LoadReq.isLane || (s.thread key).log.any (s.finishes key))

/-- FAULT_REPLAY (R104, R319): messages that waited for room are sent; the first instruction of an agent's log whose every
message has been posted is made again. It takes effect when a halted group resumes (R335), and waits while a trap of the
agent has not been entered, but for an `ldref`, and for the lane instructions of a group to be ended, which that trap waits
for (R105). -/
def faultReplayStep (s : State) : Option State :=
  let key := s.subj.ag
  let t := s.thread key
  match t.log.find? (s.canResend key) with
  | some e => some (s.resend key e)
  | none =>
  match t.log.find? LogEntry.served with
  | none => none
  | some e =>
    if (t.frozen && !(s.blockOf key).elim false (·.leaving)) || (t.trap.isSome && !t.refEntry e && !s.finishes key e) then none
    else
      match e.target with
      | .fetch =>
        if e.isFatal then some (s.scalarFails key e cPage ((e.msgs.head?).elim 0 (·.va))) else some (s.closeEntry key e.id)
      | .load id => (t.win.find? (fun x => x.id == id)).elim (some (s.closeEntry key e.id)) (s.replayLoad key e)
      | .queue seq => (t.sq.find? (fun x => x.seq == seq)).elim (some (s.closeEntry key e.id)) (s.replayQueue key e)
      | .lane seq op clause idx => s.replayLanes key e seq op clause idx
      | .launch d va => s.replayLaunch key e d va

def execFaultReplay (s : State) : Host.Outcome State Fault Refusal := .next ((faultReplayStep s).getD s)

/-- OPERAND_LOG_ENTRY_FREE (R317, R340): an entry whose replay is complete, or whose fault was fatal, frees. -/
def operandLogEntryFreeStep (s : State) : Option State :=
  let key := s.subj.ag
  match (s.thread key).log.find? (·.replayed) with
  | none => none
  | some e => some (s.modThread key (fun t => { t with log := t.log.filter (fun x => x.id != e.id) }))

def execOperandLogEntryFree (s : State) : Host.Outcome State Fault Refusal := .next ((operandLogEntryFreeStep s).getD s)

end Sys2Proof.Machine
end

