-- ==== Sys2Proof/Machine/Traps.lean ====
section
/-! DEFINITION. Software traps, trap entry and return, control of a block's groups, system calls, idempotent regions, and
the other interruptions of a group (R189, R226, R285–R301, R313, R334). -/

namespace Sys2Proof.Machine

/-! ### trap and trap entry (R286–R288, R290) -/

def State.closeRegion (s : State) : State := s.modThread s.cur (fun t => { t with region := none })

def execTrap (code : BitVec 19) (s : State) : Host.Outcome State Fault Refusal :=
  .next (s.issue anyone [] (fun s =>
    s.closeRegion.raise s.cur { cause := if code = 0x7FFFF then cBreak else cSoftware, pc := s.th.pc, code := code }))

/-- The trap as it is entered: a lane fault reports the first scalar word not retired (R105). -/
def Thread.entered (t : Thread) (pt : PendingTrap) : PendingTrap := if pt.cause.getLsbD 7 then { pt with pc := t.unspec.pc } else pt

/-- TRAP_ENTRY (R286): a pending trap of a group that is not halted is taken, after the scalar instruction it has issued
(R105). Another group's handler, or an absent
record page, delays it; a fatal record page ends the group (R287). -/
def trapEntryStep (s : State) : Option State :=
  let key := s.subj.ag
  let t := s.thread key
  match t.trap with
  | none => none
  | some p =>
    let pt := t.entered p
    if t.frozen || t.win.any (·.ref) || !(decide (t.status = .running) || decide (t.status = .handler)) then none
    else if isSysKey key || isSproutKey key then some ((s.modThread key (fun t => { t with trap := none })).raise key pt)
    else if !(s.launchOf key).trapEn || decide (t.status = .handler) then
      if s.finishing key then none else some (s.trapEnds key pt)
    else
      match s.blockOf key with
      | none => none
      | some b =>
        if b.handler.isSome || s.lowerTraps (coreOfKey key) (ctxOfKey key) then none
        else
          match s.areaAccess key (b.recordVa (ctxOfKey key)) true with
          | .ok x => s.through (.area key) x.pa (fun s => some (s.enterTrap key pt (b.recordVa (ctxOfKey key)) x))
          | .fatal => some (s.trapEnds key pt)
          | .wait s1 =>
            let w : Writer := .fault (s.plotOf key)
            if (s1.thread key).walkHold ≠ t.walkHold ∨ s1.hasPlace w ≠ s.hasPlace w then some s1 else none

def execTrapEntry (s : State) : Host.Outcome State Fault Refusal := .next ((trapEntryStep s).getD s)

/-! ### tret (R291) -/

/-- Issue an instruction that only a group in handler mode executes. -/
def State.inHandler (s : State) (names : List SReg) (body : State → State) : State :=
  s.issue groupOnly names (fun s => if s.th.status = .handler then body s else s.trapNow cIllegal)

def execTret (s : State) : Host.Outcome State Fault Refusal :=
  .next (s.inHandler [61, 63] (fun s =>
    let a := (s.th.sreg 61).toNat
    if !s.th.clausesDone then s
    else if a % 4 ≠ 0 then s.trapNow cMisaligned
    else if 2 ^ 56 ≤ a then s.trapNow cRange
    else
      match s.blockOf s.cur with
      | none => s
      | some b =>
        match s.areaAccess s.cur (b.recordVa (ctxOfKey s.cur)) false with
        | .ok _ => (s.modThread s.cur (fun t => { t with counters := bumpMap t.counters 0 1 })).returnTrap s.cur
        | .wait s1 => s1
        | .fatal => s.trapNow cPage))

/-! ### ginspect, gmodify, gresume, gend (R292–R294, R313) -/

/-- The group that an operand names: of the own block, or on a system core of the block with a slot. -/
def State.ctlTarget (s : State) (g slot : Nat) : Option Nat :=
  let at' (c : Nat) (b : Block) : Option Nat := if g < b.launch.groups then some (groupKey c g) else none
  if isSysKey s.cur then
    (s.cores.findSome? (fun c => c.2.block.bind (fun b =>
      if b.slot = slot ∧ b.launch.plot = s.plotOf s.cur then some (c.1, b) else none))).bind (fun x => at' x.1 x.2)
  else (s.blockOf s.cur).bind (at' (coreOfKey s.cur))

/-- Group control acts on its target, and on a system core also on one of a block halted in place behind another (R313). -/
def State.ctlOn (s : State) (g slot : Nat) (body : State → Nat → State) : State :=
  match s.ctlTarget g slot with
  | some key => body s key
  | none =>
    let mine (q : Parked) : Bool := isSysKey s.cur && q.block.slot == slot && q.block.launch.plot == s.plotOf s.cur
    match s.cores.findSome? (fun c => (c.2.parked.find? mine).map (fun q => (c.1, q))) with
    | some x => if g < x.2.block.launch.groups then s.inPlace x.1 x.2 (fun s => body s (groupKey x.1 g)) else s.trapNow cRange
    | none => s.trapNow cRange

/-- Waiting in `sysc`, which counts as halted (R295, R299). -/
def Thread.inSysc (t : Thread) : Bool :=
  match t.wait with
  | .syscPort => true
  | .syscSent _ => true
  | _ => false

/-- Halted by the handler's entry; on a system core, halted in place, by a wait in `sysc` too. -/
def State.ctlHalted (s : State) (key : Nat) : Bool :=
  let t := s.thread key
  if isSysKey s.cur then t.frozen || decide (t.status = .halted) || t.inSysc else decide (t.haltedBy = some (ctxOfKey s.cur))

/-- Whether a group may be inspected (R293, R313). -/
def State.ctlAllowed (s : State) (key : Nat) : Bool := decide (key = s.cur) || s.ctlHalted key || s.isGone key

/-- A selector (R292): class, register and index, where Table 13.8 lists it. -/
def selectorOf (n : Nat) : Option (Nat × Nat × Nat) :=
  let c := n / 2 ^ 28 % 16
  let r := n / 2 ^ 6 % 2 ^ 7
  let i := n % 2 ^ 6
  let ok := match c with
    | 0 => decide (r = 0)
    | 1 => decide (r = 0) && decide (i ≤ 8)
    | 2 => true
    | 3 => decide (r < 64) && decide (i = 0)
    | _ => false
  if n % 2 ^ 28 / 2 ^ 13 = 0 && ok then some (c, r, i) else none

/-- State of a group (Table 13.8). -/
def State.groupState (s : State) (key : Nat) : Nat :=
  match (s.thread key).status with
  | .running => if (s.thread key).frozen || (s.thread key).inSysc then 1 else 0
  | .halted => 1
  | .handler => 2
  | .exited => 3
  | .ended => 4
  | .stopped => 1

/-- What `ginspect` reads. -/
def State.inspect (s : State) (key c r i : Nat) : Word :=
  let t := s.thread key
  let own := decide (key = s.cur)
  match c with
  | 0 => fgetD t.sregs i 0
  | 1 =>
    match i with
    | 0 => (if own then t.entryPc else t.pc).setWidth 64
    | 1 => if own then t.entryMask else t.mask
    | 2 => BitVec.ofNat 64 t.depth
    | 3 => t.flags.setWidth 64
    | 4 => BitVec.ofNat 64 (s.groupState key)
    | 5 => t.trap.elim 0 (fun p => p.cause.setWidth 64)
    | 6 => t.rmode.setWidth 64
    | 7 => t.ftv.setWidth 64
    | _ => t.fpx.setWidth 64
  | 2 => ((s.row key r).at i).setWidth 64
  | _ => t.pred r

/-- What `gmodify` writes. -/
def State.modify (s : State) (key c r i : Nat) (v : Word) : State :=
  match c with
  | 0 => s.modThread key (fun t => { t with sregs := fset t.sregs i v })
  | 1 =>
    s.modThread key (fun t =>
      match i with
      | 0 => { t with pc := v.setWidth 56 }
      | 1 => { t with mask := v }
      | 6 => { t with rmode := v.setWidth 2 }
      | 7 => { t with ftv := v.setWidth 8 }
      | 8 => { t with fpx := v.setWidth 6 }
      | _ => t)
  | 2 => s.setRow key r ((s.row key r).blend (bit64 i) (fun _ => v.setWidth 32))
  | _ => s.modThread key (fun t => t.setPred r v)

/-- Issue a group-control instruction: in a handler, or on a privileged or user system core (R313). -/
def State.ctlIssue (s : State) (names : List SReg) (body : State → State) : State :=
  s.issue notSprout names (fun s => if isSysKey s.cur || decide (s.th.status = .handler) then body s else s.trapNow cIllegal)

/-- A row of the target that a selector may name. -/
def State.ctlRowOk (s : State) (key c r : Nat) : Bool := decide (c ≠ 2) || s.rowOk key r

def execGinspect (d a b : SReg) (s : State) : Host.Outcome State Fault Refusal :=
  .next (s.ctlIssue [d, a, b] (fun s =>
    let n := (s.th.sreg a).toNat
    match selectorOf ((s.th.sreg b).toNat % 2 ^ 32) with
    | some (c, r, i) =>
      s.ctlOn (n % 16) (n / 16 % 2 ^ 11) (fun s key =>
        if !s.ctlAllowed key then s.trapNow cRange
        else if !s.ctlRowOk key c r then s.trapNow cIllegal
        else if c = 2 && (s.thread key).pendingRows.contains r then s
        else s.finish d (s.inspect key c r i))
    | none => s.trapNow cRange))

def execGmodify (a b : SReg) (s : State) : Host.Outcome State Fault Refusal :=
  .next (s.ctlIssue [a, b] (fun s =>
    let n := (s.th.sreg a).toNat
    let v := s.th.sreg b
    match selectorOf (n % 2 ^ 32) with
    | some (c, r, i) =>
      s.ctlOn (n / 2 ^ 32 % 16) (n / 2 ^ 36 % 2 ^ 11) (fun s key =>
        if !s.ctlAllowed key || s.isGone key || (decide (c = 1) && (decide (key = s.cur) || (decide (2 ≤ i) && decide (i ≤ 5))))
            || (decide (c = 1 ∧ i = 7) && decide (v ≠ 1 ∧ v ≠ 2)) then s.trapNow cRange
        else if !s.ctlRowOk key c r then s.trapNow cIllegal
        else if c = 1 ∧ i = 0 ∧ v.toNat % 4 ≠ 0 then s.trapNow cMisaligned
        else (s.modify key c r i v).advance)
    | none => s.trapNow cRange))

def execGresume (a : SReg) (s : State) : Host.Outcome State Fault Refusal :=
  .next (s.ctlIssue [a] (fun s =>
    let n := (s.th.sreg a).toNat
    s.ctlOn (n % 16) (n / 16 % 2 ^ 11) (fun s key =>
      let t := s.thread key
      if isSysKey s.cur then
        (if t.frozen && (s.plot (s.plotOf s.cur)).stopped && decide ((s.launchOf key).vf = (s.plot (s.plotOf s.cur)).vfCur)
          then (s.modThread key (fun t => { t with frozen := false })).advance else s.trapNow cRange)
      else if t.haltedBy = some (ctxOfKey s.cur) ∧ t.status = .halted then
        (s.modThread key (fun t => { t with haltedBy := none, status := .running })).advance
      else s.trapNow cRange)))

/-- End a group from outside, with its handler if it is in one. -/
def State.gendOf (s : State) (key : Nat) : State :=
  let c := coreOfKey key
  let s1 := s.endGroup key
  (if (s.thread key).status = .handler then s1.leaveHandler c (ctxOfKey key) else s1).reapBlock c

def execGend (a : SReg) (s : State) : Host.Outcome State Fault Refusal :=
  .next (s.ctlIssue [a] (fun s =>
    let n := (s.th.sreg a).toNat
    s.ctlOn (n % 16) (n / 16 % 2 ^ 11) (fun s key =>
      if isSysKey s.cur then
        (if s.isGone key then s.advance else if s.ctlHalted key then (s.advance).gendOf key else s.trapNow cRange)
      else if key = s.cur then s.gendOf key
      else if s.ctlHalted key && !s.isGone key then (s.advance).gendOf key
      else s.trapNow cRange)))

/-! ### sysc (R295, R310, R334) -/

def execSysc (n : BitVec 19) (s : State) : Host.Outcome State Fault Refusal :=
  .next (
    if isSysKey s.cur then
      if s.th.privileged then s.trapNow cIllegal
      else s.issue anyone [] (fun s => s.syncInterrupt s.cur (s.th.pc + 4) 0x20 (n.setWidth 64))
    else
      s.issue groupOnly [] (fun s =>
        match s.th.wait with
        | .syscPort => s
        | .syscSent _ => s
        | .syscDone => (s.setWait .none).retire
        | _ =>
          s.fenceWaits true .p (fun s =>
            (s.setWait .syscPort).modPlot (s.plotOf s.cur) (fun p =>
              { p with syscPort := p.syscPort ++ [⟨s.blockIdOf s.cur, s.cur, n⟩] }))))

/-- The entry of a `sysc` in its ring: its first 80 bytes; the reply words follow (R334). -/
def syscEntry (w : SyscWait) (b : Block) (t : Thread) : List Byte :=
  leBytes 4 w.n.toNat ++ leBytes 4 b.launch.seq.toNat ++ leBytes 2 b.blockId ++ leBytes 1 (ctxOfKey w.agent)
    ++ leBytes 1 b.launch.vf ++ leBytes 4 0 ++ (List.range 8).flatMap (fun k => leBytes 8 (fgetD t.sregs k 0).toNat)

/-- SYSC_MESSAGE (R334): the first waiting `sysc` of a plot writes its entry while the ring has room, also when its block has
been halted behind another; one whose group was ended meanwhile is dropped. -/
def syscMessageStep (s : State) : Option State :=
  let plot := s.subj.ag
  let p := s.plot plot
  match p.syscPort with
  | [] => none
  | w :: rest =>
    match s.threadOf w.block w.agent, s.blockById w.block with
    | some t, some b =>
      if t.wait ≠ .syscPort then some (s.modPlot plot (fun p => { p with syscPort := rest }))
      else if !p.sysc.room then none
      else
        let idx := p.sysc.head
        s.through (.sysc plot) (p.sysc.at 128) (fun s =>
          let s1 := s.put plot (p.sysc.at 128) (syscEntry w b t)
          let s2 := s1.modPlot plot (fun p => { p with syscPort := rest, sysc := { p.sysc with head := idx + 1 } })
          some ((s2.modThreadOf w.block w.agent (fun t => { t with wait := .syscSent idx })).raiseAsync plot 0x31 (idx.setWidth 64)))
    | _, _ => some (s.modPlot plot (fun p => { p with syscPort := rest }))

def execSyscMessage (s : State) : Host.Outcome State Fault Refusal := .next ((syscMessageStep s).getD s)

/-! ### Idempotent regions (R296, R297) -/

def execIdem (s : State) : Host.Outcome State Fault Refusal :=
  .next (s.issue notSprout [] (fun s =>
    if isSysKey s.cur then s.advance
    else
      s.modThread s.cur (fun t =>
        { t.advance with
          region := some { start := t.pc + 4, mask := t.mask, depth := t.depth, clauseMark := t.nextId, logMark := t.nextId
                           loadMark := t.nextId } })))

/-- The mask stack cut back to a depth: entries are dropped from the top. A stack whose top lies in memory has it read back when
an instruction looks at it. -/
def Thread.cutStack (t : Thread) (depth : Nat) : Thread :=
  { t with mstack := t.mstack.drop (t.depth - depth), mspilled := min t.mspilled depth }

/-- Registers of loads, as pending bits. -/
def loadBits (ls : List LoadReq) : BitVec 64 :=
  ls.foldl (fun m l => match l.dest with | .scalar d _ => m ||| bit64 d.val | .lane _ _ _ _ => m) 0

/-- A thread goes back to the start of its open region (R297). -/
def Thread.toRegion (u : Thread) (r : Region) : Thread :=
  let t := u.unspec.cutStack r.depth
  let cut := (t.queue.filter (fun c => decide (r.clauseMark ≤ c.id))).map (·.id)
  let ops := (t.longOps.filter (fun o => cut.contains o.clause)).map (·.id)
  let gone (l : LoadReq) : Bool :=
    match l.dest with
    | .scalar _ _ => decide (r.loadMark ≤ l.id)
    | .lane _ _ _ op => ops.contains op
  let logs := t.log.filter (fun e => decide (r.logMark ≤ e.id))
  let heldSeq := logs.filterMap (fun e => match e.target with
    | .queue q => some q
    | .lane q _ _ _ => some q
    | .load _ => none
    | .launch _ _ => none
    | .fetch => none)
  { t with
    pc := r.start, mask := r.mask, region := none, hold := false
    wait := .none
    bsyncs := t.bsyncs - (if t.wait = .bsync ∨ t.wait = .bsyncDone then 1 else 0)
    rsyncs := t.rsyncs - (match t.wait with | .rsync _ _ => 1 | .rsyncDone => 1 | .rsyncBad => 1 | _ => 0)
    queue := t.queue.filter (fun c => !cut.contains c.id)
    longOps := t.longOps.filter (fun o => !ops.contains o.id)
    pendS := t.pendS &&& ~~~(loadBits (t.win.filter gone))
    win := t.win.filter (fun l => !gone l)
    log := t.log.filter (fun e => decide (e.id < r.logMark))
    sq := t.sq.filter (fun e => !(e.held && heldSeq.contains e.seq) && decide (e.kind ≠ .ringRelease)) }

/-- Discard the open region of a thread, if it has one. -/
def Thread.discardRegion (t : Thread) : Thread := t.region.elim t t.toRegion

/-- Discard the open region of a group (R297). -/
def State.discardRegion (s : State) (key : Nat) : State :=
  if (s.thread key).region.isSome then s.modThread key Thread.discardRegion else s

/-- REGISTER_PARITY_ERROR (R300): a transient register error discards and re-executes an open region; outside one the
reading instruction traps with poison. -/
def registerParityErrorStep (s : State) : Option State :=
  let key := s.subj.ag
  let t := s.thread key
  if (fget? s.threads key).isNone || t.trap.isSome || t.win.any (·.ref) || !(decide (t.status = .running) || decide (t.status = .handler)) then none
  else if t.region.isSome then some (s.discardRegion key)
  else some (s.raiseAt key { cause := cPoison, pc := t.unspec.pc })

def execRegisterParityError (s : State) : Host.Outcome State Fault Refusal := .next ((registerParityErrorStep s).getD s)

/-! ### Migration (R189, R226, R300) -/

/-- A group has nothing in flight. -/
def Thread.inFlight (t : Thread) : Bool :=
  !(t.sq.isEmpty && t.win.isEmpty && t.returning.isEmpty && t.log.isEmpty && t.longOps.isEmpty)

def State.groupDrained (s : State) (key : Nat) : Bool := !(s.thread key).inFlight

/-- A sprout that has begun no atomic can be discarded and its burst delivered again (R222, R226). -/
def State.restartSprout (s : State) (key : Nat) : State :=
  let t := s.thread key
  if t.drained ∨ t.released then s else s.dropSprout key (fun r => { r with toRead := t.burst :: r.toRead })

/-- A parked block ready to leave its core in the same way (R226, R300). -/
def Parked.quiesce (q : Parked) : Parked :=
  let back := q.threads.filter (fun t => isSproutKey t.1 && !t.2.drained && !t.2.released)
  { q with
    threads := (q.threads.filter (fun t => !back.any (fun x => x.1 == t.1))).map (fun t =>
      (t.1, if isSproutKey t.1 then { t.2 with frozen := false } else t.2.discardRegion))
    hreads := q.hreads.map (fun r =>
      let ns := (back.filter (fun t => t.2.req == r.id)).map (·.2.burst)
      { r with toRead := ns ++ r.toRead, live := r.live.filter (fun n => !ns.contains n) })
    eops := q.eops.filter (fun o => !back.any (fun t => ctxOfKey t.1 == o.group)) }

/-- Ready to leave its core without draining: groups in a region are discarded, restartable sprouts are taken back, and
what remains must have drained. -/
def State.quiesce (s : State) (c : Nat) : State :=
  let s1 := (s.groupKeys c).foldl (fun s' k => s'.discardRegion k) s
  (List.range 16).foldl (fun s' i =>
    let k := groupKey c (16 + i)
    if (fget? s'.threads k).isSome then s'.restartSprout k else s') s1

/-- Every operation of the core's block has drained. -/
def State.coreDrained (s : State) (c : Nat) : Bool :=
  let x := s.core c
  (s.groupKeys c).all s.groupDrained && x.mops.isEmpty && x.eops.isEmpty
    && !(List.range 16).any (fun i => (fget? s.threads (groupKey c (16 + i))).isSome)

/-- Every operation of a parked block has drained. -/
def Parked.drained (q : Parked) : Bool :=
  q.threads.all (fun t => !isSproutKey t.1 && !t.2.inFlight) && q.mops.isEmpty && q.eops.isEmpty

/-- A block as it leaves its core, with everything it holds there. -/
def State.liftBlock (s : State) (c : Nat) (b : Block) : Parked :=
  let x := s.core c
  { block := b, threads := s.coreThreads c, mops := x.mops, eops := x.eops, hreads := x.hreads, bursts := x.bursts
    rows := x.rows, acc := x.acc, pad := x.pad }

/-- A core without a block, and without its threads. -/
def State.clearCore (s : State) (c : Nat) : State :=
  { (s.modCore c (fun x => { x with block := none, mops := [], eops := [], hreads := [], bursts := [] })) with
    threads := s.threads.filter (fun t => decide (t.1 / 32 ≠ c)) }

/-- Move the block of a core, with its rows, tiles and scratchpad, to a free core (R189). -/
def State.moveBlock (s : State) (c d : Nat) : State :=
  match (s.core c).block with
  | none => s
  | some b =>
    let alone := decide (b.launch.w * b.launch.h = 1)
    (s.clearCore c).putBlock (s.liftBlock c b) d (if alone then tileX d else b.x0) (if alone then tileY d else b.y0) false

/-- BLOCK_MIGRATION (R189): the block of a core moves to a free core of its plot, with or without drain; it keeps its
slot. -/
def blockMigrationStep (s : State) : Option State :=
  let c := s.subj.ag
  let d := s.subj.n
  match (s.core c).block with
  | none => none
  | some b =>
    if !(s.usable b.launch.plot).contains (clusterOf d) || !s.latencyOk b.launch.plot b.launch d || (s.core d).block.isSome || decide (c = d) then none
    else
      let s1 := if s.subj.flag then s else s.quiesce c
      if s1.coreDrained c then some (s1.moveBlock c d) else none

def execBlockMigration (s : State) : Host.Outcome State Fault Refusal := .next ((blockMigrationStep s).getD s)

end Sys2Proof.Machine
end

