-- ==== Sys2Proof/Machine/System.lean ====
section
/-! DEFINITION. The instructions of op 0x6B and the interrupts of a system core (R310, R311, R333), shootdowns (R315, R316),
free memory (R322–R324), lending and recall (R328, R329), model keys (R331), time slices (R325–R327) and poisoned shared
pages (R321). -/

namespace Sys2Proof.Machine

open Sys2Proof

/-- A system core in either mode. -/
def systemAny : Who := { group := false, sprout := false }

/-! ### Shootdown (R62, R315, R316) -/

/-- The limit of a translation register whose range holds a covered page becomes 0 (R62). -/
def Translation.cut (x : Translation) (v : Invalidation) (space : Nat) : Translation :=
  let lo := x.vbase.toNat / 4096 * 4096
  if x.limit ≠ 0 ∧ v.covers space lo ((x.vbase.toNat + x.limit.toNat + 4095) / 4096 * 4096 - lo) then { x with limit := 0 } else x

/-- Change every translation register of a thread, those of the points that it may be taken back to among them. -/
def Thread.mapBts (t : Thread) (f : Translation → Translation) : Thread :=
  ({ t with bts := t.bts.map (fun b => (b.1, f b.2)) } : Thread).mapPoints (fun p => { p with bts := p.bts.map (fun b => (b.1, f b.2)) })

def Thread.cutBts (t : Thread) (v : Invalidation) (space : Nat) : Thread := t.mapBts (fun b => b.cut v space)

def Parked.cutBts (q : Parked) (v : Invalidation) : Parked :=
  { q with threads := q.threads.map (fun t => (t.1, t.2.cutBts v q.block.launch.vf)) }

/-- Queue entries translated in the covered range. -/
def Thread.stale (t : Thread) (v : Invalidation) (space : Nat) : List Nat :=
  (t.sq.filter (fun e => !e.held && e.parts.any (fun p => v.covers space p.va p.data.length))).map (·.seq)

/-- The threads that a TLB serves. -/
def State.servedBy (s : State) (place : Nat) : List Nat :=
  (s.threads.filter (fun t => decide (tlbPlace t.1 = place))).map (·.1)

/-- Queue entries of blocks off a core that were translated in the covered range. -/
def Parked.stale (q : Parked) (v : Invalidation) : List (Nat × Nat × Nat) :=
  q.threads.flatMap (fun t => (t.2.stale v q.block.launch.vf).map (fun n => (q.block.id, t.1, n)))

/-- Fills that wait at a ring whose address was translated in the covered range. -/
def staleFills (v : Invalidation) (b : Block) (ops : List EngineOp) : List (Nat × Nat) :=
  (ops.filter (fun o => o.spec.kind == 4 && o.started && !o.finished && v.covers b.launch.vf o.spec.base 32)).map (fun o => (b.id, o.id))

/-- The walk cache, or the port's TLB, behind which an agent walks. -/
def State.walkPlace (s : State) (agent : Nat) : Nat :=
  if 46000 ≤ agent then agent else (s.tlbPath agent).getLastD agent

/-- TLB_INVALIDATION_APPLY (R315): the oldest invalidation that has not reached a TLB, a walk cache or a port's TLB reaches
it. The walks behind a walk cache that have met the range begin again. -/
def tlbInvalidationApplyStep (s : State) : Option State :=
  let plot := s.subj.ag
  let place := s.subj.n
  match (s.plot plot).invs.findIdx? (fun v => v.cores.contains place) with
  | none => none
  | some i =>
    match (s.plot plot).invs[i]? with
    | none => none
    | some v =>
      let keys := s.servedBy place
      let late := keys.flatMap (fun k => ((s.thread k).stale v (s.spaceOf k)).map (fun q => (s.blockIdOf k, k, q)))
        ++ ((s.core place).parked ++ (s.plot plot).recalled).flatMap (·.stale v)
      let x := s.core place
      let fills := x.block.elim [] (fun b => staleFills v b x.eops)
        ++ (x.parked ++ (s.plot plot).recalled).flatMap (fun q => staleFills v q.block q.eops)
      let s1 := s.modCore place (fun c => { c with tlb := c.tlb.filter (fun e => !e.hit v), parked := c.parked.map (·.cutBts v) })
      let s2 := keys.foldl (fun s' k => s'.modThread k (fun t => t.cutBts v (s.spaceOf k))) s1
      some (s2.modPlot plot (fun p =>
        { p with
          invs := p.invs.modify i (fun v =>
            { v with cores := v.cores.filter (· ≠ place), await := v.await ++ late, fills := v.fills ++ fills })
          recalled := p.recalled.map (·.cutBts v)
          walks := p.walks.filter (fun w => !(s.walkPlace w.agent == place && v.covers w.space w.va 1)) }))

def execTlbInvalidationApply (s : State) : Host.Outcome State Fault Refusal := .next ((tlbInvalidationApplyStep s).getD s)

/-- The TLBs that an invalidation names (R315): of the cores that run for the plot, of its clusters, the walk caches of its
dies, and its ports'; for all spaces the system core's own as well. -/
def State.tlbPlaces (s : State) (plot : Nat) (all : Bool) : List Nat :=
  let us := s.usable plot
  us.flatMap clusterTiles ++ us.map (43000 + ·) ++ ((plot / 6 :: us.map (· / 20)).eraseDups.map (fun d => walkCache d plot))
    ++ [portTlb plot] ++ (if all then [sysKey plot] else [])

def execTlbinv (a b : SReg) (s : State) : Host.Outcome State Fault Refusal :=
  .next (s.issue systemOnly [a, b] (fun s =>
    let va := (s.th.sreg a).toNat
    let v := (s.th.sreg b).toNat
    let plot := s.plotOf s.cur
    let p := s.plot plot
    let asn := v / 2 ^ 48
    if va % 4096 ≠ 0 then s.trapNow cMisaligned
    else if 2 ^ 56 ≤ va ∨ (p.vfCount ≤ asn ∧ asn ≠ 0xFFFF) then s.trapNow cRange
    else if 8 ≤ p.invs.countP (fun x => !x.cores.isEmpty) then s
    else
      let all := decide (asn = 0xFFFF)
      (s.modPlot plot (fun p =>
        { p with
          invs := p.invs ++ [{ base := va, span := v % 2 ^ 48, space := if all then none else some asn, cores := s.tlbPlaces plot all }] })).advance))

/-- A queue entry still stands, wherever its block does. -/
def State.stillQueued (s : State) (x : Nat × Nat × Nat) : Bool :=
  if isSysKey x.2.1 then (s.thread x.2.1).sq.any (fun e => e.seq == x.2.2)
  else (s.threadOf x.1 x.2.1).elim false (fun t => t.sq.any (fun e => e.seq == x.2.2))

/-- A fill of a block has not completed, wherever the block stands. -/
def State.stillFills (s : State) (x : Nat × Nat) : Bool :=
  s.cores.any (fun c => c.2.block.elim false (fun b => b.id == x.1) && c.2.eops.any (fun o => o.id == x.2 && !o.finished))
    || s.offCore.any (fun q => q.block.id == x.1 && q.eops.any (fun o => o.id == x.2 && !o.finished))

def execTlbfence (s : State) : Host.Outcome State Fault Refusal :=
  .next (s.issue systemOnly [] (fun s =>
    s.fenceWaits true .p (fun s =>
      let plot := s.plotOf s.cur
      if (s.plot plot).invs.any (fun v => !v.cores.isEmpty || v.await.any s.stillQueued || v.fills.any s.stillFills) then s
      else (s.modPlot plot (fun p => { p with invs := [] })).advance)))

/-! ### Freed memory (R322–R324) -/

/-- The plot's own channels and CXL ranges, in ascending order. -/
def Plot.poolRanges (p : Plot) : List (Nat × Nat) :=
  p.ranges.filter (fun r => (isDram r.1 || isCxl r.1) && !p.shared.any (fun x => decide (x.1 < r.2 ∧ r.1 < x.2)))

/-- Whether a run lies wholly in the plot's own memory. -/
def Plot.owns (p : Plot) (a n : Nat) : Bool := inRanges p.poolRanges a n

/-- The pool bit of a page. -/
def poolBit : List (Nat × Nat) → Nat → Option Nat
  | [], _ => none
  | r :: rs, a => if r.1 ≤ a ∧ a < r.2 then some ((a - r.1) / 4096) else (poolBit rs a).map (· + (r.2 - r.1) / 4096)

/-- The page of a pool bit. -/
def poolPage : List (Nat × Nat) → Nat → Option Nat
  | [], _ => none
  | r :: rs, i => if i < (r.2 - r.1) / 4096 then some (r.1 + 4096 * i) else poolPage rs (i - (r.2 - r.1) / 4096)

def Plot.poolBits (p : Plot) : Nat := p.poolRanges.foldl (fun n r => n + (r.2 - r.1) / 4096) 0

/-- The bitmap lies in the plot's own memory; a pool elsewhere is empty, and no bit of it is set. -/
def Plot.poolOk (p : Plot) : Bool := p.owns p.poolBase.toNat ((p.poolBits + 7) / 8)

/-- The pages whose bits are set. -/
def State.cleanPages (s : State) (p : Plot) : List Nat :=
  if !p.poolOk then []
  else
    (s.mem.cells.filter (fun c => decide (p.poolBase.toNat ≤ c.1 ∧ c.1 < p.poolBase.toNat + (p.poolBits + 7) / 8))).flatMap (fun c =>
      (List.range 8).filterMap (fun i => if c.2.getLsbD i then poolPage p.poolRanges (8 * (c.1 - p.poolBase.toNat) + i) else none))

/-- Pages of a frame. -/
def pagesOf (a size : Nat) : List Nat := (List.range (2 ^ (pageBits size - 12))).map (fun i => a + 4096 * i)

/-- Set or clear the pool bits of pages. -/
def Store.setPool (m : Store) (p : Plot) (v : Bool) (pages : List Nat) : Store :=
  if !p.poolOk then m
  else
    pages.foldl (fun m a =>
      match poolBit p.poolRanges a with
      | none => m
      | some i =>
        let at' := p.poolBase.toNat + i / 8
        let b := m.byte at'
        let bit := BitVec.ofNat 8 (2 ^ (i % 8))
        m.write at' [if v then b ||| bit else b &&& ~~~bit]) m

def ScrubItem.bytes (q : ScrubItem) : Nat := 2 ^ pageBits q.size

/-- Lines of a pool's bitmap that hold the bits of pages leave where their home is CXL memory (R410). -/
def State.poolLeaves (s : State) (plot : Nat) (p : Plot) (pages : List Nat) : State :=
  if !(p.poolOk && isCxl p.poolBase.toNat) then s
  else
    let ls := (pages.filterMap (poolBit p.poolRanges)).map (fun i => lineOf (p.poolBase.toNat + i / 8))
    ls.eraseDups.foldl (fun s' l => s'.leaves plot l [0]) s

/-- A run overlaps the scrub queue. -/
def Plot.inScrub (p : Plot) (a n : Nat) : Bool := p.scrub.any (fun q => decide (a < q.frame + q.bytes ∧ q.frame < a + n))

def execPgfree (a : SReg) (s : State) : Host.Outcome State Fault Refusal :=
  .next (s.issue systemOnly [a] (fun s =>
    s.fenceWaits true .p (fun s =>
      let v := (s.th.sreg a).toNat
      let size := v % 8
      let frame := v / 4096 * 4096
      let plot := s.plotOf s.cur
      let p := s.plot plot
      let n := 2 ^ pageBits size
      let clean := s.cleanPages p
      if 2 ^ 52 ≤ v ∨ v % 4096 ≠ size ∨ 5 ≤ size then s.trapNow cRange
      else if decide (frame % n ≠ 0) || !p.owns frame n || p.inScrub frame n
          || clean.any (fun x => decide (frame ≤ x ∧ x < frame + n)) then s.trapNow cRange
      else (s.modPlot plot (fun p => { p with scrub := p.scrub ++ [⟨frame, size⟩] })).advance)))

/-- Clean, aligned frames of a size in a list of pages. -/
def framesIn (p : Plot) (pages : List Nat) (size : Nat) : List Nat :=
  pages.filter (fun a => decide (a % 2 ^ pageBits size = 0) && p.owns a (2 ^ pageBits size) && (pagesOf a size).all pages.contains)

def execPgalloc (d : SReg) (s : State) : Host.Outcome State Fault Refusal :=
  .next (s.issue systemOnly [d] (fun s =>
    let v := (s.th.sreg d).toNat
    let size := v % 8
    let hint := v / 256 % 2 ^ 11
    let plot := s.plotOf s.cur
    let p := s.plot plot
    if 2 ^ 19 ≤ v ∨ v / 8 % 32 ≠ 0 ∨ 5 ≤ size ∨ (1282 < hint ∧ hint ≠ 0x7FF) then s.trapNow cRange
    else
      let clean := s.cleanPages p
      let fs := framesIn p clean size
      match (fs.filter (fun a => homeOf s.mem.cxlSize a == hint)).min?.or fs.min? with
      | some f =>
        let pages := pagesOf f size
        ((s.withMem (s.mem.setPool p false pages)).poolLeaves plot p pages).finish d (BitVec.ofNat 64 f)
      | none =>
        let dirty := p.scrub.flatMap (fun q => pagesOf q.frame q.size)
        if (framesIn p dirty size).isEmpty then s.finish d 1 else s))

/-- The die whose scrubber takes a frame: that of its channel or CXL port (Table 1.1). -/
def State.scrubDie (s : State) (q : ScrubItem) : Nat := lineDie s.mem.cxlSize q.frame

/-- Lines zeroed, with no tags, unclaimed and without errors (R322). -/
def Store.scrub (m : Store) (a n : Nat) : Store :=
  let inside (x : Nat) : Bool := decide (a ≤ x ∧ x < a + n)
  let ws := ((m.cells.filter (fun c => inside c.1)).map (fun c => wordOf c.1)).eraseDups
  let m1 := ws.foldl Store.pushHist m
  { m1 with
    cells := m1.cells.filter (fun c => !inside c.1)
    tags := m1.tags.filter (fun t => !inside t)
    side := m1.side.filter (fun x => !inside x.1)
    poison := m1.poison.filter (fun l => !inside l)
    noticed := m1.noticed.filter (fun l => !inside l)
    headers := m1.headers.filter (fun h => !inside h) }

/-- Cached copies of a run's lines are dropped in a core. -/
def Core.dropLines (c : Core) (a n : Nat) : Core :=
  let out (x : Nat) : Bool := !decide (a ≤ x ∧ x < a + n)
  { c with
    icache := c.icache.filter (fun l => out l.1)
    lcache := c.lcache.filter (fun l => out l.1)
    l1 := c.l1.filter (fun l => out l.1) }

/-- Every cached copy of a run's lines is dropped, in the cores, the home slices and the remote-data caches. -/
def State.dropLines (s : State) (a n : Nat) : State :=
  let out (x : Nat) : Bool := !decide (a ≤ x ∧ x < a + n)
  { s with
    cores := s.cores.map (fun (c : Nat × Core) => (c.1, c.2.dropLines a n))
    l2 := s.l2.filter (fun l => out l.1)
    rdc := s.rdc.map (fun d => (d.1, d.2.filter out)) }

/-- A frame of CXL memory that has been written with zeros leaves line by line (R410). -/
def State.frameLeaves (s : State) (plot a n : Nat) : State :=
  if isCxl a then (List.range (n / 256)).foldl (fun s' i => s'.leaves plot (a + 256 * i) [0]) s else s

/-- SCRUB_FRAME (R322): the scrubber of die `n` takes the first frame of a plot's queue that is its own. -/
def scrubFrameStep (s : State) : Option State :=
  let plot := s.subj.ag
  let p := s.plot plot
  match p.scrub.findIdx? (fun q => s.scrubDie q == s.subj.n) with
  | none => none
  | some i =>
    match p.scrub[i]? with
    | none => none
    | some q =>
      let pages := pagesOf q.frame q.size
      let s1 := (s.withMem ((s.mem.scrub q.frame q.bytes).setPool p true pages)).dropLines q.frame q.bytes
      let s2 := s1.modPlot plot (fun p =>
        { p with
          scrub := p.scrub.eraseIdx i
          tweak := pages.foldl (fun m a => fset m a (fgetD m a 0 + 1)) p.tweak })
      some ((s2.frameLeaves plot q.frame q.bytes).poolLeaves plot p pages)

def execScrubFrame (s : State) : Host.Outcome State Fault Refusal := .next ((scrubFrameStep s).getD s)

/-! ### Lending and recall (R328, R329) -/

/-- Column and row of a package cluster. -/
def clusterX (k : Nat) : Nat := k / 20 % 4 * 4 + k % 20 % 4
def clusterY (k : Nat) : Nat := k / 80 * 5 + k % 20 / 4

/-- Clusters that share an edge. -/
def clusterEdge (a b : Nat) : Bool :=
  let dx := (clusterX a - clusterX b) + (clusterX b - clusterX a)
  let dy := (clusterY a - clusterY b) + (clusterY b - clusterY a)
  decide (dx + dy = 1)

/-- Every core of a cluster as at reset, with its TLB and its sprout contexts, and the cluster's TLB empty. -/
def State.scrubCluster (s : State) (k : Nat) : State :=
  let s1 := (clusterTiles k).foldl (fun s' c => s'.setCore c {}) s
  let s2 := { s1 with threads := s1.threads.filter (fun t => isSysKey t.1 || !(clusterTiles k).contains (t.1 / 32)) }
  s2.modCore (43000 + k) (fun x => { x with tlb := [] })

/-- No block is placed or halted on a cluster. -/
def State.clusterIdle (s : State) (k : Nat) : Bool :=
  (clusterTiles k).all (fun c => (s.core c).block.isNone && (s.core c).parked.isEmpty)

def execLend (a b : SReg) (s : State) : Host.Outcome State Fault Refusal :=
  .next (s.issue systemOnly [a, b] (fun s =>
    let k := (s.th.sreg a).toNat
    let v := (s.th.sreg b).toNat
    let who := v % 64
    let limit := v / 2 ^ 32
    let plot := s.plotOf s.cur
    let p := s.plot plot
    if 256 ≤ k ∨ v / 64 % 2 ^ 26 ≠ 0 ∨ limit < 65536 then s.trapNow cRange
    else if !p.clusters.contains k || p.lends.any (fun l => l.cluster == k && !l.back) || !s.clusterIdle k
        || !(s.plot who).clusters.any (clusterEdge k) || !s.board.lendOk.contains (plot, who) then s.trapNow cRange
    else
      let s1 := (s.scrubCluster k).modPlot plot (fun p =>
        { p with lends := p.lends.filter (fun l => l.cluster != k) ++ [{ cluster := k, borrower := who, limit := limit }] })
      (s1.modPlot who (fun p => { p with borrowed := p.borrowed ++ [k] })).advance))

/-- Blocks of a plot, with their cores. -/
def State.blocksOf (s : State) (plot : Nat) : List (Nat × Block) :=
  s.cores.filterMap (fun c => c.2.block.bind (fun b => if b.launch.plot = plot then some (c.1, b) else none))

/-- Sequence numbers of the borrower's launches with a block on a cluster, halted blocks included. -/
def State.launchesOn (s : State) (k : Nat) : List (BitVec 32) :=
  ((clusterTiles k).flatMap (fun c => ((s.core c).block.toList ++ (s.core c).parked.map (·.block)).map (·.launch.seq))).eraseDups

/-- Halt the threads of a core in place, but for those kept. -/
def State.freezeBut (s : State) (c : Nat) (keep : Nat × Thread → Bool) : State :=
  { s with threads := s.threads.map (fun t => if t.1 / 32 = c && !keep t then (t.1, { t.2.unspec with frozen := true }) else t) }

/-- Halt every thread of a core in place. -/
def State.freezeCore (s : State) (c : Nat) : State := s.freezeBut c (fun _ => false)

/-- At a recall a sprout that has performed an atomic runs to its `exit` first (R226). -/
def State.haltCore (s : State) (c : Nat) : State := s.freezeBut c (fun t => isSproutKey t.1 && t.2.drained)

/-- A parked block takes with it the units that it still holds on its core. -/
def Parked.takeRest (q : Parked) (c : Core) : Parked :=
  (q.block.units.filter (fun u => !q.saved.any (fun x => x.kind == u.1 && x.idx == u.2))).foldl (fun q u => q.take c u.1 u.2) q

/-- Change the parked blocks of a launch. -/
def State.mapParked (s : State) (plot : Nat) (seq : BitVec 32) (f : Parked → Parked) : State :=
  { s with cores := s.cores.map (fun c =>
      (c.1, { c.2 with parked := c.2.parked.map (fun q => if q.block.launch.plot = plot ∧ q.block.launch.seq = seq then f q else q) })) }

/-- Parked blocks of a launch come off their cores, with all their units. -/
def State.unparkLaunch (s : State) (plot : Nat) (seq : BitVec 32) : State × List Parked :=
  let mine (q : Parked) : Bool := q.block.launch.plot == plot && q.block.launch.seq == seq
  ({ s with cores := s.cores.map (fun c => (c.1, { c.2 with parked := c.2.parked.filter (fun q => !mine q) })) },
    s.cores.flatMap (fun c => (c.2.parked.filter mine).map (·.takeRest c.2)))

/-- The blocks of a launch halt, the parked ones among them, and give up what they may (R226, R300). -/
def State.haltLaunch (s : State) (plot : Nat) (seq : BitVec 32) : State :=
  let bs := (s.blocksOf plot).filter (fun x => x.2.launch.seq == seq)
  (bs.foldl (fun s' x => ((s'.quiesce x.1).haltCore x.1).modBlock x.1 (fun b => { b with leaving := true })) s).mapParked plot seq
    (fun q => { q.quiesce with block := { q.block with leaving := true } })

/-- Nothing of a launch's blocks is in flight. -/
def State.launchDrained (s : State) (plot : Nat) (seq : BitVec 32) : Bool :=
  ((s.blocksOf plot).filter (fun x => x.2.launch.seq == seq)).all (fun x => s.coreDrained x.1)
    && (s.cores.flatMap (·.2.parked)).all (fun q => !(q.block.launch.plot == plot && q.block.launch.seq == seq) || q.drained)

/-- A launch whose blocks have all been discarded or drained leaves its cores and returns to the head of its level. -/
def State.withdraw (s : State) (plot : Nat) (seq : BitVec 32) : State :=
  let s1 := s.haltLaunch plot seq
  if !s1.launchDrained plot seq then s1
  else
    let bs := (s1.blocksOf plot).filter (fun x => x.2.launch.seq == seq)
    let lifted := bs.map (fun x => s1.liftBlock x.1 x.2)
    let s2 := bs.foldl (fun s' x => s'.clearCore x.1) s1
    let r := s2.unparkLaunch plot seq
    r.1.modPlot plot (fun p =>
      { p with
        recalled := p.recalled ++ (lifted ++ r.2).map (fun q => { q with block := { q.block with leaving := false } })
        running := p.running.filter (fun l => l.seq != seq)
        waiting := (p.running.filter (fun l => l.seq == seq)).map (fun l => { l with head := true }) ++ p.waiting })

/-- The recall of a cluster goes on: launches leave it, and when it is clear it is scrubbed and returns. -/
def State.recallOn (s : State) (plot k : Nat) (l : Lent) : State :=
  let s1 := (s.launchesOn k).foldl (fun s' q => s'.withdraw l.borrower q) s
  if !s1.clusterIdle k then s1
  else
    let s2 := (s1.scrubCluster k).modPlot plot (fun p =>
      { p with lends := p.lends.map (fun x => if x.cluster = k then { x with back := true } else x) })
    s2.modPlot l.borrower (fun p => { p with borrowed := p.borrowed.filter (· ≠ k) })

/-- The recalls that a plot has begun go on by themselves, whatever its system core does (R329). -/
def recallProgressStep (s : State) : Option State :=
  ((s.plot s.subj.ag).lends.find? (fun l => l.recalling.isSome && !l.back)).map (fun l => s.recallOn s.subj.ag l.cluster l)

def execRecall (a : SReg) (s : State) : Host.Outcome State Fault Refusal :=
  .next (s.issue systemOnly [a] (fun s =>
    let k := (s.th.sreg a).toNat
    let plot := s.plotOf s.cur
    match (s.plot plot).lends.find? (fun l => l.cluster == k) with
    | none => s.trapNow cRange
    | some l =>
      if l.back then (s.modPlot plot (fun p => { p with lends := p.lends.filter (fun x => x.cluster != k) })).advance
      else if l.recalling.isSome then s
      else
        let s1 := s.modPlot plot (fun p =>
          { p with lends := p.lends.map (fun x => if x.cluster = k then { x with recalling := some (s.cycle + l.limit) } else x) })
        ((s.launchesOn k).foldl (fun s' q => s'.haltLaunch l.borrower q) s1).raiseAsync l.borrower 0x38 (BitVec.ofNat 64 k)))

/-- End a group that was not saved in time: the borrower's fault log takes a record, whose cause the spec leaves open. -/
def State.endUnsaved (s : State) (c g : Nat) : State :=
  let key := groupKey c g
  match (s.core c).block with
  | none => s
  | some b =>
    if b.gone.contains g then s
    else
      let r := s.freeBytes 1
      let t := s.thread key
      let pt : PendingTrap := { cause := r.2.getD 0 0, pc := t.unspec.pc }
      (r.1.faultLog b.launch.plot (trapRecord t (s.topEntries key) pt g (b.launch.seq.toNat * 2 ^ 32 + b.slot))).gendOf key

/-- A sprout that has not retired its `exit` at the deadline is abandoned (R226). -/
def State.abandonLate (s : State) (c : Nat) : State :=
  (List.range 16).foldl (fun s' i =>
    let k := groupKey c (16 + i)
    if (fget? s'.threads k).isSome && !(s'.thread k).released then s'.abandon k cTime else s') s

/-- What the deadline ends on a core: the sprouts that still run, and the groups of its block that were not saved. -/
def State.endLate (s : State) (c : Nat) : State :=
  (List.range ((s.core c).block.elim 0 (·.launch.groups))).foldl (fun s' g => s'.endUnsaved c g) (s.abandonLate c)

/-- A block has a group that neither exited nor ended. -/
def Block.lives (b : Block) : Bool := decide (b.gone.length < b.launch.groups)

/-- RECALL_DEADLINE (R329): the deadline of a recall has passed; groups on the cluster that have not drained are ended, and
its sprouts abandoned, those of blocks halted behind another as well. -/
def recallDeadlineStep (s : State) : Option State :=
  match (s.plot s.subj.ag).lends.find? (fun l => !l.back && l.recalling.elim false (fun t => decide (t ≤ s.cycle))) with
  | none => none
  | some l =>
    let tiles := clusterTiles l.cluster
    let late := tiles.filter (fun c => !s.coreDrained c && (s.core c).block.elim false Block.lives)
    let behind := tiles.flatMap (fun c => ((s.core c).parked.filter (fun q => !q.drained && q.block.lives)).map (fun q => (c, q)))
    if late.isEmpty && behind.isEmpty then none
    else some (behind.foldl (fun s' x => s'.inPlace x.1 x.2 (fun s2 => s2.endLate x.1)) (late.foldl State.endLate s))

def execRecallDeadline (s : State) : Host.Outcome State Fault Refusal := .next ((recallDeadlineStep s).getD s)

/-! ### Model keys (R331) -/

/-- KEY.SLOTS. -/
def Plot.keySlots (p : Plot) : BitVec 16 := p.keys.foldl (fun n k => n ||| BitVec.ofNat 16 (2 ^ k.1)) 0

/-- The outcome of a key transfer record: its status, and the slot's new contents when it is 0. -/
def State.keyRecord (s : State) (plot slot : Nat) (bs : List Byte) : Nat × Option KeySlot :=
  let session := leNat (bs.take 4)
  let kek := (List.range 32).map (fun i => (Config.transferKey session i).toNat)
  match keyUnwrap kek (((bs.drop 8).take 40).map (·.toNat)) with
  | none => (1, none)
  | some k =>
    if !s.mgr.sessions.contains session then (2, none)
    else if decide ((bs.getD 4 0).toNat ≠ plot) || decide ((bs.getD 5 0).toNat ≠ slot) then (3, none)
    else (0, some ⟨k.map (fun b => BitVec.ofNat 8 b), session⟩)

def execKeyload (a b : SReg) (s : State) : Host.Outcome State Fault Refusal :=
  .next (s.issue systemOnly [a, b] (fun s =>
    let slot := (s.th.sreg a).toNat
    let va := s.th.sreg b
    let plot := s.plotOf s.cur
    if 16 ≤ slot then s.trapNow cRange
    else if va = 0 then (s.modPlot plot (fun p => { p with keys := ferase p.keys slot })).advance
    else
      match s.checkAccess s.cur .load va 64 with
      | .trap c => s.trapVa c va.toNat
      | .wait => s
      | .hold => s
      | .ok x =>
        if !s.th.drainedAll then s
        else s.askHome (.home s.cur) s.cur x.pa (fun s =>
        if s.mem.isPoison x.pa then (s.noticePoison x.pa).trapVa cPoison va.toNat
        else if !x.wr then s.trapVa cPage va.toNat
        else
          let a := s.admitWrite (.area s.cur) x.pa
          if !a.2 then a.1
          else
          let s := a.1
          let r := s.keyRecord plot slot (s.mem.bytes x.pa 64)
          let s1 := (s.land s.cur (x.pa + 7) x.obj false [BitVec.ofNat 8 r.1]).fill s.cur va.toNat (.ok x)
          (match r.2 with
            | some k => s1.modPlot plot (fun p => { p with keys := fset p.keys slot k })
            | none => s1).advance)))

/-- Change a virtual function of a plot. -/
def State.modVf (s : State) (plot vf : Nat) (f : Vf → Vf) : State :=
  s.modPlot plot (fun p => { p with vfs := fset p.vfs vf (f (fgetD p.vfs vf {})) })

/-- The key slots of a plot that a session filled are emptied, with cause 0x37. -/
def State.emptySlots (s : State) (plot session : Nat) : State :=
  let hit := (s.plot plot).keys.filter (fun k => k.2.session == session)
  if hit.isEmpty then s
  else
    let bits : Word := hit.foldl (fun n k => n ||| bit64 k.1) 0
    (s.modPlot plot (fun p => { p with keys := p.keys.filter (fun k => k.2.session != session) })).raiseAsync plot 0x37 bits

/-- Interfaces that a session locked go to ERROR when it ends (R406). -/
def Vf.sessionGone (v : Vf) (session : Nat) : Vf := if v.session = some session then { v with tdisp := .error, session := none } else v

/-- SESSION_END (R331, R406): a live session ends. -/
def sessionEndStep (s : State) : Option State :=
  let n := s.subj.n
  if !s.mgr.sessions.contains n then none
  else
    let s1 := { s with mgr := { s.mgr with sessions := s.mgr.sessions.filter (· ≠ n) } }
    some (s.plots.foldl (fun s' p =>
      (s'.emptySlots p.1 n).modPlot p.1 (fun p => { p with vfs := p.vfs.map (fun v => (v.1, v.2.sessionGone n)) })) s1)

def execSessionEnd (s : State) : Host.Outcome State Fault Refusal := .next ((sessionEndStep s).getD s)

/-! ### wfe, iret, interrupt entry (R311, R333) -/

/-- Pending causes that are enabled. -/
def SysRegs.due (r : SysRegs) : BitVec 32 := r.ipend &&& r.ien

def execWfe (s : State) : Host.Outcome State Fault Refusal :=
  .next (s.issue systemAny [] (fun s => if s.th.sys.due = 0 then s.setWait .event else (s.setWait .none).advance))

def execIret (s : State) : Host.Outcome State Fault Refusal :=
  .next (s.issue systemOnly [] (fun s =>
    if s.th.sys.ipc.toNat % 4 ≠ 0 then s.trapNow cMisaligned
    else (s.modThread s.cur (fun t => { t with counters := bumpMap t.counters 0 1 })).returnInterrupt s.cur))

/-- The lowest set bit of a mask. -/
def lowestBit (m : BitVec 32) : Option Nat := (List.range 32).find? (fun i => m.getLsbD i)

/-- INTERRUPT_ENTRY (R311): a system core with interrupts enabled takes its lowest pending enabled cause, at an instruction
boundary. -/
def interruptEntryStep (s : State) : Option State :=
  let key := s.subj.ag
  let t := s.thread key
  if !isSysKey key || (fget? s.threads key).isNone || !t.sys.smode.getLsbD 1 || decide (t.wait ≠ .none) || t.win.any (·.ref) || decide (t.status ≠ .running)
  then none
  else
    (lowestBit t.sys.due).map (fun i =>
      let v := fgetD t.sys.vals i 0
      let s1 := s.modThread key (fun t =>
        { t with sys := { t.sys with ipend := t.sys.ipend &&& ~~~(BitVec.ofNat 32 (2 ^ i)), vals := ferase t.sys.vals i } })
      (s1.unspec key).enterInterrupt key t.unspec.pc (BitVec.ofNat 8 (0x30 + i)) v)

def execInterruptEntry (s : State) : Host.Outcome State Fault Refusal := .next ((interruptEntryStep s).getD s)

/-! ### Time slices (R325–R327) -/

/-- A group keeps its function at work: it has not ended, and is not halted in `sysc`. -/
def Thread.atWork (t : Thread) : Bool :=
  match t.status with
  | .exited => false
  | .ended => false
  | _ =>
    match t.wait with
    | .syscPort => false
    | .syscSent _ => false
    | _ => true

def groupsAtWork (b : Block) (ts : FMap Thread) (c : Nat) : Bool :=
  (List.range b.launch.groups).any (fun g => !b.gone.contains g && (fgetD ts (groupKey c g) {}).atWork)

/-- A virtual function has work (R325). -/
def State.vfWork (s : State) (plot vf : Nat) : Bool :=
  let p := s.plot plot
  (p.waiting ++ p.spilled).any (fun l => l.vf == vf)
    || s.cores.any (fun c =>
      c.2.block.elim false (fun b => b.launch.plot == plot && b.launch.vf == vf && groupsAtWork b s.threads c.1)
        || c.2.parked.any (fun q => q.block.launch.plot == plot && q.block.launch.vf == vf && groupsAtWork q.block q.threads c.1))

/-- The function with the least served over weight; ties to the lowest index. -/
def leastServed (xs : List (Nat × Nat × Nat)) : Option Nat :=
  match xs with
  | [] => none
  | x :: rest => some (rest.foldl (fun (b : Nat × Nat × Nat) y => if y.2.1 * b.2.2 < b.2.1 * y.2.2 then y else b) x).1

/-- What a function has been served by now: while no slice runs, nobody is served. -/
def Plot.servedNow (p : Plot) (vf cycle : Nat) : Nat :=
  satAdd63 (fgetD p.vfs vf {}).served (if vf = p.vfCur ∧ p.slicing then cycle - p.sliceStart else 0)

/-- The function that runs next (R326). -/
def State.nextVf (s : State) (plot : Nat) : Option Nat :=
  let p := s.plot plot
  let work := (List.range p.vfCount).filter (s.vfWork plot)
  let w (i : Nat) : Nat := (fgetD p.vfs i {}).weight.toNat
  let heavy := work.filter (fun i => decide (1 ≤ w i))
  match leastServed (heavy.map (fun i => (i, p.servedNow i s.cycle, w i))) with
  | some i => some i
  | none => leastServed (work.map (fun i => (i, p.servedNow i s.cycle, 1)))

/-- Cores whose block belongs to a function of a plot. -/
def State.vfCores (s : State) (plot vf : Nat) : List Nat :=
  s.cores.filterMap (fun c => c.2.block.bind (fun b => if b.launch.plot = plot ∧ b.launch.vf = vf then some c.1 else none))

/-- Resume the threads of a core that the end of a slice or a debug stop halted. -/
def State.thawCore (s : State) (c : Nat) : State :=
  { s with threads := s.threads.map (fun t => if t.1 / 32 = c then (t.1, { t.2 with frozen := false }) else t) }

/-- The oldest of some launches first. -/
def Plot.bySeq (p : Plot) (ls : List Launch) : List Launch := ls.mergeSort (fun a b => decide (p.age b ≤ p.age a))

/-- A function's hardware entries go to its part of the overflow area, where all its records then stand in sequence order; those
for which the part has no room stay with the launch unit (DESIGN CHOICE, log entry 38). -/
def State.storeQueue (s : State) (plot old : Nat) : State :=
  let p := s.plot plot
  let held := p.spilled.filter (fun l => l.vf == old)
  let outs := (p.bySeq (p.waiting.filter (fun l => l.vf == old))).take (p.ovfCap - held.length)
  if outs.isEmpty then s
  else
    (p.bySeq (outs ++ held.map (s.respilled plot))).foldl (fun s' l => s'.spill plot l)
      (s.modPlot plot (fun p =>
        { p with
          waiting := p.waiting.filter (fun l => !outs.any (fun x => x.same l))
          spilled := p.spilled.filter (fun l => l.vf != old) }))

/-- A function's oldest records of each level return from its part of the area, in sequence order. -/
def State.loadQueue (s : State) (plot next : Nat) : State :=
  let p := s.plot plot
  let ins := (List.range 8).flatMap (fun k =>
    (p.bySeq (p.spilled.filter (fun l => l.vf == next && l.level == k))).take (64 - p.levelCount next k))
  s.modPlot plot (fun p =>
    { p with
      spilled := p.spilled.filter (fun l => !ins.any (fun x => x.same l))
      waiting := p.waiting ++ (p.bySeq ins).map (s.respilled plot) })

/-- At a slice change the launch unit swaps the functions' hardware entries (R325). -/
def State.swapQueues (s : State) (plot old next : Nat) : State := (s.storeQueue plot old).loadQueue plot next

/-- A block of the running function halted behind another can take its core again: the block there has settled. -/
def State.canReturn (s : State) (plot c : Nat) : Bool :=
  let vf := (s.plot plot).vfCur
  (s.core c).parked.any (fun q => q.block.launch.plot == plot && q.block.launch.vf == vf && !q.block.leaving)
    && (s.core c).block.elim true (fun b => b.launch.vf != vf && !b.leaving && s.settled c)

/-- It takes its core, and goes on unless the plot is stopped. -/
def State.returnBlock (s : State) (plot c : Nat) : State :=
  let s1 := s.unpark c plot (s.plot plot).vfCur
  if (s.plot plot).stopped then s1 else s1.thawCore c

/-- Start a slice of a function: the outgoing one halts in place, blocks of the incoming one return to their cores. -/
def State.startSlice (s : State) (plot next : Nat) (notify : Bool) : State :=
  let p := s.plot plot
  let old := p.vfCur
  let s1 := s.modVf plot old (fun v => { v with served := p.servedNow old s.cycle })
  let s2 :=
    if next = old then s1
    else
      let a := (s1.vfCores plot old).foldl (fun s' c => s'.freezeCore c) s1
      let b := (a.swapQueues plot old next).modPlot plot (fun p => { p with vfCur := next })
      let c := (b.cores.map (·.1)).foldl (fun s' k => if s'.canReturn plot k then s'.returnBlock plot k else s') b
      if p.stopped then c else (c.vfCores plot next).foldl (fun s' k => s'.thawCore k) c
  let s3 := s2.modPlot plot (fun p =>
    { p with slicing := true, sliceStart := s.cycle, sliceEnd := s.cycle + (fgetD p.vfs next {}).effq.toNat * 1400 })
  if notify || decide (next ≠ old) then s3.raiseAsync plot 0x33 (BitVec.ofNat 64 next) else s3

/-- A slice ends, and no function has work for another (R326). -/
def State.closeSlice (s : State) (plot : Nat) : State :=
  let p := s.plot plot
  (s.modVf plot p.vfCur (fun v => { v with served := p.servedNow p.vfCur s.cycle })).modPlot plot (fun p => { p with slicing := false })

/-- SLICE_END (R326): the slice has run its length, or its function has no work; the next begins with the work of some function.
Until then, blocks of the function whose cores had still to settle return to them (R327). -/
def sliceEndStep (s : State) : Option State :=
  let plot := s.subj.ag
  let p := s.plot plot
  if (fget? s.plots plot).isNone || p.stopped then none
  else if p.slicing && decide (s.cycle < p.sliceEnd) && s.vfWork plot p.vfCur then
    ((s.cores.map (·.1)).find? (s.canReturn plot)).map (s.returnBlock plot)
  else
    match s.nextVf plot with
    | some n => some (s.startSlice plot n false)
    | none => if p.slicing then some (s.closeSlice plot) else none

def execSliceEnd (s : State) : Host.Outcome State Fault Refusal := .next ((sliceEndStep s).getD s)

/-! ### Poison in a page of two plots (R321) -/

/-- Words of a page table that are not 0. -/
def Store.tableWords (m : Store) (tbl : Nat) : List Nat :=
  ((m.cells.filter (fun c => decide (tbl ≤ c.1 ∧ c.1 < tbl + 4096))).map (fun c => wordOf c.1)).eraseDups

/-- The present leaves under a table that map a page, and the log2 of their sizes. -/
def Store.leavesOf (m : Store) (page : Nat) : Nat → Nat → List (Nat × Nat)
  | level, tbl =>
    let leaf (a : Nat) : Option (Nat × Nat) :=
      let n := (m.word a).toNat
      let b := pageBits (n / 256 % 8)
      let f := n / 4096 % 2 ^ 40 * 4096 / 2 ^ b * 2 ^ b
      if n % 2 = 1 ∧ n / 2 ^ 63 % 2 = 1 ∧ f ≤ page ∧ page < f + 2 ^ b then some (a, b) else none
    (m.tableWords tbl).filterMap leaf ++
      (match level with
        | 0 => []
        | l + 1 =>
          ((m.tableWords tbl).filter (fun a => (m.word a).getLsbD 0 && !(m.word a).getLsbD 63)).flatMap (fun a =>
            Store.leavesOf m page l ((m.word a).toNat / 4096 % 2 ^ 40 * 4096)))

/-- Every leaf of a plot that maps a page. -/
def State.plotLeaves (s : State) (p : Plot) (page : Nat) : List (Nat × Nat) :=
  ((p.sysRoot.toNat :: (List.range p.vfCount).map (fun v => p.rootOf v)).flatMap (s.mem.leavesOf page 4)).eraseDups

/-- Write a leaf, in the memory of the plot that holds it. -/
def State.setLeaf (s : State) (a : Nat) (f : Nat → Nat) : State :=
  s.put ((s.plots.find? (fun p => inRanges p.2.ranges a 8)).elim 48 (·.1)) a (leBytes 8 (f (s.mem.word a).toNat))

/-- The translations of a frame leave every TLB and translation register of a plot. -/
def State.shootFrame (s : State) (plot page : Nat) : State :=
  let hit (e : TlbEntry) : Bool := decide (e.frame ≤ page ∧ page < e.frame + 2 ^ pageBits e.size)
  let cut (x : Translation) : Translation :=
    if x.limit ≠ 0 ∧ x.frame.toNat < page + 4096 ∧ page < x.frame.toNat + x.limit.toNat then { x with limit := 0 } else x
  let go (t : Nat × Thread) : Nat × Thread :=
    if t.2.plot = plot then (t.1, t.2.mapBts cut) else t
  let off (q : Parked) : Parked := { q with threads := q.threads.map go }
  let s1 := (s.tlbPlaces plot true).foldl (fun s' c => s'.modCore c (fun x => { x with tlb := x.tlb.filter (fun e => !hit e) })) s
  { s1 with
    threads := s1.threads.map go
    cores := s1.cores.map (fun c => (c.1, { c.2 with parked := c.2.parked.map off }))
    plots := s1.plots.map (fun p => (p.1, { p.2 with recalled := p.2.recalled.map off })) }

/-- Walks that wait on leaves read them again once the manager has written them. -/
def State.readAgain (s : State) (leaves : List (Nat × Nat)) : State :=
  s.withMem { s.mem with hist := s.mem.hist.map (fun w =>
    if leaves.any (fun x => x.1 == w.1) then (w.1, { w.2 with reread := w.2.past.length }) else w) }

/-- SHARED_PAGE_POISON (R321): the manager holds the translations of a page shared by two plots with an error in it; then
(flag) it maps a fresh frame, filled from the recorded source, or maps nothing. -/
def sharedPagePoisonStep (s : State) : Option State :=
  let page := s.subj.n / 4096 * 4096
  let ps := (s.plots.filter (fun p => inRanges p.2.shared page 4096)).map (·.2)
  let leaves := ps.flatMap (fun p => s.plotLeaves p page)
  if ps.isEmpty || leaves.isEmpty || !s.mem.poison.any (fun l => decide (page ≤ l ∧ l < page + 4096)) then none
  else if !s.subj.flag then
    let s1 := leaves.foldl (fun s' x => s'.setLeaf x.1 (fun n => n ||| 0x40)) s
    some (ps.foldl (fun s' p => s'.shootFrame p.id page) s1)
  else if !leaves.all (fun x => (s.mem.word x.1).getLsbD 6) then none
  else
    match fget? s.board.restorable page with
    | some src =>
      let size := 2 ^ ((leaves.head?.map (·.2)).getD 12)
      let fresh := s.subj.value.toNat / size * size
      if !ps.all (fun p => inRanges p.shared fresh size) then none
      else
        let s1 := s.withMem (s.mem.write fresh (s.mem.bytes (src / size * size) size))
        some ((leaves.foldl (fun s' x => s'.setLeaf x.1 (fun n => n / 2 ^ 52 * 2 ^ 52 + fresh + (n % 4096 &&& 0xFBF))) s1).readAgain leaves)
    | none => some ((leaves.foldl (fun s' x => s'.setLeaf x.1 (fun n => n &&& (2 ^ 64 - 2 - 0x40))) s).readAgain leaves)

def execSharedPagePoison (s : State) : Host.Outcome State Fault Refusal := .next ((sharedPagePoisonStep s).getD s)

end Sys2Proof.Machine
end

