-- ==== Sys2Proof/Machine/Debug.lean ====
section
/-! DEFINITION. Tile stamp records (R373), `trig` and `cnt` (R367, R372), the sampler (R369), stops and Ramroino images
(R357–R361), the reference (R346), ratios and refresh (R347, R348), errors of memory and of the cores (R417, R418), the
power-up sequence (R374–R376, R414), alerts and the fatal dump (R377, R415). -/

namespace Sys2Proof.Machine

open Sys2Proof

/-! ### tile.open, tile.close (R373) -/

/-- Issue: the checks of R245 items 1 and 2; on a system core nothing further happens. -/
def State.tileIssue (s : State) (t : TileReg) (names : List SReg) (body : State → State) : State :=
  s.issue notSprout names (fun s =>
    if isSysKey s.cur then s.advance
    else if (s.launchOf s.cur).tiles ≤ t.val then s.trapNow cIllegal
    else body s)

def execTileOpen (t : TileReg) (a : SReg) (s : State) : Host.Outcome State Fault Refusal :=
  .next (s.tileIssue t [a] (fun s =>
    (s.modBlock (coreOfKey s.cur) (fun b =>
      { b with recs := fset b.recs t.val { label := s.th.sreg a, opened := s.cycle, group := ctxOfKey s.cur, place := coreOfKey s.cur } })).advance))

/-- The 64 bytes of Table 11.9. -/
def TileRec.bytes (r : TileRec) (tile close : Nat) : List Byte :=
  leBytes 8 r.label.toNat ++ leBytes 8 r.opened ++ leBytes 8 r.inputs ++ leBytes 8 r.cstart ++ leBytes 8 r.cend ++ leBytes 8 r.copyOut
    ++ leBytes 8 close ++ leBytes 8 (tile + r.group * 2 ^ 4 + tileY r.place * 2 ^ 8 + tileX r.place * 2 ^ 13 + r.ops * 2 ^ 32)

/-- A record goes to the tile-record ring, or is counted as lost. -/
def State.putRec (s : State) (plot : Nat) (bytes : List Byte) : State :=
  let r := (s.plot plot).trec
  if r.room then
    (s.put plot (r.at 64) bytes).modPlot plot (fun p => { p with trec := { p.trec with head := p.trec.head + 1 } })
  else s.modPlot plot (fun p => { p with trec := { p.trec with lost := if p.trec.lost = BitVec.allOnes 32 then p.trec.lost else p.trec.lost + 1 } })

def execTileClose (t : TileReg) (s : State) : Host.Outcome State Fault Refusal :=
  .next (s.tileIssue t [] (fun s =>
    let c := coreOfKey s.cur
    let mark := match s.th.wait with
      | .closing m => m
      | _ => (s.core c).nextOp
    if (s.core c).mops.any (fun o => o.tile == t.val && decide (o.id < mark)) then s.setWait (.closing mark)
    else
      let s1 := s.setWait .none
      match (s.core c).block.bind (fun b => fget? b.recs t.val) with
      | none => s1.advance
      | some r =>
        ((s1.putRec (s.plotOf s.cur) (r.bytes t.val s.cycle)).modBlock c (fun b => { b with recs := ferase b.recs t.val })).advance))

/-! ### trig, cnt (R367, R372) -/

def execTrig (n : Fin 16) (s : State) : Host.Outcome State Fault Refusal :=
  .next (s.issue notSprout [] (fun s =>
    let plot := s.plotOf s.cur
    (if trigField (fgetD (s.plot plot).trig n.val 0) 0 4 = 1 then s.fireTrig plot n.val else s).advance))

/-- What `cnt` reads where a counter is not available. -/
def noCounter : Word := BitVec.ofNat 64 (2 ^ 63)

/-- A count of a block: of its work, or of what its core's accesses met in the L1 and its TLB (log entry 6). -/
def State.blockCount (s : State) (b : Block) (i : Nat) : Nat :=
  if 0x20 ≤ i then s.statSum (statB b.id i) else fgetD b.counters i 0

/-- The counts of a virtual function. -/
def State.vfCount (s : State) (plot vf i : Nat) : Nat :=
  if i = 0x40 then (s.plot plot).servedNow vf s.cycle else (fgetD (s.plot plot).vfs vf {}).faults

/-- The counter of an index (Table 17.5), where the function of a group, or the one that a system core runs, has it (R368). -/
def State.counterOf (s : State) (key i : Nat) : Word :=
  let sys := isSysKey key
  let plot := s.plotOf key
  let vf := if sys then (s.plot plot).vfCur else (s.launchOf key).vf
  if (fgetD (s.plot plot).vfs vf {}).missing.contains i && (!sys || decide (0x40 ≤ i)) then noCounter
  else if sys && decide (1 ≤ i ∧ i ≤ 0x22) then noCounter
  else if i ≤ 4 then BitVec.ofNat 64 (fgetD (s.thread (s.countKey key)).counters i 0)
  else if (0x10 ≤ i ∧ i ≤ 0x13) ∨ (0x20 ≤ i ∧ i ≤ 0x22) then BitVec.ofNat 64 ((s.blockOf key).elim 0 (fun b => s.blockCount b i))
  else if 0x30 ≤ i ∧ i ≤ 0x38 then BitVec.ofNat 64 (s.statSum (statP plot i))
  else if i = 0x40 ∨ i = 0x41 then BitVec.ofNat 64 (s.vfCount plot vf i)
  else noCounter

def execCnt (d : SReg) (idx : BitVec 12) (s : State) : Host.Outcome State Fault Refusal :=
  .next (s.issue anyone [d] (fun s => s.finish d (s.counterOf s.cur idx.toNat)))

/-! ### Migration images of virtual functions (R368) -/

/-- The blocks of a virtual function, wherever they stand, with their threads. -/
def State.functionBlocks (s : State) (plot vf : Nat) : List (Block × FMap Thread) :=
  (s.cores.flatMap (fun c => c.2.block.toList.map (fun b => (b, s.threads.filter (fun t => decide (t.1 / 32 = c.1)))))
    ++ s.offCore.map (fun q => (q.block, q.threads))).filter (fun x => x.1.launch.plot == plot && x.1.launch.vf == vf)

def countersAt (m : FMap Nat) (is : List Nat) : FMap Nat := is.map (fun i => (i, fgetD m i 0))

/-- The indexes of a block's counters. -/
def blockIndexes : List Nat := [0x10, 0x11, 0x12, 0x13, 0x20, 0x21, 0x22]

/-- The counters of a function, as its migration image carries them. -/
def State.vfImage (s : State) (plot vf : Nat) : VfImage :=
  let bs := s.functionBlocks plot vf
  { groups := bs.flatMap (fun x => (x.2.filter (fun t => !isSproutKey t.1)).map (fun t => ((x.1.id, t.1), countersAt t.2.counters (List.range 5))))
    blocks := bs.map (fun x => (x.1.id, blockIndexes.map (fun i => (i, s.blockCount x.1 i))))
    own := [0x40, 0x41].map (fun i => (i, s.vfCount plot vf i)) }

def State.saveVf (s : State) (plot vf : Nat) : State :=
  { s with mgr := { s.mgr with images := fset s.mgr.images (64 * plot + vf) (s.vfImage plot vf) } }

/-- The indexes of a function's counters that an image lacks. -/
def VfImage.lacks (v : VfImage) : List Nat :=
  let has := v.groups.flatMap (fun g => g.2.map (·.1)) ++ v.blocks.flatMap (fun b => b.2.map (·.1)) ++ v.own.map (·.1)
  (List.range 5 ++ blockIndexes ++ [0x40, 0x41]).filter (fun i => !has.contains i)

/-- What has been counted for a block in the L1 of its core is set anew: it stands with core 0, where it counts as well. -/
def State.setBlockStats (s : State) (id : Nat) (m : FMap Nat) : State :=
  let clear (c : Core) : Core := { c with stats := c.stats.filter (fun x => !blockIndexes.any (fun i => statB id i == x.1)) }
  ({ s with cores := s.cores.map (fun c => (c.1, clear c.2)) } : State).modCore 0 (fun x =>
    m.foldl (fun x y => x.stat (statB id y.1) y.2) x)

/-- Restore a function's counters. An index that this package lacks is not kept, and reads as unavailable like every
unlisted one; an index that the image lacks does until the function's next launch starts. -/
def State.restoreVf (s : State) (plot vf : Nat) (v : VfImage) : State :=
  let s1 := v.groups.foldl (fun s' g => s'.modThreadOf g.1.1 g.1.2 (fun t => { t with counters := g.2.filter (fun x => decide (x.1 < 5)) })) s
  let s2 := v.blocks.foldl (fun s' b =>
    (s'.modBlockId b.1 (fun x => { x with counters := b.2.filter (fun y => decide (0x10 ≤ y.1 ∧ y.1 ≤ 0x13)) })).setBlockStats b.1
      (b.2.filter (fun y => decide (0x20 ≤ y.1 ∧ y.1 ≤ 0x22)))) s1
  s2.modPlot plot (fun p =>
    { p with vfs := fmod p.vfs vf (fun f =>
        { f with served := fgetD v.own 0x40 f.served, faults := fgetD v.own 0x41 f.faults, missing := v.lacks }) })

/-! A migration image enters as the payload of a board input (log entry 103): its numbers of 8 bytes each, every list after its
length. -/

def pairNumbers (m : FMap Nat) : List Nat := m.length :: m.flatMap (fun x => [x.1, x.2])

def VfImage.numbers (v : VfImage) : List Nat :=
  v.groups.length :: v.groups.flatMap (fun g => g.1.1 :: g.1.2 :: pairNumbers g.2)
    ++ v.blocks.length :: v.blocks.flatMap (fun b => b.1 :: pairNumbers b.2)
    ++ pairNumbers v.own

/-- Read n items, each by the same reader. -/
def readMany {α : Type} (one : List Nat → α × List Nat) : Nat → List Nat → List α × List Nat
  | 0, xs => ([], xs)
  | n + 1, xs =>
    let r := one xs
    let q := readMany one n r.2
    (r.1 :: q.1, q.2)

/-- Read a list after its length; a list is no longer than what is left of the payload. -/
def readList {α : Type} (one : List Nat → α × List Nat) (xs : List Nat) : List α × List Nat :=
  readMany one (min (xs.headD 0) xs.length) (xs.drop 1)

def readPair (xs : List Nat) : (Nat × Nat) × List Nat := ((xs.getD 0 0, xs.getD 1 0), xs.drop 2)

/-- The image that some numbers stand for. -/
def VfImage.ofNumbers (xs : List Nat) : VfImage :=
  let g := readList (fun ys => let r := readList readPair (ys.drop 2); (((ys.getD 0 0, ys.getD 1 0), r.1), r.2)) xs
  let b := readList (fun ys => let r := readList readPair (ys.drop 1); ((ys.getD 0 0, r.1), r.2)) g.2
  { groups := g.1, blocks := b.1, own := (readList readPair b.2).1 }

/-- The numbers in a payload, and a payload of numbers. -/
def payloadNumbers (bs : List Byte) : List Nat := (List.range (bs.length / 8)).map (fun i => leNat ((bs.drop (8 * i)).take 8))
def numbersPayload (xs : List Nat) : List Byte := xs.flatMap (leBytes 8)

/-! ### The sampler (R301, R369) -/

/-- A thread whose fetch has stopped until a fault is served (R72). -/
def Thread.fetchHeld (t : Thread) : Bool := t.log.any (fun e => decide (e.target = .fetch) && !e.replayed)

/-- The address and state of an agent that executes (R301): the instruction that issued in this cycle; else its next one, with
what it waits for. -/
def Thread.sampled (t : Thread) (cycle : Nat) : BitVec 56 × Nat :=
  match t.issued with
  | some (c, pc) => if c = cycle then (pc, 0) else (t.pc, t.idle)
  | none => (t.pc, t.idle)

/-- A thread that executes instructions: running, or in its handler, and neither halted nor about to trap. -/
def Thread.live (t : Thread) : Bool :=
  (decide (t.status = .running) || decide (t.status = .handler)) && !t.frozen && t.trap.isNone && !t.fetchHeld

/-- A sample of an agent: its PC and state (R301). -/
def State.sample (s : State) (key : Nat) : Word :=
  let t := s.thread key
  let w (pc : BitVec 56) (st : Nat) : Word := BitVec.ofNat 64 (pc.toNat + st % 16 * 2 ^ 56)
  let x := t.sampled s.cycle
  match t.status with
  | .exited => w t.lastPc 8
  | .ended => w t.lastPc 8
  | .handler => w x.1 7
  | .halted => w t.pc 6
  | .stopped => w t.pc 6
  | .running =>
    if x.2 = 0 then w x.1 0
    else if t.frozen then w t.pc 6
    else if t.wait ≠ .none then w t.pc 4
    else if t.fetchHeld then w t.pc 5
    else w x.1 x.2

/-- One sample goes to the capture ring, or is counted as lost. -/
def State.putSample (s : State) (plot c x : Nat) : State :=
  let key := groupKey c x
  if (fget? s.threads key).isNone then s
  else
    let r := (s.plot plot).trc
    if r.room then
      (s.put plot (r.at 16) (leBytes 8 (s.sample key).toNat ++ leBytes 6 s.cycle ++ leBytes 2 (c + x * 2 ^ 11))).modPlot plot
        (fun p => { p with trc := { p.trc with head := p.trc.head + 1 } })
    else s.modPlot plot (fun p => { p with trc := { p.trc with lost := if p.trc.lost = BitVec.allOnes 32 then p.trc.lost else p.trc.lost + 1 } })

/-- SAMPLER_TICK (R369): CYCLE is a multiple of the period, and the tick of this cycle has not been taken. -/
def samplerTickStep (s : State) : Option State :=
  let plot := s.subj.ag
  let p := s.plot plot
  let k := p.smpPeriod.toNat
  if p.trcState ≠ 1 ∨ k = 0 ∨ s.cycle % 2 ^ k ≠ 0 ∨ p.smpLast = s.cycle then none
  else
    let s1 := s.modPlot plot (fun p => { p with smpLast := s.cycle })
    some (((s.usable plot).flatMap clusterTiles).foldl (fun s' c => s'.putSample plot c (s.cycle / 2 ^ k % 32)) s1)

def execSamplerTick (s : State) : Host.Outcome State Fault Refusal := .next ((samplerTickStep s).getD s)

/-! ### Plot stops (R357, R359) -/

/-- PLOT_STOP (R359): the stop cycle has come, or a trigger, breakpoint or comparator asked for a stop. -/
def plotStopStep (s : State) : Option State :=
  let plot := s.subj.ag
  let p := s.plot plot
  if (fget? s.plots plot).isNone || !(p.stopNow || decide (p.stopAt.toNat ≤ s.cycle)) then none
  else
    let s1 := s.modPlot plot (fun p => { p with stopped := true, stopNow := false, resume := false, stopAt := BitVec.allOnes 64 })
    some (((s.blocksOf plot).foldl (fun s' x => s'.freezeCore x.1) s1).raiseAsync plot 0x3A (BitVec.ofNat 64 s.cycle))

def execPlotStop (s : State) : Host.Outcome State Fault Refusal := .next ((plotStopStep s).getD s)

/-- Everything a plot stop halted resumes, in the cycle after the `sset DBG.RUN` (R359): the running function's cores, but for
those that a recall halts. -/
def plotRunStep (s : State) : Option State :=
  let plot := s.subj.ag
  let p := s.plot plot
  if !p.resume then none
  else
    let s1 := s.modPlot plot (fun p => { p with stopped := false, resume := false })
    some (((s1.vfCores plot p.vfCur).filter (fun c => !(s1.core c).block.any (·.leaving))).foldl (fun s' c => s'.thawCore c) s1)

/-! ### Package stops and images (R358, R360, R361) -/

/-- What a restore finds in an image whose keys the present boot nonce does not derive (R361): ciphertext under other keys. -/
opaque Config.garbled : List Byte → List Byte → Mach

/-- The lines that the slices hold, which an image carries. -/
def State.sliceLines (s : State) : FMap (List Byte) := s.l2.map (fun x => (x.1, s.mem.bytes x.1 256))

/-- The state that an image holds: neither keys nor the DRAM's bytes, which it holds by reference, nor what comes from outside,
nor the stop that has come. -/
def State.imageMach (s : State) : Mach :=
  { s.toMach with
    mem := { s.mem with cells := [] }
    inputs := [], stopped := false, pkgStopAt := BitVec.allOnes 64, stopReq := none, safeAfterStop := none
    mgr := { s.mgr with identityKey := [] }
    plots := s.plots.map (fun p => (p.1, { p.2 with keys := [] }))
    cores := s.cores.map (fun c => (c.1, { c.2 with eops := c.2.eops.map (fun o => { o with key := none }) })) }

/-- The sections of an image: die, unit kind and length (R360); an image is at most 8 GiB. -/
def imageSections : List (Nat × Nat × Nat) :=
  (List.range 8).flatMap (fun d => (List.range 11).map (fun k => (d, k + 1, Config.imagePages d (k + 1) % 23000)))

/-- The section table, from a section's offset on. -/
def sectionTable : List (Nat × Nat × Nat) → Nat → List Byte
  | [], _ => []
  | (d, k, n) :: xs, at_ => leBytes 1 d ++ leBytes 1 k ++ leBytes 2 0 ++ leBytes 4 n ++ leBytes 8 at_ ++ sectionTable xs (at_ + n)

/-- The header of an image (Table 17.3), without its section table. -/
def imageHeader (cycle sections : Nat) (digest : List Byte) : List Byte :=
  leBytes 8 0x4F52494F4E4D4152 ++ leBytes 4 1 ++ leBytes 4 sections ++ leBytes 8 cycle ++ (digest ++ List.replicate 32 0).take 32
    ++ leBytes 8 0

/-- Nothing of a plot runs: the package is stopped, or in the safe state (R358, R376). -/
def State.idle (s : State) : Bool := s.stopped || decide (s.boot = .safe)

/-- Enter the safe state (R376). -/
def State.enterSafe (s : State) (code : BitVec 32) : State := { s with boot := .safe, diag := { s.diag with state := code } }

/-- The image's bytes go to the region that the configuration image reserves. A section is the ciphertext of flip-flops and
arrays, whose order the spec does not give: its bytes are free. -/
def State.writeImage (s : State) (base : Nat) : State :=
  let head := imageHeader s.cycle imageSections.length s.mgr.cfgDigest ++ sectionTable imageSections 1
  let r := s.freeBytes (4096 * (imageSections.map (·.2.2)).sum)
  r.1.put 48 base ((head ++ List.replicate 4096 0).take 4096 ++ r.2)

/-- PACKAGE_STOP (R358): the package stop cycle, or a stop that the manager has asked for, has come. -/
def packageStopStep (s : State) : Option State :=
  let asked := s.stopReq.elim false (fun t => decide (t ≤ s.cycle))
  if s.stopped || !(asked || decide (s.pkgStopAt.toNat ≤ s.cycle)) then none
  else
    let img : Image :=
      { cycle := s.cycle, digest := s.mgr.cfgDigest, mach := s.imageMach, nonce := s.mgr.bootNonce, lines := s.sliceLines }
    let s1 : State := { s with image := some img, stopped := true, pkgStopAt := BitVec.allOnes 64, stopReq := none, safeAfterStop := none }
    let s2 := s.board.imageBase.elim s1 s1.writeImage
    some (match s.safeAfterStop with
      | some code => s2.enterSafe (BitVec.ofNat 32 code)
      | none => s2)

def execPackageStop (s : State) : Host.Outcome State Fault Refusal := .next ((packageStopStep s).getD s)

/-- A gate in replay mode starts at a cycle, unless it is replaying (R355). -/
def Gate.startReplay (g : Gate) (cycle : Nat) : Gate :=
  if g.mode ≠ 2 then { g with replaying := false }
  else if g.replaying then g
  else { g with replaying := true, lastCycle := cycle, admittedOnce := false, readAt := g.logHead, digestAt := g.outHead, broken := none }

def State.startReplays (s : State) (cycle : Nat) : State :=
  { s with gates := s.gates.map (fun g => (g.1, g.2.startReplay cycle)) }

/-- A sprout's time limit leaves out the cycles in which one of its operations is on the page-fault path, a queue entry at work
on an engine among them (R223), and those in which it is halted (R226). -/
def heldTick (eops : List EngineOp) (key : Nat) (t : Thread) : Thread :=
  if t.holding || t.frozen || decide (t.status = .halted) || eops.any (fun o => o.group == ctxOfKey key && o.hold.isSome) then
    { t with heldCycles := t.heldCycles + 1 }
  else t

/-- A cycle that a group spends with a source pending counts (Table 17.5, 0x003). -/
def waitTick (cycle : Nat) (t : Thread) : Thread :=
  if t.live && decide (t.wait = .none) && decide ((t.sampled cycle).2 = 2) then { t with counters := bumpMap t.counters 3 1 } else t

/-- A cycle passes, for every agent and for the sprouts of blocks halted off their cores. -/
def State.pass (s : State) : State :=
  let one (eops : List EngineOp) (x : Nat × Thread) : Nat × Thread :=
    (x.1, if isSproutKey x.1 then heldTick eops x.1 x.2 else if isSysKey x.1 then x.2 else waitTick s.cycle x.2)
  { s with
    cycle := s.cycle + 1
    threads := s.threads.map (fun x => one (s.core (coreOfKey x.1)).eops x)
    cores := s.cores.map (fun c => (c.1, { c.2 with parked := c.2.parked.map (fun q => { q with threads := q.threads.map (one q.eops) }) })) }

/-- PACKAGE_RELEASE (R358): the package continues with the cycle after the stop. -/
def packageReleaseStep (s : State) : Option State :=
  if s.stopped && decide (s.boot ≠ .safe) then some (({ s with stopped := false } : State).pass.startReplays (s.cycle + 1)) else none

def execPackageRelease (s : State) : Host.Outcome State Fault Refusal := .next ((packageReleaseStep s).getD s)

/-- A restored gate: the state of the image under the control block that the manager has set (R361). One in replay mode starts
anew. -/
def Gate.restored (now old : Gate) : Gate :=
  { now with replaying := false, port := old.port, flits := old.flits, flitSeq := old.flitSeq, outq := old.outq, lastAdmit := old.lastAdmit, admittedOnce := old.admittedOnce, held := old.held }

/-- What the scan engine writes back: the image's state with the lines of its slices over the present DRAM, where the keys
that the present nonce derives open it. -/
def State.scanned (s : State) (img : Image) : Mach :=
  if img.nonce = s.mgr.bootNonce then
    { img.mach with mem := { img.mach.mem with cells := img.lines.foldl (fun c l => cellsSet c l.1 l.2) s.mem.cells } }
  else { Config.garbled img.nonce s.mgr.bootNonce with mem := s.mem }

/-- IMAGE_RESTORE (R361): the image of a package stop is written back, or refused; the package goes on with CYCLE = C + 1. Of the
present package there stay the gates' control blocks, what identifies it and its boot, and what comes from outside. -/
def imageRestoreStep (s : State) : Option State :=
  match s.image with
  | none => none
  | some img =>
    if !(decide (s.boot = .step 8) || decide (s.boot = .ready)) then none
    else if img.digest ≠ s.mgr.cfgDigest then some (s.enterSafe 3)
    else
      let old := s.scanned img
      let m : Mach :=
        { old with
          gates := s.gates.map (fun g => (g.1, g.2.restored (fgetD old.gates g.1 {})))
          mgr := { old.mgr with cfgDigest := s.mgr.cfgDigest, bootNonce := s.mgr.bootNonce, identityKey := s.mgr.identityKey }
          board := s.board, inputs := s.inputs, boot := .ready, stopped := false, agenda := s.agenda, round := [], subj := s.subj
          cycle := img.cycle }
      some (({ toMach := m, image := s.image } : State).pass.startReplays (img.cycle + 1))

def execImageRestore (s : State) : Host.Outcome State Fault Refusal := .next ((imageRestoreStep s).getD s)

/-! ### The reference (R345, R346) -/

def State.modGate (s : State) (g : Nat) (f : Gate → Gate) : State := { s with gates := fmod s.gates g f }
def State.gate (s : State) (g : Nat) : Gate := fgetD s.gates g {}

/-- A board input reaches gate 20, which in replay ignores it. The model's numbers of inputs: 0 boot nonce, 1 loss of
the reference, 2 its return, 3 an alert, 4 a reset request, 5 a migration image to be restored, 6 one to be taken. -/
def State.boardInput (s : State) (n : Nat) (payload : List Byte) (target : Nat := 0) : State :=
  if (s.gate 20).mode = 2 then s
  else s.modGate 20 (fun g => { g with port := g.port ++ [{ kind := 8, source := n, target := target, payload := payload }] })

/-- REFERENCE_LOSS (R346): a monitor declares loss; the holdover changes no cycle. -/
def execReferenceLoss (s : State) : Host.Outcome State Fault Refusal := .next (s.boardInput 1 [])

/-- REFERENCE_RETURN (R346). -/
def execReferenceReturn (s : State) : Host.Outcome State Fault Refusal := .next (s.boardInput 2 [])

/-- REFERENCE_HOLDOVER_TIMEOUT (R346): no return within 896 cycles of the loss; the stop comes at the next multiple of 14.
The code of the safe state that follows is free. -/
def referenceHoldoverTimeoutStep (s : State) : Option State :=
  match s.refLost with
  | none => none
  | some c =>
    if s.cycle ≤ c + 896 then none
    else
      let t := (c + 896) / 14 * 14 + 14
      some { s.drawn 1 with
        refLost := none
        stopReq := some (s.stopReq.elim t (min t))
        safeAfterStop := some (s.safeAfterStop.getD ((s.freeAt 0).toNat % 2 ^ 32)) }

def execReferenceHoldoverTimeout (s : State) : Host.Outcome State Fault Refusal := .next ((referenceHoldoverTimeoutStep s).getD s)

/-! ### Ratios and refresh (R347, R348) -/

/-- The plot that owns a cluster. -/
def State.ownerOf (s : State) (k : Nat) : Option Plot := (s.plots.find? (fun p => p.2.clusters.contains k)).map (·.2)

/-- A cluster in deterministic operation. -/
def State.deterministic (s : State) (k : Nat) : Bool :=
  (s.ownerOf k).elim false (·.det)
    || (clusterTiles k).any (fun c => ((s.core c).block.toList ++ (s.core c).parked.map (·.block)).any (fun b => b.launch.det))

/-- Set a ratio. -/
def State.setRatio (s : State) (k r : Nat) : State := { s with ratios := if r = 7 then ferase s.ratios k else fset s.ratios k r }

/-- CLUSTER_RATIO_CHANGE (R347): refused and logged in deterministic operation; applied when no block is placed. -/
def clusterRatioChangeStep (s : State) : Option State :=
  let k := s.subj.ag
  let r := s.subj.n
  if r < 5 ∨ 7 < r ∨ 160 ≤ k then none
  else if s.deterministic k then some (s.managerLog 3 k)
  else if (clusterTiles k).any (fun c => (s.core c).block.isSome) then none
  else some (s.setRatio k r)

def execClusterRatioChange (s : State) : Host.Outcome State Fault Refusal := .next ((clusterRatioChangeStep s).getD s)

/-- DRAM_REFRESH (R348): channel c starts a refresh at 5460 k + 341 (c mod 16), k ≥ 1, which lasts 490 cycles. -/
def dramRefreshStep (s : State) : Option State :=
  let c := s.subj.ag
  let t := refreshStart c s.cycle
  if 1280 ≤ c ∨ t < 5460 ∨ t + 490 ≤ s.cycle ∨ t + 490 ≤ fgetD s.refresh c 0 then none
  else some { s with refresh := fset s.refresh c (t + 490) }

def execDramRefresh (s : State) : Host.Outcome State Fault Refusal := .next ((dramRefreshStep s).getD s)

/-! ### Errors (R417, R418) -/

/-- SOFT_ERROR (R418): a scratchpad bank word, or an accumulator element, of a core becomes an uncorrectable error. -/
def softErrorStep (s : State) : Option State :=
  let c := s.subj.ag
  let i := s.subj.n
  if 1280 ≤ c ∨ 131072 ≤ i then none
  else if s.subj.flag then some (s.modCore c (fun x => { x with accBad := insNat x.accBad i }))
  else some (s.modCore c (fun x => { x with padBad := insNat x.padBad i }))

def execSoftError (s : State) : Host.Outcome State Fault Refusal := .next ((softErrorStep s).getD s)

/-- UNCORRECTABLE_LINE_ERROR (R417): a memory line acquires an error; the flag says that it is found at once. -/
def uncorrectableLineErrorStep (s : State) : Option State :=
  let l := lineOf s.subj.n
  if !(isDram l || isCxl l) || s.mem.isPoison l then none
  else
    let s1 := s.withMem { s.mem with poison := insNat s.mem.poison l }
    some (if s.subj.flag then s1.noticePoison l else s1)

def execUncorrectableLineError (s : State) : Host.Outcome State Fault Refusal := .next ((uncorrectableLineErrorStep s).getD s)

/-! ### Alerts and the fatal dump (R377, R415) -/

/-- POWER_THERMAL_ALERT (R415): the manager answers an alert that gate 20 admitted: it lowers the ratio of a cluster, or
for a deterministic plot asks for a package stop and the safe state (flag). -/
def powerThermalAlertStep (s : State) : Option State :=
  if s.mgr.alerts = 0 then none
  else
    let s1 : State := { s with mgr := { s.mgr with alerts := s.mgr.alerts - 1 } }
    let k := s.subj.ag
    if s.subj.flag then
      if (List.range 160).any s.deterministic then
        some { s1 with stopReq := some (match s.stopReq with | some t => min t s.cycle | none => s.cycle), safeAfterStop := some 2 }
      else none
    else if s.deterministic k || decide (s.subj.n < 5) || decide (fgetD s.ratios k 7 ≤ s.subj.n)
        || (clusterTiles k).any (fun c => (s.core c).block.isSome) then none
    else some (s1.setRatio k s.subj.n)

def execPowerThermalAlert (s : State) : Host.Outcome State Fault Refusal := .next ((powerThermalAlertStep s).getD s)

/-- What a dump holds (R377): the error logs; the head and tail of every gate; the counters of every group, block, plot and
virtual function; each die's state words, which are free; and the cycle of the error. -/
def State.dumpNumbers (s : State) : List Nat :=
  let pairs (l : List (Nat × Nat)) : List Nat := l.flatMap (fun r => [r.1, r.2])
  let known (plot vf i n : Nat) : Nat := if (fgetD (s.plot plot).vfs vf {}).missing.contains i then noCounter.toNat else n
  let ofBlock (b : Block) : List Nat := blockIndexes.map (fun i => known b.launch.plot b.launch.vf i (s.blockCount b i))
  pairs s.mgr.log ++ s.mgr.dieLogs.flatMap (fun d => d.1 :: pairs d.2)
    ++ s.gates.flatMap (fun g => [g.2.logHead.toNat, g.2.logTail.toNat, g.2.payHead.toNat, g.2.payTail.toNat, g.2.outHead.toNat, g.2.outTail.toNat])
    ++ s.threads.flatMap (fun t => (List.range 5).map (fun i => (s.counterOf t.1 i).toNat))
    ++ s.offCore.flatMap (fun q => q.threads.flatMap (fun t =>
      (List.range 5).map (fun i => known q.block.launch.plot q.block.launch.vf i (fgetD t.2.counters i 0))))
    ++ s.cores.flatMap (fun c => c.2.block.toList.flatMap ofBlock) ++ s.offCore.flatMap (fun q => ofBlock q.block)
    ++ s.plots.flatMap (fun p => (List.range 9).map (fun i => s.statSum (statP p.1 (0x30 + i))))
    ++ s.plots.flatMap (fun p => p.2.vfs.flatMap (fun v => [0x40, 0x41].map (fun i => known p.1 v.1 i (s.vfCount p.1 v.1 i))))
    ++ List.replicate 0x60 noCounter.toNat
    ++ (List.range 8).map (fun d => (s.freeAt d).toNat)
    ++ [s.cycle]

/-- The dump. -/
def State.dump (s : State) : List Byte := (List.range (Config.dumpLength s.dumpNumbers).toNat).map (Config.dumpByte s.dumpNumbers)

/-- FATAL_DUMP (R377): after a fatal error the manager writes a dump to the buffer that the window names, and enters the
safe state. The buffer lies in host memory, and is reached through gate 0 (R407). -/
def fatalDumpStep (s : State) : Option State :=
  if s.boot = .off then none
  else
    let bs := s.dump
    let s1 : State :=
      if s.diag.dumpBuf = 0 then { s with diag := { s.diag with dumpStatus := 3 } }
      else if s.diag.dumpBytes.toNat < bs.length then { s with diag := { s.diag with dumpStatus := 2 } }
      else
        let pa := 2 ^ 49 + s.diag.dumpBuf.toNat
        { (s.withMem (s.mem.write pa bs)).outbound 0 0 pa 48 bs with
          diag := { s.diag with dumpStatus := 1, dumpBytes := BitVec.ofNat 64 bs.length } }
    some (s1.enterSafe 2)

def execFatalDump (s : State) : Host.Outcome State Fault Refusal := .next ((fatalDumpStep s).getD s)

/-! ### Bring-up (R374, R375, R414) -/

/-- How far this package's clock is ahead of the leader's, by the exchange of R374: half the difference between the ways of
Sync and Delay_Req. -/
def ahead (syncSent syncGot delaySent delayGot : Nat) : Int := (((syncGot : Int) - syncSent) - ((delayGot : Int) - delaySent)) / 2

/-- The residual offset of a follower that releases reset on the reference edge nearest the leader's announced edge, once it has
every time of the exchange; positive when the follower is late. -/
def Exchange.residual (e : Exchange) : Option Int :=
  match e.syncSent, e.syncGot, e.delaySent, e.delayGot, e.release with
  | some t1, some t2, some t3, some t4, some r =>
    let t := (r : Int) + ahead t1 t2 t3 t4
    some ((t + 5000) / 10000 * 10000 - t)
  | _, _, _, _, _ => none

/-- Codes of what a Brixvex flit carries (log entry 102). -/
def flitWrite : Nat := 0
def flitSync : Nat := 1
def flitFollowUp : Nat := 2
def flitDelayReq : Nat := 3
def flitDelayResp : Nat := 4
def flitRelease : Nat := 5

/-- The text of a flit with its type, source, target and data, filled to 240 bytes; its tag fills it to 256. -/
def flitText (type source target : Nat) (data : List Byte) : List Byte :=
  (leBytes 1 type ++ leBytes 1 data.length ++ leBytes 4 source ++ leBytes 8 target ++ data ++ List.replicate 240 0).take 240

/-- A message of the exchange, with a time, leaves by the gate of a Brixvex port. -/
def State.alignSend (s : State) (gate type time : Nat) : State := s.outbound gate 6 0 48 (flitText type 0 0 (leBytes 8 time))

/-- The gates of the Brixvex ports. -/
def State.brixvexGates (s : State) : List Nat := (s.board.serdes.filter (fun m => decide (m.2 = .brixvex))).map (·.1 + 4)

def State.modExchange (s : State) (f : Exchange → Exchange) : State := { s with mgr := { s.mgr with exchange := f s.mgr.exchange } }

/-- A message of the exchange has been received at a time (R374): a follower keeps the times, and sends its request when the
leader has told its own; the leader answers a request. -/
def State.alignGot (s : State) (gate type time now : Nat) : State :=
  if type = flitSync then s.modExchange (fun e => { e with syncGot := some now })
  else if type = flitFollowUp then
    (s.modExchange (fun e => { e with syncSent := some time, delaySent := some now })).alignSend gate flitDelayReq 0
  else if type = flitDelayReq then (s.modExchange (fun e => { e with answers := e.answers + 1 })).alignSend gate flitDelayResp now
  else if type = flitDelayResp then s.modExchange (fun e => { e with delayGot := some time })
  else if type = flitRelease then s.modExchange (fun e => { e with release := some time })
  else s

/-- ALIGNMENT_EXCHANGE (R374, Table 20.2 step 7), at a time of the package's own reference edges: the leader sends its Sync with
the Follow_Up, and when it has answered a request it announces its release edge, which is that time; a follower that has every
time of the exchange takes its offset. Without the flag the exchange has failed: that is logged, and the package runs alone. -/
def alignmentExchangeStep (s : State) : Option State :=
  let now := s.subj.n
  let on7 (s : State) (ofs : Int) : State := { s with boot := .step 7, mgr := { s.mgr with alignOfs := BitVec.ofInt 32 ofs } }
  let all (s : State) (type : Nat) : State := s.brixvexGates.foldl (fun s' g => s'.alignSend g type now) s
  if s.boot ≠ .step 6 ∨ !s.board.peers then none
  else if !s.subj.flag then some (({ s with boot := .step 7 } : State).managerLog 4 0)
  else if !s.board.leader then s.mgr.exchange.residual.map (on7 s)
  else if !s.mgr.exchange.begun then some (all (all (s.modExchange (fun e => { e with begun := true })) flitSync) flitFollowUp)
  else if s.mgr.exchange.answers = 0 then none
  else some (on7 (all s flitRelease) 0)

def execAlignmentExchange (s : State) : Host.Outcome State Fault Refusal := .next ((alignmentExchangeStep s).getD s)

/-- A plot of the configuration image is started: its system core starts at IVEC in privileged mode with interrupts
disabled (R310). -/
def State.startPlot (s : State) (p : Plot) (ivec : BitVec 56) : State :=
  let s1 : State := { s with mgr := { s.mgr with starts := fset s.mgr.starts p.id (fgetD s.mgr.starts p.id 0 + 1) } }
  let p1 : Plot :=
    { p with sliceStart := s.cycle, sliceEnd := s.cycle + (fgetD p.vfs p.vfCur {}).effq.toNat * 1400, alignOfs := s.mgr.alignOfs }
  let count0 (c : Core) : Core := { c with stats := c.stats.filter (fun x => !(List.range 9).any (fun i => statP p.id (0x30 + i) == x.1)) }
  (({ s1 with cores := s1.cores.map (fun c => (c.1, count0 c.2)) } : State).setPlot p.id p1).setThread (sysKey p.id)
    { core := p.id, plot := p.id, pc := ivec, nextId := 1, sys := { ivec := ivec } }

/-- A failed self-test is mapped in the window; which units failed is free. -/
def State.failTest (s : State) : State :=
  let r := s.freeBytes 256
  (({ r.1 with diag := { r.1.diag with testMap := r.2.zipIdx.map (fun x => (x.2, x.1)) } } : State)).enterSafe 1

/-- The virtual functions that the image binds: at most 512 in all and 64 to a plot, each of them enabled when SR-IOV is
started; one that is bound to no plot is not enabled (R403, R404). -/
def BoardImage.hostFns (b : BoardImage) : FMap HostFn :=
  (b.functions.filter (fun f => decide (f.1 < 512 ∧ f.2.1 < 48 ∧ f.2.2 < 64))).map (fun f =>
    (f.1, { plot := f.2.1, vf := f.2.2, enable := true }))

/-- POWER_UP (R414): the next step of Table 20.2. The flag says that what the step tests is good. -/
def powerUpStep (s : State) : Option State :=
  let ok := s.subj.flag
  match s.boot with
  | .off => if ok then some { s with boot := .step 1 } else none
  | .step 1 => some (if Config.verified 0 || Config.verified 1 then { s with boot := .step 2 } else s.enterSafe 4)
  | .step 2 =>
    some (if Config.verified 2 && Config.verified 3 then
        { s with
          boot := .step 3
          mgr := { s.mgr with cfgDigest := (shake256 (s.board.bytes.map (·.toNat)) 32).map (fun b => BitVec.ofNat 8 b) } }
      else s.enterSafe 4)
  | .step 3 =>
    some (if ok then
        { s with
          boot := .step 4
          mgr := { s.mgr with identityKey := (shake256 (Config.pufSeed.map (·.toNat)) 32).map (fun b => BitVec.ofNat 8 b) } }
      else s.enterSafe 1)
  | .step 4 => some (if ok then { s with boot := .step 5 } else s.failTest)
  | .step 5 => if s.mgr.bootNonce.isEmpty then none else some { s with boot := .step 6 }
  | .step 6 => if s.board.peers then none else some { s with boot := .step 7 }
  | .step 7 => some (({ s with boot := .step 8, cycle := 0 } : State).startReplays 0)
  | .step 8 =>
    let s1 : State :=
      { s with
        boot := .ready
        mem := { s.mem with cxlSize := s.board.cxlSize, cxlHoles := s.board.cxlHoles }
        nvme := s.board.nvme
        functions := s.board.hostFns
        serdes := s.board.serdes }
    some (s.board.plots.foldl (fun s' x => s'.startPlot x.1 x.2) s1)
  | .step _ => none
  | .ready => none
  | .safe => none

def execPowerUp (s : State) : Host.Outcome State Fault Refusal := .next ((powerUpStep s).getD s)

end Sys2Proof.Machine
end

