-- ==== Sys2Proof/Machine/Gates.lean ====
section
/-! DEFINITION. Gates, their logs and replay (R349–R355), host requests through BAR2 and the TDISP states (R404–R408),
configuration requests and SPDM (R332, R414), CXL and Brixvex arrivals (R410, R412), and the storage engine (R413). -/

namespace Sys2Proof.Machine

open Sys2Proof

/-! ### Where an arrival goes (R353, R404) -/

/-- What a bus address names. -/
inductive Window where
  /-- a byte of BAR2, or of BAR0, of a virtual function of a plot -/
  | bar2 (plot vf off : Nat)
  | bar0 (plot vf off : Nat)
  /-- a byte of function 0's diagnostic window -/
  | diag (off : Nat)
  | nothing
  deriving DecidableEq, Repr

def Vf.window (v : Vf) (plot vf a : Nat) : Option Window :=
  if v.bus ≠ 0 ∧ 26 ≤ v.winBits ∧ v.winBits ≤ 36 ∧ v.bus ≤ a ∧ a < v.bus + 2 ^ v.winBits then some (.bar2 plot vf (a - v.bus))
  else if v.bar0 ≠ 0 ∧ v.bar0 ≤ a ∧ a < v.bar0 + 4096 then some (.bar0 plot vf (a - v.bar0))
  else none

/-- The PCIe link is up: bring-up has trained it (R414, step 9), or the device is in the safe state (R376). -/
def State.linkUp (s : State) : Bool := decide (s.boot = .ready) || decide (s.boot = .safe)

/-- What a bus address names: function 0's diagnostic window, or a BAR of an enabled virtual function, which in the safe state
does not answer (R376, R404). -/
def State.windowAt (s : State) (a : Nat) : Window :=
  if s.linkUp && decide (s.diag.bar0 ≠ 0 ∧ s.diag.bar0 ≤ a ∧ a < s.diag.bar0 + 0x10000) then .diag (a - s.diag.bar0)
  else if s.boot = .safe then .nothing
  else
    ((s.functions.filter (·.2.enable)).findSome? (fun f =>
      (fgetD (s.plot f.2.plot).vfs f.2.vf {}).window f.2.plot f.2.vf a)).getD .nothing

/-- The virtual function that a configuration request or a message addresses: its number is one less than the function number
in bits [63:12] of the target, and 0 there names function 0 (R403). -/
def State.fnOf (s : State) (a : Arrival) : Option HostFn :=
  if a.target / 4096 = 0 then none else fget? s.functions (a.target / 4096 - 1)

def SerdesMode.lanes : SerdesMode → Nat
  | .brixvex => 1
  | .one => 1
  | .two => 2
  | .four => 4

/-- The plot that a logical port serves: one, the lowest-numbered that is given it (R411). -/
def State.netOwner (s : State) (port : Nat) : Option Nat := (s.plots.find? (fun p => p.2.netPort == port)).map (·.1)

def State.netMode (s : State) (plot : Nat) : SerdesMode := fgetD s.serdes ((s.plot plot).netPort / 4) .one

/-- The gate of a plot's network port. -/
def State.netGate (s : State) (plot : Nat) : Option Nat :=
  let port := (s.plot plot).netPort
  if s.netOwner port = some plot ∧ port % 4 < (s.netMode plot).lanes then some (port / 4 + 4) else none

/-- The plot an arrival is for; 48 is the manager. -/
def State.arrivalPlot (s : State) (gate : Nat) (a : Arrival) : Nat :=
  if gate = 20 then 48
  else if 1 ≤ gate ∧ gate ≤ 3 then ((s.plots.find? (fun p => inRanges p.2.ranges a.target 1)).map (·.1)).getD 48
  else if a.kind = 0 ∨ a.kind = 1 ∨ a.kind = 6 then
    match s.windowAt a.target with
    | .bar2 p _ _ => p
    | .bar0 p _ _ => p
    | .diag _ => 48
    | .nothing => 48
  else if gate = 0 then
    (if a.kind ≠ 2 then (s.fnOf a).elim 48 (·.plot)
    else if a.payload.isEmpty then s.plotOf a.target
    else (s.answersFor 0 a).elim 48 (·.plot))
  else (s.netOwner (4 * (gate - 4) + a.source % 4)).getD 48

/-! ### Logs and payload rings (R351, R352, Table 17.2) -/

def isPow2 (n : Nat) : Bool := decide (n ≠ 0) && decide (n &&& (n - 1) = 0)

/-- Where a payload goes in its ring and what it takes, skipped bytes included. -/
def Gate.payPlace (g : Gate) (n : Nat) : Nat × Nat :=
  let cap := g.payCap.toNat
  let off := if cap = 0 then 0 else g.payHead.toNat % cap
  let size := (n + 255) / 256 * 256
  if cap - off < size then (0, cap - off + size) else (off, size)

def Gate.logRoom (g : Gate) : Bool := decide ((g.logHead - g.logTail).toNat < g.logCap.toNat)

/-- Record mode has room for an arrival. -/
def Gate.room (g : Gate) (a : Arrival) : Bool :=
  decide (g.mode ≠ 1) || (g.logRoom
    && (decide (a.payload.length ≤ 64)
      || decide ((g.payPlace a.payload.length).2 + (g.payHead - g.payTail).toNat ≤ g.payCap.toNat)))

/-- The source that a log entry shows: the number of a board input is the package's. -/
def sourceField (gate : Nat) (a : Arrival) : Nat := if gate = 20 then (Config.inputNumber a.source).toNat else a.source

/-- A log entry (Table 17.2). -/
def logEntry (gate cycle ptr : Nat) (a : Arrival) : List Byte :=
  let inl := decide (a.payload.length ≤ 64)
  leBytes 6 cycle ++ leBytes 1 a.kind ++ leBytes 1 (if inl then 1 else 2) ++ leBytes 4 a.payload.length ++ leBytes 4 (sourceField gate a)
    ++ leBytes 8 a.target ++ leBytes 8 (if inl then 0 else ptr) ++ ((if inl then a.payload else []) ++ List.replicate 64 0).take 64

/-- Write the log entry of an admitted arrival, and its payload. -/
def State.logArrival (s : State) (gate : Nat) (a : Arrival) : State :=
  let g := s.gate gate
  if g.mode ≠ 1 then s
  else
    let pl := g.payPlace a.payload.length
    let long := decide (64 < a.payload.length)
    let s1 := if long then s.put 48 (g.payBase.toNat + pl.1) a.payload else s
    let s2 := s1.put 48 (g.logBase.toNat + 96 * (g.logHead.toNat % g.logCap.toNat)) (logEntry gate s.cycle pl.1 a)
    s2.modGate gate (fun g =>
      { g with logHead := g.logHead + 1, payHead := if long then g.payHead + BitVec.ofNat 32 pl.2 else g.payHead })

/-! ### What an admitted arrival does -/

/-- A completion to the host, without data where the request is refused. -/
def State.complete (s : State) (a : Arrival) (data : List Byte) (status : Nat := 0) : State := s.outbound 0 2 a.target 48 data status

/-- The statuses of a completion. -/
def stUnsupported : Nat := 1
def stRetry : Nat := 2
def stAbort : Nat := 4

/-- The plots that an arrival for one reaches: both halves of a pair (R365). -/
def State.halves (s : State) (plot : Nat) : List Nat :=
  match (s.plot plot).pair with
  | some (other, _) => [plot, other]
  | none => [plot]

/-- A memory request to a function's BAR2 (R405, R406). -/
def State.bar2Request (s : State) (gate plot vf off : Nat) (a : Arrival) : State :=
  let v := fgetD (s.plot plot).vfs vf {}
  let refuse := decide (v.tdisp = .error) || (decide (v.tdisp = .run) && (a.stream.isNone || a.stream != v.session))
  let write := decide (a.kind ≠ 1)
  if refuse then (if write then s.managerLog 5 plot else s.complete a [] stUnsupported)
  else
    let req (p : Nat) : HostReq :=
      { plot := p, vf := vf, write := write, offset := off, gate := gate, source := a.source, target := a.target
        data := if write then a.payload else [], size := if write then a.payload.length else leNat a.payload }
    { s with hostReqs := s.hostReqs ++ (s.halves plot).map req }

def tdispCode : Tdisp → Nat
  | .unlocked => 0
  | .locked => 1
  | .run => 2
  | .error => 3

/-- Bytes of the diagnostic window (Table 17.7). -/
def State.diagByte (s : State) (i : Nat) : Byte :=
  let d := s.diag
  let head := leBytes 4 d.state.toNat ++ leBytes 4 d.dumpStatus.toNat ++ leBytes 8 d.dumpBuf.toNat ++ leBytes 8 d.dumpBytes.toNat
  if i < 0x18 then head.getD i 0
  else if 0x100 ≤ i ∧ i < 0x200 then fgetD d.testMap (i - 0x100) 0
  else if 0x1000 ≤ i then
    match s.mgr.log[(i - 0x1000) / 16]? with
    | some r => (leBytes 8 r.1 ++ leBytes 8 r.2).getD (i % 16) 0
    | none => 0
  else 0

/-- A host write to the window: the buffer fields alone are writable. -/
def State.diagWrite (s : State) (off : Nat) (bs : List Byte) : State :=
  let old := leBytes 8 s.diag.dumpBuf.toNat ++ leBytes 8 s.diag.dumpBytes.toNat
  let new := (List.range 16).map (fun i => if off ≤ i + 8 ∧ i + 8 < off + bs.length then bs.getD (i + 8 - off) 0 else old.getD i 0)
  let buf := leNat (new.take 8)
  if buf % 4096 ≠ 0 then s
  else { s with diag := { s.diag with dumpBuf := BitVec.ofNat 64 buf, dumpBytes := BitVec.ofNat 64 (leNat (new.drop 8)) } }

/-- The requester ID of the host's root port; a request of another requester is peer-to-peer (R403, log entry 121). -/
def hostRequester : Nat := 0

def Arrival.fromPeer (a : Arrival) : Bool := decide (a.kind ≤ 1) && decide (a.source % 2 ^ 16 ≠ hostRequester)

/-- A memory request at a bus address; one from another endpoint is not supported. -/
def State.memoryRequest (s : State) (gate : Nat) (a : Arrival) : State :=
  let write := decide (a.kind ≠ 1)
  let n := if write then a.payload.length else leNat a.payload
  if gate = 0 ∧ a.fromPeer then s.complete a [] stUnsupported
  else
  match s.windowAt a.target with
  | .bar2 plot vf off => s.bar2Request gate plot vf off a
  | .bar0 plot vf off =>
    if write then s
    else
      let st := leBytes 4 (tdispCode (fgetD (s.plot plot).vfs vf {}).tdisp)
      s.complete a ((List.range n).map (fun i => st.getD (off + i) 0))
  | .diag off => if write then s.diagWrite off a.payload else s.complete a ((List.range n).map (fun i => s.diagByte (off + i)))
  | .nothing => if write then s.managerLog 5 48 else s.complete a [] stUnsupported

/-- A board input (R346, R368, R414, R415). The target of a migration image is its function: 64 times the plot, and the VF index. -/
def State.boardArrival (s : State) (a : Arrival) : State :=
  match a.source with
  | 0 => { s with mgr := { s.mgr with bootNonce := a.payload } }
  | 1 => ({ s with refLost := some (s.refLost.getD s.cycle) } : State).managerLog 6 1
  | 2 => ({ s with refLost := s.refLost.filter (fun c => decide (c + 896 < s.cycle)) } : State).managerLog 6 2
  | 3 => { s with mgr := { s.mgr with alerts := s.mgr.alerts + 1 } }
  | 5 => s.restoreVf (a.target / 64) (a.target % 64) (VfImage.ofNumbers (payloadNumbers a.payload))
  | 6 => s.saveVf (a.target / 64) (a.target % 64)
  | n => s.managerLog 6 n

/-- A CXL response (R410): Poison becomes an error of its line. -/
def State.cxlLine (s : State) (line : Nat) (poison : Bool) : State :=
  if poison && isCxl line then s.withMem { s.mem with poison := insNat s.mem.poison (lineOf line) } else s

/-- A frame of an Ethernet port reaches the storage engine of its plot, and of its pair's other half, at the queue pair that it
names: the answer to what the engine has asked of the network (R365, R413). -/
def State.frameArrival (s : State) (gate : Nat) (a : Arrival) : State :=
  match s.netOwner (4 * (gate - 4) + a.source % 4) with
  | none => s
  | some p =>
    { s with nvme := (s.halves p).foldl (fun m h => fmod m (64 * h + a.target) (fun q =>
        if q.asked && q.reply.isNone then { q with reply := some a.payload } else q)) s.nvme }

/-- Whether an agent waits for the completion of a read-back (R167). -/
def State.awaited (s : State) (a : Arrival) : Bool := a.payload.isEmpty && decide ((s.thread a.target).wait = .readbackSent)

/-- The other half of a plot's pair, while it runs the copy of a launch (R365). -/
def State.copyHalf (s : State) (plot : Nat) : Option Nat := (s.otherHalf plot).filter (fun o => (s.plot o).running.any (·.copy))

/-- A completion with data answers the read of host memory that has asked for it, in both halves of a pair; the host's bytes stand
at their address. One that answers no read is discarded. -/
def State.completionData (s : State) (a : Arrival) : State :=
  match s.answersFor 0 a with
  | none => s
  | some q =>
    let s1 := (s.brought a.target a.payload q.since).answer 0 q.plot a.target
    (s.copyHalf q.plot).elim s1 (fun o => s1.answerCopy 0 o a.target)

/-- Codes of the messages that a host sends: the first byte of a message. -/
def mLock : Nat := 1
def mStart : Nat := 2
def mStop : Nat := 3
def mSpdm : Nat := 16

def Arrival.code (a : Arrival) : Nat := (a.payload.headD 0).toNat

/-- Whether the port supports a message. -/
def Arrival.known (a : Arrival) : Bool := decide (1 ≤ a.code ∧ a.code ≤ 3) || decide (16 ≤ a.code)

/-- The effect of an admitted arrival; what another unit is to act on waits for it. -/
def State.admitted (s : State) (gate : Nat) (a : Arrival) : State :=
  let wait : State := { s with entered := s.entered ++ [(gate, a)] }
  let refuse : State := if gate = 0 then s.complete a [] stUnsupported else s
  match a.kind with
  | 0 => s.memoryRequest gate a
  | 1 => s.memoryRequest gate a
  | 2 => if gate ≠ 0 then s else if s.awaited a then wait else s.completionData a
  | 3 => if gate = 0 then wait else s
  | 4 => if gate = 0 && a.known then wait else refuse
  | 5 => if 1 ≤ gate ∧ gate ≤ 3 then wait else refuse
  | 6 => if gate = 0 then refuse else s.memoryRequest gate a
  | 7 => if gate = 0 then refuse else s.frameArrival gate a
  | 8 => if gate = 20 then s.boardArrival a else refuse
  | 9 => s
  | _ => refuse

/-! ### GATE_ADMISSION (R349, R351–R353) -/

/-- A plot's arrivals are held: it is stopped (R359), or its queue of host requests is full (R405). -/
def State.holdsPlot (s : State) (plot : Nat) (a : Arrival) : Bool :=
  decide (plot < 48) && (((s.plot plot).stopped && !(s.plot plot).resume)
    || (decide (a.kind = 0 ∨ a.kind = 1 ∨ a.kind = 6) && decide (64 ≤ s.hostReqs.countP (fun r => r.plot == plot))))

/-- The first arrival that no hold of its plot keeps back; a plot's hold queue takes 256 arrivals, and one more backs up
the link. -/
def State.scanPort (s : State) (gate : Nat) : List Arrival → Nat → FMap Nat → Option (Nat × Arrival)
  | [], _, _ => none
  | a :: rest, i, held =>
    let p := s.arrivalPlot gate a
    if s.holdsPlot p a then
      (if 256 ≤ fgetD held p 0 then none else State.scanPort s gate rest (i + 1) (fset held p (fgetD held p 0 + 1)))
    else some (i, a)

/-- CYCLE runs: reset has been released. -/
def Boot.running : Boot → Bool
  | .off => false
  | .step n => decide (8 ≤ n)
  | .ready => true
  | .safe => true

/-- A log-full event, once in a held period of arrivals or of outbound traffic (R352). -/
def State.raiseFull (s : State) (gate : Nat) (out : Bool) : Option State :=
  if (if out then (s.gate gate).raisedOut else (s.gate gate).raisedIn) then none
  else some (({ s with events := s.events ++ [(gate, 0)] } : State).modGate gate (fun g =>
    if out then { g with raisedOut := true } else { g with raisedIn := true }))

/-- A stopped package admits nothing, but function 0 answers in the safe state (R358, R376). -/
def State.gateShut (s : State) (gate : Nat) : Bool := s.stopped && !(decide (s.boot = .safe) && gate == 0)

/-- The arrivals that are held (R350): all of them where the gate is shut or the next has no room in the log; else those of
plots that are held. -/
def State.heldAt (s : State) (gate : Nat) (g : Gate) : Nat :=
  if g.mode = 2 then 0
  else if s.gateShut gate then g.port.length
  else
    match s.scanPort gate g.port 0 [] with
    | none => g.port.length
    | some (_, a) => if g.room a then g.port.countP (fun x => s.holdsPlot (s.arrivalPlot gate x) x) else g.port.length

/-- The gate shows how many arrivals it holds. -/
def State.showHeld (s : State) (gate : Nat) : State := s.modGate gate (fun g => { g with held := BitVec.ofNat 32 (s.heldAt gate g) })

/-- Admit the next arrival of a gate. -/
def State.admitNext (s : State) (gate : Nat) (g : Gate) : Option State :=
  if g.mode = 2 then (if g.port.isEmpty then none else some (s.modGate gate (fun g => { g with port := [] })))
  else if s.gateShut gate || (s.boot.running && !s.stopped && g.admittedOnce && decide (g.lastAdmit = s.cycle)) then none
  else
    match s.scanPort gate g.port 0 [] with
    | none => none
    | some (i, a) =>
      if !g.room a then s.raiseFull gate false
      else
        let s1 := (s.logArrival gate a).modGate gate (fun g =>
          { g with port := g.port.eraseIdx i, lastAdmit := s.cycle, admittedOnce := true, raisedIn := false })
        some (s1.admitted gate a)

/-- GATE_ADMISSION (R349). -/
def gateAdmissionStep (s : State) : Option State :=
  let gate := s.subj.ag
  match fget? s.gates gate with
  | none => none
  | some g =>
    match s.admitNext gate g with
    | some t => some (t.showHeld gate)
    | none => if (s.heldAt gate g) % 2 ^ 32 = g.held.toNat then none else some (s.showHeld gate)

def execGateAdmission (s : State) : Host.Outcome State Fault Refusal := .next ((gateAdmissionStep s).getD s)

/-- GATE_CONTROL_WRITE (R350): the manager writes a field of a gate's control block; a refused write changes nothing. -/
def Gate.write (g : Gate) (field : Nat) (v : Word) (settable : Bool) : Gate :=
  let v32 := v.setWidth 32
  match field with
  | 0x00 =>
    if settable && decide (v.toNat ≤ 2) then { g with mode := v.setWidth 8, replaying := g.replaying && decide (v.toNat = 2) } else g
  | 0x08 => if v.toNat % 4096 = 0 then { g with logBase := v } else g
  | 0x10 => if isPow2 v32.toNat && decide (v32.toNat ≤ 2 ^ 20) then { g with logCap := v32 } else g
  | 0x18 => { g with logTail := v32 }
  | 0x20 => if v.toNat % 256 = 0 then { g with payBase := v } else g
  | 0x28 => if v32.toNat % 256 = 0 then { g with payCap := v32 } else g
  | 0x30 => { g with payTail := v32 }
  | 0x40 => if v.toNat % 4096 = 0 then { g with outBase := v } else g
  | 0x48 => if isPow2 v32.toNat && decide (v32.toNat ≤ 2 ^ 20) then { g with outCap := v32 } else g
  | 0x50 => { g with outTail := v32 }
  | _ => g

def gateControlWriteStep (s : State) : Option State :=
  match fget? s.gates s.subj.ag with
  | none => none
  | some _ => some (s.modGate s.subj.ag (fun g => g.write s.subj.n s.subj.value (s.stopped || !s.boot.running)))

def execGateControlWrite (s : State) : Host.Outcome State Fault Refusal := .next ((gateControlWriteStep s).getD s)

/-! ### Outbound traffic (R354, R355) -/

/-- The digest of a transaction that leaves at a cycle. -/
def digestBytes (cycle : Nat) (a : Arrival) : List Byte :=
  leBytes 6 cycle ++ leBytes 1 a.kind ++ leBytes 1 0 ++ leBytes 4 a.payload.length ++ leBytes 4 0 ++ leBytes 8 a.target
    ++ leBytes 8 (crc64 0 a.payload)

/-- The first difference of a replay (R355). -/
def State.mismatch (s : State) (gate : Nat) : State :=
  let g := s.gate gate
  if g.mismatch.getLsbD 63 then s
  else ({ s with events := s.events ++ [(gate, 1)] } : State).modGate gate (fun g =>
    { g with mismatch := BitVec.ofNat 64 (2 ^ 63 + s.cycle % 2 ^ 48) })

/-- OUTBOUND_TRANSACTION (R354): the first transaction leaves; its digest is written, or in replay compared. -/
def outboundTransactionStep (s : State) : Option State :=
  let gate := s.subj.ag
  let g := s.gate gate
  match g.outq with
  | [] => none
  | a :: rest =>
    let leave (s : State) : State := s.modGate gate (fun g => { g with outq := rest })
    if s.gateShut gate then none
    else if g.mode = 1 then
      (if (g.outHead - g.outTail).toNat < g.outCap.toNat then
        some ((leave (s.put 48 (g.outBase.toNat + 32 * (g.outHead.toNat % g.outCap.toNat)) (digestBytes s.cycle a))).modGate
          gate (fun g => { g with outHead := g.outHead + 1, raisedOut := false }))
      else s.raiseFull gate true)
    else if g.mode = 2 then
      let s1 := (leave s).modGate gate (fun g => { g with digestAt := g.digestAt + 1 })
      let same := decide (g.digestAt ≠ g.outTail)
        && decide (s.mem.bytes (g.outBase.toNat + 32 * (g.digestAt.toNat % g.outCap.toNat)) 32 = digestBytes s.cycle a)
      some (if same then s1 else s1.mismatch gate)
    else some (leave s)

def execOutboundTransaction (s : State) : Host.Outcome State Fault Refusal := .next ((outboundTransactionStep s).getD s)

/-! ### REPLAY_INJECT (R355) -/

/-- The arrival that log entry i records, and its cycle. -/
def State.entryOf (s : State) (gate : Nat) (i : BitVec 32) : Nat × Arrival :=
  let g := s.gate gate
  let a := g.logBase.toNat + 96 * (i.toNat % g.logCap.toNat)
  let n := s.mem.num (a + 8) 4
  let src := s.mem.num (a + 12) 4
  let payload := if (s.mem.byte (a + 7)).getLsbD 1 then s.mem.bytes (g.payBase.toNat + s.mem.num (a + 24) 8) n else s.mem.bytes (a + 32) n
  let source := if gate = 20 then ((List.range 7).find? (fun i => (Config.inputNumber i).toNat == src)).getD src else src
  (s.mem.num a 6, { kind := (s.mem.byte (a + 6)).toNat, source := source, target := s.mem.num (a + 16) 8, payload := payload })

/-- The next entry. -/
def State.entryAt (s : State) (gate : Nat) : Nat × Arrival := s.entryOf gate (s.gate gate).readAt

/-- The first of n entries from one on that cannot be injected at its cycle: that cycle is not above that of the entry before
it, or has passed. `low` is the least cycle that an entry may have, and entries below it are skipped where nothing has been
injected. -/
def State.disorder (s : State) (gate : Nat) : Nat → BitVec 32 → Nat → Bool → Option (BitVec 32 × Nat)
  | 0, _, _, _ => none
  | n + 1, i, low, first =>
    let e := (s.entryOf gate i).1
    if e < low then (if first then s.disorder gate n (i + 1) low true else some (i, e))
    else s.disorder gate n (i + 1) (e + 1) false

/-- The entry that stops the replay, which is found before its cycle. -/
def State.brokenAt (s : State) (gate : Nat) : Option (BitVec 32 × Nat) :=
  let g := s.gate gate
  s.disorder gate (g.logTail - g.readAt).toNat g.readAt (if g.admittedOnce then max (g.lastCycle + 1) s.cycle else g.lastCycle) (!g.admittedOnce)

/-- The next entry is skipped or injected at its cycle; one that cannot be stops the replay, and the package at the end of
the cycle before its own (R355). The manager counts the entries it supplies in the log's tail. -/
def replayInjectStep (s : State) : Option State :=
  let gate := s.subj.ag
  let g := s.gate gate
  if g.mode ≠ 2 ∨ s.stopped ∨ !g.replaying then none
  else
    match (if g.broken.isSome then none else s.brokenAt gate) with
    | some (i, c) =>
      some { (s.modGate gate (fun g => { g with broken := some i })) with
        events := s.events ++ [(gate, 1)], stopReq := some (s.stopReq.elim (c - 1) (min (c - 1))) }
    | none =>
      let e := s.entryAt gate
      let next (s : State) : State := s.modGate gate (fun g => { g with readAt := g.readAt + 1 })
      if g.readAt = g.logTail ∨ g.broken = some g.readAt then none
      else if !g.admittedOnce && decide (e.1 < g.lastCycle) then some (next s)
      else if s.cycle ≠ e.1 then none
      else some (((next s).modGate gate (fun g => { g with lastCycle := e.1, admittedOnce := true })).admitted gate e.2)

def execReplayInject (s : State) : Host.Outcome State Fault Refusal := .next ((replayInjectStep s).getD s)

/-! ### HOST_WINDOW_REQUEST (R405, R408) -/

/-- The host, and other parties of scope s. -/
def portParty : Party := { slot := 0x7FE, outside := true, claims := false }

/-- Doorbells of the armed rings whose write index a write has changed, in ascending function (R408). -/
def State.doorbells (s : State) (old : Store) (plot : Nat) : State :=
  (s.plot plot).vfs.foldl (fun (s' : State) (v : Nat × Vf) =>
    if v.2.hring = 0 then s'
    else
      match s.rakeXlat plot v.1 v.2.hring.toNat with
      | .ok x => if old.word (x.pa + 16) ≠ s.mem.word (x.pa + 16) then s'.raiseAsync plot 0x3B (BitVec.ofNat 64 v.1) else s'
      | .absent => s'
      | .moving => s') s

/-- The numbers by which a plot's units ask for host and CXL memory (log entry 57): publications their own, a launch's completion
record 2^40 and its sequence number, host requests 2^41, queue pairs of the storage engine 2^42 and theirs. -/
def hostUnit : Nat := 2 ^ 41
def nvmeUnit (k : Nat) : Nat := 2 ^ 42 + k

/-- Change, or with `none` remove, the first request of a plot. -/
def modFirst (plot : Nat) (f : HostReq → Option HostReq) : List HostReq → List HostReq
  | [] => []
  | r :: rs => if r.plot = plot then (f r).toList ++ rs else r :: modFirst plot f rs

def State.modHostReq (s : State) (plot : Nat) (f : HostReq → Option HostReq) : State := { s with hostReqs := modFirst plot f s.hostReqs }

/-- A request is discarded: a read ends with Completer Abort; the manager logs it. -/
def State.dropRequest (s : State) (plot : Nat) (r : HostReq) : State :=
  let s1 := (s.modHostReq plot (fun _ => none)).managerLog 7 plot
  if r.write then s1 else s1.outbound 0 2 r.target 48 [] stAbort

/-- The bytes that one read of an address takes: those of a page, or of a line where its home is outside. -/
def State.readRun (s : State) (pa n : Nat) : Nat := if (s.portOf pa).isSome then min n (256 - pa % 256) else n

/-- The armed rings of a plot whose place is not known yet. -/
def State.ringsMoving (s : State) (plot : Nat) : Bool :=
  (s.plot plot).vfs.any (fun v => decide (v.2.hring ≠ 0) && decide (s.rakeXlat plot v.1 v.2.hring.toNat = .moving))

/-- Move one run of a request that lies in one page. -/
def State.moveRun (s : State) (plot : Nat) (r : HostReq) (x : Xlat) (n : Nat) : Option State :=
  let n := if r.write then n else s.readRun x.pa n
  let ended := decide (r.size ≤ r.done + n)
  if s.mem.escapesRun portParty x.obj r.write x.pa n then some (s.dropRequest plot r)
  else if r.write then
    if r.gate = 0 ∧ s.ringsMoving plot then none
    else
    s.through (.host plot) x.pa (fun s =>
      let s1 := s.landAs portParty plot false x.pa x.obj false ((r.data.drop r.done).take n)
      let s2 := if r.gate = 0 then s1.doorbells s.mem plot else s1
      some (s2.modHostReq plot (fun r => if ended then none else some { r with done := r.done + n, hold := none })))
  else s.fromOutside (.unit plot hostUnit) plot false x.pa (fun s =>
    let bad := (linesOf x.pa n).find? s.mem.isPoison
    let w : State × List Byte := match bad with
      | some l => (s.noticePoison l).freeBytes n
      | none => (s, s.mem.bytes x.pa n)
    let data := r.data ++ w.2
    let s1 := w.1.modHostReq plot (fun r => if ended then none else some { r with done := r.done + n, data := data, hold := none })
    some (if ended then s1.outbound 0 2 r.target 48 data else s1))

/-- HOST_WINDOW_REQUEST (R405): the oldest request of a plot moves its next run, or waits on the page-fault path. -/
def hostWindowRequestStep (s : State) : Option State :=
  let plot := s.subj.n
  match s.hostReqs.find? (fun r => r.plot == plot) with
  | none => none
  | some r =>
    let va := (fgetD (s.plot plot).vfs r.vf {}).winVa.toNat + r.offset + r.done
    let n := min (r.size - r.done) (4096 - va % 4096)
    match s.unitReach plot r.vf va (if r.write then 5 else 4) 0x7FE (if r.write then .store else .load) r.hold [portTlb plot] with
    | .wait => none
    | .later s1 => some s1
    | .held s1 h => some ((s1.leave (.host plot)).modHostReq plot (fun r => some { r with hold := some h }))
    | .fail _ => some ((s.leave (.host plot)).dropRequest plot r)
    | .poison _ => some ((s.leave (.host plot)).dropRequest plot r)
    | .ok x => (s.moveRun plot r x n).map (fun t => t.fillPath [portTlb plot] plot r.vf va (.ok x))

def execHostWindowRequest (s : State) : Host.Outcome State Fault Refusal := .next ((hostWindowRequestStep s).getD s)

/-! ### TDISP (R406) -/

/-- A message of gate 0 with a code. -/
def messageOf (code gate : Nat) (a : Arrival) : Bool := gate == 0 && a.kind == 4 && a.code == code

/-- The number that a message carries after its code. -/
def Arrival.number (a : Arrival) : Nat := leNat ((a.payload.drop 1).take 4)

/-- A virtual function of a plot, and the same of its pair's other half (R365). -/
def State.modVfs (s : State) (f : HostFn) (g : Nat → Vf → Vf) : State :=
  (s.halves f.plot).foldl (fun s' p => s'.modVf p f.vf (g p)) s

/-- A message of the host to a virtual function is taken and answered; what it does, where its function is bound and enabled,
is a change of that function's interface. In the safe state no virtual function answers (R376). -/
def State.interfaceMessage (s : State) (code : Nat) (g : Arrival → Nat → Vf → Vf) : Option State :=
  (s.enteredBy (messageOf code)).map (fun x =>
    if s.boot = .safe then s.drop x
    else
    let s1 := (s.drop x).outbound 0 4 x.2.target 48 []
    match s.fnOf x.2 with
    | some f => if f.enable then s1.modVfs f (g x.2) else s1
    | none => s1)

/-- A measurement (R332). -/
def State.measurement (s : State) (i : Nat) : List Byte :=
  let digest (p : Plot) (xs : List Nat) : List Byte :=
    (shake256 ((List.range 64).map (fun j => (Config.measureInput i (p.id :: xs) j).toNat)) 32).map (fun b => BitVec.ofNat 8 b)
  if i = 2 then s.mgr.cfgDigest
  else if 0x10 ≤ i ∧ i < 0x40 then
    let p := s.plot (i - 0x10)
    digest p (p.vfCount :: p.clusters ++ p.ranges.flatMap (fun r => [r.1, r.2]) ++ (fgetD s.board.measured i []).map (·.toNat))
  else if 0x40 ≤ i ∧ i < 0x70 then
    let p := s.plot (i - 0x40)
    digest p (p.keySlots.toNat :: p.keys.map (fun k => k.2.session))
  else fgetD s.board.measured i []

/-- LOCK_INTERFACE: an unlocked interface is locked by the live session that the message names, and bound to the two
measurements of its plot. -/
def lockInterfaceStep (s : State) : Option State :=
  s.interfaceMessage mLock (fun a p v =>
    if v.tdisp = .unlocked ∧ s.mgr.sessions.contains a.number then
      { v with tdisp := .locked, session := some a.number, bound := [s.measurement (0x10 + p), s.measurement (0x40 + p)] }
    else v)

def execLockInterface (s : State) : Host.Outcome State Fault Refusal := .next ((lockInterfaceStep s).getD s)

/-- START_INTERFACE: a locked interface runs. -/
def startInterfaceStep (s : State) : Option State :=
  s.interfaceMessage mStart (fun _ _ v => if v.tdisp = .locked then { v with tdisp := .run } else v)

def execStartInterface (s : State) : Host.Outcome State Fault Refusal := .next ((startInterfaceStep s).getD s)

/-- STOP_INTERFACE: the interface returns to CONFIG_UNLOCKED. -/
def stopInterfaceStep (s : State) : Option State :=
  s.interfaceMessage mStop (fun _ _ v => { v with tdisp := .unlocked, session := none, bound := [] })

def execStopInterface (s : State) : Host.Outcome State Fault Refusal := .next ((stopInterfaceStep s).getD s)

/-! ### Configuration space and SPDM (R404, R414, R332)

Registers of a function in configuration space, at the model's places: 0x04 VF Enable, 0x10 BAR0, 0x18 BAR2. -/

/-- Bytes of a function's configuration registers; the others are free. -/
def State.configRead (s : State) (a : Arrival) : State × List Byte :=
  let v : Vf := match s.fnOf a with | some f => fgetD (s.plot f.plot).vfs f.vf {} | none => {}
  match a.target % 4096 with
  | 0x04 => (s, leBytes 4 (if (s.fnOf a).any (·.enable) then 1 else 0))
  | 0x10 => (s, leBytes 4 ((if a.target / 4096 = 0 then s.diag.bar0 else v.bar0) % 2 ^ 32))
  | 0x14 => (s, leBytes 4 ((if a.target / 4096 = 0 then s.diag.bar0 else v.bar0) / 2 ^ 32))
  | 0x18 => (s, leBytes 4 (v.bus % 2 ^ 32))
  | 0x1C => (s, leBytes 4 (v.bus / 2 ^ 32))
  | _ => s.freeBytes 4

/-- The BAR of an interface is set; a change moves it to ERROR (R406). -/
def Vf.setBar (f : Vf) (off v : Nat) : Vf :=
  let g : Vf :=
    if off = 0x10 then { f with bar0 := v / 4096 * 4096 }
    else if off = 0x18 then { f with bus := v / 2 ^ f.winBits * 2 ^ f.winBits }
    else f
  if g = f then f else { g with tdisp := .error }

/-- A write of a configuration register. A function that is bound to no plot keeps its VF Enable bit at 0 (R404). -/
def State.configWrite (s : State) (a : Arrival) : State :=
  let v := leNat a.payload
  let off := a.target % 4096
  if a.target / 4096 = 0 then (if off = 0x10 then { s with diag := { s.diag with bar0 := v } } else s)
  else
    match s.fnOf a with
    | none => s
    | some f =>
      if off = 0x04 then { s with functions := fset s.functions (a.target / 4096 - 1) { f with enable := decide (v % 2 = 1) } }
      else s.modVfs f (fun _ w => w.setBar off v)

/-- CONFIGURATION_REQUEST: before step 9 of bring-up it gets Retry Status; in the safe state function 0 alone answers. A request
without a payload reads. -/
def configurationRequestStep (s : State) : Option State :=
  (s.enteredBy (fun gate a => gate == 0 && a.kind == 3)).map (fun x =>
    let a := x.2
    let s1 := s.drop x
    if !s.linkUp then s1.complete a [] stRetry
    else if s.boot = .safe ∧ a.target / 4096 ≠ 0 then s1.complete a [] stUnsupported
    else if a.payload.isEmpty then
      let r := s1.configRead a
      r.1.complete a r.2
    else (s1.configWrite a).complete a [])

def execConfigurationRequest (s : State) : Host.Outcome State Fault Refusal := .next ((configurationRequestStep s).getD s)

/-- SPDM_REQUEST (R332): the manager answers a message of code 16 with the measurement that it names, signed; one of code 17
establishes the session that it names; others are answered, with contents that the spec does not give. -/
def spdmRequestStep (s : State) : Option State :=
  if s.boot ≠ .ready then none
  else
    (s.enteredBy (fun gate a => gate == 0 && a.kind == 4 && decide (mSpdm ≤ a.code))).map (fun x =>
      let a := x.2
      let s1 := s.drop x
      if a.code = mSpdm then
        let d := s.measurement a.number
        s1.outbound 0 4 0 48 (d ++ (List.range 1280).map (Config.falconSign s.mgr.identityKey d))
      else if a.code = mSpdm + 1 then
        ({ s1 with mgr := { s1.mgr with sessions := insNat s1.mgr.sessions a.number } } : State).outbound 0 4 0 48 []
      else
        let r := s1.freeBytes 16
        r.1.outbound 0 4 0 48 r.2)

def execSpdmRequest (s : State) : Host.Outcome State Fault Refusal := .next ((spdmRequestStep s).getD s)

/-! ### CXL and Brixvex (R410, R412) -/

/-- The address in the other half of a pair that corresponds to one of a plot: the same place in its granted ranges. -/
def twinOf (mine theirs : List (Nat × Nat)) (a : Nat) : Option Nat :=
  (mine.zip theirs).findSome? (fun r => if r.1.1 ≤ a ∧ a < r.1.2 ∧ r.2.1 + (a - r.1.1) < r.2.2 then some (r.2.1 + (a - r.1.1)) else none)

/-- The text of a line that a response carries: its ciphertext under the plot's key (R22, R410). -/
def State.responseText (s : State) (plot : Nat) (a : Arrival) : List Byte :=
  s.unseal (s.plotKey plot) plot (lineOf a.target) ((a.payload.drop 1).take 256)

/-- A response with a line answers the read that has asked for it. -/
def State.responseData (s : State) (gate plot : Nat) (a : Arrival) : State :=
  if a.payload.length < 257 then s
  else
    match s.answersFor gate a with
    | none => s
    | some q => (s.brought (lineOf a.target) (s.responseText plot a) q.since).answer gate q.plot (lineOf a.target)

/-- The copy in the other half of a pair takes the same line at its own address. -/
def State.responseCopy (s : State) (plot other line : Nat) (a : Arrival) : State :=
  match s.portOf line, decide (257 ≤ a.payload.length) && (s.copyHalf plot == some other) with
  | some g, true => (s.brought (lineOf line) (s.responseText plot a) []).answerCopy g other (lineOf line)
  | _, _ => s

/-- CXL_RESPONSE: a response brings the line that was asked for, and its Poison becomes an error of the line, in both halves of a
pair (R365, R410). -/
def cxlResponseStep (s : State) : Option State :=
  (s.enteredBy (fun gate a => decide (1 ≤ gate ∧ gate ≤ 3) && a.kind == 5)).map (fun x =>
    let a := x.2
    let plot := s.arrivalPlot x.1 a
    let s1 := ((s.drop x).responseData x.1 plot a).cxlLine a.target a.poisoned
    let p := s.plot plot
    match p.pair.bind (fun q => (twinOf p.ranges (s.plot q.1).ranges a.target).map (fun b => (q.1, b))) with
    | some b => (s1.responseCopy plot b.1 b.2 a).cxlLine b.2 a.poisoned
    | none => s1)

def execCxlResponse (s : State) : Host.Outcome State Fault Refusal := .next ((cxlResponseStep s).getD s)

/-- A flit opened under the link's key: AES-256-GCM, its last 16 bytes the tag and the number of the flit its nonce. It has 256
bytes, and comes by a Brixvex port: the type of what it carries, and the arrival. -/
def State.openFlit (s : State) (gate : Nat) (a : Arrival) : Option (Nat × Arrival) :=
  let bs := a.payload.map (·.toNat)
  if bs.length ≠ 256 ∨ !s.brixvexGates.contains gate then none
  else
    (gcmOpen (s.linkKey (64 + gate)) (beBytes 12 (s.gate gate).flitSeq) [] (bs.take 240) (bs.drop 240)).map (fun pt =>
      let ws := pt.map (fun b => BitVec.ofNat 8 b)
      ((ws.getD 0 0).toNat,
        { kind := 6, source := leNat ((ws.drop 2).take 4), target := leNat ((ws.drop 6).take 8)
          payload := (ws.drop 14).take (ws.getD 1 0).toNat }))

/-- An authentic flit: a posted write goes on to the gate's port; a message of the alignment exchange, received at a time that the
flit's target gives, is taken before reset is released. -/
def State.takeFlit (s : State) (gate now type : Nat) (b : Arrival) : State :=
  if type = flitWrite then s.modGate gate (fun g => { g with port := g.port ++ [b] })
  else if s.boot = .step 6 then s.alignGot gate type (leNat b.payload) now
  else s

/-- BRIXVEX_FLIT (R412): the first flit of a SerDes gate is authentic and is taken, or is discarded and logged; its sender
retransmits it. In replay what the link delivers is discarded (R355). -/
def brixvexFlitStep (s : State) : Option State :=
  let gate := s.subj.ag
  let g := s.gate gate
  match g.flits with
  | [] => none
  | a :: rest =>
    let s1 := s.modGate gate (fun g => { g with flits := rest })
    if g.mode = 2 then some s1
    else
      some (match s.openFlit gate a with
        | some b => (s1.modGate gate (fun g => { g with flitSeq := g.flitSeq + 1 })).takeFlit gate a.target b.1 b.2
        | none => s1.managerLog 8 gate)

def execBrixvexFlit (s : State) : Host.Outcome State Fault Refusal := .next ((brixvexFlitStep s).getD s)

/-! ### The storage engine (R413)

Command and completion entries and page lists are those of NVMe, with blocks of 512 bytes (PRESUMED, log entry 55: the spec
names the protocol and not its layout). The namespace stands beyond the plot's Ethernet port: the engine asks it by a frame
that carries the command, and the data of a write, and its answer is a frame that enters through the port's gate. A queue pair
q of plot p stands at key 64 p + q. -/

def nvmeKey (plot queue : Nat) : Nat := 64 * plot + queue

/-- NVME_DOORBELL: the submission tail is written. -/
def nvmeDoorbellStep (s : State) : Option State :=
  let k := nvmeKey s.subj.ag s.subj.n
  match fget? s.nvme k with
  | none => none
  | some q =>
    if decide (s.netMode s.subj.ag = .brixvex) || decide (16 ≤ s.subj.n) || decide (q.size ≤ s.subj.m) then none
    else some { s with nvme := fset s.nvme k { q with tail := s.subj.m } }

def execNvmeDoorbell (s : State) : Host.Outcome State Fault Refusal := .next ((nvmeDoorbellStep s).getD s)

def State.modQueue (s : State) (k : Nat) (f : NvmeQueue → NvmeQueue) : State := { s with nvme := fmod s.nvme k f }

/-- One access of a queue pair to n bytes of a page: on a page that is not present it waits on the page-fault path, and fails where
the page is declared fatal, or for an escape or an error (R203, R318). A write waits for its channel (R348), and a read of a home
outside for its answer. -/
def State.nvmeAccess (s : State) (k : Nat) (q : NvmeQueue) (va n : Nat) (write : Bool) (go : State → Xlat → Option State)
    (failed : State → State) : Option State :=
  let plot := k / 64
  let free (s : State) : State := s.modQueue k (fun q => { q with hold := none })
  match s.unitReach plot 64 va (if write then 5 else 4) 0x7FE (if write then .store else .load) q.hold [portTlb plot] with
  | .wait => none
  | .later s1 => some s1
  | .held s1 h => some (s1.modQueue k (fun q => { q with hold := some h }))
  | .fail _ => some (failed (free s))
  | .poison _ => some (failed (free s))
  | .ok x =>
    let on (s : State) : Option State := go ((free s).fillPath [portTlb plot] plot 64 va (.ok x)) x
    if s.mem.escapesRun portParty x.obj write x.pa n then some (failed ((free s).leave (.nvme k)))
    else if write then s.through (.nvme k) x.pa on
    else
      s.fromOutside (.unit plot (nvmeUnit k)) plot false x.pa (fun s =>
        match (linesOf x.pa (s.readRun x.pa n)).find? s.mem.isPoison with
        | some l => some (failed ((free s).noticePoison l))
        | none => on s)

/-- A command is done, with a status. -/
def State.nvmeEnd (s : State) (k st : Nat) : State :=
  s.modQueue k (fun q =>
    { q with cmd := none, moved := 0, gathered := [], asked := false, reply := none
             done := q.done ++ [(((q.cmd.getD []).drop 2).take 2, st)] })

/-- Ask the namespace. -/
def State.nvmeAsk (s : State) (k : Nat) (bs : List Byte) : Option State :=
  (s.netGate (k / 64)).map (fun g => (s.outbound g 7 (k % 64) (k / 64) bs).modQueue k (fun q => { q with asked := true }))

/-- The length of a command's data. -/
def cmdBytes (cmd : List Byte) : Nat := (leNat ((cmd.drop 48).take 2) + 1) * 512

/-- Do something at the next run of a command's data, which lies in one page, and in one line where a read leaves: the first page
is the one that the first page pointer names, and the others are named by the second pointer or by the list that it names. -/
def State.nvmeRun (s : State) (k : Nat) (q : NvmeQueue) (cmd : List Byte) (write : Bool) (go : State → Xlat → Nat → State) : Option State :=
  let n := cmdBytes cmd
  let p1 := leNat ((cmd.drop 24).take 8)
  let p2 := leNat ((cmd.drop 32).take 8)
  let first := min n (4096 - p1 % 4096)
  let failed (s : State) : State := s.nvmeEnd k 4
  let at_ (va m : Nat) (s : State) : Option State :=
    s.nvmeAccess k q va m write (fun s x => some (go s x (if write then m else s.readRun x.pa m))) failed
  let i := (q.moved - first) / 4096
  let off := (q.moved - first) % 4096
  let m := min (4096 - off) (n - q.moved)
  if q.moved < first then at_ (p1 + q.moved) (first - q.moved) s
  else if n - first ≤ 4096 then at_ (p2 + off) m s
  else s.nvmeAccess k q (p2 + 8 * i) 8 false (fun s x => at_ (s.mem.num x.pa 8 + off) m s) failed

/-- The addresses that a queue pair may access next: its completion and submission entries, and the data of its command with the
pointers to it. -/
def State.nvmeVas (s : State) (k : Nat) (q : NvmeQueue) : List Nat :=
  let plot := k / 64
  let data (cmd : List Byte) : List Nat :=
    let p1 := leNat ((cmd.drop 24).take 8)
    let p2 := leNat ((cmd.drop 32).take 8)
    let first := min (cmdBytes cmd) (4096 - p1 % 4096)
    let entry := p2 + 8 * ((q.moved - first) / 4096)
    let off := (q.moved - first) % 4096
    [p1 + q.moved, p2 + off, entry] ++
      (match s.xlatBy [portTlb plot] plot 64 entry (s.walkBy (portTlb plot) plot 64 entry) with
        | .ok x => [s.mem.num x.pa 8 + off]
        | .absent => []
        | .moving => [])
  [q.cqBase + 16 * q.cqTail, q.sqBase + 64 * q.head] ++ q.cmd.toList.flatMap data

/-- The command of a queue pair goes on: 0 flushes, 1 writes, 2 reads; another, or one that names another namespace, ends
with an error. -/
def State.nvmeCommand (s : State) (k : Nat) (q : NvmeQueue) (cmd : List Byte) : Option State :=
  let op := (cmd.getD 0 0).toNat
  let n := cmdBytes cmd
  if leNat ((cmd.drop 4).take 4) ≠ (s.plot (k / 64)).nvmeSpace then some (s.nvmeEnd k 0x0B)
  else if 2 < op then some (s.nvmeEnd k 1)
  else if op = 1 ∧ q.moved < n then
    s.nvmeRun k q cmd false (fun s x m => s.modQueue k (fun q => { q with moved := q.moved + m, gathered := q.gathered ++ s.mem.bytes x.pa m }))
  else if !q.asked then s.nvmeAsk k (cmd ++ q.gathered)
  else
    match q.reply with
    | none => none
    | some data =>
      if op = 2 ∧ q.moved < n then
        s.nvmeRun k q cmd true (fun s x m =>
          (s.landAs portParty (k / 64) false x.pa x.obj false (((data ++ List.replicate n 0).drop q.moved).take m)).modQueue k
            (fun q => { q with moved := q.moved + m }))
      else some (s.nvmeEnd k 0)

/-- NVME_COMPLETION (R413): the completion entry of an executed command drains, after every byte of its data; with none waiting
the command in hand goes on, or the next submitted one is read. -/
def nvmeCompletionStep (s : State) : Option State :=
  let k := nvmeKey s.subj.ag s.subj.n
  match fget? s.nvme k with
  | none => none
  | some q =>
    match q.done, q.cmd with
    | e :: rest, _ =>
      let wrap := decide (q.size ≤ q.cqTail + 1)
      let next (s : State) : State :=
        s.modQueue k (fun q => { q with done := rest, cqTail := if wrap then 0 else q.cqTail + 1, phase := q.phase != wrap })
      s.nvmeAccess k q (q.cqBase + 16 * q.cqTail) 16 true (fun s x =>
        some (next (s.landAs portParty s.subj.ag false x.pa x.obj false
          (leBytes 8 0 ++ leBytes 2 q.head ++ leBytes 2 q.id ++ e.1 ++ leBytes 2 ((if q.phase then 1 else 0) + 2 * e.2))))) next
    | [], some cmd => s.nvmeCommand k q cmd
    | [], none =>
      if q.head = q.tail then none
      else
        let next (s : State) (cmd : List Byte) : State :=
          s.modQueue k (fun q => { q with head := if q.size ≤ q.head + 1 then 0 else q.head + 1, cmd := some cmd })
        s.nvmeAccess k q (q.sqBase + 64 * q.head) 64 false (fun s x => some (next s (s.mem.bytes x.pa 64)))
          (fun s => (next s []).nvmeEnd k 4)

def execNvmeCompletion (s : State) : Host.Outcome State Fault Refusal := .next ((nvmeCompletionStep s).getD s)

end Sys2Proof.Machine
end

