-- ==== Sys2Proof/Machine/LaneInt.lean ====
section
/-! DEFINITION. Lane integer, predicate, cross-lane and random-generator instructions (R94–R101, R112, R113). -/

namespace Sys2Proof.Machine

/-- One lane's operands of an integer instruction: Read(a, t), Read(b, t), and their w raw bits. -/
structure IntArgs where
  a : Int
  b : Int
  ra : Nat
  rb : Nat
  w : Nat
  deriving DecidableEq, Repr

def State.intArgs (s : State) (t : IType) (a : VReg) (b : BSrc) (i : Nat) : IntArgs :=
  let x := s.vecBits s.laneCur t a i
  let y := s.bBits s.laneCur t b i
  ⟨readElem t x, readElem t y, rawElem t x, rawElem t y, t.width⟩

/-- vd ← Write(f(A, B), t) in the participating lanes (R97). -/
def State.laneAlu (s : State) (t : IType) (d a : VReg) (b : BSrc) (c : LaneCtl) (f : IntArgs → Int) : State :=
  let m := s.lanes c
  (s.writeLanes s.laneCur t d m (fun i => f (s.intArgs t a b i))).countLane m

/-- The same of one operand. -/
def State.laneUn (s : State) (t : IType) (d a : VReg) (c : LaneCtl) (f : IntArgs → Int) : State :=
  s.laneAlu t d a (.imm 0) c f

/-- A w-bit pattern as a signed number. -/
def signedOf (w x : Nat) : Int := (BitVec.ofNat w x).toInt

def execVadd (t : IType) (d a : VReg) (b : BSrc) (c : LaneCtl) (s : State) : Host.Outcome State Fault Refusal :=
  .next (s.laneAlu t d a b c (fun x => x.a + x.b))
def execVsub (t : IType) (d a : VReg) (b : BSrc) (c : LaneCtl) (s : State) : Host.Outcome State Fault Refusal :=
  .next (s.laneAlu t d a b c (fun x => x.a - x.b))
def execVmul (t : IType) (d a : VReg) (b : BSrc) (c : LaneCtl) (s : State) : Host.Outcome State Fault Refusal :=
  .next (s.laneAlu t d a b c (fun x => x.a * x.b))
def execVmulhS (t : IType) (d a : VReg) (b : BSrc) (c : LaneCtl) (s : State) : Host.Outcome State Fault Refusal :=
  .next (s.laneAlu t d a b c (fun x => signedOf x.w x.ra * signedOf x.w x.rb / 2 ^ x.w))
def execVmulhZ (t : IType) (d a : VReg) (b : BSrc) (c : LaneCtl) (s : State) : Host.Outcome State Fault Refusal :=
  .next (s.laneAlu t d a b c (fun x => (x.ra * x.rb / 2 ^ x.w : Nat)))
def execVmad (t : IType) (d a : VReg) (b : BSrc) (z : CSrc) (c : LaneCtl) (s : State) :
    Host.Outcome State Fault Refusal :=
  let m := s.lanes c
  .next ((s.writeLanes s.laneCur t d m (fun i =>
    let x := s.intArgs t a b i
    x.a * x.b + readElem t (s.cBits s.laneCur t z i))).countLane m)
def execVand (t : IType) (d a : VReg) (b : BSrc) (c : LaneCtl) (s : State) : Host.Outcome State Fault Refusal :=
  .next (s.laneAlu t d a b c (fun x => (x.ra &&& x.rb : Nat)))
def execVor (t : IType) (d a : VReg) (b : BSrc) (c : LaneCtl) (s : State) : Host.Outcome State Fault Refusal :=
  .next (s.laneAlu t d a b c (fun x => (x.ra ||| x.rb : Nat)))
def execVxor (t : IType) (d a : VReg) (b : BSrc) (c : LaneCtl) (s : State) : Host.Outcome State Fault Refusal :=
  .next (s.laneAlu t d a b c (fun x => (x.ra ^^^ x.rb : Nat)))
def execVandn (t : IType) (d a : VReg) (b : BSrc) (c : LaneCtl) (s : State) : Host.Outcome State Fault Refusal :=
  .next (s.laneAlu t d a b c (fun x => (x.ra &&& (2 ^ x.w - 1 - x.rb) : Nat)))

/-- A shift amount of the lane shifts: b[5:0]. -/
def laneAmount (x : IntArgs) : Nat := x.rb % 64

def execVshl (t : IType) (d a : VReg) (b : BSrc) (c : LaneCtl) (s : State) : Host.Outcome State Fault Refusal :=
  .next (s.laneAlu t d a b c (fun x => if x.w ≤ laneAmount x then 0 else x.a * 2 ^ laneAmount x))
def execVshrZ (t : IType) (d a : VReg) (b : BSrc) (c : LaneCtl) (s : State) : Host.Outcome State Fault Refusal :=
  .next (s.laneAlu t d a b c (fun x => (x.ra / 2 ^ laneAmount x : Nat)))
def execVshrS (t : IType) (d a : VReg) (b : BSrc) (c : LaneCtl) (s : State) : Host.Outcome State Fault Refusal :=
  .next (s.laneAlu t d a b c (fun x => signedOf x.w x.ra / 2 ^ laneAmount x))
def execVminS (t : IType) (d a : VReg) (b : BSrc) (c : LaneCtl) (s : State) : Host.Outcome State Fault Refusal :=
  .next (s.laneAlu t d a b c (fun x => min (signedOf x.w x.ra) (signedOf x.w x.rb)))
def execVminZ (t : IType) (d a : VReg) (b : BSrc) (c : LaneCtl) (s : State) : Host.Outcome State Fault Refusal :=
  .next (s.laneAlu t d a b c (fun x => (min x.ra x.rb : Nat)))
def execVmaxS (t : IType) (d a : VReg) (b : BSrc) (c : LaneCtl) (s : State) : Host.Outcome State Fault Refusal :=
  .next (s.laneAlu t d a b c (fun x => max (signedOf x.w x.ra) (signedOf x.w x.rb)))
def execVmaxZ (t : IType) (d a : VReg) (b : BSrc) (c : LaneCtl) (s : State) : Host.Outcome State Fault Refusal :=
  .next (s.laneAlu t d a b c (fun x => (max x.ra x.rb : Nat)))
def execVabs (t : IType) (d a : VReg) (c : LaneCtl) (s : State) : Host.Outcome State Fault Refusal :=
  .next (s.laneUn t d a c (fun x => (x.a.natAbs : Int)))
def execVsel (t : IType) (d a : VReg) (b : BSrc) (p : PReg) (c : LaneCtl) (s : State) :
    Host.Outcome State Fault Refusal :=
  let m := s.lanes c
  .next ((s.writeLanes s.laneCur t d m (fun i =>
    let x := s.intArgs t a b i
    if ((s.thread s.laneCur).pred p.val).getLsbD i then x.a else x.b)).countLane m)
def execVmov (t : IType) (d : VReg) (b : BSrc) (c : LaneCtl) (s : State) : Host.Outcome State Fault Refusal :=
  .next (s.laneAlu t d d b c (fun x => x.b))
def execVclz (t : IType) (d a : VReg) (c : LaneCtl) (s : State) : Host.Outcome State Fault Refusal :=
  .next (s.laneUn t d a c (fun x => (leadingZeros x.w x.ra : Nat)))
def execVpopc (t : IType) (d a : VReg) (c : LaneCtl) (s : State) : Host.Outcome State Fault Refusal :=
  .next (s.laneUn t d a c (fun x => (popCount x.ra x.w : Nat)))
def execVbext (t : IType) (d a : VReg) (b : BSrc) (c : LaneCtl) (s : State) : Host.Outcome State Fault Refusal :=
  let m := s.lanes c
  .next ((s.writeLanes s.laneCur t d m (fun i =>
    let f := s.bBits s.laneCur t b i
    (fieldOf (s.intArgs t a b i).ra (f % 64) (f / 64 % 64 + 1) : Nat))).countLane m)

/-- One relation of `vcmp` (Table 3.11). -/
def intCmp (cc : Cmp) (a b : Int) : Bool :=
  match cc with
  | .eq => a == b
  | .ne => a != b
  | .lt => decide (a < b)
  | .le => decide (a ≤ b)
  | .gt => decide (b < a)
  | .ge => decide (b ≤ a)

def execVcmp (t : IType) (cc : Cmp) (d : PReg) (a : VReg) (b : BSrc) (c : LaneCtl) (s : State) :
    Host.Outcome State Fault Refusal :=
  let m := s.lanes c
  .next ((s.writePred s.laneCur d m (fun i => let x := s.intArgs t a b i; intCmp cc x.a x.b)).countLane m)

/-! ### Predicates (R98) -/

/-- Q(i) of the predicate-logic instructions. -/
def State.predQ (s : State) (b : PSrc) (i : Nat) : Bool :=
  match b with
  | .pred p => ((s.thread s.laneCur).pred p.val).getLsbD i
  | .imm x => x

def State.predLogic (s : State) (d a : PReg) (b : PSrc) (c : LaneCtl) (f : Bool → Bool → Bool) : State :=
  let m := s.lanes c
  (s.writePred s.laneCur d m (fun i =>
    f (((s.thread s.laneCur).pred a.val).getLsbD i) (s.predQ b i))).countLane m

def execPand (d a : PReg) (b : PSrc) (c : LaneCtl) (s : State) : Host.Outcome State Fault Refusal :=
  .next (s.predLogic d a b c (fun x y => x && y))
def execPor (d a : PReg) (b : PSrc) (c : LaneCtl) (s : State) : Host.Outcome State Fault Refusal :=
  .next (s.predLogic d a b c (fun x y => x || y))
def execPxor (d a : PReg) (b : PSrc) (c : LaneCtl) (s : State) : Host.Outcome State Fault Refusal :=
  .next (s.predLogic d a b c (fun x y => x != y))
def execPandn (d a : PReg) (b : PSrc) (c : LaneCtl) (s : State) : Host.Outcome State Fault Refusal :=
  .next (s.predLogic d a b c (fun x y => x && !y))
def execPset (d : PReg) (b : BSrc) (c : LaneCtl) (s : State) : Host.Outcome State Fault Refusal :=
  let m := s.lanes c
  .next ((s.writePred s.laneCur d m (fun i =>
    match b with
    | .vec v => (s.row s.laneCur v.val).at i != 0
    | .sca r => ((s.thread s.laneCur).sreg r).getLsbD i
    | .imm x => x.getLsbD 0)).countLane m)
def execPget (d : VReg) (a : PReg) (c : LaneCtl) (s : State) : Host.Outcome State Fault Refusal :=
  let m := s.lanes c
  .next ((s.writeLanes s.laneCur .z32 d m (fun i =>
    if ((s.thread s.laneCur).pred a.val).getLsbD i then 1 else 0)).countLane m)

/-! ### Lane movement (R99, R100) -/

/-- vd of lane i ← a of lane j(i), or 0 where the source lies outside the group. -/
def State.moveLanes (s : State) (t : IType) (d a : VReg) (c : LaneCtl) (j : Nat → Option Nat) : State :=
  let m := s.lanes c
  (s.writeLanes s.laneCur t d m (fun i =>
    match j i with
    | some k => readElem t (s.vecBits s.laneCur t a k)
    | none => 0)).countLane m

/-- The scalar or index operand of a lane movement: the low 32 bits. -/
def State.moveArg (s : State) (b : BSrc) (i : Nat) : Nat := s.bBits s.laneCur .i32 b i % 2 ^ 32

def execVxchg (t : IType) (d a : VReg) (b : BSrc) (c : LaneCtl) (s : State) : Host.Outcome State Fault Refusal :=
  .next (s.moveLanes t d a c (fun i => some (i ^^^ (2 ^ (s.moveArg b i % 64) % 64))))
def execVshift (t : IType) (d a : VReg) (b : BSrc) (c : LaneCtl) (s : State) : Host.Outcome State Fault Refusal :=
  .next (s.moveLanes t d a c (fun i =>
    let j : Int := i + (BitVec.ofNat 32 (s.moveArg b i)).toInt
    if 0 ≤ j ∧ j ≤ 63 then some j.toNat else none))
def execVperm (t : IType) (d a b : VReg) (c : LaneCtl) (s : State) : Host.Outcome State Fault Refusal :=
  .next (s.moveLanes t d a c (fun i => some (s.moveArg (.vec b) i % 64)))
def execVbcast (t : IType) (d a : VReg) (b : BSrc) (c : LaneCtl) (s : State) : Host.Outcome State Fault Refusal :=
  .next (s.moveLanes t d a c (fun i => some (s.moveArg b i % 64)))

/-! ### Reduction and prefix (R101) -/

/-- One combination at width w, on w-bit patterns. -/
def redStep (op : RedOp) (w : Nat) (x y : Nat) : Nat :=
  match op with
  | .add => (x + y) % 2 ^ w
  | .minS => if signedOf w y < signedOf w x then y else x
  | .minZ => min x y
  | .maxS => if signedOf w x < signedOf w y then y else x
  | .maxZ => max x y
  | .and => x &&& y
  | .or => x ||| y
  | .xor => x ^^^ y

/-- The running combinations over the lanes taken in order: each lane with the value up to and including it. -/
def scanLanes (op : RedOp) (w : Nat) (v : Nat → Nat) : Option Nat → List Nat → List (Nat × Nat)
  | _, [] => []
  | none, i :: is => (i, v i) :: scanLanes op w v (some (v i)) is
  | some y, i :: is => let z := redStep op w y (v i); (i, z) :: scanLanes op w v (some z) is

def State.scanOf (s : State) (op : RedOp) (t : IType) (a : VReg) (m : BitVec 64) : List (Nat × Nat) :=
  scanLanes op t.width (fun i => rawElem t (s.vecBits s.laneCur t a i)) none (setLanes m)

def execVred (op : RedOp) (t : IType) (d a : VReg) (c : LaneCtl) (s : State) : Host.Outcome State Fault Refusal :=
  let m := s.lanes c
  let y := ((s.scanOf op t a m).getLast?).elim 0 (·.2)
  .next ((s.writeLanes s.laneCur t d m (fun _ => (y : Nat))).countLane m)
def execVscan (op : RedOp) (t : IType) (d a : VReg) (c : LaneCtl) (s : State) : Host.Outcome State Fault Refusal :=
  let m := s.lanes c
  let ys := s.scanOf op t a m
  .next ((s.writeLanes s.laneCur t d m (fun i => (fgetD ys i 0 : Nat))).countLane m)

/-! ### Random numbers (R112) -/

def rotl32 (h : Elem) (n : Nat) : Elem := (h <<< n) ||| (h >>> (32 - n))

/-- One round: D, C and S of Table 5.9 and the key half. -/
def randRound (h key d m : Elem) (n : Nat) : Elem :=
  let x := rotl32 ((h ^^^ key ^^^ d) * m) n
  x ^^^ (x >>> 16)

/-- The value of `vrand` for a key and a counter. -/
def randValue (k0 k1 h : Elem) : Elem :=
  let h0 := randRound h k0 0x6F1C2A95 0x8C35A2E7 7
  let h1 := randRound h0 k1 0x3B9ED471 0xB56D1F4B 11
  let h2 := randRound h1 k0 0xC84D136B 0xD2B74407 17
  randRound h2 k1 0x27F58E0D 0x9E4A6C35 23

def execVrand (d a : VReg) (k : SReg) (c : LaneCtl) (s : State) : Host.Outcome State Fault Refusal :=
  let m := s.lanes c
  let t := s.thread s.laneCur
  let k0 : Elem := (t.sreg k).setWidth 32
  let k1 : Elem := (fgetD t.sregs (k.val + 1) 0).setWidth 32
  .next ((s.writeLanes s.laneCur .z32 d m (fun i =>
    ((randValue k0 k1 ((s.row s.laneCur a.val).at i)).toNat : Int))).countLane m)

/-- `vnop` changes no state (R113); the lane counters count it. -/
def execVnop (c : LaneCtl) (s : State) : Host.Outcome State Fault Refusal := .next (s.countLane (s.lanes c))

end Sys2Proof.Machine
end

