-- ==== Sys2Proof/Machine/LaneFloat.lean ====
section
/-! DEFINITION. Lane floating point, conversion, quantiser and special functions (R137–R157). -/

namespace Sys2Proof.Machine

/-- A floating immediate (R38): a BF16 pattern rounded to nearest-even into the format; a NaN pattern is the
canonical NaN. -/
def floatImm (f : Fmt) (x : BitVec 16) : Nat := (roundVal f .rne (bf16.value x.toNat)).1

/-- The element that a second source supplies to a floating instruction (R137). -/
def State.fbElem (s : State) (t : FType) (b : BSrc) (i : Nat) : Elem :=
  match b with
  | .vec v => (s.row s.laneCur v.val).at i
  | .sca r => ((s.thread s.laneCur).sreg r).setWidth 32
  | .imm x =>
    let k := floatImm (ftypeFmt t) x
    BitVec.ofNat 32 (if t = .bf16x2 then k * 65536 + k else k)

def State.fcElem (s : State) (x : CSrc) (i : Nat) : Elem :=
  match x with
  | .vec v => (s.row s.laneCur v.val).at i
  | .sca r => ((s.thread s.laneCur).sreg r).setWidth 32

/-- Write elements in the participating lanes and OR their flags into FPX (R127). -/
def State.writeFloat (s : State) (d : VReg) (m : BitVec 64) (f : Nat → Elem × Flags) : State :=
  let s1 := s.setRow s.laneCur d.val ((s.row s.laneCur d.val).blend m (fun i => (f i).1))
  (s1.raiseFp s.laneCur (joinFlags ((setLanes m).map (fun i => (f i).2))) (s.thread s.laneCur).laneClause).countLane m

/-- The effective rounding mode of the lane word that runs (R122). -/
def State.laneMode (s : State) (r : RndOv) : RMode := effMode s.laneCtx.rmode r

/-- vd ← op(A, B) in the format of t, the halves of .bf16x2 separately. -/
def State.fop2 (s : State) (t : FType) (d a : VReg) (b : BSrc) (c : LaneCtl) (op : Fmt → Nat → Nat → Nat × Flags) :
    State :=
  s.writeFloat d (s.lanes c) (fun i =>
    onHalves t (fun x y _ => op (ftypeFmt t) x y) ((s.row s.laneCur a.val).at i) (s.fbElem t b i) 0)

def State.fop1 (s : State) (t : FType) (d a : VReg) (c : LaneCtl) (op : Fmt → Nat → Nat × Flags) : State :=
  s.fop2 t d a (.imm 0) c (fun f x _ => op f x)

def execVfadd (t : FType) (r : RndOv) (d a : VReg) (b : BSrc) (c : LaneCtl) (s : State) :
    Host.Outcome State Fault Refusal := .next (s.fop2 t d a b c (fun f => fAdd f (s.laneMode r)))
def execVfsub (t : FType) (r : RndOv) (d a : VReg) (b : BSrc) (c : LaneCtl) (s : State) :
    Host.Outcome State Fault Refusal := .next (s.fop2 t d a b c (fun f => fSub f (s.laneMode r)))
def execVfmul (t : FType) (r : RndOv) (d a : VReg) (b : BSrc) (c : LaneCtl) (s : State) :
    Host.Outcome State Fault Refusal :=
  .next (s.fop2 t d a b c (fun f x y => roundPair f (s.laneMode r) ((f.value x).mul (f.value y))))
def execVfma (t : FType) (r : RndOv) (d a : VReg) (b : BSrc) (z : CSrc) (c : LaneCtl) (s : State) :
    Host.Outcome State Fault Refusal :=
  .next (s.writeFloat d (s.lanes c) (fun i =>
    onHalves t (fFma (ftypeFmt t) (s.laneMode r)) ((s.row s.laneCur a.val).at i) (s.fbElem t b i) (s.fcElem z i)))
def execVfmin (t : FType) (_r : RndOv) (d a : VReg) (b : BSrc) (c : LaneCtl) (s : State) :
    Host.Outcome State Fault Refusal := .next (s.fop2 t d a b c (fun f => fMinMax f false))
def execVfmax (t : FType) (_r : RndOv) (d a : VReg) (b : BSrc) (c : LaneCtl) (s : State) :
    Host.Outcome State Fault Refusal := .next (s.fop2 t d a b c (fun f => fMinMax f true))
def execVfsgn (t : FType) (_r : RndOv) (d a : VReg) (b : BSrc) (c : LaneCtl) (s : State) :
    Host.Outcome State Fault Refusal := .next (s.fop2 t d a b c fSgn)

/-- One lane of `vfcmp`: both halves must hold for .bf16x2. -/
def fcmpLane (t : FType) (cc : FCmp) (a b : Elem) : Bool × Flags :=
  let f := ftypeFmt t
  let lo := fCmp f cc (a.toNat % 2 ^ f.width) (b.toNat % 2 ^ f.width)
  if t = .bf16x2 then
    let hi := fCmp f cc (a.toNat / 65536) (b.toNat / 65536)
    (lo.1 && hi.1, lo.2 ||| hi.2)
  else lo

def execVfcmp (t : FType) (cc : FCmp) (_r : RndOv) (d : PReg) (a : VReg) (b : BSrc) (c : LaneCtl) (s : State) :
    Host.Outcome State Fault Refusal :=
  let m := s.lanes c
  let f (i : Nat) : Bool × Flags := fcmpLane t cc ((s.row s.laneCur a.val).at i) (s.fbElem t b i)
  .next (((s.writePred s.laneCur d m (fun i => (f i).1)).raiseFp s.laneCur
    (joinFlags ((setLanes m).map (fun i => (f i).2))) (s.thread s.laneCur).laneClause).countLane m)
def execVfcls (t : FType) (_r : RndOv) (d a : VReg) (c : LaneCtl) (s : State) : Host.Outcome State Fault Refusal :=
  .next (s.fop1 t d a c fCls)
def execVfrnd (t : FType) (r : RndOv) (d a : VReg) (c : LaneCtl) (s : State) : Host.Outcome State Fault Refusal :=
  .next (s.fop1 t d a c (fun f => fRnd f (s.laneMode r)))

/-! ### Conversion (R142) -/

def execVfcvt (td ts : CvtType) (r : RndOv) (d a : VReg) (b : BSrc) (c : LaneCtl) (s : State) :
    Host.Outcome State Fault Refusal :=
  let m := s.lanes c
  let mode := s.laneMode r
  let src (i : Nat) : Elem := (s.row s.laneCur a.val).at i
  let lowOf (x : Nat × Flags) : Elem × Flags := (BitVec.ofNat 32 x.1, x.2)
  if td = .bf16x2 then
    .next (s.writeFloat d m (fun i =>
      let lo := roundVal bf16 mode (fp32.value (src i).toNat)
      let hi := roundVal bf16 mode (fp32.value (s.fbElem .f32 b i).toNat)
      (BitVec.ofNat 32 (hi.1 * 65536 + lo.1), lo.2 ||| hi.2)))
  else if ts = .bf16x2 then
    let s1 := s.writeFloat d m (fun i => lowOf (roundVal fp32 mode (bf16.value ((src i).toNat % 65536))))
    .next (s1.setRow s.laneCur (d.val + 1) ((s.row s.laneCur (d.val + 1)).blend m
      (fun i => BitVec.ofNat 32 (roundVal fp32 mode (bf16.value ((src i).toNat / 65536))).1)))
  else .next (s.writeFloat d m (fun i => lowOf (fCvt td ts mode (src i))))

/-! ### Quantiser (R143, R144) -/

/-- The participating lanes of the block of L lanes that holds lane i. -/
def blockOfLane (l : BlockLen) (m : BitVec 64) (i : Nat) : List Nat :=
  let n := blockLanes l
  (setLanes m).filter (fun j => j / n == i / n)

/-- The scale and the element of one lane, with its flags. -/
def State.quantLane (s : State) (t : QType) (l : BlockLen) (sf : ScaleFmt) (mode : RMode) (a : VReg) (m : BitVec 64)
    (i : Nat) : Nat × Nat × Flags :=
  let js := blockOfLane l m i
  let r := quantBlock (qtypeFmt t) sf mode (js.map (fun j => fp32.value ((s.row s.laneCur a.val).at j).toNat))
  match (js.zip r.2).find? (fun x => x.1 == i) with
  | some x => (r.1, x.2.1, x.2.2)
  | none => (r.1, 0, 0)

def execVquant (t : QType) (l : BlockLen) (sf : ScaleFmt) (r : RndOv) (d a : VReg) (c : LaneCtl) (s : State) :
    Host.Outcome State Fault Refusal :=
  let m := s.lanes c
  let q := s.quantLane t l sf (s.laneMode r) a m
  let s1 := s.writeFloat d m (fun i => (BitVec.ofNat 32 (q i).2.1, (q i).2.2))
  .next (s1.setRow s.laneCur (d.val + 1) ((s.row s.laneCur (d.val + 1)).blend m (fun i => BitVec.ofNat 32 (q i).1)))

/-- The scale code that lane i of `vdequant` uses. -/
def State.scaleCode (s : State) (l : BlockLen) (b : BSrc) (i : Nat) : Nat :=
  match b with
  | .vec v => ((s.row s.laneCur v.val).at (i / blockLanes l * blockLanes l)).toNat % 256
  | .sca r => ((s.thread s.laneCur).sreg r).toNat % 256
  | .imm x => x.toNat % 256

def execVdequant (t : QType) (l : BlockLen) (sf : ScaleFmt) (r : RndOv) (d a : VReg) (b : BSrc) (c : LaneCtl)
    (s : State) : Host.Outcome State Fault Refusal :=
  .next (s.writeFloat d (s.lanes c) (fun i =>
    let x := dequantElem (qtypeFmt t) sf (s.laneMode r) ((s.row s.laneCur a.val).at i).toNat (s.scaleCode l b i)
    (BitVec.ofNat 32 x.1, x.2)))

/-! ### Special functions (R145–R157) -/

/-- A special function under the captured function-table version. -/
def State.special (s : State) (fn : SFun) (t : SType) (r : RndOv) (d a : VReg) (c : LaneCtl) : State :=
  let f := stypeFmt t
  s.writeFloat d (s.lanes c) (fun i =>
    let x := specialFun fn f (s.laneMode r) s.laneCtx.ftv (((s.row s.laneCur a.val).at i).toNat % 2 ^ f.width)
    (BitVec.ofNat 32 x.1, x.2))

def execVrcp (t : SType) (r : RndOv) (d a : VReg) (c : LaneCtl) (s : State) : Host.Outcome State Fault Refusal :=
  .next (s.special .rcp t r d a c)
def execVrsqrt (t : SType) (r : RndOv) (d a : VReg) (c : LaneCtl) (s : State) : Host.Outcome State Fault Refusal :=
  .next (s.special .rsqrt t r d a c)
def execVsqrt (t : SType) (r : RndOv) (d a : VReg) (c : LaneCtl) (s : State) : Host.Outcome State Fault Refusal :=
  .next (s.special .sqrt t r d a c)
def execVexp2 (t : SType) (r : RndOv) (d a : VReg) (c : LaneCtl) (s : State) : Host.Outcome State Fault Refusal :=
  .next (s.special .exp2 t r d a c)
def execVlog2 (t : SType) (r : RndOv) (d a : VReg) (c : LaneCtl) (s : State) : Host.Outcome State Fault Refusal :=
  .next (s.special .log2 t r d a c)
def execVsin (t : SType) (r : RndOv) (d a : VReg) (c : LaneCtl) (s : State) : Host.Outcome State Fault Refusal :=
  .next (s.special .sin t r d a c)
def execVcos (t : SType) (r : RndOv) (d a : VReg) (c : LaneCtl) (s : State) : Host.Outcome State Fault Refusal :=
  .next (s.special .cos t r d a c)
def execVtanh (t : SType) (r : RndOv) (d a : VReg) (c : LaneCtl) (s : State) : Host.Outcome State Fault Refusal :=
  .next (s.special .tanh t r d a c)

end Sys2Proof.Machine
end

