-- ==== Sys2Proof/Machine/ScalarMem.lean ====
section
/-! DEFINITION. Scalar loads and stores, references and atomics (R68–R76). -/

namespace Sys2Proof.Machine

def execLdI8 (d a : SReg) (imm : BitVec 13) (s : State) : Host.Outcome State Fault Refusal :=
  .next (s.scalarLoad d a imm 1 true)
def execLdZ8 (d a : SReg) (imm : BitVec 13) (s : State) : Host.Outcome State Fault Refusal :=
  .next (s.scalarLoad d a imm 1 false)
def execLdI16 (d a : SReg) (imm : BitVec 13) (s : State) : Host.Outcome State Fault Refusal :=
  .next (s.scalarLoad d a imm 2 true)
def execLdZ16 (d a : SReg) (imm : BitVec 13) (s : State) : Host.Outcome State Fault Refusal :=
  .next (s.scalarLoad d a imm 2 false)
def execLdI32 (d a : SReg) (imm : BitVec 13) (s : State) : Host.Outcome State Fault Refusal :=
  .next (s.scalarLoad d a imm 4 true)
def execLdZ32 (d a : SReg) (imm : BitVec 13) (s : State) : Host.Outcome State Fault Refusal :=
  .next (s.scalarLoad d a imm 4 false)
def execLd64 (d a : SReg) (imm : BitVec 13) (s : State) : Host.Outcome State Fault Refusal :=
  .next (s.scalarLoad d a imm 8 false)
def execSt8 (d a : SReg) (imm : BitVec 13) (s : State) : Host.Outcome State Fault Refusal :=
  .next (s.scalarStore d a imm 1)
def execSt16 (d a : SReg) (imm : BitVec 13) (s : State) : Host.Outcome State Fault Refusal :=
  .next (s.scalarStore d a imm 2)
def execSt32 (d a : SReg) (imm : BitVec 13) (s : State) : Host.Outcome State Fault Refusal :=
  .next (s.scalarStore d a imm 4)
def execSt64 (d a : SReg) (imm : BitVec 13) (s : State) : Host.Outcome State Fault Refusal :=
  .next (s.scalarStore d a imm 8)
def execLdref (d a : SReg) (off : BitVec 10) (s : State) : Host.Outcome State Fault Refusal := .next (s.loadRef d a off)
def execStref (d a : SReg) (off : BitVec 10) (s : State) : Host.Outcome State Fault Refusal := .next (s.storeRef d a off)

def execAmoAdd (d a b : SReg) (ord : AmoOrd) (sc : Scope) (s : State) : Host.Outcome State Fault Refusal :=
  .next (s.amo .add d a b ord sc)
def execAmoAnd (d a b : SReg) (ord : AmoOrd) (sc : Scope) (s : State) : Host.Outcome State Fault Refusal :=
  .next (s.amo .and d a b ord sc)
def execAmoOr (d a b : SReg) (ord : AmoOrd) (sc : Scope) (s : State) : Host.Outcome State Fault Refusal :=
  .next (s.amo .or d a b ord sc)
def execAmoXor (d a b : SReg) (ord : AmoOrd) (sc : Scope) (s : State) : Host.Outcome State Fault Refusal :=
  .next (s.amo .xor d a b ord sc)
def execAmoMinS (d a b : SReg) (ord : AmoOrd) (sc : Scope) (s : State) : Host.Outcome State Fault Refusal :=
  .next (s.amo .minS d a b ord sc)
def execAmoMinZ (d a b : SReg) (ord : AmoOrd) (sc : Scope) (s : State) : Host.Outcome State Fault Refusal :=
  .next (s.amo .minZ d a b ord sc)
def execAmoMaxS (d a b : SReg) (ord : AmoOrd) (sc : Scope) (s : State) : Host.Outcome State Fault Refusal :=
  .next (s.amo .maxS d a b ord sc)
def execAmoMaxZ (d a b : SReg) (ord : AmoOrd) (sc : Scope) (s : State) : Host.Outcome State Fault Refusal :=
  .next (s.amo .maxZ d a b ord sc)
def execAmoSwap (d a b : SReg) (ord : AmoOrd) (sc : Scope) (s : State) : Host.Outcome State Fault Refusal :=
  .next (s.amo .swap d a b ord sc)
def execAmoCas (d a b : SReg) (ord : AmoOrd) (sc : Scope) (s : State) : Host.Outcome State Fault Refusal :=
  .next (s.amo .cas d a b ord sc)

end Sys2Proof.Machine
end

