-- ==== Sys2Proof/Machine/SpecialRegs.lean ====
section
/-! DEFINITION. Special registers: `sget` and `sset` (R57–R59), the privileged registers of a plot system core (R312,
R408), the debug registers (R362), and the writes that are events of their own. -/

namespace Sys2Proof.Machine

open Sys2Proof

/-! ### Which registers there are, and who reaches them (R57, R58) -/

/-- Whether an index lies between two others, both included. -/
def between (lo hi i : Nat) : Bool := decide (lo ≤ i) && decide (i ≤ hi)

/-- Allocated indices of Table 4.4. -/
def isCommon (i : Nat) : Bool :=
  between 0 0x00B i || between 0x010 0x011 i || between 0x020 0x023 i || between 0x030 0x031 i || between 0x040 0x043 i
    || between 0x050 0x057 i || between 0x100 0x105 i || i == 0x180

/-- Allocated indices of Tables 15.2 and 20.1. -/
def isPrivileged (i : Nat) : Bool :=
  between 0x400 0x407 i || between 0x410 0x419 i || between 0x420 0x424 i || between 0x428 0x42C i || between 0x430 0x436 i
    || between 0x438 0x43A i || between 0x440 0x442 i || between 0x450 0x451 i || between 0x460 0x461 i

/-- Allocated indices of Table 17.4. -/
def isDebug (i : Nat) : Bool :=
  between 0x800 0x804 i || between 0x808 0x80C i || between 0x810 0x816 i || between 0x820 0x82F i || between 0x830 0x832 i
    || between 0x840 0x847 i || between 0x850 0x851 i

/-- A plot system core in privileged mode. -/
def State.atPlotCore (s : State) : Bool := isSysKey s.cur && decide (s.cur < sysKey 48) && s.th.privileged

def State.readable (s : State) (i : Nat) : Bool := isCommon i || ((isPrivileged i || isDebug i) && s.atPlotCore)

/-- Registers that are written: RW of Tables 4.4, 15.2, 17.4 and 20.1, and STOPAT by a privileged system core. -/
def State.writable (s : State) (i : Nat) : Bool :=
  if isCommon i then i == 0x001 || between 0x020 0x023 i || (i == 0x180 && isSysKey s.cur && s.th.privileged)
  else
    s.atPlotCore && (isPrivileged i || isDebug i)
      && !(between 0x405 0x406 i || between 0x410 0x412 i || between 0x416 0x417 i || i == 0x422 || i == 0x42A
        || between 0x434 0x435 i || between 0x441 0x442 i || between 0x450 0x451 i || i == 0x803 || i == 0x80A || i == 0x80C
        || i == 0x812 || i == 0x815 || between 0x850 0x851 i)

/-! ### sget -/

/-- The registers that a handler alone reads (Table 4.4). -/
def Thread.trapReg (t : Thread) (i : Nat) : Nat :=
  if t.status ≠ .handler then 0
  else
    match i with
    | 0x100 => t.tcause.toNat
    | 0x101 => t.tpc.toNat
    | 0x102 => t.tclause.toNat
    | 0x103 => t.tindex.toNat
    | 0x104 => t.tlanes.toNat
    | _ => t.trecord.toNat

/-- A register of Table 4.4 that tells an agent where it runs: 0 on a system core. -/
def State.placeReg (s : State) (i : Nat) : Nat :=
  if isSysKey s.cur then 0
  else
    let c := coreOfKey s.cur
    let g := ctxOfKey (s.countKey s.cur)
    match s.blockOf s.cur with
    | none => 0
    | some b =>
      match i with
      | 0x000 => g * b.launch.rowStride
      | 0x004 => g
      | 0x005 => b.blockId
      | 0x006 => tileX c
      | 0x007 => tileY c
      | 0x008 => b.launch.w
      | 0x009 => b.launch.h
      | 0x00A => b.x0
      | _ => b.y0

/-- The registers below 0x400 (Table 4.4). PHASE and TAGERR of a system core are not among those that R58 says read 0
there: the model's choice is 0 for both (log entry 110). -/
def State.commonReg (s : State) (i : Nat) : Nat :=
  let t := s.th
  let sys := isSysKey s.cur
  if i = 0x001 then t.mask.toNat
  else if i = 0x002 then t.depth
  else if i = 0x003 then t.flags.toNat
  else if i ≤ 0x00B then s.placeReg i
  else if i = 0x010 then (if sys then 2 ^ 64 - 1 else (s.tagReady (coreOfKey s.cur)).toNat)
  else if i = 0x011 then (if sys then 0 else (s.tagErr (coreOfKey s.cur)).toNat)
  else if i = 0x020 then t.ftv.toNat
  else if i = 0x021 then t.fpx.toNat
  else if i = 0x022 then t.fptrap.toNat
  else if i = 0x023 then t.rmode.toNat
  else if i = 0x030 then s.cycle
  else if i = 0x031 then (if sys then 0 else (s.launchOf s.cur).phase)
  else if i ≤ 0x043 then
    (if !isSproutKey s.cur then 0
      else
        match i with
        | 0x040 => t.burst
        | 0x041 => t.baddr.toNat
        | 0x042 => t.brow.toNat
        | _ => t.boff.toNat)
  else if i ≤ 0x057 then (t.bt (i - 0x050)).limit.toNat
  else if i ≤ 0x105 then t.trapReg i
  else if sysKey 48 ≤ s.cur then s.pkgStopAt.toNat
  else (s.plot (s.plotOf s.cur)).stopAt.toNat

/-- LEND.OUT: the first lent cluster. -/
def Plot.lendOut (p : Plot) : Nat := match p.lends with | l :: _ => l.cluster + l.borrower * 2 ^ 8 | [] => 0xFF

/-- Registers of Tables 15.2 and 20.1. -/
def State.privReg (s : State) (i : Nat) : Nat :=
  let t := s.th
  let p := s.plot (s.plotOf s.cur)
  let v := fgetD p.vfs p.vfSel {}
  match i with
  | 0x400 => t.sys.smode.toNat
  | 0x401 => t.sys.ien.toNat
  | 0x402 => t.sys.ivec.toNat
  | 0x403 => t.sys.ipc.toNat
  | 0x404 => t.sys.imode.toNat
  | 0x405 => t.sys.icause.toNat
  | 0x406 => t.sys.ival.toNat
  | 0x407 => t.sys.ipend.toNat
  | 0x410 => p.id
  | 0x411 => p.vfCount
  | 0x412 => p.vfCur
  | 0x413 => p.vfSel
  | 0x414 => v.weight.toNat
  | 0x415 => v.quantum.toNat
  | 0x416 => v.effq.toNat
  | 0x417 => v.status.toNat
  | 0x418 => v.root.toNat
  | 0x419 => v.save.toNat
  | 0x420 => p.fring.base.toNat
  | 0x421 => p.fring.cap.toNat
  | 0x422 => p.fring.head.toNat
  | 0x423 => p.fring.tail.toNat
  | 0x424 => p.fpost.toNat
  | 0x428 => p.sysc.base.toNat
  | 0x429 => p.sysc.cap.toNat
  | 0x42A => p.sysc.head.toNat
  | 0x42B => p.sysc.tail.toNat
  | 0x42C => p.syscPost.toNat
  | 0x430 => p.walkBase.toNat
  | 0x431 => p.walkCap.toNat
  | 0x432 => p.flog.base.toNat
  | 0x433 => p.flog.cap.toNat
  | 0x434 => p.flog.head.toNat
  | 0x435 => p.flog.lost.toNat
  | 0x436 => p.flog.tail.toNat
  | 0x438 => p.lovfBase.toNat
  | 0x439 => p.lovfCap.toNat
  | 0x43A => p.lcomp.toNat
  | 0x440 => p.poolBase.toNat
  | 0x441 => (s.cleanPages p).length
  | 0x442 => p.scrub.foldl (fun n q => n + q.bytes / 4096) 0
  | 0x450 => p.keySlots.toNat
  | 0x451 => p.lendOut
  | 0x460 => v.winVa.toNat
  | _ => v.hring.toNat

/-- Registers of Table 17.4. -/
def State.debugReg (s : State) (i : Nat) : Nat :=
  let p := s.plot (s.plotOf s.cur)
  match i with
  | 0x800 => p.cksCtl.toNat
  | 0x801 => p.cks.base.toNat
  | 0x802 => p.cks.cap.toNat
  | 0x803 => p.cks.head.toNat
  | 0x804 => p.cks.tail.toNat
  | 0x808 => p.trec.base.toNat
  | 0x809 => p.trec.cap.toNat
  | 0x80A => p.trec.head.toNat
  | 0x80B => p.trec.tail.toNat
  | 0x80C => p.trec.lost.toNat
  | 0x810 => p.trc.base.toNat
  | 0x811 => p.trc.cap.toNat
  | 0x812 => p.trc.head.toNat
  | 0x813 => p.trc.tail.toNat
  | 0x814 => p.trcState.toNat
  | 0x815 => p.trc.lost.toNat
  | 0x816 => p.smpPeriod.toNat
  | 0x830 => p.ctxid.toNat
  | 0x831 => p.panic.toNat
  | 0x832 => 0
  | 0x850 => p.pairStat.toNat
  | 0x851 => p.alignOfs.toNat
  | n => if n < 0x830 then (fgetD p.trig (n - 0x820) 0).toNat else (fgetD p.brk (n - 0x840) 0).toNat

/-- A special register, zero-extended. -/
def State.specialValue (s : State) (i : Nat) : Word :=
  BitVec.ofNat 64 (if isCommon i then s.commonReg i else if isPrivileged i then s.privReg i else s.debugReg i)

def execSget (d : SReg) (idx : BitVec 12) (s : State) : Host.Outcome State Fault Refusal :=
  .next (
    if !s.readable idx.toNat then s.trapNow cIllegal
    else s.issue anyone [d] (fun s => s.finish d (s.specialValue idx.toNat)))

/-! ### Posting fault completions (R319) -/

def FaultMsg.post (m : FaultMsg) (id : BitVec 32) (fatal : Bool) : FaultMsg :=
  if m.id = id ∧ m.posted = none then { m with posted := some fatal } else m

def EngineHold.post (h : EngineHold) (id : BitVec 32) (fatal : Bool) : EngineHold := { h with msg := h.msg.map (·.post id fatal) }

def Thread.post (t : Thread) (id : BitVec 32) (fatal : Bool) : Thread :=
  { t with
    log := t.log.map (fun e => { e with msgs := e.msgs.map (·.post id fatal) })
    walkHold := t.walkHold.map (·.post id fatal) }

def postOps (xs : List EngineOp) (id : BitVec 32) (fatal : Bool) : List EngineOp :=
  xs.map (fun o => { o with hold := o.hold.map (·.post id fatal) })

def postReads (xs : List HreadReq) (id : BitVec 32) (fatal : Bool) : List HreadReq :=
  xs.map (fun r => { r with hold := r.hold.map (·.post id fatal) })

def Parked.post (q : Parked) (plot : Nat) (id : BitVec 32) (fatal : Bool) : Parked :=
  if q.block.launch.plot ≠ plot then q
  else { q with threads := q.threads.map (fun t => (t.1, t.2.post id fatal)), eops := postOps q.eops id fatal, hreads := postReads q.hreads id fatal }

def Core.post (c : Core) (plot : Nat) (id : BitVec 32) (fatal : Bool) : Core :=
  let mine := c.block.elim false (fun b => b.launch.plot == plot)
  { c with
    eops := if mine then postOps c.eops id fatal else c.eops
    hreads := if mine then postReads c.hreads id fatal else c.hreads
    parked := c.parked.map (·.post plot id fatal) }

def Plot.post (p : Plot) (id : BitVec 32) (fatal : Bool) : Plot :=
  { p with
    outstanding := p.outstanding.filter (· ≠ id)
    pubs := p.pubs.map (fun r => { r with hold := r.hold.map (·.post id fatal) })
    running := p.running.map (fun l => { l with hold := l.hold.map (·.post id fatal) })
    recalled := p.recalled.map (·.post p.id id fatal) }

/-- A completion reaches whatever of the plot waits for the id; an id without an outstanding fault is ignored. -/
def State.post (s : State) (plot : Nat) (id : BitVec 32) (fatal : Bool) : State :=
  if !(s.plot plot).outstanding.contains id then s
  else
    { (s.modPlot plot (fun p => (p.post id fatal).forgetMissed (fun _ => false))) with
      threads := s.threads.map (fun t => if t.2.plot = plot then (t.1, t.2.post id fatal) else t)
      cores := s.cores.map (fun c => (c.1, c.2.post plot id fatal))
      hostReqs := s.hostReqs.map (fun r => if r.plot = plot then { r with hold := r.hold.map (·.post id fatal) } else r)
      nvme := s.nvme.map (fun q => (q.1, if q.1 / 64 = plot then { q.2 with hold := q.2.hold.map (·.post id fatal) } else q.2)) }

/-- A reply to a waiting `sysc`: the reply words go to s0 and s1, and the group goes on (R334). -/
def Thread.reply (t : Thread) (idx : BitVec 32) (a b : Word) : Thread :=
  if t.wait = .syscSent idx then { t with sregs := fset (fset t.sregs 0 a) 1 b, wait := .syscDone } else t

def State.syscReply (s : State) (plot : Nat) (idx : BitVec 32) : State :=
  let r := (s.plot plot).sysc
  let a := r.base.toNat + 128 * (idx.toNat % r.cap.toNat) + 80
  let x := s.mem.word a
  let y := s.mem.word (a + 8)
  let go (t : Nat × Thread) : Nat × Thread := if t.2.plot = plot then (t.1, t.2.reply idx x y) else t
  let off (qs : List Parked) : List Parked := qs.map (fun q => { q with threads := q.threads.map go })
  { (s.modPlot plot (fun p => { p with recalled := off p.recalled })) with
    threads := s.threads.map go
    cores := s.cores.map (fun c => (c.1, { c.2 with parked := off c.2.parked })) }

/-! ### sset -/

/-- An area of n bytes at an address, which must be the plot's own. -/
def Plot.areaOk (p : Plot) (a n : Nat) : Bool := decide (n = 0) || p.owns a n

def capOk (n : Nat) : Bool := decide (n = 0) || isPow2 n

/-- A base, or a capacity, of a ring of entries of a size. -/
def Plot.ringBase (p : Plot) (r : Ring) (size : Nat) (a : BitVec 56) : Option Ring :=
  if a.toNat % 4096 = 0 && p.areaOk a.toNat (size * r.cap.toNat) then some { r with base := a } else none

def Plot.ringCap (p : Plot) (r : Ring) (size : Nat) (n : BitVec 16) : Option Ring :=
  if capOk n.toNat && p.areaOk r.base.toNat (size * n.toNat) then some { r with cap := n } else none

/-- Change the virtual function that VF.SEL names. -/
def Plot.modSel (p : Plot) (f : Vf → Vf) : Plot := { p with vfs := fset p.vfs p.vfSel (f (fgetD p.vfs p.vfSel {})) }

/-- A write of a plot register that only sets it; none where the Meaning column refuses it. -/
def Plot.write (p : Plot) (i : Nat) (v : Word) : Option Plot :=
  let a56 : BitVec 56 := v.setWidth 56
  let n16 : BitVec 16 := v.setWidth 16
  let w32 : BitVec 32 := v.setWidth 32
  match i with
  | 0x413 => if v.toNat % 64 < p.vfCount then some { p with vfSel := v.toNat % 64 } else none
  | 0x418 =>
    let r : BitVec 52 := v.setWidth 52
    if r.toNat % 4096 = 0 && p.areaOk r.toNat 2048 then some (p.modSel (fun f => { f with root := r, status := 0, tdisp := .error })) else none
  | 0x419 =>
    if a56.toNat % 2 ^ 21 = 0 && p.areaOk a56.toNat (0x240000 * (8 * p.clusters.length)) then
      some (p.modSel (fun f => { f with save := a56, status := 0 })) else none
  | 0x420 => (p.ringBase p.fring 32 a56).map (fun r => { p with fring := r })
  | 0x421 => (p.ringCap p.fring 32 n16).map (fun r => { p with fring := r })
  | 0x423 => some { p with fring := { p.fring with tail := w32 } }
  | 0x428 => (p.ringBase p.sysc 128 a56).map (fun r => { p with sysc := r })
  | 0x429 => (p.ringCap p.sysc 128 n16).map (fun r => { p with sysc := r })
  | 0x42B => some { p with sysc := { p.sysc with tail := w32 } }
  | 0x430 => if a56.toNat % 4096 = 0 && p.areaOk a56.toNat p.walkCap.toNat then some { p with walkBase := a56 } else none
  | 0x431 =>
    let n : BitVec 48 := v.setWidth 48
    if (decide (n = 0) || decide (0x10000 ≤ n.toNat)) && p.areaOk p.walkBase.toNat n.toNat then some { p with walkCap := n } else none
  | 0x432 => (p.ringBase p.flog 2048 a56).map (fun r => { p with flog := r })
  | 0x433 => (p.ringCap p.flog 2048 n16).map (fun r => { p with flog := r })
  | 0x436 => some { p with flog := { p.flog with tail := w32 } }
  | 0x438 => if a56.toNat % 64 = 0 && p.areaOk a56.toNat (64 * p.lovfCap.toNat) then some { p with lovfBase := a56 } else none
  | 0x439 => if p.areaOk p.lovfBase.toNat (64 * n16.toNat) then some { p with lovfCap := n16 } else none
  | 0x43A => some { p with lcomp := p.lcomp &&& ~~~v }
  | 0x440 => if a56.toNat % 4096 = 0 && p.areaOk a56.toNat ((p.poolBits + 7) / 8) then some { p with poolBase := a56 } else none
  | 0x460 =>
    if a56.toNat % 2 ^ (fgetD p.vfs p.vfSel {}).winBits = 0 then some (p.modSel (fun f => { f with winVa := a56, tdisp := .error })) else none
  | 0x800 => some { p with cksCtl := v.setWidth 1 }
  | 0x801 => (p.ringBase p.cks 32 a56).map (fun r => { p with cks := r })
  | 0x802 => (p.ringCap p.cks 32 n16).map (fun r => { p with cks := r })
  | 0x804 => some { p with cks := { p.cks with tail := w32 } }
  | 0x808 => (p.ringBase p.trec 64 a56).map (fun r => { p with trec := r })
  | 0x809 => (p.ringCap p.trec 64 n16).map (fun r => { p with trec := r })
  | 0x80B => some { p with trec := { p.trec with tail := w32 } }
  | 0x810 => (p.ringBase p.trc 16 a56).map (fun r => { p with trc := r })
  | 0x811 => (p.ringCap p.trc 16 n16).map (fun r => { p with trc := r })
  | 0x813 => some { p with trc := { p.trc with tail := w32 } }
  | n =>
    if between 0x820 0x82F n then
      (if 6 ≤ trigField v 0 4 ∨ 6 ≤ trigField v 4 4 then none
        else some { p with trig := fset p.trig (n - 0x820) (v &&& ~~~(0xE00 : Word)) })
    else if between 0x840 0x847 n then some { p with brk := fset p.brk (n - 0x840) a56 }
    else some p

/-- A write of TRC.STATE (Table 17.4). -/
def Plot.writeTrc (p : Plot) (v : BitVec 2) : Option Plot :=
  if v = 3 ∨ (p.trcState = 2 ∧ v ≠ 0) then none else some { p with trcState := v }

/-- A write of SMP.PERIOD. -/
def Plot.writePeriod (p : Plot) (v : BitVec 5) : Option Plot :=
  if (1 ≤ v.toNat ∧ v.toNat ≤ 3) ∨ 25 ≤ v.toNat then none else some { p with smpPeriod := v }

/-- Where a ring lies that the running agent arms for the function that VF.SEL names. -/
def State.hringXlat (s : State) (plot : Nat) (a : BitVec 56) : WalkResult :=
  let vf := (s.plot plot).vfSel
  s.xlatBy [portTlb plot] plot vf a.toNat (s.walkBy s.cur plot vf a.toNat)

/-- A ring that a function may arm (R408): it meets Table 9.13. -/
def State.hringOk (s : State) (plot : Nat) (a : BitVec 56) : Bool :=
  decide (a = 0) || (decide (a.toNat % 32 = 0) &&
    match s.hringXlat plot a with
    | .ok x => (s.ringAt x.pa).ok x.pa
    | .absent => false
    | .moving => false)

/-- A function arms a ring, or none; its fields are read where it lies. -/
def State.armRing (s : State) (plot : Nat) (a : BitVec 56) (fin : State → State) : State :=
  let set (s : State) : State :=
    if s.hringOk plot a then fin (s.modPlot plot (fun p => p.modSel (fun f => { f with hring := a }))) else s.trapNow cRange
  if a = 0 ∨ a.toNat % 32 ≠ 0 then set s
  else
    match s.hringXlat plot a with
    | .moving => s
    | .absent => set s
    | .ok x => s.askHome (.home s.cur) s.cur x.pa set

/-- The slice of the function chosen next starts at once, with cause 0x33 (R326). -/
def State.sliceNow (s : State) (plot : Nat) : State := s.startSlice plot ((s.nextVf plot).getD (s.plot plot).vfCur) true

/-- The interrupt registers. -/
def SysRegs.write (r : SysRegs) (i : Nat) (v : Word) : Option SysRegs :=
  match i with
  | 0x400 => some { r with smode := v.setWidth 2 }
  | 0x401 => some { r with ien := v.setWidth 32 }
  | 0x402 => if v.toNat % 4 = 0 then some { r with ivec := v.setWidth 56 } else none
  | 0x403 => some { r with ipc := v.setWidth 56 }
  | 0x404 => some { r with imode := v.setWidth 2 }
  | 0x407 => some { r with ipend := r.ipend &&& ~~~(v.setWidth 32), vals := r.vals.filter (fun x => !v.getLsbD x.1) }
  | _ => some r

/-- The registers of Table 4.4 that a thread itself holds. -/
def Thread.write (t : Thread) (i : Nat) (v : Word) : Option Thread :=
  match i with
  | 0x001 => some { t with mask := v }
  | 0x020 => if v = 1 ∨ v = 2 then some { t with ftv := v.setWidth 8 } else none
  | 0x021 => some { t with fpx := v.setWidth 6 }
  | 0x022 => some { t with fptrap := v.setWidth 6 }
  | 0x023 => some { t with rmode := v.setWidth 2 }
  | _ => some t

/-- Write a special register of the running agent, and go on; a refused write raises out-of-range. -/
def State.ssetValue (s : State) (i : Nat) (v : Word) (fin : State → State) : State :=
  let plot := s.plotOf s.cur
  let put (p : Option Plot) : State := match p with | some x => fin (s.setPlot plot x) | none => s.trapNow cRange
  if i = 0x180 then
    fin (if sysKey 48 ≤ s.cur then { s with pkgStopAt := v } else s.modPlot plot (fun p => { p with stopAt := v }))
  else if i < 0x180 then
    match s.th.write i v with
    | some t => fin (s.setThread s.cur t)
    | none => s.trapNow cRange
  else if i < 0x410 then
    match s.th.sys.write i v with
    | some r => fin (s.modThread s.cur (fun t => { t with sys := r }))
    | none => s.trapNow cRange
  else
    match i with
    | 0x414 => fin ((s.modPlot plot (fun p => p.modSel (fun f => { f with weight := v.setWidth 8, status := 0 }))).sliceNow plot)
    | 0x415 =>
      let q : BitVec 32 := v.setWidth 32
      if q = 0 then fin (s.modPlot plot (fun p => p.modSel (fun f => { f with status := 2 })))
      else
        fin ((s.modPlot plot (fun p => p.modSel (fun f =>
          { f with quantum := q, effq := if q.toNat < 30 then 30 else q, status := 0 }))).sliceNow plot)
    | 0x424 =>
      if 2 ≤ v.toNat / 2 ^ 32 then s.trapNow cRange
      else s.fenceWaits true .p (fun s =>
        fin ((s.modPlot plot (fun p => { p with fpost := v })).post plot (v.setWidth 32) (v.getLsbD 32)))
    | 0x42C => s.fenceWaits true .p (fun s => fin ((s.modPlot plot (fun p => { p with syscPost := v.setWidth 32 })).syscReply plot (v.setWidth 32)))
    | 0x461 => s.armRing plot (v.setWidth 56) fin
    | 0x814 => put ((s.plot plot).writeTrc (v.setWidth 2))
    | 0x816 => put ((s.plot plot).writePeriod (v.setWidth 5))
    | 0x830 =>
      fin ((s.modPlot plot (fun p => { p with ctxid := v.setWidth 32 })).fireWhere plot (fun _ w =>
        trigField w 0 4 == 2 && trigField w 32 32 == v.toNat % 2 ^ 32))
    | 0x831 => fin ((s.modPlot plot (fun p => { p with panic := v.setWidth 32 })).fireWhere plot (fun _ w => trigField w 0 4 == 5))
    | 0x832 => fin (if v.getLsbD 0 then s.modPlot plot (fun p => { p with resume := true }) else s)
    | n => put ((s.plot plot).write n v)

/-- `sset` of an index by the running agent. -/
def State.sset (s : State) (i : Nat) (v : Word) (fin : State → State) : State :=
  if !s.writable i then s.trapNow cIllegal else s.ssetValue i v fin

def execSset (a : SReg) (idx : BitVec 12) (s : State) : Host.Outcome State Fault Refusal :=
  .next (if !s.writable idx.toNat then s.trapNow cIllegal else s.issue anyone [a] (fun s => s.ssetValue idx.toNat (s.th.sreg a) State.advance))

/-! ### Writes as events: the value is the subject's, the writer the running agent -/

def State.writeEvent (s : State) (i : Nat) : State := s.sset i s.subj.value id

def execFtvWrite (s : State) : Host.Outcome State Fault Refusal := .next (s.writeEvent 0x020)
def execFpxWrite (s : State) : Host.Outcome State Fault Refusal := .next (s.writeEvent 0x021)
def execStopatWrite (s : State) : Host.Outcome State Fault Refusal := .next (s.writeEvent 0x180)
def execIpendWrite (s : State) : Host.Outcome State Fault Refusal := .next (s.writeEvent 0x407)
def execLcompWrite (s : State) : Host.Outcome State Fault Refusal := .next (s.writeEvent 0x43A)
def execFpostWrite (s : State) : Host.Outcome State Fault Refusal := .next (s.writeEvent 0x424)
def execSyscPostWrite (s : State) : Host.Outcome State Fault Refusal := .next (s.writeEvent 0x42C)
def execVfWeightWrite (s : State) : Host.Outcome State Fault Refusal := .next (s.writeEvent 0x414)
def execVfQuantumWrite (s : State) : Host.Outcome State Fault Refusal := .next (s.writeEvent 0x415)
def execVfRootWrite (s : State) : Host.Outcome State Fault Refusal := .next (s.writeEvent 0x418)
def execWinVaWrite (s : State) : Host.Outcome State Fault Refusal := .next (s.writeEvent 0x460)
def execHringWrite (s : State) : Host.Outcome State Fault Refusal := .next (s.writeEvent 0x461)
def execDbgCtxidWrite (s : State) : Host.Outcome State Fault Refusal := .next (s.writeEvent 0x830)
def execDbgPanicWrite (s : State) : Host.Outcome State Fault Refusal := .next (s.writeEvent 0x831)
def execDbgRunWrite (s : State) : Host.Outcome State Fault Refusal := .next (s.writeEvent 0x832)
def execTrcStateWrite (s : State) : Host.Outcome State Fault Refusal := .next (s.writeEvent 0x814)

end Sys2Proof.Machine
end

