-- ==== Sys2Proof/Machine/Moves.lean ====
section
/-! DEFINITION. The happenings of each unit, as candidates of which the schedule takes the first that is enabled. -/

namespace Sys2Proof.Machine

/-- A happening on a subject: its next state where it is enabled. -/
abbrev Candidate := State → Option State

/-- Bind a happening to its subject. -/
def on (x : Subject) (f : State → Option State) : Candidate := fun s => f { s with subj := x }

/-- The first enabled candidate. -/
def firstEnabled : List Candidate → State → Option State
  | [], _ => none
  | c :: cs, s =>
    match c s with
    | some t => some t
    | none => firstEnabled cs s

/-- The channels of a cluster's slices. -/
def clusterChannels (k : Nat) : List Nat := clusterTiles k

/-- Let every enabled candidate take place, in order. -/
def allEnabled (cs : List Candidate) (s : State) : State := cs.foldl (fun s' c => (c s').getD s') s

/-- A list turned by n places. -/
def turn {α : Type} (n : Nat) (l : List α) : List α := l.drop (n % l.length) ++ l.take (n % l.length)

/-- Let the first enabled candidate of a list that turns with the cycle take place. -/
def State.oneOf (s : State) (cs : List Candidate) : State := (firstEnabled (turn s.cycle cs) s).getD s

/-- Put an item in its place in a list that an order sorts. -/
def insertBy {α : Type} (lt : α → α → Bool) (x : α) : List α → List α
  | [] => [x]
  | y :: ys => if lt y x then y :: insertBy lt x ys else x :: y :: ys

/-- A list in an order; of two items of which neither comes first, the one that stands first stays first. -/
def sortBy {α : Type} (lt : α → α → Bool) (xs : List α) : List α := xs.foldr (insertBy lt) []

/-- Happenings of a plot that fall due at a cycle, and those that go on by themselves. -/
def State.plotDue (s : State) (p : Nat) : List Candidate :=
  [on { ag := p } plotRunStep, on { ag := p } sliceEndStep, on { ag := p } recallDeadlineStep, on { ag := p } recallProgressStep,
    on { ag := p } launchAgingStep, fun s => s.payNext p]
  ++ ((s.plot p).clusters.flatMap clusterChannels).map (fun c => on { ag := c } dramRefreshStep)

/-- Happenings of a thread that come before any other. -/
def threadUrgent (k : Nat) : List Candidate :=
  [on { ag := k } sproutTimeLimitStep, on { ag := k } trapEntryStep, on { ag := k } interruptEntryStep]

/-- Bring-up goes on by itself once the board's power is good (R414). -/
def State.bringUp (s : State) : List Candidate :=
  match s.boot with
  | .step _ => [on { flag := true } powerUpStep]
  | .off => []
  | .ready => []
  | .safe => []

/-- The loads of an agent that executed before the head of its store queue entered it and touch a byte of it: the
schedule lets them bind first (R162 leaves only loads of other bytes in any order with the drains). -/
def Thread.loadsBefore (t : Thread) : List LoadReq :=
  match t.sq with
  | [] => []
  | e :: _ => t.win.filter (fun l => decide (l.mark ≤ e.seq) && e.parts.any (fun p => overlaps p.pa p.data.length l.pa l.size))

/-- A scalar access that executed before an agent's item of a number is on the page-fault path. Its trap is precise (R88), so the
schedule keeps back what would be visible of the items behind it until it is served (DEDUCED, log entry 78). -/
def Thread.behindHold (t : Thread) (num : Nat) : Bool :=
  t.log.any (fun e => !e.replayed && e.back.elim false (fun p => decide (p.mark ≤ num)))

/-- The head of a store queue drains or performs, after the loads of its bytes that come before it. -/
def headTurn (k : Nat) : Candidate := fun s =>
  let t := s.thread k
  firstEnabled (t.loadsBefore.map (fun l => on { ag := k, n := l.id } loadBindStep)
    ++ (if t.sq.head?.any (fun e => t.behindHold e.seq) then []
      else [on { ag := k } storeQueueDrainStep, on { ag := k } atomicPerformStep])) s

/-- The first clause of an agent with an instruction left starts. -/
def clauseTurn (k : Nat) : Candidate := fun s =>
  let t := s.thread k
  if t.headClause.any (fun c => t.behindHold c.id) then none else on { ag := k } clauseStartStep s

/-- Happenings of a thread's window, queue, log, clauses and waits. -/
def State.threadMoves (s : State) (k : Nat) : List Candidate :=
  [on { ag := k } scalarLoadReturnStep] ++ (s.thread k).win.map (fun l => on { ag := k, n := l.id } loadBindStep)
  ++ [headTurn k, on { ag := k } hostReadbackStep,
    on { ag := k } faultReplayStep, on { ag := k } operandLogEntryFreeStep, clauseTurn k,
    on { ag := k } longLatencyCompleteStep, on { ag := k } barrierCompleteStep]

/-- The order of R18 by ready stamps: a ready context before one that is not, then the smaller stamp, then an unmarked
context, then the lower number. -/
def stampOlder (a b : Option Nat × Bool × Nat) : Bool :=
  match a.1, b.1 with
  | some x, some y => if x ≠ y then decide (x < y) else if a.2.1 != b.2.1 then b.2.1 else decide (a.2.2 < b.2.2)
  | some _, none => true
  | none, some _ => false
  | none, none => decide (a.2.2 < b.2.2)

/-- The lane pipe's order (R18): groups before sprouts, then the stamps. -/
def laneOlder (a b : Nat × Thread) : Bool :=
  if isSproutKey a.1 != isSproutKey b.1 then isSproutKey b.1
  else stampOlder (a.2.laneStamp, a.2.laneLast, a.1) (b.2.laneStamp, b.2.laneLast, b.1)

/-- The lane pipe of a core issues for the oldest context that is ready. -/
def laneTurn (c : Nat) : Candidate := fun s =>
  firstEnabled ((sortBy laneOlder (s.threads.filter (fun t => decide (t.1 / 32 = c)))).map (fun t => on { ag := t.1 } laneIssueStep)) s

/-- A bulk read delivers a burst when the sprout before it is done. -/
def deliver (c : Nat) (r : HreadReq) : Candidate := fun s =>
  if ((s.core c).req? r.id).elim false (fun q => q.live.isEmpty) then on { ag := c, n := r.id } burstDeliveryStep s else none

/-- Happenings of an operation of an engine, and of a bulk read. -/
def opMoves (c id : Nat) : List Candidate :=
  [on { ag := c, n := id } engineOperationCompleteStep, on { ag := c, n := id } ringFillStartStep, on { ag := c, n := id } engineAccessStep]

def readMoves (c : Nat) (r : HreadReq) : List Candidate :=
  [on { ag := c, n := r.id } lastBurstEventStep, deliver c r, on { ag := c, n := r.id, flag := true } engineAccessStep]

/-- Happenings of a core's matrix unit and engines. -/
def State.coreMoves (s : State) (k : Nat) : List Candidate :=
  let c := s.core k
  [on { ag := k } matrixOpStartStep, on { ag := k } matrixOpCompleteStep]
  ++ c.eops.flatMap (fun o => opMoves k o.id) ++ c.hreads.flatMap (readMoves k)

/-- Happenings of a plot's launch unit, rake, invalidations, scrubbers and host port. -/
def State.unitMoves (s : State) (k : Nat) : List Candidate :=
  let p := s.plot k
  p.pubs.flatMap (fun r => [on { ag := k, n := r.id } rakeMarkStep, on { ag := k, n := r.id } rakeSetStep])
  ++ (List.range 8).map (fun l => on { ag := k, n := l } overflowRefillStep)
  ++ [on { ag := k } launchPlacementStep]
  ++ p.running.map (fun l => on { ag := k, n := l.seq.toNat, flag := l.copy } launchCompletionStep)
  ++ [on { ag := k } syscMessageStep]
  ++ (p.invs.flatMap (·.cores)).map (fun c => on { ag := k, n := c } tlbInvalidationApplyStep)
  ++ (if p.scrub.isEmpty then [] else (List.range 16).map (fun d => on { ag := k, n := d } scrubFrameStep))
  ++ [on { n := k } hostWindowRequestStep]

/-- Happenings of a plot's storage engine. -/
def State.nvmeMoves (s : State) (k : Nat) : List Candidate :=
  (s.nvme.filter (fun q => decide (q.1 / 64 = k))).map (fun q => on { ag := k, n := q.1 % 64 } nvmeCompletionStep)

/-- The units that act at once on what a gate has admitted. -/
def unitsAtGates : List Candidate :=
  [on {} configurationRequestStep, on {} lockInterfaceStep, on {} startInterfaceStep, on {} stopInterfaceStep, on {} spdmRequestStep,
    on {} cxlResponseStep]

end Sys2Proof.Machine
end

