-- ==== Sys2Proof/Machine/Fetch.lean ====
section
/-! DEFINITION. Fetching the next scalar instruction (R29, R51, R371), and placing one instruction where the next step
fetches it. -/

namespace Sys2Proof.Machine

/-! ### Who fetches (R51) -/

/-- Whether an agent fetches now. -/
def State.fetches (s : State) (key : Nat) : Bool :=
  decide (s.boot = .ready) && !s.stopped && (fget? s.threads key).elim false Thread.live

/-! ### Breakpoints (R371) -/

/-- The breakpoints of a group's plot that its next instruction meets: whether one stops the plot, and one traps. -/
def State.brkHits (s : State) (key : Nat) : List (BitVec 56) :=
  if isSysKey key || isSproutKey key then []
  else
    (((s.plot (s.plotOf key)).brk.filter (fun b =>
      decide (b.1 < 8) && b.2.getLsbD 0 && decide (b.2.toNat / 4 = (s.thread key).pc.toNat / 4))).map (·.2))

def State.breakAt (s : State) (hits : List (BitVec 56)) : State :=
  let s1 := if hits.any (fun b => b.getLsbD 1) then s.modPlot (s.plotOf s.cur) (fun p => { p with stopNow := true }) else s
  if hits.any (fun b => !b.getLsbD 1) then s1.trapNow cBreak else s1

/-! ### The fetch of a word (R26, R29, R30, R72) -/

/-- What the running agent does next: execute an instruction, or something that takes its place. -/
inductive Fetched where
  | run (i : Instr) (s : State)
  | other (s : State)
  deriving DecidableEq, Repr

/-- Fetch at the running agent's PC. -/
def State.fetchWord (s : State) : Fetched :=
  match s.readCode s.cur false s.th.pc.toNat 4 with
  | .wait => .other s
  | .ask s1 => .other s1
  | .fault va => if s.logBusy s.cur then .other s else .other (s.fetchFault s.cur va)
  | .ok s1 bs =>
    match decodeScalarBytes bs with
    | .ok i => .run i s1
    | .error _ => .other (s1.trapNow cIllegal)

/-- The next instruction of the running agent. An agent that does not fetch, and a breakpoint, take its place. -/
def State.fetchNext (s : State) : Fetched :=
  if !s.fetches s.cur then .other s
  else
    match s.brkHits s.cur with
    | [] =>
      ({ s with subj := {} } : State).modThread s.cur (fun t => { t with last := false }) |>.fetchWord
    | hits => .other (s.breakAt hits)

/-! ### Placing one instruction

Programs come to the machine from outside: the plots of the signed image start at the end of bring-up, and their system
cores' code lies in memory already. The state built here stands for one such plot with one block of one group. -/

/-- Virtual and physical place of the word; the page of 2 MB that holds it is mapped at virtual address 0. -/
def placeVa : Nat := 0x1000
def placePage : Nat := 0x200000
def placeRoot : Nat := 0x10000

/-- The words of the four page tables (Table 15.3). -/
def placeTables : List (Nat × Nat) :=
  [(placeRoot, placeRoot + 0x1000 + 1), (placeRoot + 0x1000, placeRoot + 0x2000 + 1), (placeRoot + 0x2000, placeRoot + 0x3000 + 1),
    (placeRoot + 0x3000, 2 ^ 63 + placePage + 2 * 256 + 0x2D)]

/-- The launch: one block of one group with 64 rows, 4 tiles and 64 KB of scratchpad. -/
def placeLaunch : Launch :=
  { seq := 1, record := [BitVec.ofNat 64 placeVa, 0, 0, 0, BitVec.ofNat 64 (1 * 2 ^ 8 + 64 * 2 ^ 16 + 4 * 2 ^ 24 + 65536 * 2 ^ 32), 0, 0, 0] }

def placePlot (p : Plot) : Plot :=
  { p with
    clusters := [0], ranges := [(0, 2 ^ 28)], vfs := fset p.vfs 0 { root := BitVec.ofNat 52 placeRoot }, vfCur := 0
    sysRoot := BitVec.ofNat 52 placeRoot, running := [placeLaunch], stopped := false, stopNow := false, brk := [] }

/-- The system core executes the words of opcode 0x6B; a group executes the others. -/
def placeKey (nbits w : Nat) : Nat := if nbits = 32 ∧ w / 2 ^ 25 % 128 = 0x6B then sysKey 0 else groupKey 0 0

def placeGroup : Thread := { pc := BitVec.ofNat 56 placeVa, nextId := 1 }

/-- The core with its block: tile 0's cluster and channel, and nothing yet in its caches. -/
def placeCore (c : Core) : Core :=
  { c with
    block := some { id := 1, launch := placeLaunch, slot := 0, blockId := 0, x0 := 0, y0 := 0 }
    icache := [], lcache := [], tlb := [] }

/-- The state with the plot, the block and the group, and bytes at the place of the word. -/
def State.placed (s : State) (bytes : List Byte) : State :=
  let cells := placeTables.foldl (fun m x => cellsSet m x.1 (leBytes 8 x.2)) s.mem.cells
  { s with
    mem := { s.mem with cells := cellsSet cells (placePage + placeVa) bytes }
    plots := fset s.plots 0 (placePlot (s.plot 0))
    cores := fset (fset s.cores 0 (placeCore (s.core 0))) (sysKey 0) {}
    threads := fset (fset s.threads (groupKey 0 0) placeGroup) (sysKey 0) { placeGroup with sys := { smode := 1 } }
    boot := .ready, stopped := false, agenda := [], round := [], nextBlock := 2 }

/-- The instruction of a table row where the next step runs it: a scalar word at the PC of the agent that may execute it;
a lane instruction issued from a started clause of the group. -/
def State.withWord (s : State) (nbits w : Nat) : State :=
  if nbits = 96 then
    match decodeTableWord 96 w with
    | none => s.placed (leBytes 12 w)
    | some i =>
      let s1 := s.placed (leBytes 12 0 ++ leBytes 12 w)
      let s2 := s1.modThread (groupKey 0 0) (fun t =>
        { t with
          queue := [{ id := 1, addr := BitVec.ofNat 56 placeVa, hdr := ⟨0, none, none, 1⟩, instrs := [i], next := 1, started := true
                      mask := BitVec.allOnes 64, rmode := 0, ftv := 1 }]
          nextId := 2, laneClause := 1, laneIdx := 0 })
      { s2 with cur := groupKey 0 0, laneCur := groupKey 0 0, agenda := [.exec i {}] }
  else { s.placed (leBytes 4 w) with cur := placeKey nbits w }

end Sys2Proof.Machine
end

