-- ==== Sys2Proof/Machine/Walk.lean ====
section
/-! DEFINITION. Page walks (R161, R172, R320): which translations a party needs, and a walk that reads one page-table word a
step. Where every table lies in the package, an access that needs a translation may also walk by itself, on present values
(log entry 52). -/

namespace Sys2Proof.Machine

/-! ### The translations that a party needs (Table 8.2) -/

/-- The addresses that the running agent's instruction accesses, each in its space. -/
def State.memAddrs (s : State) (i : Instr) : List (Nat × Nat) :=
  let own := s.spaceOf s.cur
  let at_ (r : SReg) : List (Nat × Nat) := [(own, (s.th.sreg r).toNat)]
  let ea (r : SReg) (imm : BitVec 13) : List (Nat × Nat) := [(own, (eaOf s r imm).toNat)]
  let spill : List (Nat × Nat) := (s.blockOf s.cur).toList.flatMap (fun b =>
    [s.th.mspilled, s.th.mspilled - 1].map (fun j => (own, b.spillVa (ctxOfKey s.cur) j)))
  match i with
  | .ldI8 _ a n | .ldZ8 _ a n | .ldI16 _ a n | .ldZ16 _ a n | .ldI32 _ a n | .ldZ32 _ a n | .ld64 _ a n => ea a n
  | .st8 _ a n | .st16 _ a n | .st32 _ a n | .st64 _ a n => ea a n
  | .ldref _ a o => [(own, (refEa s a o).toNat)]
  | .stref d a o => [(own, (refEa s a o).toNat), (own, (s.th.sreg d).toNat - 16)]
  | .amoAdd _ a _ _ _ | .amoAnd _ a _ _ _ | .amoOr _ a _ _ _ | .amoXor _ a _ _ _ | .amoMinS _ a _ _ _ | .amoMinZ _ a _ _ _
  | .amoMaxS _ a _ _ _ | .amoMaxZ _ a _ _ _ | .amoSwap _ a _ _ _ | .amoCas _ a _ _ _ => at_ a
  | .tbind _ a _ => at_ a
  | .ringInit a _ | .ringAwait _ a | .ringRelease a => at_ a
  | .publish _ a _ => [(own, (s.th.sreg a).toNat - 16)]
  | .launch _ a => at_ a
  | .keyload _ b => at_ b
  | .lrun n =>
    let va := ((s.launchOf s.cur).laneBase + 12 * n.toNat) % 2 ^ 56
    (List.range 4).map (fun k => (own, va + 256 * k))
  | .sset a i => if i = 0x461 then [((s.plot (s.plotOf s.cur)).vfSel, (s.th.sreg a).toNat)] else []
  | .divb .. | .delse .. | .djoin | .dloop .. | .dbrk .. | .dnext .. => spill
  | .tret => (s.blockOf s.cur).toList.map (fun b => (own, b.recordVa (ctxOfKey s.cur)))
  | _ => []

/-- The addresses at which the issue of an agent reads and writes memory: of the instruction at its PC, once it can issue, or of
the instruction itself. -/
def State.issueAddrs (s : State) (key : Nat) : List (Nat × Nat) :=
  let u : State := { s with cur := key }
  if !(s.fetches key && (s.thread key).canIssue []) then []
  else
    (s.spaceOf key, (s.thread key).pc.toNat) ::
      (match u.fetchNext with
        | .run i s1 => s1.memAddrs i
        | .other _ => [])

/-- The happenings of an agent that may reach memory. -/
def State.agentMoves (s : State) (key : Nat) : List Candidate :=
  let c := coreOfKey key
  threadUrgent key ++ s.threadMoves key ++ [on { ag := key } laneIssueStep]
    ++ (if isSysKey key then []
      else
        ((s.core c).eops.filter (fun o => o.group == ctxOfKey key)).flatMap (fun o => opMoves c o.id)
          ++ ((s.core c).hreads.filter (fun r => r.group == ctxOfKey key)).flatMap (readMoves c))

/-- A party of walks is a plot's units, under the number of their TLB, or an agent. -/
def isUnitAgent (agent : Nat) : Bool := decide (46000 ≤ agent)
def State.walkPlot (s : State) (agent : Nat) : Nat := if isUnitAgent agent then agent - 46000 else s.plotOf agent
def State.walkPath (s : State) (agent : Nat) : List Nat := if isUnitAgent agent then [agent] else s.tlbPath agent

/-- The happenings of a party. -/
def State.partyMoves (s : State) (agent : Nat) : List Candidate :=
  if isUnitAgent agent then s.unitMoves (agent - 46000) ++ s.nvmeMoves (agent - 46000) else s.agentMoves agent

def Walk.of (w : Walk) (agent space va : Nat) : Bool := w.agent == agent && w.space == space && w.va / 4096 == va / 4096

/-- With a walk of a page in the place of a party's own. -/
def State.withWalk (s : State) (w : Walk) : State :=
  s.modPlot (s.walkPlot w.agent) (fun p => { p with walks := w :: p.walks.filter (fun x => !x.of w.agent w.space w.va) })

/-- A happening waits for the translation of a page: it cannot take place while a walk of the page is under way, and could if the
walk had found it absent. -/
def State.awaits (s : State) (w : Walk) (c : Candidate) : Bool :=
  (c (s.withWalk { w with waits := true })).isNone && (c (s.withWalk { w with missed := true })).isSome

/-- A party needs the translation of an address (Table 8.2): its instruction accesses the page, which no TLB on its path holds, or
one of its happenings waits for it. -/
def State.needs (s : State) (agent space va : Nat) : Bool :=
  let issue := !isUnitAgent agent && (s.tlbHit (s.walkPath agent) (s.walkPlot agent) space va).isNone
    && (s.issueAddrs agent).any (fun x => x.1 == space && x.2 / 4096 == va / 4096)
  decide (va < 2 ^ 56)
    && (issue || (s.partyMoves agent).any (s.awaits { id := 0, agent := agent, space := space, va := va, level := 4, table := 0 }))

/-! ### Walks -/

/-- The instance of a scope code that holds a party: a plot's units stand in the scopes p and s alone. -/
def State.instanceOf (s : State) (agent code : Nat) : Option Nat :=
  if isUnitAgent agent then (if code = 4 then some (agent - 46000) else if 5 ≤ code then some 0 else none)
  else some (s.scopeInstance agent (match code with | 0 => .g | 1 => .b | 2 => .c | 3 => .d | 4 => .p | _ => .s))

/-- The walk floor of a word for a party: the newest of the floors set for scopes that hold it. -/
def State.floorFor (s : State) (agent : Nat) (h : WordHist) : Nat :=
  h.floors.foldl (fun n f => if s.instanceOf agent f.1 = some f.2.1 then max n f.2.2 else n) 0

/-- A walk begins for an access that needs it. -/
def State.beginWalk (s : State) (agent space va : Nat) : Option State :=
  let plot := s.walkPlot agent
  if (s.plot plot).walks.any (·.of agent space va) || !s.needs agent space va then none
  else
    some { (s.modPlot plot (fun p =>
      { p with walks := p.walks ++ [{ id := s.nextWalk, agent := agent, space := space, va := va, level := 4, table := p.rootOf space }] }))
        with nextWalk := s.nextWalk + 1 }

/-- A walk reads its next word: its floor for the party, or one of the values it has held since. A word in host or CXL memory is
asked for (R24). -/
def State.walkRead (s : State) (w : Walk) (m : Nat) : Option State :=
  let plot := s.walkPlot w.agent
  let a := w.table + 8 * walkIndex w.level w.va
  let copy := !isUnitAgent w.agent && (s.launchOf w.agent).copy
  s.fromOutside (.walk w.id) plot copy a (fun s =>
    let h := fgetD s.mem.hist a {}
    let vals := h.past ++ [s.mem.word a]
    let v := vals.getD (min (s.floorFor w.agent h + m) (vals.length - 1)) 0
    let put (f : Walk → Walk) : State :=
      s.modPlot plot (fun p => { p with walks := p.walks.map (fun x => if x.id = w.id then f x else x) })
    let ended : State := s.modPlot plot (fun p => { p with walks := p.walks.filter (fun x => x.id != w.id) })
    some (match walkWord s.mem (s.plot plot) w.space w.va w.level v with
      | .done .moving => put (fun x => { x with waits := true })
      | .done .absent => put (fun x => { x with missed := true })
      | .done (.ok x) => ended.fillPath (s.walkPath w.agent) plot w.space w.va (.ok x)
      | .table t => put (fun x => { x with level := x.level - 1, table := t })))

/-- PAGE_WALK (R161, R172): a walk for an access of a party begins (walk 0; for a plot's units in the space that m names), or
reads one page-table word. The party's accesses to the page wait for it. A translation found is held in the TLBs on its path; a
leaf that is moving makes it wait for the next `tfence` of scope p (R320); an entry not present sends the access to the
page-fault path. -/
def pageWalkStep (s : State) : Option State :=
  let agent := s.subj.ag
  if s.subj.n = 0 then s.beginWalk agent (if isUnitAgent agent then s.subj.m else s.spaceOf agent) s.subj.value.toNat
  else
    match (s.plot (s.walkPlot agent)).walks.find? (fun w => w.id == s.subj.n && !w.waits && !w.missed) with
    | none => none
    | some w => s.walkRead w s.subj.m

def execPageWalk (s : State) : Host.Outcome State Fault Refusal := .next ((pageWalkStep s).getD s)

/-! ### Walks of tables outside the package -/

/-- Page tables of a plot may lie in host or CXL memory. -/
def Plot.tablesAway (p : Plot) : Bool :=
  let away (a : Nat) : Bool := isHost a || isCxl a
  away p.sysRoot.toNat || p.vfs.any (fun v => away v.2.root.toNat) || p.ranges.any (fun r => away r.1 || away (r.2 - 1))

def FaultMsg.vas (m : Option FaultMsg) : List Nat := m.toList.map (·.va)

/-- The addresses that an operation of an engine may access next. -/
def EngineOp.vas (o : EngineOp) : List Nat :=
  let x := o.spec
  let q := o.run
  let next : List Nat :=
    match x.kind with
    | 0 | 3 => if x.key.isSome then [(x.word 0).toNat + o.done] else [x.globalAt (if x.kind = 3 then o.idxOf q.1 else q.1) q.2.1]
    | 1 => [x.globalAt q.1 q.2.1]
    | 2 => []
    | 4 => [x.base, o.slot + o.done]
    | _ => [x.binAt x.bin, x.binAt o.slot, o.windex.toNat + o.done]
  next.map (· % 2 ^ 64)

/-- The addresses that an agent may access next, besides those of its scalar instruction. -/
def State.agentVas (s : State) (key : Nat) : List Nat :=
  let t := s.thread key
  let c := s.core (coreOfKey key)
  let trap := if t.trap.isSome then (s.blockOf key).toList.map (fun b => b.recordVa (ctxOfKey key)) else []
  let lanes := (s.laneNext key).elim [] (fun x => ((x.1.laneGlobals x.2).getD []).map (·.va.toNat))
  let units := if isSysKey key then []
    else (c.eops.filter (fun o => o.group == ctxOfKey key)).flatMap EngineOp.vas
      ++ (c.hreads.filter (fun r => r.group == ctxOfKey key)).flatMap (fun r =>
        (r.toRead.take 1).flatMap (fun n => [(r.addr n).toNat, ((r.addr n).toNat + 255) % 2 ^ 64]))
  trap ++ t.log.flatMap (fun e => e.msgs.map (·.va)) ++ (t.walkHold.toList.map (·.va)) ++ lanes ++ units

/-- The addresses that a plot's units may access next, each in its space. -/
def State.unitAddrs (s : State) (plot : Nat) : List (Nat × Nat) :=
  let p := s.plot plot
  let armed := (p.vfs.filter (fun v => decide (v.2.hring ≠ 0))).map (fun v => (v.1, v.2.hring.toNat))
  p.pubs.flatMap (fun r => (r.queue.take 1).flatMap (fun e => (s.mem.taggedValues e.hdr).map (fun v => (r.space, v - 16))))
  ++ (s.hostReqs.find? (fun r => r.plot == plot)).toList.flatMap (fun r =>
    (r.vf, (fgetD p.vfs r.vf {}).winVa.toNat + r.offset + r.done) :: (if r.write then armed else []))
  ++ p.running.flatMap (fun l => (s.compVas plot l).map (fun va => (l.vf, va)))
  ++ (s.nvme.filter (fun q => decide (q.1 / 64 = plot))).flatMap (fun q => (s.nvmeVas q.1 q.2).map (fun va => (64, va)))

/-- Walks that accesses need where a table on the way lies outside: the schedule begins them. -/
def State.walksToBegin (s : State) (plot : Nat) : List (Nat × Nat × Nat) :=
  if !(s.plot plot).tablesAway then []
  else
    let away (x : Nat × Nat × Nat) : Bool := s.walkAway plot x.2.1 x.2.2
    let agents := (s.threads.filter (fun t => t.2.plot == plot)).flatMap (fun t =>
      (s.issueAddrs t.1 ++ (s.agentVas t.1).map (fun va => (s.spaceOf t.1, va))).map (fun x => (t.1, x.1, x.2)))
    (agents ++ (s.unitAddrs plot).map (fun x => (portTlb plot, x.1, x.2))).filter away

/-- Happenings of a plot's walks. -/
def State.walkMoves (s : State) (plot : Nat) : List Candidate :=
  (s.plot plot).walks.map (fun w => on { ag := w.agent, n := w.id, m := 2 ^ 64 } pageWalkStep)
    ++ (s.walksToBegin plot).map (fun x => on { ag := x.1, m := x.2.1, value := BitVec.ofNat 64 x.2.2 } pageWalkStep)

/-- Walks whose party needs them no more end. -/
def State.pruneWalks (s : State) : State :=
  let keep (plot : Nat) (w : Walk) : Bool :=
    (s.modPlot plot (fun p => { p with walks := p.walks.filter (fun x => x.id != w.id) })).needs w.agent w.space w.va
  if s.plots.all (fun p => p.2.walks.isEmpty) then s
  else { s with plots := s.plots.map (fun p => (p.1, { p.2 with walks := p.2.walks.filter (keep p.1) })) }

end Sys2Proof.Machine
end

