-- ==== Sys2Proof/Machine/Dispatch.lean ====
section
/-! DEFINITION. The meaning of each instruction and happening: one arm per constructor of `Instr`. -/

namespace Sys2Proof.Machine

open Sys2Proof

def exec (i : Instr) (s : State) : Host.Outcome State Fault Refusal :=
  match i with
  | .add d a b => Sys2Proof.Machine.execAdd d a b s
  | .sub d a b => Sys2Proof.Machine.execSub d a b s
  | .and d a b => Sys2Proof.Machine.execAnd d a b s
  | .or d a b => Sys2Proof.Machine.execOr d a b s
  | .xor d a b => Sys2Proof.Machine.execXor d a b s
  | .andn d a b => Sys2Proof.Machine.execAndn d a b s
  | .shl d a b => Sys2Proof.Machine.execShl d a b s
  | .shrZ d a b => Sys2Proof.Machine.execShrZ d a b s
  | .shrS d a b => Sys2Proof.Machine.execShrS d a b s
  | .nop => Sys2Proof.Machine.execNop s
  | .mul d a b => Sys2Proof.Machine.execMul d a b s
  | .mulhS d a b => Sys2Proof.Machine.execMulhS d a b s
  | .mulhZ d a b => Sys2Proof.Machine.execMulhZ d a b s
  | .divS d a b => Sys2Proof.Machine.execDivS d a b s
  | .divZ d a b => Sys2Proof.Machine.execDivZ d a b s
  | .remS d a b => Sys2Proof.Machine.execRemS d a b s
  | .remZ d a b => Sys2Proof.Machine.execRemZ d a b s
  | .minS d a b => Sys2Proof.Machine.execMinS d a b s
  | .minZ d a b => Sys2Proof.Machine.execMinZ d a b s
  | .maxS d a b => Sys2Proof.Machine.execMaxS d a b s
  | .maxZ d a b => Sys2Proof.Machine.execMaxZ d a b s
  | .sltS d a b => Sys2Proof.Machine.execSltS d a b s
  | .sltZ d a b => Sys2Proof.Machine.execSltZ d a b s
  | .seq d a b => Sys2Proof.Machine.execSeq d a b s
  | .clz d a => Sys2Proof.Machine.execClz d a s
  | .ctz d a => Sys2Proof.Machine.execCtz d a s
  | .popc d a => Sys2Proof.Machine.execPopc d a s
  | .bext d a b => Sys2Proof.Machine.execBext d a b s
  | .addi d a imm => Sys2Proof.Machine.execAddi d a imm s
  | .andi d a imm => Sys2Proof.Machine.execAndi d a imm s
  | .ori d a imm => Sys2Proof.Machine.execOri d a imm s
  | .xori d a imm => Sys2Proof.Machine.execXori d a imm s
  | .shli d a n => Sys2Proof.Machine.execShli d a n s
  | .shriZ d a n => Sys2Proof.Machine.execShriZ d a n s
  | .shriS d a n => Sys2Proof.Machine.execShriS d a n s
  | .sltiS d a imm => Sys2Proof.Machine.execSltiS d a imm s
  | .sltiZ d a imm => Sys2Proof.Machine.execSltiZ d a imm s
  | .bexti d a pos wid1 => Sys2Proof.Machine.execBexti d a pos wid1 s
  | .lhi d k v => Sys2Proof.Machine.execLhi d k v s
  | .pcadd d imm => Sys2Proof.Machine.execPcadd d imm s
  | .ldI8 d a imm => Sys2Proof.Machine.execLdI8 d a imm s
  | .ldZ8 d a imm => Sys2Proof.Machine.execLdZ8 d a imm s
  | .ldI16 d a imm => Sys2Proof.Machine.execLdI16 d a imm s
  | .ldZ16 d a imm => Sys2Proof.Machine.execLdZ16 d a imm s
  | .ldI32 d a imm => Sys2Proof.Machine.execLdI32 d a imm s
  | .ldZ32 d a imm => Sys2Proof.Machine.execLdZ32 d a imm s
  | .ld64 d a imm => Sys2Proof.Machine.execLd64 d a imm s
  | .st8 d a imm => Sys2Proof.Machine.execSt8 d a imm s
  | .st16 d a imm => Sys2Proof.Machine.execSt16 d a imm s
  | .st32 d a imm => Sys2Proof.Machine.execSt32 d a imm s
  | .st64 d a imm => Sys2Proof.Machine.execSt64 d a imm s
  | .ldref d a off => Sys2Proof.Machine.execLdref d a off s
  | .stref d a off => Sys2Proof.Machine.execStref d a off s
  | .amoAdd d a b ord sc => Sys2Proof.Machine.execAmoAdd d a b ord sc s
  | .amoAnd d a b ord sc => Sys2Proof.Machine.execAmoAnd d a b ord sc s
  | .amoOr d a b ord sc => Sys2Proof.Machine.execAmoOr d a b ord sc s
  | .amoXor d a b ord sc => Sys2Proof.Machine.execAmoXor d a b ord sc s
  | .amoMinS d a b ord sc => Sys2Proof.Machine.execAmoMinS d a b ord sc s
  | .amoMinZ d a b ord sc => Sys2Proof.Machine.execAmoMinZ d a b ord sc s
  | .amoMaxS d a b ord sc => Sys2Proof.Machine.execAmoMaxS d a b ord sc s
  | .amoMaxZ d a b ord sc => Sys2Proof.Machine.execAmoMaxZ d a b ord sc s
  | .amoSwap d a b ord sc => Sys2Proof.Machine.execAmoSwap d a b ord sc s
  | .amoCas d a b ord sc => Sys2Proof.Machine.execAmoCas d a b ord sc s
  | .beq a b off => Sys2Proof.Machine.execBeq a b off s
  | .bne a b off => Sys2Proof.Machine.execBne a b off s
  | .bltS a b off => Sys2Proof.Machine.execBltS a b off s
  | .bgeS a b off => Sys2Proof.Machine.execBgeS a b off s
  | .bltZ a b off => Sys2Proof.Machine.execBltZ a b off s
  | .bgeZ a b off => Sys2Proof.Machine.execBgeZ a b off s
  | .jal d off => Sys2Proof.Machine.execJal d off s
  | .jalr d a off => Sys2Proof.Machine.execJalr d a off s
  | .bany p off => Sys2Proof.Machine.execBany p off s
  | .ball p off => Sys2Proof.Machine.execBall p off s
  | .divb p off => Sys2Proof.Machine.execDivb p off s
  | .delse off => Sys2Proof.Machine.execDelse off s
  | .djoin => Sys2Proof.Machine.execDjoin s
  | .dloop off => Sys2Proof.Machine.execDloop off s
  | .dbrk p => Sys2Proof.Machine.execDbrk p s
  | .dnext off => Sys2Proof.Machine.execDnext off s
  | .sget d idx => Sys2Proof.Machine.execSget d idx s
  | .sset a idx => Sys2Proof.Machine.execSset a idx s
  | .tbind t a b => Sys2Proof.Machine.execTbind t a b s
  | .lrun n => Sys2Proof.Machine.execLrun n s
  | .lsync => Sys2Proof.Machine.execLsync s
  | .sfromv d v lane => Sys2Proof.Machine.execSfromv d v lane s
  | .sfromp d p => Sys2Proof.Machine.execSfromp d p s
  | .vadd t d a b c => Sys2Proof.Machine.execVadd t d a b c s
  | .vsub t d a b c => Sys2Proof.Machine.execVsub t d a b c s
  | .vmul t d a b c => Sys2Proof.Machine.execVmul t d a b c s
  | .vmulhS t d a b c => Sys2Proof.Machine.execVmulhS t d a b c s
  | .vmulhZ t d a b c => Sys2Proof.Machine.execVmulhZ t d a b c s
  | .vmad t d a b x c => Sys2Proof.Machine.execVmad t d a b x c s
  | .vand t d a b c => Sys2Proof.Machine.execVand t d a b c s
  | .vor t d a b c => Sys2Proof.Machine.execVor t d a b c s
  | .vxor t d a b c => Sys2Proof.Machine.execVxor t d a b c s
  | .vandn t d a b c => Sys2Proof.Machine.execVandn t d a b c s
  | .vshl t d a b c => Sys2Proof.Machine.execVshl t d a b c s
  | .vshrZ t d a b c => Sys2Proof.Machine.execVshrZ t d a b c s
  | .vshrS t d a b c => Sys2Proof.Machine.execVshrS t d a b c s
  | .vminS t d a b c => Sys2Proof.Machine.execVminS t d a b c s
  | .vminZ t d a b c => Sys2Proof.Machine.execVminZ t d a b c s
  | .vmaxS t d a b c => Sys2Proof.Machine.execVmaxS t d a b c s
  | .vmaxZ t d a b c => Sys2Proof.Machine.execVmaxZ t d a b c s
  | .vabs t d a c => Sys2Proof.Machine.execVabs t d a c s
  | .vsel t d a b p c => Sys2Proof.Machine.execVsel t d a b p c s
  | .vmov t d b c => Sys2Proof.Machine.execVmov t d b c s
  | .vclz t d a c => Sys2Proof.Machine.execVclz t d a c s
  | .vpopc t d a c => Sys2Proof.Machine.execVpopc t d a c s
  | .vbext t d a b c => Sys2Proof.Machine.execVbext t d a b c s
  | .vcmp t cc d a b c => Sys2Proof.Machine.execVcmp t cc d a b c s
  | .pand d a b c => Sys2Proof.Machine.execPand d a b c s
  | .por d a b c => Sys2Proof.Machine.execPor d a b c s
  | .pxor d a b c => Sys2Proof.Machine.execPxor d a b c s
  | .pandn d a b c => Sys2Proof.Machine.execPandn d a b c s
  | .pset d b c => Sys2Proof.Machine.execPset d b c s
  | .pget d a c => Sys2Proof.Machine.execPget d a c s
  | .vxchg t d a b c => Sys2Proof.Machine.execVxchg t d a b c s
  | .vshift t d a b c => Sys2Proof.Machine.execVshift t d a b c s
  | .vperm t d a b c => Sys2Proof.Machine.execVperm t d a b c s
  | .vbcast t d a b c => Sys2Proof.Machine.execVbcast t d a b c s
  | .vred op t d a c => Sys2Proof.Machine.execVred op t d a c s
  | .vscan op t d a c => Sys2Proof.Machine.execVscan op t d a c s
  | .vld t d bt m h fb c => Sys2Proof.Machine.execVld t d bt m h fb c s
  | .vst t bt m e h fb c => Sys2Proof.Machine.execVst t bt m e h fb c s
  | .vlds t d m c => Sys2Proof.Machine.execVlds t d m c s
  | .vsts t m e c => Sys2Proof.Machine.execVsts t m e c s
  | .vamo op t d bt m e h fb c => Sys2Proof.Machine.execVamo op t d bt m e h fb c s
  | .vrand d a k c => Sys2Proof.Machine.execVrand d a k c s
  | .vnop c => Sys2Proof.Machine.execVnop c s
  | .vfadd t r d a b c => Sys2Proof.Machine.execVfadd t r d a b c s
  | .vfsub t r d a b c => Sys2Proof.Machine.execVfsub t r d a b c s
  | .vfmul t r d a b c => Sys2Proof.Machine.execVfmul t r d a b c s
  | .vfma t r d a b x c => Sys2Proof.Machine.execVfma t r d a b x c s
  | .vfmin t r d a b c => Sys2Proof.Machine.execVfmin t r d a b c s
  | .vfmax t r d a b c => Sys2Proof.Machine.execVfmax t r d a b c s
  | .vfsgn t r d a b c => Sys2Proof.Machine.execVfsgn t r d a b c s
  | .vfcmp t cc r d a b c => Sys2Proof.Machine.execVfcmp t cc r d a b c s
  | .vfcls t r d a c => Sys2Proof.Machine.execVfcls t r d a c s
  | .vfrnd t r d a c => Sys2Proof.Machine.execVfrnd t r d a c s
  | .vfcvt td ts r d a b c => Sys2Proof.Machine.execVfcvt td ts r d a b c s
  | .vquant t l sf r d a c => Sys2Proof.Machine.execVquant t l sf r d a c s
  | .vdequant t l sf r d a b c => Sys2Proof.Machine.execVdequant t l sf r d a b c s
  | .vrcp t r d a c => Sys2Proof.Machine.execVrcp t r d a c s
  | .vrsqrt t r d a c => Sys2Proof.Machine.execVrsqrt t r d a c s
  | .vsqrt t r d a c => Sys2Proof.Machine.execVsqrt t r d a c s
  | .vexp2 t r d a c => Sys2Proof.Machine.execVexp2 t r d a c s
  | .vlog2 t r d a c => Sys2Proof.Machine.execVlog2 t r d a c s
  | .vsin t r d a c => Sys2Proof.Machine.execVsin t r d a c s
  | .vcos t r d a c => Sys2Proof.Machine.execVcos t r d a c s
  | .vtanh t r d a c => Sys2Proof.Machine.execVtanh t r d a c s
  | .mfmt a => Sys2Proof.Machine.execMfmt a s
  | .mzero t => Sys2Proof.Machine.execMzero t s
  | .mma t a b => Sys2Proof.Machine.execMma t a b s
  | .mmaq t a b => Sys2Proof.Machine.execMmaq t a b s
  | .mmaRn t a b => Sys2Proof.Machine.execMmaRn t a b s
  | .mbatch d => Sys2Proof.Machine.execMbatch d s
  | .mwait a => Sys2Proof.Machine.execMwait a s
  | .mresolveI32 t a => Sys2Proof.Machine.execMresolveI32 t a s
  | .mresolveTile t a => Sys2Proof.Machine.execMresolveTile t a s
  | .mresolveRow t a => Sys2Proof.Machine.execMresolveRow t a s
  | .mld t a => Sys2Proof.Machine.execMld t a s
  | .mst t a f => Sys2Proof.Machine.execMst t a f s
  | .mstQE8m0 t a f => Sys2Proof.Machine.execMstQE8m0 t a f s
  | .mstQE4m3 t a f => Sys2Proof.Machine.execMstQE4m3 t a f s
  | .tcopyIn tag a => Sys2Proof.Machine.execTcopyIn tag a s
  | .tcopyInKey tag a k => Sys2Proof.Machine.execTcopyInKey tag a k s
  | .tcopyOut tag a => Sys2Proof.Machine.execTcopyOut tag a s
  | .tcopySs tag a => Sys2Proof.Machine.execTcopySs tag a s
  | .tgather tag a b => Sys2Proof.Machine.execTgather tag a b s
  | .tbin tag a b v => Sys2Proof.Machine.execTbin tag a b v s
  | .hread a tag off => Sys2Proof.Machine.execHread a tag off s
  | .twaitAny d a => Sys2Proof.Machine.execTwaitAny d a s
  | .twaitAll d a => Sys2Proof.Machine.execTwaitAll d a s
  | .tfirst d a => Sys2Proof.Machine.execTfirst d a s
  | .tclr a => Sys2Proof.Machine.execTclr a s
  | .barInit a b => Sys2Proof.Machine.execBarInit a b s
  | .barExpect a b => Sys2Proof.Machine.execBarExpect a b s
  | .barArrive a b => Sys2Proof.Machine.execBarArrive a b s
  | .barWait a b => Sys2Proof.Machine.execBarWait a b s
  | .barTest d a b => Sys2Proof.Machine.execBarTest d a b s
  | .ringInit a b => Sys2Proof.Machine.execRingInit a b s
  | .ringFill tag a b => Sys2Proof.Machine.execRingFill tag a b s
  | .ringAwait d a => Sys2Proof.Machine.execRingAwait d a s
  | .ringRelease a => Sys2Proof.Machine.execRingRelease a s
  | .fenceAcq sc => Sys2Proof.Machine.execFenceAcq sc s
  | .fenceRel sc => Sys2Proof.Machine.execFenceRel sc s
  | .fenceAr sc => Sys2Proof.Machine.execFenceAr sc s
  | .tfence sc => Sys2Proof.Machine.execTfence sc s
  | .bsync => Sys2Proof.Machine.execBsync s
  | .rsync w h => Sys2Proof.Machine.execRsync w h s
  | .publish tag a sc => Sys2Proof.Machine.execPublish tag a sc s
  | .launch d a => Sys2Proof.Machine.execLaunch d a s
  | .exit => Sys2Proof.Machine.execExit s
  | .yield => Sys2Proof.Machine.execYield s
  | .phase a => Sys2Proof.Machine.execPhase a s
  | .idem => Sys2Proof.Machine.execIdem s
  | .trap code => Sys2Proof.Machine.execTrap code s
  | .tret => Sys2Proof.Machine.execTret s
  | .ginspect d a b => Sys2Proof.Machine.execGinspect d a b s
  | .gmodify a b => Sys2Proof.Machine.execGmodify a b s
  | .gresume a => Sys2Proof.Machine.execGresume a s
  | .gend a => Sys2Proof.Machine.execGend a s
  | .sysc n => Sys2Proof.Machine.execSysc n s
  | .tlbinv a b => Sys2Proof.Machine.execTlbinv a b s
  | .tlbfence => Sys2Proof.Machine.execTlbfence s
  | .pgfree a => Sys2Proof.Machine.execPgfree a s
  | .pgalloc d => Sys2Proof.Machine.execPgalloc d s
  | .lend a b => Sys2Proof.Machine.execLend a b s
  | .recall a => Sys2Proof.Machine.execRecall a s
  | .keyload a b => Sys2Proof.Machine.execKeyload a b s
  | .wfe => Sys2Proof.Machine.execWfe s
  | .iret => Sys2Proof.Machine.execIret s
  | .tileOpen t a => Sys2Proof.Machine.execTileOpen t a s
  | .tileClose t => Sys2Proof.Machine.execTileClose t s
  | .trig n => Sys2Proof.Machine.execTrig n s
  | .cnt d idx => Sys2Proof.Machine.execCnt d idx s
  | .ftvWrite => Sys2Proof.Machine.execFtvWrite s
  | .fpxWrite => Sys2Proof.Machine.execFpxWrite s
  | .stopatWrite => Sys2Proof.Machine.execStopatWrite s
  | .scalarLoadReturn => Sys2Proof.Machine.execScalarLoadReturn s
  | .storeQueueDrain => Sys2Proof.Machine.execStoreQueueDrain s
  | .atomicPerform => Sys2Proof.Machine.execAtomicPerform s
  | .loadBind => Sys2Proof.Machine.execLoadBind s
  | .faultReplay => Sys2Proof.Machine.execFaultReplay s
  | .operandLogEntryFree => Sys2Proof.Machine.execOperandLogEntryFree s
  | .clauseStart => Sys2Proof.Machine.execClauseStart s
  | .laneIssue => Sys2Proof.Machine.execLaneIssue s
  | .longLatencyComplete => Sys2Proof.Machine.execLongLatencyComplete s
  | .matrixOpStart => Sys2Proof.Machine.execMatrixOpStart s
  | .matrixOpComplete => Sys2Proof.Machine.execMatrixOpComplete s
  | .engineOperationComplete => Sys2Proof.Machine.execEngineOperationComplete s
  | .burstDelivery => Sys2Proof.Machine.execBurstDelivery s
  | .sproutTimeLimit => Sys2Proof.Machine.execSproutTimeLimit s
  | .lastBurstEvent => Sys2Proof.Machine.execLastBurstEvent s
  | .ringFillStart => Sys2Proof.Machine.execRingFillStart s
  | .engineAccess => Sys2Proof.Machine.execEngineAccess s
  | .hostReadback => Sys2Proof.Machine.execHostReadback s
  | .pageWalk => Sys2Proof.Machine.execPageWalk s
  | .barrierComplete => Sys2Proof.Machine.execBarrierComplete s
  | .rakeMark => Sys2Proof.Machine.execRakeMark s
  | .rakeSet => Sys2Proof.Machine.execRakeSet s
  | .overflowRefill => Sys2Proof.Machine.execOverflowRefill s
  | .launchAging => Sys2Proof.Machine.execLaunchAging s
  | .launchPlacement => Sys2Proof.Machine.execLaunchPlacement s
  | .launchCompletion => Sys2Proof.Machine.execLaunchCompletion s
  | .trapEntry => Sys2Proof.Machine.execTrapEntry s
  | .syscMessage => Sys2Proof.Machine.execSyscMessage s
  | .registerParityError => Sys2Proof.Machine.execRegisterParityError s
  | .blockMigration => Sys2Proof.Machine.execBlockMigration s
  | .tlbInvalidationApply => Sys2Proof.Machine.execTlbInvalidationApply s
  | .scrubFrame => Sys2Proof.Machine.execScrubFrame s
  | .recallDeadline => Sys2Proof.Machine.execRecallDeadline s
  | .interruptEntry => Sys2Proof.Machine.execInterruptEntry s
  | .ipendWrite => Sys2Proof.Machine.execIpendWrite s
  | .lcompWrite => Sys2Proof.Machine.execLcompWrite s
  | .fpostWrite => Sys2Proof.Machine.execFpostWrite s
  | .syscPostWrite => Sys2Proof.Machine.execSyscPostWrite s
  | .vfWeightWrite => Sys2Proof.Machine.execVfWeightWrite s
  | .vfQuantumWrite => Sys2Proof.Machine.execVfQuantumWrite s
  | .vfRootWrite => Sys2Proof.Machine.execVfRootWrite s
  | .winVaWrite => Sys2Proof.Machine.execWinVaWrite s
  | .hringWrite => Sys2Proof.Machine.execHringWrite s
  | .sliceEnd => Sys2Proof.Machine.execSliceEnd s
  | .sharedPagePoison => Sys2Proof.Machine.execSharedPagePoison s
  | .sessionEnd => Sys2Proof.Machine.execSessionEnd s
  | .dbgCtxidWrite => Sys2Proof.Machine.execDbgCtxidWrite s
  | .dbgPanicWrite => Sys2Proof.Machine.execDbgPanicWrite s
  | .dbgRunWrite => Sys2Proof.Machine.execDbgRunWrite s
  | .trcStateWrite => Sys2Proof.Machine.execTrcStateWrite s
  | .samplerTick => Sys2Proof.Machine.execSamplerTick s
  | .packageStop => Sys2Proof.Machine.execPackageStop s
  | .plotStop => Sys2Proof.Machine.execPlotStop s
  | .imageRestore => Sys2Proof.Machine.execImageRestore s
  | .referenceLoss => Sys2Proof.Machine.execReferenceLoss s
  | .referenceReturn => Sys2Proof.Machine.execReferenceReturn s
  | .referenceHoldoverTimeout => Sys2Proof.Machine.execReferenceHoldoverTimeout s
  | .clusterRatioChange => Sys2Proof.Machine.execClusterRatioChange s
  | .dramRefresh => Sys2Proof.Machine.execDramRefresh s
  | .gateAdmission => Sys2Proof.Machine.execGateAdmission s
  | .gateControlWrite => Sys2Proof.Machine.execGateControlWrite s
  | .outboundTransaction => Sys2Proof.Machine.execOutboundTransaction s
  | .replayInject => Sys2Proof.Machine.execReplayInject s
  | .hostWindowRequest => Sys2Proof.Machine.execHostWindowRequest s
  | .lockInterface => Sys2Proof.Machine.execLockInterface s
  | .stopInterface => Sys2Proof.Machine.execStopInterface s
  | .configurationRequest => Sys2Proof.Machine.execConfigurationRequest s
  | .brixvexFlit => Sys2Proof.Machine.execBrixvexFlit s
  | .nvmeDoorbell => Sys2Proof.Machine.execNvmeDoorbell s
  | .nvmeCompletion => Sys2Proof.Machine.execNvmeCompletion s
  | .cxlResponse => Sys2Proof.Machine.execCxlResponse s
  | .alignmentExchange => Sys2Proof.Machine.execAlignmentExchange s
  | .powerUp => Sys2Proof.Machine.execPowerUp s
  | .fatalDump => Sys2Proof.Machine.execFatalDump s
  | .powerThermalAlert => Sys2Proof.Machine.execPowerThermalAlert s
  | .startInterface => Sys2Proof.Machine.execStartInterface s
  | .spdmRequest => Sys2Proof.Machine.execSpdmRequest s
  | .packageRelease => Sys2Proof.Machine.execPackageRelease s
  | .softError => Sys2Proof.Machine.execSoftError s
  | .uncorrectableLineError => Sys2Proof.Machine.execUncorrectableLineError s

end Sys2Proof.Machine
end

