-- ==== Sys2Proof/Machine/Schedule.lean ====
section
/-! DEFINITION. The order of a cycle. The spec fixes what each happening does and when it may take place
(`95_what_each_step_holds`); one deterministic machine gives every unit its place in every cycle. First what the gates admit
and what falls due, then one happening of each agent, lane pipe, core and plot, then the issue ports, and last the triggers, the
sampler and the stops. A trap that a happening raises is thereby pending when the ports issue, and one that issue raises is
entered (R106, R286). The order within a plot rests on nothing of another plot (R342). Of several happenings of a unit that are
enabled, the first of a list that turns with the cycle takes place, so that none waits for ever. -/

namespace Sys2Proof.Machine

/-- The plot of a unit, and 48 for the package's own. -/
def State.slotPlot (s : State) : Slot → Nat
  | .due p => p
  | .gate _ => 48
  | .package => 48
  | .entry k => s.plotOf k
  | .thread k => s.plotOf k
  | .lane c => (s.core c).block.elim 48 (·.launch.plot)
  | .core c => (s.core c).block.elim 48 (·.launch.plot)
  | .plot p => p
  | .nvme q => q / 64
  | .plotEnd p => p
  | .packageEnd => 48

/-- The triggers that have fired in this cycle act (R370). -/
def actFiredStep (s : State) : Option State :=
  let p := s.plot s.subj.ag
  if p.fired.isEmpty then none else some (s.modPlot s.subj.ag (fun p => p.actFired s.cycle))

/-- What takes place in a unit. The lane pipe moves every second fabric cycle (R19). -/
def State.happens (s : State) : Slot → State
  | .due p => allEnabled (s.plotDue p) s
  | .gate g => allEnabled ([on { ag := g } brixvexFlitStep, on { ag := g } gateAdmissionStep, on { ag := g } replayInjectStep]
      ++ unitsAtGates ++ [on { ag := g } outboundTransactionStep]) s
  | .package => allEnabled (s.bringUp ++ [on {} referenceHoldoverTimeoutStep]) s
  | .entry k => allEnabled (threadUrgent k) s
  | .thread k => s.oneOf (s.threadMoves k)
  | .lane c => if s.cycle % 2 = 0 then (laneTurn c s).getD s else s
  | .core c => s.oneOf (s.coreMoves c)
  | .plot p => s.oneOf (s.unitMoves p ++ s.walkMoves p)
  | .nvme q => allEnabled [on { ag := q / 64, n := q % 64 } nvmeCompletionStep] s
  | .plotEnd p => allEnabled [on { ag := p } actFiredStep, on { ag := p } samplerTickStep, on { ag := p } plotStopStep] s
  | .packageEnd => allEnabled [on {} packageStopStep] s

/-- Let a unit's happening take place, with its plot's free values. Within a stopped package only the manager, the gates'
answers and the stop itself go on (R358). -/
def State.happen (s : State) (u : Slot) : State := ({ s with drawer := s.slotPlot u } : State).happens u

/-- The agents in the order of their blocks' slots, and then of their numbers (R364). -/
def State.agentOrder (s : State) : List Nat :=
  (sortBy (fun a b => decide (a.1 < b.1)) (s.threads.map (fun t => ((s.blockOf t.1).elim 0 (·.slot), t.1)))).map (·.2)

/-- What comes before the issue of a cycle. -/
def State.opening (s : State) : List Slot :=
  .package :: s.gates.map (fun g => .gate g.1)
    ++ (if s.idle then []
      else s.plots.map (fun p => .due p.1) ++ s.threads.map (fun t => .entry t.1) ++ s.agentOrder.map .thread
        ++ s.cores.map (fun c => .lane c.1) ++ s.cores.map (fun c => .core c.1) ++ s.plots.map (fun p => .plot p.1)
        ++ s.nvme.map (fun q => .nvme q.1))

/-- What comes after it. -/
def State.closing (s : State) : List Slot := (if s.idle then [] else s.plots.map (fun p => .plotEnd p.1)) ++ [.packageEnd]

end Sys2Proof.Machine
end

