-- ==== Sys2Proof/Machine/Cycle.lean ====
section
/-! DEFINITION. One fabric cycle: which contexts are ready and which of them issues at each port (R18, R51), what is fetched
past an unresolved branch (R52, R53), and the passing of the cycle. -/

namespace Sys2Proof.Machine

open Sys2Proof

/-- An outcome with its next state changed. -/
def onNext (o : Host.Outcome State Fault Refusal) (f : State → State) : Host.Outcome State Fault Refusal :=
  match o with
  | .next t => .next (f t)
  | .fault r => .fault r
  | .refused r => .refused r

/-! ### Fetching past an unresolved branch (R52, R53) -/

/-- A branch that is predicted, with the registers that it waits for (R52). -/
def branchSources : Instr → List SReg
  | .beq a b _ => [a, b]
  | .bne a b _ => [a, b]
  | .bltS a b _ => [a, b]
  | .bgeS a b _ => [a, b]
  | .bltZ a b _ => [a, b]
  | .bgeZ a b _ => [a, b]
  | .jalr _ a _ => [a]
  | _ => []

/-- The target of a conditional branch, or of a `jalr` by the return stack (R52). -/
def State.predicted (s : State) (i : Instr) : BitVec 56 :=
  let t := s.th
  let taken := 2 ≤ (fgetD (s.core (tlbPlace s.cur)).predictor (predictorIndex t.pc (s.groupNo s.cur)) 1).toNat
  let go (off : BitVec 13) : BitVec 56 := if taken then wordTarget t.pc off.toInt else t.pc + 4
  match i with
  | .beq _ _ o => go o
  | .bne _ _ o => go o
  | .bltS _ _ o => go o
  | .bgeS _ _ o => go o
  | .bltZ _ _ o => go o
  | .bgeZ _ _ o => go o
  | _ => t.retStack.headD (t.pc + 4)

/-- Whether the running agent fetches past an instruction before it resolves: a predicted branch that waits for a pending
register alone. -/
def State.fetchesPast (s : State) (i : Instr) : Bool :=
  (branchSources i).any s.th.isPending && s.admits anyone (branchSources i) && !s.th.hold
    && (match i with | .jalr d _ _ => s.admits anyone [d] && !s.th.isPending d | _ => true)

/-- Go on past an unresolved branch. -/
def State.goPast (s : State) (i : Instr) : State :=
  let next := s.predicted i
  s.modThread s.cur (fun t =>
    let t1 := match i with
      | .jalr d _ _ => { t.setSreg d ((t.pc + 4).setWidth 64) with retStack := t.retStack.drop 1 }
      | _ => t
    { t1 with
      pc := next
      spec := some { back := t.point, instr := i, next := next, retired := fgetD t.counters 0 0 } })

/-- What may issue past an unresolved branch (R53, item 3, with no second unresolved branch): reads and writes of registers,
and loads and `tbind` that hit. -/
def speculable : Instr → Bool
  | .add .. | .sub .. | .and .. | .or .. | .xor .. | .andn .. | .shl .. | .shrZ .. | .shrS .. | .nop | .mul .. | .mulhS ..
  | .mulhZ .. | .divS .. | .divZ .. | .remS .. | .remZ .. | .minS .. | .minZ .. | .maxS .. | .maxZ .. | .sltS .. | .sltZ ..
  | .seq .. | .clz .. | .ctz .. | .popc .. | .bext .. | .addi .. | .andi .. | .ori .. | .xori .. | .shli .. | .shriZ ..
  | .shriS .. | .sltiS .. | .sltiZ .. | .bexti .. | .lhi .. | .pcadd .. | .ldI8 .. | .ldZ8 .. | .ldI16 .. | .ldZ16 .. | .ldI32 ..
  | .ldZ32 .. | .ld64 .. | .ldref .. | .jal .. | .sget .. | .tbind .. => true
  | _ => false

/-- The loads that entered the window since an unresolved branch hit in the L1. -/
def State.specHits (s t : State) : Bool :=
  (t.thread s.cur).win.all (fun l => decide (l.id < s.th.nextId) || (!l.held && (fget? (s.core (coreOfKey s.cur)).l1 (lineOf l.pa)).isSome))

/-- A speculative instruction issues only where its effect can be taken back (R53): it raises no trap, fills nothing, holds
nothing on the page-fault path. -/
def State.specOk (s t : State) : Bool :=
  let x := s.th
  let y := t.thread s.cur
  decide (y.status = x.status) && decide (y.trap = x.trap) && decide (y.log = x.log) && decide (y.sys = x.sys)
    && decide (y.walkHold = x.walkHold)
    && decide ((t.core (tlbPlace s.cur)).tlb = (s.core (tlbPlace s.cur)).tlb) && s.specHits t

/-- Execute the fetched instruction, or go past it, or wait for the branch before it. -/
def State.runOne (s : State) (i : Instr) : Host.Outcome State Fault Refusal :=
  match s.th.spec with
  | none => if s.fetchesPast i then .next (s.goPast i) else exec i s
  | some _ =>
    if !speculable i then .next s
    else
      match exec i s with
      | .next t => .next (if s.specOk t then t else s)
      | .fault f => .fault f
      | .refused r => .refused r

/-- The registers that an unresolved branch waits for have been written. -/
def State.canResolve (s : State) : Bool := s.th.spec.elim false (fun p => !(branchSources p.instr).any s.th.isPending)

/-- A branch resolves: a correct prediction stands, and a mispredicted path is discarded in full (R53). -/
def State.resolveBranch (s : State) (p : SpecPoint) : Host.Outcome State Fault Refusal :=
  let back := s.modThread s.cur (fun t => t.unspec)
  onNext (exec p.instr back) (fun t =>
    let y := t.thread s.cur
    if y.pc = p.next ∧ y.status = s.th.status ∧ y.trap = none then
      ({ s with cores := t.cores } : State).modThread s.cur (fun x => { x with spec := none, counters := bumpMap x.counters 0 1 })
    else t)

/-- The fetch of a speculative instruction that would fill a line waits (R53, item 2). -/
def State.fetchQuiet (s t : State) : Bool :=
  let c := tlbPlace s.cur
  s.th.spec.isNone || (decide ((t.core c).icache = (s.core c).icache) && decide ((t.core c).tlb = (s.core c).tlb))

/-- One turn of the running agent at its issue port. -/
def State.issueTurn (s : State) : Host.Outcome State Fault Refusal :=
  match s.th.spec, s.canResolve && s.fetches s.cur with
  | some p, true => s.resolveBranch p
  | _, _ =>
    match s.fetchNext with
    | .run i s1 => if s.fetchQuiet s1 then s1.runOne i else .next s
    | .other t => .next (if s.th.spec.isSome then s else t)

/-! ### Ready contexts (R18, R51) -/

/-- The turn of an agent changes its record: it is ready. An agent that is not ready leaves its record as it is. -/
def State.acts (s : State) (key : Nat) : Bool :=
  let u := { s with cur := key }
  match u.issueTurn with
  | .next t => decide (t.thread key ≠ { s.thread key with last := false })
  | .fault _ => false
  | .refused _ => false

def State.ready (s : State) (key : Nat) : Bool := s.fetches key && s.acts key

/-- The contexts of an issue port that fetch. -/
def portKeys : Port → List Nat
  | .groups c => (List.range 16).map (groupKey c)
  | .sprouts c => (List.range 16).map (fun x => groupKey c (16 + x))
  | .system k => [k]

/-- The first of some contexts in an order. -/
def firstBy (lt : Nat → Nat → Bool) : List Nat → Option Nat
  | [] => none
  | k :: ks =>
    match firstBy lt ks with
    | some j => if lt j k then some j else some k
    | none => some k

/-- The oldest ready context of a port; where none is ready, one that fetches (R18). -/
def State.pick (s : State) (p : Port) : Nat :=
  match (portKeys p).filter s.fetches with
  | [] => ((portKeys p).head?).getD s.cur
  | [k] => k
  | ks =>
    let lt (a b : Nat) : Bool :=
      let x := s.thread a
      let y := s.thread b
      stampOlder (x.stamp, x.last, a) (y.stamp, y.last, b)
    ((firstBy lt (ks.filter s.acts)).or (firstBy lt ks)).getD s.cur

/-- An instruction that waits for an event (R301): tags, barriers, `lsync`, `mwait`, `phase` or `sysc`. -/
def waitsEvent : Instr → Bool
  | .twaitAny .. | .twaitAll .. | .barWait .. | .lsync | .mwait .. | .phase .. | .sysc .. | .bsync | .rsync .. => true
  | _ => false

/-- The state of R301 of an agent at the start of a cycle, before it is known which context issues: ready; a source pending,
which it would issue without; an event awaited; its unit or queue full; or no instruction held. -/
def State.idleState (s : State) (key : Nat) (ready : Bool) : Nat :=
  if ready then 1
  else
    let u := { s with cur := key }
    match u.fetchNext with
    | .other _ => 5
    | .run i _ =>
      if decide ((s.thread key).pendS ≠ 0) && (s.modThread key (fun t => { t with pendS := 0 })).acts key then 2
      else if waitsEvent i then 4 else 3

/-- A stamp and its mark once it is known whether the context is ready: one that has become ready takes the cycle, and one that
is ready no more loses its stamp with the mark, which belongs to that stamp alone (R18). -/
def stampOf (cycle : Nat) (stamp : Option Nat) (mark ready : Bool) : Option Nat × Bool :=
  if ready then (some (stamp.getD cycle), mark) else (none, mark && stamp.isNone)

/-- The ready stamps of the lane pipe at the start of a cycle: its readiness is that of arithmetic cycles (R19). -/
def State.stampLanes (s : State) : State :=
  if s.cycle % 2 ≠ 0 then s
  else
    { s with threads := s.threads.map (fun t =>
        let x := stampOf s.cycle t.2.laneStamp t.2.laneLast (on { ag := t.1 } laneIssueStep s).isSome
        (t.1, { t.2 with laneStamp := x.1, laneLast := x.2 })) }

/-- The ready stamps of the issue ports, and the state of R301 of each agent that executes. -/
def State.stampReady (s : State) : State :=
  { s with threads := s.threads.map (fun t =>
      let ready := s.ready t.1
      let x := stampOf s.cycle t.2.stamp t.2.last ready
      (t.1, { t.2 with stamp := x.1, last := x.2, idle := if t.2.live then s.idleState t.1 ready else t.2.idle })) }

/-! ### The cycle -/

/-- The ports at which some context may fetch. -/
def State.ports (s : State) : List Port :=
  (s.cores.filter (fun c => c.2.block.isSome)).flatMap (fun c => [.groups c.1, .sprouts c.1])
    ++ (s.threads.filter (fun t => isSysKey t.1 && decide (t.1 < sysKey 48))).map (fun t => .system t.1)

/-- A turn of an agent, as one happening. -/
def State.turnOf (s : State) (key : Nat) : State :=
  match ({ s with cur := key } : State).issueTurn with
  | .next t => t
  | .fault _ => s
  | .refused _ => s

/-- The lane pipe's turn of a core, with what it issues. -/
def State.laneRun (s : State) (c : Nat) : State :=
  match if s.cycle % 2 = 0 then laneTurn c s else none with
  | none => s
  | some t =>
    match t.agenda with
    | .exec i x :: rest =>
      match exec i { t with agenda := rest, subj := x } with
      | .next u => u
      | .fault _ => s
      | .refused _ => s
    | _ => s

/-- A cycle of a block that a recall or withdrawal halts behind another, while what stands in its units drains: a happening of
each of its threads, of its lane pipe and of its units, and the turn of a sprout that must still run to its `exit` (R226, R300). -/
def State.drainRound (s : State) (c : Nat) : State :=
  let ks := (s.threads.filter (fun t => decide (t.1 / 32 = c))).map (·.1)
  let s1 := ks.foldl (fun s' k => allEnabled (threadUrgent k) s') s
  let s2 := ks.foldl (fun s' k => s'.oneOf (s'.threadMoves k)) s1
  let s3 := (s2.laneRun c).oneOf ((s2.laneRun c).coreMoves c)
  match (ks.filter isSproutKey).find? (fun k => s3.fetches k) with
  | some k => s3.turnOf k
  | none => s3

def State.drainParked (s : State) : State :=
  (s.cores.flatMap (fun c => (c.2.parked.filter (·.block.leaving)).map (fun q => (c.1, q.block.id)))).foldl (fun s' x =>
    match (s'.core x.1).parked.find? (fun q => q.block.id == x.2) with
    | some q => ({ s' with drawer := q.block.launch.plot } : State).inPlace x.1 q (fun s => s.drainRound x.1)
    | none => s') s

/-- The next agent fetches; after the last port of the cycle the last happenings follow. -/
def State.turnOver (s : State) : State :=
  match s.round with
  | p :: ps =>
    let k := s.pick p
    { s with cur := k, round := ps, drawer := s.plotOf k }
  | [] =>
    let s1 := if s.idle then s else s.drainParked
    { s1 with agenda := s1.agenda ++ s1.closing.map .happen ++ [.tick] }

/-- The issue of a cycle starts. -/
def State.startPorts (s : State) : State :=
  let s1 := if s.idle then s else s.stampReady
  { s1 with round := if s1.idle then [] else s1.ports }

/-- After a turn: an agent that acted takes a fresh stamp when it is ready again; one that did not keeps its stamp and
mark. An instruction has issued when the PC, the count of retired instructions or of entries has changed (R301). -/
def State.afterTurn (s t : State) : State :=
  let x := s.th
  if (fget? t.threads s.cur).isNone then t
  else if t.thread s.cur = { x with last := false } then t.modThread s.cur (fun y => { y with last := x.last })
  else
    t.modThread s.cur (fun y =>
      let same := decide (y.pc = x.pc) && decide (y.nextId = x.nextId) && decide (fgetD y.counters 0 0 = fgetD x.counters 0 0)
      { y with stamp := none, issued := if same then y.issued else some (s.cycle, x.pc) })

/-- CYCLE counts while reset is released and the package is not stopped (R5, R358). -/
def State.clock (s : State) : State := if s.boot.running && !s.stopped then s.pass else s

/-- What has been received at a gate in the cycle that ends (R349). A migration image, and the order to take one, are board inputs
(log entry 103). -/
def State.receive (s : State) : Outside → State
  | .event _ _ => s
  | .arrive gate a => s.modGate gate (fun g => { g with port := g.port ++ [a] })
  | .flit gate a => s.modGate gate (fun g => { g with flits := g.flits ++ [a] })
  | .saveVf plot vf => s.boardInput 6 [] (64 * plot + vf)
  | .restoreVf plot vf img => s.boardInput 5 (numbersPayload img.numbers) (64 * plot + vf)

/-- The moves of an input. -/
def Outside.moves : Outside → List Move
  | .event i x => [.exec i x]
  | .arrive _ _ => []
  | .flit _ _ => []
  | .saveVf _ _ => []
  | .restoreVf _ _ _ => []

/-- A writer still waits for its channel: its entry, operation, request or record stands, and may go on. -/
def State.waiting (s : State) : Writer → Bool
  | .queue key seq =>
    (s.thread key).sq.head?.any (fun e => e.seq == seq && !(s.thread key).behindHold e.seq) && s.queueOpen key && !(s.thread key).frozen
  | .engine c id => (s.core c).eops.any (fun o => o.id == id) && s.unitRuns c
  | .host plot => s.hostReqs.any (fun r => r.plot == plot)
  | .area key => let t := s.thread key; !t.frozen && (t.trap.isSome || t.live)
  | .fault plot => (s.plot plot).fring.room
  | .sysc plot => !(s.plot plot).syscPort.isEmpty
  | .comp plot seq => (s.plot plot).running.any (fun l => l.seq.toNat == seq)
  | .owed plot n => (s.plot plot).owed.any (fun o => o.n == n)
  | .nvme q => (fget? s.nvme q).any (fun x => x.cmd.isSome || !x.done.isEmpty)
  | .rake plot id => (s.plot plot).pubs.any (fun r => r.id == id)

/-- Whether a writer is one that gives up its place where it does not use it: what it waits for may have been written
otherwise. -/
def Writer.yields : Writer → Bool
  | .area _ => true
  | .fault _ => true
  | .queue .. | .engine .. | .host _ | .sysc _ | .comp .. | .owed .. | .nvme _ | .rake .. => false

/-- Those that wait for a channel, without the ones that nothing waits for, and without a first one that could have proceeded in
this cycle and did not. -/
def State.stillWaiting (s : State) (c : Nat) (ws : List Writer) : List Writer :=
  let open_ := !s.refreshing (c * 2 ^ 28) && decide (fgetD s.proceed c 0 ≤ s.cycle)
  let first := match ws with
    | w :: rest => if open_ && w.yields then rest else w :: rest
    | [] => []
  first.filter s.waiting

/-- The reader of a read that has left still waits for its answer. -/
def State.asksStill (s : State) (q : Ask) : Bool :=
  let ops (c : Nat) : List (List EngineOp × List HreadReq) :=
    ((s.core c).eops, (s.core c).hreads) :: (s.core c).parked.map (fun p => (p.eops, p.hreads))
  match q.who with
  | .load key id => (s.thread key).win.any (fun l => l.id == id)
  | .entry key seq => (s.thread key).sq.any (fun e => e.seq == seq)
  | .code key => (s.thread key).asking == some (lineOf q.pa)
  | .home key => (s.thread key).asking == some (lineOf q.pa)
  | .engine c id => (ops c).any (fun x => x.1.any (fun o => o.id == id))
  | .hread c id => (ops c).any (fun x => x.2.any (fun r => r.id == id))
  | .unit plot id =>
    if 2 ^ 42 ≤ id then s.nvme.any (fun x => nvmeUnit x.1 == id && (x.2.cmd.isSome || x.2.head != x.2.tail))
    else if id = hostUnit then s.hostReqs.any (fun r => r.plot == plot)
    else if 2 ^ 40 ≤ id then (s.plot plot).running.any (fun l => 2 ^ 40 + l.seq.toNat == id)
    else (s.plot plot).pubs.any (fun r => r.id == id)
  | .walk id => (s.plot q.plot).walks.any (fun w => w.id == id)
  | .early => (s.plot q.plot).running.any (·.copy)

/-- Writers, reads and completions that nothing waits for any more are dropped, and walks that nothing needs. -/
def State.prune (s : State) : State :=
  let s1 := s.pruneWalks
  { s1 with
    waiters := (s1.waiters.map (fun q => (q.1, s1.stillWaiting q.1 q.2))).filter (fun q => !q.2.isEmpty)
    asks := s1.asks.filter s1.asksStill
    entered := s1.entered.filter (fun x => decide (x.2.kind ≠ 2) || s1.awaited x.2) }

/-- Take the inputs that meet a test from those to come. -/
def State.takeInputs (s : State) (due : Input → Bool) : State × List Input :=
  ({ s with inputs := s.inputs.filter (fun i => !due i) }, s.inputs.filter due)

/-- The cycle ends with what has been received in it; the next begins, and the happenings of its inputs move first. -/
def State.tick (s : State) : State :=
  let r := s.takeInputs (fun i => i.what.moves.isEmpty && decide (i.cycle ≤ s.cycle))
  let s1 := (r.2.foldl (fun s' i => s'.receive i.what) r.1).prune.clock
  let e := s1.takeInputs (fun i => !i.what.moves.isEmpty && decide (i.cycle ≤ s1.cycle))
  { e.1 with drawer := 48, round := [], agenda := e.2.flatMap (fun i => i.what.moves) ++ [.begin] }

/-- What comes before the issue of a cycle is fixed once the happenings of its inputs have moved. -/
def State.beginCycle (s : State) : State :=
  let s1 := if s.idle then s else s.stampLanes
  { s1 with agenda := s1.agenda ++ s1.opening.map .happen ++ [.turn] }

end Sys2Proof.Machine
end

