-- ==== Sys2Proof/Machine/Step.lean ====
section
/-! DEFINITION. One step of the machine: what stands in the agenda moves first; otherwise the running agent takes its turn
at its issue port. -/

namespace Sys2Proof.Machine

/-- One step. -/
def step (s : State) : Host.Outcome State Fault Refusal :=
  match s.agenda with
  | .exec i x :: rest => exec i { s with agenda := rest, subj := x }
  | .happen u :: rest => .next (({ s with agenda := rest } : State).happen u)
  | .begin :: rest => .next ({ s with agenda := rest } : State).beginCycle
  | .turn :: rest => .next ({ s with agenda := rest } : State).startPorts.turnOver
  | .tick :: rest => .next ({ s with agenda := rest } : State).tick
  | [] => if s.boot = .off then .fault .noPower else onNext s.issueTurn (fun t => (s.afterTurn t).turnOver)

/-- The state in which the next step executes one word, numbered as the opcode table numbers its bits. -/
def State.withFetchWord (s : State) (nbits w : Nat) : State := s.withWord nbits w

end Sys2Proof.Machine
end

