-- ==== Sys2Proof/Safety.lean ====
section
/-! DEFINITION. What counts as a safe run, and the terms in which claims are stated: what an instruction leaves
unchanged, read through the state's accessors. -/

namespace Sys2Proof.Machine

open Sys2Proof

/-- Memory lists its bytes in the one canonical form. -/
def State.MemoryCanonical (s : State) : Prop := Memory.wf s.mem.cells = true

/-- The machine takes k steps from s without a fault or a refusal, through states that all satisfy P. -/
def State.SafeFor (P : State → Prop) : Nat → State → Prop
  | 0, s => P s
  | k + 1, s =>
    P s ∧
      match step s with
      | .next t => State.SafeFor P k t
      | .fault _ => False
      | .refused _ => False

/-- The instruction answers a next state, and that state satisfies P. -/
def Completes (i : Instr) (s : State) (P : State → Prop) : Prop := ∃ t, exec i s = .next t ∧ P t

/-! ### When an instruction issues -/

/-- The running agent is of a kind that executes the instruction, and no register it names is pending (R33, R51). -/
def State.Ready (s : State) (w : Who) (names : List SReg) : Prop := s.admits w names = true ∧ s.th.canIssue names = true

/-- Ready, and no `ldref` or acquiring atomic is outstanding (R74, R76). -/
def State.Free (s : State) (w : Who) (names : List SReg) : Prop := s.Ready w names ∧ s.th.hold = false

/-! ### What stays -/

/-- Every byte of memory reads as before. -/
def SameBytes (s t : State) : Prop := ∀ a, t.mem.byte a = s.mem.byte a

/-- Every byte of memory outside a run reads as before. -/
def SameBytesOutside (s t : State) (lo n : Nat) : Prop := ∀ a, (a < lo ∨ lo + n ≤ a) → t.mem.byte a = s.mem.byte a

/-- The same, but for the fields of known object headers that stores leave alone and that a claim may write (R178, R180). -/
def SameBytesBeside (s t : State) (lo n : Nat) : Prop :=
  ∀ a, (a < lo ∨ lo + n ≤ a) → (∀ h ∈ s.mem.headers, a < h + 6 ∨ h + 16 ≤ a) → t.mem.byte a = s.mem.byte a

/-- Every agent but one has the record it had. -/
def SameOthers (s t : State) (key : Nat) : Prop := ∀ k, k ≠ key → t.thread k = s.thread k

/-- All of the machine but the records of its agents is as before. -/
def SameElse (s t : State) : Prop := t = { s with threads := t.threads }

/-- Only the running agent's record changes. -/
structure OnlyRunning (s t : State) : Prop where
  others : SameOthers s t s.cur
  rest : SameElse s t
  memory : SameBytes s t

/-- What an agent waits in once an acquisition of its own is over. -/
def Thread.waitOver (t : Thread) : TWait := if t.hold then .none else t.wait

/-- One scalar register and the program counter of a record change, with the count of retired instructions and the marks
of an acquisition that is over (R51, R74, Table 17.5); every other register, flag and piece of the record stays. -/
structure Thread.WroteReg (x y : Thread) (d : SReg) (v : Word) (pc : BitVec 56) : Prop where
  value : y.sreg d = v
  keeps : ∀ r, r ≠ d → y.sreg r = x.sreg r
  next : y.pc = pc
  rest : y = { x with sregs := y.sregs, pc := pc, counters := bumpMap x.counters 0 1, hold := false, wait := x.waitOver }

/-- No register of a record changes but its program counter. -/
structure Thread.Moved (x y : Thread) (pc : BitVec 56) : Prop where
  next : y.pc = pc
  rest : y = { x with pc := pc, counters := bumpMap x.counters 0 1, hold := false, wait := x.waitOver }

/-- The running agent writes v to sd and goes on at the next word; nothing else changes. -/
structure Wrote (s t : State) (d : SReg) (v : Word) : Prop where
  agent : s.th.WroteReg (t.thread s.cur) d v (s.th.pc + 4)
  only : OnlyRunning s t

/-- The running agent goes on at an address; nothing else changes. -/
structure WentTo (s t : State) (pc : BitVec 56) : Prop where
  agent : s.th.Moved (t.thread s.cur) pc
  only : OnlyRunning s t

/-- Memory and every other agent are as before, and of the rest only the cores may change: they learn a translation, and count
it (Table 17.5). -/
structure KeepsAround (s t : State) : Prop where
  memory : t.mem = s.mem
  bytes : SameBytes s t
  others : SameOthers s t s.cur
  cores : ∀ c, t.core c = { s.core c with tlb := (t.core c).tlb, stats := (t.core c).stats }
  rest : t = { s with threads := t.threads, cores := t.cores }

/-- Of the machine only agents' records differ, and what the caches hold and count of lines (R23, Table 17.5). -/
structure CachesOnly (s t : State) : Prop where
  memory : t.mem = s.mem
  cores : ∀ c, t.core c = { s.core c with l1 := (t.core c).l1, stats := (t.core c).stats }
  rest : t = { s with threads := t.threads, cores := t.cores, l2 := t.l2, rdc := t.rdc }

/-- A gate has one transaction more to send. -/
def Sent (s t : State) (gate : Nat) (p : Arrival → Prop) : Prop :=
  ∀ g, fget? s.gates gate = some g → ∃ a, fget? t.gates gate = some { g with outq := g.outq ++ [a] } ∧ p a

/-- A reader's read of an address, of those that have left by a gate. -/
def State.askOf (s : State) (who : Reader) (gate pa : Nat) : Option Ask := s.asks.find? (fun q => q.at gate pa && q.who == who)

/-! ### Control flow -/

/-- The running agent goes on at an address, and the counter of its branch in the core's predictor moves one step
towards what the branch did (R52, R77); no register, no flag, no byte and no other agent changes. -/
structure Branched (s t : State) (taken : Bool) (target : BitVec 56) : Prop where
  agent : s.th.Moved (t.thread s.cur) (if taken then target else s.th.pc + 4)
  others : SameOthers s t s.cur
  memory : t.mem = s.mem
  counter : ∀ c i, fgetD (t.core c).predictor i 1 =
    if c = tlbPlace s.cur ∧ i = predictorIndex s.th.pc (s.groupNo s.cur) then
      count2 (fgetD (s.core c).predictor i 1) taken
    else fgetD (s.core c).predictor i 1
  cores : ∀ c, t.core c = { s.core c with predictor := (t.core c).predictor }
  rest : t = { s with threads := t.threads, cores := t.cores }

/-- The running agent goes on at an address with a mask, a mask stack and an open region; nothing else changes. -/
structure Diverged (s t : State) (mask : BitVec 64) (stack : List MaskEntry) (region : Option Region) (pc : BitVec 56) :
    Prop where
  agent : t.thread s.cur =
    { s.th with mask := mask, mstack := stack, region := region, pc := pc, counters := bumpMap s.th.counters 0 1 }
  only : OnlyRunning s t

/-- What a pop leaves of an open idempotence region: one that opened at this depth or deeper closes (R296). -/
def Thread.regionAfterPop (t : Thread) : Option Region := t.region.filter (fun r => decide (r.depth < t.depth))

/-! ### Memory instructions -/

/-- A load entered the window with its address; its destination is pending, and the agent goes on (R161, R162). -/
structure LoadIssued (s t : State) (d : SReg) (signed : Bool) (va pa n : Nat) (uncached : Bool) : Prop where
  window : (t.thread s.cur).win =
    s.th.win ++ [{ id := s.th.nextId, dest := .scalar d signed, va := va, pa := pa, size := n, mark := s.th.nextId,
                   uncached := uncached, back := some s.th.point }]
  pending : (t.thread s.cur).isPending d = true
  others : ∀ r, r ≠ d → (t.thread s.cur).isPending r = s.th.isPending r
  agent : t.thread s.cur =
    { s.th with
      win := (t.thread s.cur).win, pendS := (t.thread s.cur).pendS, nextId := s.th.nextId + 1
      pc := s.th.pc + 4, counters := bumpMap s.th.counters 0 1 }
  around : KeepsAround s t

/-- One entry joined the store queue behind the others, and the agent goes on (R71, R161). Memory waits for the drain. -/
structure Queued (s t : State) (kind : SqKind) (part : Part) : Prop where
  queue : (t.thread s.cur).sq = s.th.sq ++ [{ seq := s.th.nextId, kind := kind, parts := [part] }]
  next : (t.thread s.cur).pc = s.th.pc + 4
  sregs : ∀ r, (t.thread s.cur).sreg r = s.th.sreg r
  around : KeepsAround s t

/-! ### Registers of a plot -/

/-- The record of one plot changes, and nothing else does. -/
structure PlotOnly (s t : State) (plot : Nat) (p : Plot) : Prop where
  record : t.plot plot = p
  others : ∀ q, q ≠ plot → t.plot q = s.plot q
  rest : t = { s with plots := t.plots }

/-- The same, and the running agent goes on at the next word. -/
structure PlotAndOn (s t : State) (plot : Nat) (p : Plot) : Prop where
  record : t.plot plot = p
  others : ∀ q, q ≠ plot → t.plot q = s.plot q
  agent : t.thread s.cur = { s.th with pc := s.th.pc + 4, counters := bumpMap s.th.counters 0 1 }
  threads : SameOthers s t s.cur
  rest : t = { s with plots := t.plots, threads := t.threads }

/-- The record of one agent changes, and nothing else does. -/
structure AgentOnly (s t : State) (key : Nat) (x : Thread) : Prop where
  agent : t.thread key = x
  others : SameOthers s t key
  rest : SameElse s t

/-! ### Traps and interrupts -/

/-- A group of a launch with trap-enable that runs, past no unresolved branch (R53), whose block has no handler and no trap
pending of a lower group, and whose trap record's page is present and writable at a place whose channel takes a write: the
conditions under which a trap enters the handler at once (R286, R287, R348). -/
structure CanEnter (s : State) (key : Nat) (b : Block) (x : Xlat) : Prop where
  isGroup : isSysKey key = false ∧ isSproutKey key = false
  block : s.blockOf key = some b
  trapEn : (s.launchOf key).trapEn = true
  runs : (s.thread key).status = .running
  resolved : (s.thread key).spec = none
  noHandler : b.handler = none
  first : s.lowerTraps (coreOfKey key) (ctxOfKey key) = false
  page : s.xlat key (b.area + 0x80000 + 0x800 * ctxOfKey key) = .ok x
  writable : x.wr = true
  taken : s.waiters = [] ∧ s.refreshing x.pa = false

/-- The group is in its handler: the cause, the program counter, the record's address and MASK are saved, MASK is all
ones, FPTRAP is 0, its clauses are set aside, its siblings halt, and it goes on at the handler (R286). -/
structure InHandler (s t : State) (key : Nat) (b : Block) (cause : BitVec 8) (pc : BitVec 56) : Prop where
  mode : (t.thread key).status = .handler
  next : (t.thread key).pc = (s.launchOf key).handlerPc
  s60 : (t.thread key).sreg 60 = cause.setWidth 64
  s61 : (t.thread key).sreg 61 = pc.setWidth 64
  s62 : (t.thread key).sreg 62 = BitVec.ofNat 64 (b.area + 0x80000 + 0x800 * ctxOfKey key)
  s63 : (t.thread key).sreg 63 = (s.thread key).mask
  low : ∀ r : SReg, r.val < 60 → (t.thread key).sreg r = (s.thread key).sreg r
  mask : (t.thread key).mask = BitVec.allOnes 64
  fptrap : (t.thread key).fptrap = 0
  stack : (t.thread key).mstack = (s.thread key).mstack
  causeReg : (t.thread key).tcause = cause
  pcReg : (t.thread key).tpc = pc
  aside : (t.thread key).aside = (s.thread key).queue ∧ (t.thread key).queue = []
  siblings : ∀ g, g < 16 → groupKey (coreOfKey key) g ≠ key → (fget? s.threads (groupKey (coreOfKey key) g)).isSome = true →
    (s.thread (groupKey (coreOfKey key) g)).status = .running → (t.thread (groupKey (coreOfKey key) g)).status = .halted

/-- A system core has entered its interrupt handler: SMODE is 0b01 (privileged, interrupts disabled), IMODE holds the
old SMODE, IPC the address to resume at, ICAUSE and IVAL the cause and its value, and it goes on at IVEC (R311). -/
structure Interrupted (s t : State) (key : Nat) (resume : BitVec 56) (cause : BitVec 8) (val : Word) : Prop where
  next : (t.thread key).pc = (s.thread key).sys.ivec
  smode : (t.thread key).sys.smode = 1
  imode : (t.thread key).sys.imode = (s.thread key).sys.smode
  ipc : (t.thread key).sys.ipc = resume
  icause : (t.thread key).sys.icause = cause
  ival : (t.thread key).sys.ival = val
  sregs : ∀ r, (t.thread key).sreg r = (s.thread key).sreg r
  others : SameOthers s t key
  memory : SameBytes s t

/-- The waits of a delivery point are over and nothing is raised there (R129, R246): the clauses of the agent have
finished, no operation that raises flags is in the matrix unit, no matrix poison is open, and no enabled flag is set. -/
structure DeliveryClear (s : State) : Prop where
  clauses : s.th.clausesDone = true
  unit : (s.groupOps s.cur).any MatrixOp.raisesFlags = false
  poison : s.th.openPoison = false
  flags : s.th.fpx &&& s.th.fptrap = 0

/-- The waits of a fence are over as well (R170): earlier loads have bound and returned; for a release the store queue
is empty; at scope s the host read-back is done (R167). -/
structure FenceClear (s : State) (rel : Bool) (sc : Scope) : Prop where
  delivery : DeliveryClear s
  loads : s.th.win = [] ∧ s.th.returning = []
  stores : rel = true → s.th.sq = []
  host : sc = .s → s.th.wait = .readbackDone

/-- The agent goes on at the next word with no wait noted; nothing else changes. -/
structure Passed (s t : State) : Prop where
  agent : t.thread s.cur = { s.th with pc := s.th.pc + 4, counters := bumpMap s.th.counters 0 1, wait := .none }
  only : OnlyRunning s t

/-- A privileged system core, whose next instruction names these registers, with nothing pending (R310). -/
structure Privileged (s : State) (names : List SReg) : Prop where
  core : isSysKey s.cur = true
  mode : s.th.sys.smode.getLsbD 0 = true
  issues : s.th.canIssue names = true
  free : s.th.hold = false

/-! ### Lane instructions -/

/-- Every row of a list is one that the agent of lane work may name (R17). -/
def State.CanWrite (s : State) (rows : List Nat) : Prop := ∀ k ∈ rows, s.rowOk s.laneCur k = true

/-- Around a lane instruction of the lanes of m that raises flags only its agent's rows, predicates and FP flags change, and its
counters count the instruction and its lanes (Table 17.5). A later point that the agent may be taken back to has the flags
too (R88). -/
structure LaneOnly (s t : State) (m : BitVec 64) (f : Flags) : Prop where
  agent : t.thread s.laneCur =
    ({ s.thread s.laneCur with
       ownRows := (t.thread s.laneCur).ownRows, preds := (t.thread s.laneCur).preds, fpx := (t.thread s.laneCur).fpx
       counters := bumpMap (bumpMap (s.thread s.laneCur).counters 1 1) 2 (setLanes m).length } : Thread).mapPoints
      (fun p => p.raiseFp f (s.thread s.laneCur).laneClause)
  others : SameOthers s t s.laneCur
  cores : ∀ c, t.core c = { s.core c with rows := (t.core c).rows }
  rest : t = { s with threads := t.threads, cores := t.cores }

/-- The lanes of m take the elements y of each row of a list, and flags join FPX; the other lanes, rows and agents, every
predicate and the rest of the machine stay. -/
structure LaneWrote (s t : State) (m : BitVec 64) (rows : List Nat) (y : Nat → Nat → Elem) (f : Flags) : Prop where
  written : ∀ k ∈ rows, ∀ i, i < 64 →
    (t.row s.laneCur k).at i = if m.getLsbD i then y k i else (s.row s.laneCur k).at i
  kept : ∀ key k, (key ≠ s.laneCur ∨ k ∉ rows) → t.row key k = s.row key k
  preds : ∀ p, (t.thread s.laneCur).pred p = (s.thread s.laneCur).pred p
  flags : (t.thread s.laneCur).fpx = (s.thread s.laneCur).fpx ||| f
  around : LaneOnly s t m f

/-- The lanes of m take the bits y of one predicate, and flags join FPX; every other bit, predicate and row stays. -/
structure LanePred (s t : State) (m : BitVec 64) (p : PReg) (y : Nat → Bool) (f : Flags) : Prop where
  written : ∀ i, i < 64 → ((t.thread s.laneCur).pred p.val).getLsbD i =
    if m.getLsbD i then y i else ((s.thread s.laneCur).pred p.val).getLsbD i
  kept : ∀ q, q ≠ p.val → (t.thread s.laneCur).pred q = (s.thread s.laneCur).pred q
  rows : ∀ key k, t.row key k = s.row key k
  flags : (t.thread s.laneCur).fpx = (s.thread s.laneCur).fpx ||| f
  around : LaneOnly s t m f

/-- Write(y, t): the 32-bit element of row k of a destination that begins at row d (R94). -/
def writtenElem (t : IType) (d k : Nat) (y : Int) : Elem :=
  match t with
  | .i8 => (BitVec.ofInt 8 y).signExtend 32
  | .i16 => (BitVec.ofInt 16 y).signExtend 32
  | .i32 => BitVec.ofInt 32 y
  | .z8 => (BitVec.ofInt 8 y).setWidth 32
  | .z16 => (BitVec.ofInt 16 y).setWidth 32
  | .z32 => BitVec.ofInt 32 y
  | .i64 => if k = d then BitVec.ofInt 32 y else BitVec.ofInt 32 (y / 2 ^ 32)

/-- The flags of every lane of m joined (R127). -/
def laneFlags (m : BitVec 64) (f : Nat → Flags) : Flags := ((setLanes m).map f).foldl (· ||| ·) 0

end Sys2Proof.Machine
end

