-- ==== Sys2Proof/Certificates/Slice0/Obligations.lean ====
section
/-! DEFINITION. The statements about the machine, in the order of OBLIGATIONS.json. -/

open Sys2Proof Sys2Proof.Machine

/-! ### Scalar arithmetic -/

/-- R63, Table 4.6: addition, subtraction, logic and shifts. sd takes the value and nothing else changes. -/
def Obligations.AddLogicShift : Prop :=
  ∀ (s : State) (d a b : SReg), s.Ready anyone [d, a, b] →
    let x := s.th.sreg a
    let y := s.th.sreg b
    Completes (.add d a b) s (Wrote s · d (x + y)) ∧
    Completes (.sub d a b) s (Wrote s · d (x - y)) ∧
    Completes (.and d a b) s (Wrote s · d (x &&& y)) ∧
    Completes (.or d a b) s (Wrote s · d (x ||| y)) ∧
    Completes (.xor d a b) s (Wrote s · d (x ^^^ y)) ∧
    Completes (.andn d a b) s (Wrote s · d (x &&& ~~~y)) ∧
    Completes (.shl d a b) s (Wrote s · d (x <<< (y % 64))) ∧
    Completes (.shrZ d a b) s (Wrote s · d (x >>> (y % 64))) ∧
    Completes (.shrS d a b) s (Wrote s · d (x.sshiftRight (y % 64).toNat))

/-- R63, Table 4.6: multiplication and division with their corners. -/
def Claims.MultiplyDivide : Prop :=
  ∀ (s : State) (d a b : SReg), s.Ready anyone [d, a, b] →
    let x := s.th.sreg a
    let y := s.th.sreg b
    Completes (.mul d a b) s (Wrote s · d (x * y)) ∧
    Completes (.mulhS d a b) s (Wrote s · d (((x.signExtend 128 * y.signExtend 128) >>> 64).setWidth 64)) ∧
    Completes (.mulhZ d a b) s (Wrote s · d (((x.setWidth 128 * y.setWidth 128) >>> 64).setWidth 64)) ∧
    Completes (.divS d a b) s (Wrote s · d (if y = 0 then BitVec.allOnes 64 else x.sdiv y)) ∧
    Completes (.divZ d a b) s (Wrote s · d (if y = 0 then BitVec.allOnes 64 else x / y)) ∧
    Completes (.remS d a b) s (Wrote s · d (if y = 0 then x else x - y * x.sdiv y)) ∧
    Completes (.remZ d a b) s (Wrote s · d (if y = 0 then x else x - y * (x / y)))

/-- R63, Table 4.6: comparisons, extremes, bit counts and fields. -/
def Claims.CompareCount : Prop :=
  ∀ (s : State) (d a b : SReg), s.Ready anyone [d, a, b] →
    let x := s.th.sreg a
    let y := s.th.sreg b
    Completes (.minS d a b) s (Wrote s · d (if x.toInt ≤ y.toInt then x else y)) ∧
    Completes (.minZ d a b) s (Wrote s · d (if x.toNat ≤ y.toNat then x else y)) ∧
    Completes (.maxS d a b) s (Wrote s · d (if x.toInt ≤ y.toInt then y else x)) ∧
    Completes (.maxZ d a b) s (Wrote s · d (if x.toNat ≤ y.toNat then y else x)) ∧
    Completes (.sltS d a b) s (Wrote s · d (if x.toInt < y.toInt then 1 else 0)) ∧
    Completes (.sltZ d a b) s (Wrote s · d (if x.toNat < y.toNat then 1 else 0)) ∧
    Completes (.seq d a b) s (Wrote s · d (if x = y then 1 else 0)) ∧
    Completes (.clz d a) s (fun t => ∃ n ≤ 64, Wrote s t d (BitVec.ofNat 64 n) ∧ x.toNat < 2 ^ (64 - n) ∧
      (n < 64 → 2 ^ (63 - n) ≤ x.toNat)) ∧
    Completes (.ctz d a) s (fun t => ∃ n ≤ 64, Wrote s t d (BitVec.ofNat 64 n) ∧ x.toNat % 2 ^ n = 0 ∧
      (n < 64 → x.getLsbD n = true)) ∧
    Completes (.popc d a) s (Wrote s · d (BitVec.ofNat 64 ((List.range 64).filter (fun i => x.getLsbD i)).length)) ∧
    Completes (.bext d a b) s (fun t => ∃ v : Word, Wrote s t d v ∧
      ∀ i, v.getLsbD i = (decide (i < (y.toNat / 64 % 64) + 1) && x.getLsbD (y.toNat % 64 + i)))

/-- R63, Table 4.6: multiplication, division, comparison, extremes, bit counts and fields. -/
def Obligations.IntegerOps : Prop := Claims.MultiplyDivide ∧ Claims.CompareCount

/-- R64, R65, R66: immediate arithmetic, `lhi` and `pcadd`; `nop` only goes on. -/
def Obligations.Immediates : Prop :=
  ∀ (s : State) (d a : SReg) (imm : BitVec 13) (n w : Fin 64) (k : Fin 4) (v : BitVec 17) (imm19 : BitVec 19),
    s.Ready anyone [d, a] →
    let x := s.th.sreg a
    let i : Word := imm.signExtend 64
    Completes (.addi d a imm) s (Wrote s · d (x + i)) ∧
    Completes (.andi d a imm) s (Wrote s · d (x &&& i)) ∧
    Completes (.ori d a imm) s (Wrote s · d (x ||| i)) ∧
    Completes (.xori d a imm) s (Wrote s · d (x ^^^ i)) ∧
    Completes (.shli d a n) s (Wrote s · d (x <<< n.val)) ∧
    Completes (.shriZ d a n) s (Wrote s · d (x >>> n.val)) ∧
    Completes (.shriS d a n) s (Wrote s · d (x.sshiftRight n.val)) ∧
    Completes (.sltiS d a imm) s (Wrote s · d (if x.toInt < i.toInt then 1 else 0)) ∧
    Completes (.sltiZ d a imm) s (Wrote s · d (if x.toNat < i.toNat then 1 else 0)) ∧
    Completes (.bexti d a n w) s (fun t => ∃ r : Word, Wrote s t d r ∧
      ∀ j, r.getLsbD j = (decide (j < w.val + 1) && x.getLsbD (n.val + j))) ∧
    Completes (.lhi d k v) s (Wrote s · d
      (match k.val with
        | 0 => v.signExtend 64 <<< 13
        | 1 => s.th.sreg d + (v.signExtend 64 <<< 30)
        | 2 => s.th.sreg d + (v.signExtend 64 <<< 47)
        | _ => v.signExtend 64)) ∧
    Completes (.pcadd d imm19) s (Wrote s · d (s.th.pc.setWidth 64 + imm19.signExtend 64 * 4096)) ∧
    Completes .nop s (WentTo s · (s.th.pc + 4))

/-! ### Scalar memory -/

/-- R68: a load of n bytes whose checks pass enters the window; every size and extension. -/
def Claims.LoadsIssue : Prop :=
  ∀ (s : State) (d a : SReg) (imm : BitVec 13) (x : Xlat), s.Free anyone [d, a] → s.logBusy s.cur = false →
    let ea := s.th.sreg a + imm.signExtend 64
    let ok (n : Nat) : Prop := s.checkAccess s.cur .load ea n = .ok x ∧ s.mem.isPoison x.pa = false
    let issued (i : Instr) (n : Nat) (signed : Bool) : Prop :=
      ok n → Completes i s (LoadIssued s · d signed ea.toNat x.pa n x.cellOnly)
    issued (.ldI8 d a imm) 1 true ∧ issued (.ldZ8 d a imm) 1 false ∧
    issued (.ldI16 d a imm) 2 true ∧ issued (.ldZ16 d a imm) 2 false ∧
    issued (.ldI32 d a imm) 4 true ∧ issued (.ldZ32 d a imm) 4 false ∧
    issued (.ld64 d a imm) 8 false

/-- R162: a scalar load whose home is in the package takes its bytes when it may bind, extended as its word says; its register
changes and no other, and its line comes into the caches (R23). A value that comes from afar joins the returning values, and
SCALAR_LOAD_RETURN writes it (R56). -/
def Claims.LoadsBind : Prop :=
  (∀ (s : State) (l : LoadReq) (d : SReg) (signed : Bool), l.dest = .scalar d signed → l.ref = false →
    (s.thread s.subj.ag).win.find? (fun x => x.id == s.subj.n) = some l → (s.thread s.subj.ag).canBind l = true →
    s.portOf l.pa = none → s.mem.isPoison l.pa = false →
    let n := s.loadNum s.subj.ag l
    let v : Word := if signed then (BitVec.ofNat (8 * l.size) n).signExtend 64 else BitVec.ofNat 64 n
    Completes .loadBind s (fun t =>
      (s.subj.flag = false → (t.thread s.subj.ag).sreg d = v ∧ (t.thread s.subj.ag).isPending d = false ∧
        (t.thread s.subj.ag).returning = (s.thread s.subj.ag).returning) ∧
      (s.subj.flag = true → (t.thread s.subj.ag).returning = (s.thread s.subj.ag).returning ++ [(d, v)] ∧
        (t.thread s.subj.ag).sreg d = (s.thread s.subj.ag).sreg d) ∧
      (∀ r, r ≠ d → (t.thread s.subj.ag).sreg r = (s.thread s.subj.ag).sreg r) ∧
      (t.thread s.subj.ag).win.map (·.id) = ((s.thread s.subj.ag).win.filter (fun x => x.id != l.id)).map (·.id) ∧
      SameOthers s t s.subj.ag ∧ CachesOnly s t)) ∧
  (∀ (s : State) (d : SReg) (v : Word) (rest : List (SReg × Word)), (s.thread s.subj.ag).returning = (d, v) :: rest →
    Completes .scalarLoadReturn s (fun t =>
      (t.thread s.subj.ag).sreg d = v ∧ (t.thread s.subj.ag).isPending d = false ∧
      (∀ r, r ≠ d → (t.thread s.subj.ag).sreg r = (s.thread s.subj.ag).sreg r) ∧
      (t.thread s.subj.ag).returning = rest ∧ SameOthers s t s.subj.ag ∧ SameElse s t ∧ SameBytes s t))

/-- R24, R407, R410: a scalar load of host or CXL memory first leaves by its gate as a read, of its address or of its whole line,
and binds once the answer has entered. How a read leaves and is answered is log entries 34, 57 and 100 (DESIGN CHOICE). -/
def Claims.RemoteLoadsBind : Prop :=
  ∀ (s : State) (l : LoadReq) (d : SReg) (g : Nat), l.dest = .scalar d false → l.ref = false → s.subj.flag = false →
    (s.thread s.subj.ag).win.find? (fun x => x.id == s.subj.n) = some l → (s.thread s.subj.ag).canBind l = true →
    s.portOf l.pa = some g → (s.launchOf s.subj.ag).copy = false →
    let who : Reader := .load s.subj.ag l.id
    let plot := s.plotOf s.subj.ag
    (s.askOf who g l.pa = none → Completes .loadBind s (fun t =>
      t.asks = s.asks ++ [{ who := who, gate := g, plot := plot, pa := l.pa }] ∧
      Sent s t g (fun a => a.kind = 1 ∧ a.target = (if g = 0 then l.pa else lineOf l.pa) ∧ a.plot = plot) ∧
      (∀ r, (t.thread s.subj.ag).sreg r = (s.thread s.subj.ag).sreg r) ∧
      (t.thread s.subj.ag).win.map (·.id) = (s.thread s.subj.ag).win.map (·.id) ∧ SameOthers s t s.subj.ag ∧ SameBytes s t)) ∧
    (∀ q, s.askOf who g l.pa = some q → q.answered = false → exec .loadBind s = .next s) ∧
    (∀ q, s.askOf who g l.pa = some q → q.answered = true → s.mem.isPoison l.pa = false → Completes .loadBind s (fun t =>
      (t.thread s.subj.ag).sreg d = BitVec.ofNat 64 (s.loadNum s.subj.ag l) ∧ (t.thread s.subj.ag).isPending d = false ∧
      (∀ r, r ≠ d → (t.thread s.subj.ag).sreg r = (s.thread s.subj.ag).sreg r) ∧
      t.asks = s.asks.erase q ∧ SameOthers s t s.subj.ag ∧ SameBytes s t))

/-- R102, R162: a lane of a `vld` binds: its element takes the bytes, extended as R94's Read; the other lanes and rows stay, and the
lane is done in its long operation. -/
def Claims.LaneLoadsBind : Prop :=
  ∀ (s : State) (l : LoadReq) (d : VReg) (i op : Nat) (ty : IType), l.dest = .lane d.val i ty op → i < 64 →
    (s.thread s.subj.ag).win.find? (fun x => x.id == s.subj.n) = some l → (s.thread s.subj.ag).canBind l = true →
    s.portOf l.pa = none → s.poisoned s.subj.ag op = [] → (∀ k ∈ vregRows ty d, s.rowOk s.subj.ag k = true) →
    let n := s.loadNum s.subj.ag l
    Completes .loadBind s (fun t =>
      (∀ k ∈ vregRows ty d, (t.row s.subj.ag k).at i = writtenElem ty d.val k (readElem ty n)) ∧
      (∀ key k j, j < 64 → (key ≠ s.subj.ag ∨ k ∉ vregRows ty d ∨ j ≠ i) → (t.row key k).at j = (s.row key k).at j) ∧
      (t.thread s.subj.ag).win = (s.thread s.subj.ag).win.filter (fun x => x.id != l.id) ∧
      (∀ o ∈ (t.thread s.subj.ag).longOps, o.id = op → o.left.getLsbD i = false) ∧
      (∀ r, (t.thread s.subj.ag).sreg r = (s.thread s.subj.ag).sreg r) ∧ SameOthers s t s.subj.ag ∧ SameBytes s t)

/-- R68, R71: a store of n bytes whose checks pass enters the store queue with the low bytes of sd; memory is as
before until it drains. -/
def Claims.StoresQueue : Prop :=
  ∀ (s : State) (d a : SReg) (imm : BitVec 13) (x : Xlat), s.Free anyone [d, a] → s.logBusy s.cur = false →
    s.th.queueFull = false →
    let ea := s.th.sreg a + imm.signExtend 64
    let queued (i : Instr) (n : Nat) : Prop :=
      s.checkAccess s.cur .store ea n = .ok x →
        Completes i s (Queued s · .store
          { lane := 0, va := ea.toNat, pa := x.pa, data := leBytes n (s.th.sreg d).toNat, obj := x.obj })
    queued (.st8 d a imm) 1 ∧ queued (.st16 d a imm) 2 ∧ queued (.st32 d a imm) 4 ∧ queued (.st64 d a imm) 8

/-- R68, R71, R161: scalar loads enter the window and scalar stores the queue. -/
def Obligations.MemoryIssues : Prop := Claims.LoadsIssue ∧ Claims.StoresQueue

/-- R71, R107, R161: STORE_QUEUE_DRAIN writes the bytes of the head entry's first part at their place, where no writer waits for
its channel; an entry of a `vst` writes one lane a step. Of the bytes outside them only the owner of a known object header may
change, whose line the store claims (R178). A group's entry leaves with its last part. -/
def Claims.StoresDrain : Prop :=
  ∀ (s : State) (e : SqEntry) (es : List SqEntry) (p : Part) (ps : List Part),
    (s.thread s.subj.ag).sq = e :: es → (e.kind = .store ∨ ∃ op, e.kind = .laneStore op) → e.held = false →
    e.parts = p :: ps → p.data ≠ [] →
    s.queueOpen s.subj.ag = true → s.refreshing p.pa = false → s.waiters = [] → s.MemoryCanonical →
    Completes .storeQueueDrain s (fun t =>
      (∀ i, i < p.data.length → t.mem.byte (p.pa + i) = p.data.getD i 0 ∨
        ∃ h ∈ s.mem.headers, h + 6 ≤ p.pa + i ∧ p.pa + i < h + 16) ∧
      (isSproutKey s.subj.ag = false →
        ∃ w, (t.thread s.subj.ag).sq = if ps = [] then es else { e with parts := ps, whole := w } :: es) ∧
      SameBytesBeside s t p.pa p.data.length ∧ t.MemoryCanonical)

/-- R56, R71, R107, R161, R162: loads bind and stores drain, of scalar words and of lanes. A load of host or CXL memory leaves as
a read and is answered: how is log entries 34, 57 and 100 (DESIGN CHOICE). -/
def Obligations.MemoryPerforms : Prop :=
  Claims.LoadsBind ∧ Claims.RemoteLoadsBind ∧ Claims.LaneLoadsBind ∧ Claims.StoresDrain

/-- R69, R311: the checks of a scalar access come in the order misaligned, out-of-range, translation, escape. A page that is
absent or does not permit the access sends a group to the page-fault path, and gives a system core cause 0x0C (Table 15.1); a
walk that waits on a moving leaf makes the access wait. Escape, cause 0x04, comes after a translation that permits the access,
and an access that passes every check has its frame. -/
def Claims.ScalarCheckOrder : Prop :=
  ∀ (s : State) (key : Nat) (acc : Access) (ea : Word) (n : Nat),
    (ea.toNat % n ≠ 0 → s.checkAccess key acc ea n = .trap 0x02) ∧
    (ea.toNat % n = 0 → 2 ^ 56 ≤ ea.toNat → s.checkAccess key acc ea n = .trap 0x03) ∧
    (ea.toNat % n = 0 → ea.toNat < 2 ^ 56 →
      (s.xlat key ea.toNat = .moving → s.checkAccess key acc ea n = .wait) ∧
      ((s.xlat key ea.toNat = .absent ∨ ∃ x, s.xlat key ea.toNat = .ok x ∧ x.permits acc = false) →
        s.checkAccess key acc ea n = if isSysKey key then .trap 0x0C else .hold) ∧
      (∀ x, s.xlat key ea.toNat = .ok x → x.permits acc = true →
        let writes := decide (acc ≠ .load) && decide (acc ≠ .fetch)
        (s.mem.escapesRun (s.partyOf key) x.obj writes x.pa n = true → s.checkAccess key acc ea n = .trap 0x04) ∧
        (s.mem.escapesRun (s.partyOf key) x.obj writes x.pa n = false → s.checkAccess key acc ea n = .ok x)))

/-! ### Control flow -/

/-- R77, R52: a conditional branch goes to its target when its comparison holds and to the next word otherwise, and
trains its predictor counter. -/
def Obligations.ConditionalBranches : Prop :=
  ∀ (s : State) (a b : SReg) (off : BitVec 13), s.Ready anyone [a, b] →
    let x := s.th.sreg a
    let y := s.th.sreg b
    let target := s.th.pc + off.signExtend 56 * 4
    Completes (.beq a b off) s (Branched s · (decide (x = y)) target) ∧
    Completes (.bne a b off) s (Branched s · (decide (x ≠ y)) target) ∧
    Completes (.bltS a b off) s (Branched s · (decide (x.toInt < y.toInt)) target) ∧
    Completes (.bgeS a b off) s (Branched s · (decide (y.toInt ≤ x.toInt)) target) ∧
    Completes (.bltZ a b off) s (Branched s · (decide (x.toNat < y.toNat)) target) ∧
    Completes (.bgeZ a b off) s (Branched s · (decide (y.toNat ≤ x.toNat)) target)

/-- R78: `jal` and `jalr` link to the next word and jump; `jalr` reads sa before it writes sd. A target of `jalr` that is
not a multiple of 4, or is 2^56 or more, traps with sd unchanged. -/
def Obligations.JumpAndLink : Prop :=
  (∀ (s : State) (d : SReg) (off : BitVec 19), s.Free anyone [d] →
    Completes (.jal d off) s (fun t =>
      (t.thread s.cur).sreg d = (s.th.pc + 4).setWidth 64 ∧
      (∀ r, r ≠ d → (t.thread s.cur).sreg r = s.th.sreg r) ∧
      t.thread s.cur = { s.th with
        sregs := (t.thread s.cur).sregs, pc := s.th.pc + off.signExtend 56 * 4
        retStack := ((s.th.pc + 4) :: s.th.retStack).take 8, counters := bumpMap s.th.counters 0 1 } ∧
      OnlyRunning s t)) ∧
  (∀ (s : State) (d a : SReg) (off : BitVec 13), s.Free anyone [d, a] →
    let target := s.th.sreg a + off.signExtend 64 * 4
    (target.toNat % 4 = 0 → target.toNat < 2 ^ 56 →
      Completes (.jalr d a off) s (fun t =>
        (t.thread s.cur).sreg d = (s.th.pc + 4).setWidth 64 ∧
        (∀ r, r ≠ d → (t.thread s.cur).sreg r = s.th.sreg r) ∧
        t.thread s.cur = { s.th with
          sregs := (t.thread s.cur).sregs, pc := target.setWidth 56, retStack := s.th.retStack.drop 1
          counters := bumpMap s.th.counters 0 1 } ∧
        OnlyRunning s t)) ∧
    (∀ (b : Block) (x : Xlat), CanEnter s s.cur b x →
      (target.toNat % 4 ≠ 0 → Completes (.jalr d a off) s (InHandler s · s.cur b 0x02 s.th.pc)) ∧
      (target.toNat % 4 = 0 → 2 ^ 56 ≤ target.toNat →
        Completes (.jalr d a off) s (InHandler s · s.cur b 0x03 s.th.pc))))

/-- R79: `bany` branches when some lane under MASK has the predicate, `ball` when every lane under MASK has it. -/
def Obligations.PredicateBranches : Prop :=
  ∀ (s : State) (p : PReg) (off : BitVec 13), s.Free computeOnly [] → s.predOk p = true → s.th.clausesDone = true →
    let target := s.th.pc + off.signExtend 56 * 4
    let some' : Prop := ∃ i, i < 64 ∧ s.th.mask.getLsbD i = true ∧ (s.th.pred p.val).getLsbD i = true
    let all' : Prop := ∀ i, i < 64 → s.th.mask.getLsbD i = true → (s.th.pred p.val).getLsbD i = true
    (some' → Completes (.bany p off) s (WentTo s · target)) ∧
    (¬ some' → Completes (.bany p off) s (WentTo s · (s.th.pc + 4))) ∧
    (all' → Completes (.ball p off) s (WentTo s · target)) ∧
    (¬ all' → Completes (.ball p off) s (WentTo s · (s.th.pc + 4)))

/-- R82, R83: the divergence instructions on a mask stack held in hardware. Each sets MASK, the stack and the program
counter as its row says and changes nothing else. -/
def Obligations.Divergence : Prop :=
  ∀ (s : State) (p : PReg) (off : BitVec 13) (far : BitVec 19), s.Free computeOnly [] → s.predOk p = true →
    s.th.clausesDone = true →
    let m := s.th.mask
    let q := s.th.pred p.val
    let pc := s.th.pc
    let st := s.th.mstack
    (s.th.depth < 1024 → st.length < 32 →
      Completes (.divb p off) s (Diverged s · (m &&& q) (⟨.ifK, m, m &&& ~~~q, pc⟩ :: st) s.th.region
        (if m &&& q = 0 then pc + off.signExtend 56 * 4 else pc + 4)) ∧
      Completes (.dloop far) s (Diverged s · m (⟨.loopK, m, 0, pc + far.signExtend 56 * 4⟩ :: st) s.th.region (pc + 4))) ∧
    (∀ (e : MaskEntry) (rest : List MaskEntry), st = e :: rest →
      (e.kind = .ifK → Completes (.delse far) s
        (Diverged s · (if e.pending = 0 then m else e.pending) (⟨.elseK, e.outer, 0, e.target⟩ :: rest) s.th.region
          (if e.pending = 0 then pc + far.signExtend 56 * 4 else pc + 4))) ∧
      ((rest = [] → s.th.mspilled = 0) →
        (e.kind ≠ .loopK → Completes .djoin s (Diverged s · e.outer rest s.th.regionAfterPop (pc + 4))) ∧
        (e.kind = .loopK → m &&& ~~~q = 0 →
          Completes (.dbrk p) s (Diverged s · e.outer rest s.th.regionAfterPop e.target)) ∧
        (e.kind = .loopK → m = 0 → Completes (.dnext far) s (Diverged s · e.outer rest s.th.regionAfterPop (pc + 4)))) ∧
      (e.kind = .loopK → m &&& ~~~q ≠ 0 → Completes (.dbrk p) s (Diverged s · (m &&& ~~~q) st s.th.region (pc + 4))) ∧
      (e.kind = .loopK → m ≠ 0 → Completes (.dnext far) s (Diverged s · m st s.th.region (pc + far.signExtend 56 * 4))))

/-- R84: a divergence instruction that finds the wrong kind on top or an empty stack raises illegal instruction and
leaves the stack as it was; on a system core all six do. -/
def Claims.DivergenceIllegal : Prop :=
  (∀ (s : State) (p : PReg) (far : BitVec 19) (b : Block) (x : Xlat), s.Free computeOnly [] → CanEnter s s.cur b x →
    s.th.clausesDone = true → (s.th.mstack = [] → s.th.mspilled = 0) →
    let refused (i : Instr) : Prop := Completes i s (InHandler s · s.cur b 0x01 s.th.pc)
    let top (k : MaskKind) : Prop := ∃ e rest, s.th.mstack = e :: rest ∧ e.kind = k
    (¬ top .ifK → refused (.delse far)) ∧
    (top .loopK ∨ s.th.mstack = [] → refused .djoin) ∧
    (¬ top .loopK → refused (.dbrk p) ∧ refused (.dnext far))) ∧
  (∀ (s : State) (p : PReg) (off : BitVec 13) (far : BitVec 19), isSysKey s.cur = true → s.th.sys.smode ≠ 1 → s.th.spec = none →
    let refused (i : Instr) : Prop := Completes i s (Interrupted s · s.cur s.th.pc 0x01 0)
    refused (.divb p off) ∧ refused (.delse far) ∧ refused .djoin ∧ refused (.dloop far) ∧ refused (.dbrk p) ∧
    refused (.dnext far) ∧ refused (.bany p off) ∧ refused (.ball p off))

/-- R81: a push at hardware depth 32, of `dloop` or `divb`, first writes the bottom hardware entry to entry j of the group's spill
region, in the layout of Table 4.10, where j entries lie there already; a push at depth 1024 raises mask-stack spill failure. -/
def Claims.MaskStackPushes : Prop :=
  ∀ (s : State) (p : PReg) (off : BitVec 13) (far : BitVec 19) (b : Block) (x : Xlat), s.Free computeOnly [] →
    isSproutKey s.cur = false → s.blockOf s.cur = some b → b.launch.spill ≠ 0 → s.th.walkHold = none →
    s.th.clausesDone = true →
    let m := s.th.mask
    let q := s.th.pred p.val
    let pc := s.th.pc
    (∀ bottom, s.th.mstack.length = 32 → s.th.mstack.getLast? = some bottom → s.th.depth < 1024 →
      s.xlat s.cur (b.area + 0x8000 * ctxOfKey s.cur + 32 * s.th.mspilled) = .ok x → x.wr = true →
      s.waiters = [] → s.refreshing x.pa = false →
      let pushed (i : Instr) (e : MaskEntry) (mask : BitVec 64) (next : BitVec 56) : Prop :=
        Completes i s (fun t =>
          (t.thread s.cur).mstack = e :: s.th.mstack.dropLast ∧ (t.thread s.cur).mspilled = s.th.mspilled + 1 ∧
          (t.thread s.cur).mask = mask ∧ (t.thread s.cur).pc = next ∧
          (s.mem.headers = [] → maskEntryOf (t.mem.num x.pa 32) = bottom) ∧ SameBytesOutside s t x.pa 32)
      pushed (.dloop far) ⟨.loopK, m, 0, pc + far.signExtend 56 * 4⟩ m (pc + 4) ∧
      pushed (.divb p off) ⟨.ifK, m, m &&& ~~~q, pc⟩ (m &&& q)
        (if m &&& q = 0 then pc + off.signExtend 56 * 4 else pc + 4)) ∧
    (∀ y, CanEnter s s.cur b y → 1024 ≤ s.th.depth →
      Completes (.dloop far) s (InHandler s · s.cur b 0x0B pc) ∧ Completes (.divb p off) s (InHandler s · s.cur b 0x0B pc))

/-- R81: a pop that would leave no entry in hardware while some lie in memory refills the topmost of them, of `djoin`, `dbrk` and
`dnext`. An instruction that finds no entry in hardware, as after a region's discard (R297), reads its top entry back first. -/
def Claims.MaskStackPops : Prop :=
  ∀ (s : State) (p : PReg) (far : BitVec 19) (b : Block) (x : Xlat), s.Free computeOnly [] → s.predOk p = true →
    s.blockOf s.cur = some b → s.th.walkHold = none → s.th.clausesDone = true → 0 < s.th.mspilled →
    s.xlat s.cur (b.area + 0x8000 * ctxOfKey s.cur + 32 * (s.th.mspilled - 1)) = .ok x → x.rd = true → s.portOf x.pa = none →
    let top := maskEntryOf (s.mem.num x.pa 32)
    let holds (t : State) (st : List MaskEntry) (mask : BitVec 64) (next : BitVec 56) : Prop :=
      (t.thread s.cur).mstack = st ∧ (t.thread s.cur).mspilled = s.th.mspilled - 1 ∧ (t.thread s.cur).mask = mask ∧
      (t.thread s.cur).pc = next ∧ SameBytes s t
    (∀ e, s.th.mstack = [e] →
      (e.kind ≠ .loopK → Completes .djoin s (holds · [top] e.outer (s.th.pc + 4))) ∧
      (e.kind = .loopK → s.th.mask &&& ~~~(s.th.pred p.val) = 0 → Completes (.dbrk p) s (holds · [top] e.outer e.target)) ∧
      (e.kind = .loopK → s.th.mask = 0 → Completes (.dnext far) s (holds · [top] e.outer (s.th.pc + 4)))) ∧
    (s.th.mstack = [] → top.kind = .ifK → top.pending ≠ 0 →
      Completes (.delse far) s (holds · [{ top with kind := .elseK, pending := 0 }] top.pending (s.th.pc + 4)))

/-- R80, R81: the mask stack spills at hardware depth 32, refills, and fails at 1024. -/
def Obligations.MaskStackSpills : Prop := Claims.MaskStackPushes ∧ Claims.MaskStackPops

/-! ### Atomics -/

/-- R75, R76: a scalar atomic whose checks pass joins the store queue with its operand and comparand; sd is pending. An
acquiring order holds the agent; a releasing one has waited for the queue. Every operation and every order. -/
def Claims.AtomicsQueue : Prop :=
  ∀ (s : State) (d a b : SReg) (ord : AmoOrd) (sc : Scope) (x : Xlat),
    s.Free anyone [d, a, b] → s.logBusy s.cur = false → s.th.queueFull = false → isSproutKey s.cur = false →
    (ordRel ord = true → FenceClear s true sc) →
    s.checkAccess s.cur .atomic (s.th.sreg a) 8 = .ok x →
    let part : Part :=
      { lane := 0, va := (s.th.sreg a).toNat, pa := x.pa, data := leBytes 8 (s.th.sreg b).toNat
        cmp := leBytes 8 (s.th.sreg d).toNat, obj := x.obj }
    let queued (i : Instr) (op : AmoOp) : Prop :=
      Completes i s (fun t => Queued s t (.atomic op d) part ∧ (t.thread s.cur).isPending d = true ∧
        (t.thread s.cur).hold = ordAcq ord)
    queued (.amoAdd d a b ord sc) .add ∧ queued (.amoAnd d a b ord sc) .and ∧ queued (.amoOr d a b ord sc) .or ∧
    queued (.amoXor d a b ord sc) .xor ∧ queued (.amoMinS d a b ord sc) .minS ∧ queued (.amoMinZ d a b ord sc) .minZ ∧
    queued (.amoMaxS d a b ord sc) .maxS ∧ queued (.amoMaxZ d a b ord sc) .maxZ ∧ queued (.amoSwap d a b ord sc) .swap ∧
    queued (.amoCas d a b ord sc) .cas

/-- R75, R165: a scalar atomic at the head of its queue, where no writer waits for its channel, reads the old value of its
word, which returns to sd, and writes the new one; a `cas` that fails writes nothing. Of the bytes outside the word only the
owner of a known object header may change (R178). -/
def Claims.AtomicsPerform : Prop :=
  ∀ (s : State) (e : SqEntry) (es : List SqEntry) (op : AmoOp) (d : SReg) (p : Part),
    (s.thread s.subj.ag).sq = e :: es → e.kind = .atomic op d → e.parts = [p] → e.held = false →
    s.queueOpen s.subj.ag = true → s.refreshing p.pa = false → s.waiters = [] → isSproutKey s.subj.ag = false →
    s.portOf p.pa = none → (∀ b, s.blockOf s.subj.ag = some b → ∃ g < b.launch.groups, b.gone.contains g = false) →
    let old := s.mem.num p.pa 8
    let b := leNat p.data
    let sg (n : Nat) : Int := (BitVec.ofNat 64 n).toInt
    let new : Option Nat :=
      match op with
      | .add => some ((old + b) % 2 ^ 64)
      | .and => some (old &&& b)
      | .or => some (old ||| b)
      | .xor => some (old ^^^ b)
      | .minS => some (if sg b < sg old then b else old)
      | .minZ => some (if b < old then b else old)
      | .maxS => some (if sg old < sg b then b else old)
      | .maxZ => some (if old < b then b else old)
      | .swap => some b
      | .cas => if old = leNat p.cmp then some b else none
    Completes .atomicPerform s (fun t =>
      (t.thread s.subj.ag).returning = (s.thread s.subj.ag).returning ++ [(d, BitVec.ofNat 64 old)] ∧
      (t.thread s.subj.ag).sq = es ∧ SameBytesBeside s t p.pa 8 ∧
      (new = none → SameBytes s t) ∧
      (∀ v, new = some v → s.mem.headers = [] → t.mem.num p.pa 8 = v % 2 ^ 64))

/-- R111, R165: an atomic of a lane at the head of its queue performs: the old value goes to its element, extended as R94's
Read, and the new one to its place; a `cas` that fails writes nothing. One lane performs a step, and its lane is done. -/
def Claims.LaneAtomicsPerform : Prop :=
  ∀ (s : State) (e : SqEntry) (es : List SqEntry) (op : AmoOp) (ty : IType) (d : VReg) (lop : Nat) (p : Part) (ps : List Part),
    (s.thread s.subj.ag).sq = e :: es → e.kind = .laneAtomic op ty d.val lop → e.parts = p :: ps → e.held = false →
    (∀ x ∈ e.parts, s.mem.isPoison x.pa = false) → p.lane < 64 → (∀ k ∈ vregRows ty d, s.rowOk s.subj.ag k = true) →
    s.queueOpen s.subj.ag = true → s.refreshing p.pa = false → s.waiters = [] → isSproutKey s.subj.ag = false →
    s.portOf p.pa = none → (∀ b, s.blockOf s.subj.ag = some b → ∃ g < b.launch.groups, b.gone.contains g = false) →
    let n := ty.width / 8
    let old := s.mem.num p.pa n
    let new := amoNew op ty.width old (leNat p.data) (leNat p.cmp)
    Completes .atomicPerform s (fun t =>
      (∀ k ∈ vregRows ty d, (t.row s.subj.ag k).at p.lane = writtenElem ty d.val k (readElem ty old)) ∧
      (∀ key k j, j < 64 → (key ≠ s.subj.ag ∨ k ∉ vregRows ty d ∨ j ≠ p.lane) → (t.row key k).at j = (s.row key k).at j) ∧
      (∃ w, (t.thread s.subj.ag).sq = if ps = [] then es else { e with parts := ps, whole := w } :: es) ∧
      (∀ o ∈ (t.thread s.subj.ag).longOps, o.id = lop → o.left.getLsbD p.lane = false) ∧
      SameBytesBeside s t p.pa n ∧ (new = none → SameBytes s t) ∧
      (∀ v, new = some v → s.mem.headers = [] → t.mem.num p.pa n = v % 2 ^ ty.width))

/-- R75, R76, R111, R165: scalar atomics join the queue and perform; so do those of lanes, one lane a step. -/
def Obligations.Atomics : Prop := Claims.AtomicsQueue ∧ Claims.AtomicsPerform ∧ Claims.LaneAtomicsPerform

/-! ### Fences -/

/-- R170: a fence whose waits are over goes on, and changes no register, no memory and no other agent; `tfence` goes on
once the clauses have completed and the stores have drained, and leaves every byte of memory and every scalar register as they
were (R172). -/
def Claims.FencesPass : Prop :=
  ∀ (s : State) (sc : Scope), s.Free anyone [] →
    (FenceClear s false sc → Completes (.fenceAcq sc) s (Passed s)) ∧
    (FenceClear s true sc → Completes (.fenceRel sc) s (Passed s)) ∧
    (FenceClear s true sc → Completes (.fenceAr sc) s (Passed s)) ∧
    (s.th.sq = [] → s.th.clausesDone = true → Completes (.tfence sc) s (fun t =>
      (t.thread s.cur).pc = s.th.pc + 4 ∧ (t.thread s.cur).written = (if sc = .s then [] else s.th.written) ∧
      (∀ r, (t.thread s.cur).sreg r = s.th.sreg r) ∧ SameOthers s t s.cur ∧ SameBytes s t))

/-- R170: a fence does not retire before its waits are over: with an unbound load no kind goes on, and with an undrained
store no release does. -/
def Claims.FencesWait : Prop :=
  ∀ (s : State) (sc : Scope), s.Free anyone [] → DeliveryClear s →
    (s.th.win ≠ [] → exec (.fenceAcq sc) s = .next s ∧ exec (.fenceRel sc) s = .next s ∧ exec (.fenceAr sc) s = .next s) ∧
    (s.th.sq ≠ [] → exec (.fenceRel sc) s = .next s ∧ exec (.fenceAr sc) s = .next s ∧ exec (.tfence sc) s = .next s)

/-- R170: fences pass when their waits are over, and wait until then. -/
def Obligations.Fences : Prop := Claims.FencesPass ∧ Claims.FencesWait

/-! ### Traps, interrupts and privilege -/

/-- R286, R290: `trap` enters the handler of a group whose launch has trap-enable, with cause breakpoint for code
0x7FFFF and software trap for every other; the record at the handler's place begins with the cause. -/
def Claims.SoftwareTrap : Prop :=
  ∀ (s : State) (code : BitVec 19) (b : Block) (x : Xlat), s.Free anyone [] → CanEnter s s.cur b x →
    let cause : BitVec 8 := if code = 0x7FFFF then 0x09 else 0x08
    Completes (.trap code) s (fun t =>
      InHandler s t s.cur b cause s.th.pc ∧ (s.mem.headers = [] → t.mem.byte x.pa = cause) ∧
      SameBytesOutside s t x.pa 2048)

/-- R286: TRAP_ENTRY takes a trap that stayed pending, with the cause and the address it was raised with. -/
def Claims.PendingTrapEnters : Prop :=
  ∀ (s : State) (pt : PendingTrap) (b : Block) (x : Xlat), CanEnter s s.subj.ag b x →
    (s.thread s.subj.ag).trap = some pt → (s.thread s.subj.ag).frozen = false → (s.thread s.subj.ag).walkHold = none →
    (s.thread s.subj.ag).win.any (·.ref) = false → pt.cause.getLsbD 7 = false →
    Completes .trapEntry s (fun t => InHandler s t s.subj.ag b pt.cause pt.pc ∧ (t.thread s.subj.ag).trap = none)

/-- R286, R290: `trap`, and a trap that stayed pending, enter the handler. -/
def Obligations.TrapsEnter : Prop := Claims.SoftwareTrap ∧ Claims.PendingTrapEnters

/-- R69, R88, R286: a misaligned or out-of-range scalar load or store of a group traps precisely at its word: no register
below s60 and no byte of memory outside the trap record changes. -/
def Claims.MemoryTrapsPrecise : Prop :=
  ∀ (s : State) (d a : SReg) (imm : BitVec 13) (b : Block) (x : Xlat), s.Free anyone [d, a] → CanEnter s s.cur b x →
    s.logBusy s.cur = false → s.th.queueFull = false →
    let ea := s.th.sreg a + imm.signExtend 64
    let traps (i : Instr) (n : Nat) : Prop :=
      (ea.toNat % n ≠ 0 → Completes i s (fun t => InHandler s t s.cur b 0x02 s.th.pc ∧ SameBytesOutside s t x.pa 2048)) ∧
      (ea.toNat % n = 0 → 2 ^ 56 ≤ ea.toNat →
        Completes i s (fun t => InHandler s t s.cur b 0x03 s.th.pc ∧ SameBytesOutside s t x.pa 2048))
    traps (.ldI16 d a imm) 2 ∧ traps (.ldZ32 d a imm) 4 ∧ traps (.ld64 d a imm) 8 ∧
    traps (.st16 d a imm) 2 ∧ traps (.st32 d a imm) 4 ∧ traps (.st64 d a imm) 8

/-- R69, R88, R417: a group's scalar load whose line is in error when it binds raises poison at its own word: the group stands
there again, with the scalar registers that it had, and its trap is pending. -/
def Claims.LoadPoison : Prop :=
  ∀ (s : State) (l : LoadReq) (d : SReg) (signed : Bool) (p : Point), l.dest = .scalar d signed → l.back = some p →
    (s.thread s.subj.ag).win.find? (fun x => x.id == s.subj.n) = some l → (s.thread s.subj.ag).canBind l = true →
    s.portOf l.pa = none → s.mem.isPoison l.pa = true → (s.thread s.subj.ag).spec = none → (s.thread s.subj.ag).trap = none →
    isSysKey s.subj.ag = false → isSproutKey s.subj.ag = false →
    Completes .loadBind s (fun t =>
      (t.thread s.subj.ag).trap = some { cause := 0x07, pc := p.pc, value := BitVec.ofNat 64 l.va } ∧
      (t.thread s.subj.ag).pc = p.pc ∧ (t.thread s.subj.ag).sregs = p.sregs ∧ (t.thread s.subj.ag).mask = p.mask ∧
      (∀ k, k ≠ s.subj.ag → isSysKey k = false → t.thread k = s.thread k) ∧ SameBytes s t)

/-- R69, R88, R286: the order of the checks on a scalar access, and its precise traps. -/
def Obligations.MemoryTraps : Prop := Claims.ScalarCheckOrder ∧ Claims.MemoryTrapsPrecise ∧ Claims.LoadPoison

/-- R311, R310: `sysc` of a system core in user mode enters its interrupt handler with cause 0x20, the number as value
and the next word as the address to resume at; in privileged mode with interrupts enabled it raises illegal
instruction, at its own word. -/
def Obligations.SystemCoreSysc : Prop :=
  ∀ (s : State) (n : BitVec 19), isSysKey s.cur = true → s.th.canIssue [] = true → s.th.hold = false →
    (s.th.sys.smode.getLsbD 0 = false →
      Completes (.sysc n) s (Interrupted s · s.cur (s.th.pc + 4) 0x20 (n.setWidth 64))) ∧
    (s.th.sys.smode = 3 → s.th.spec = none → Completes (.sysc n) s (Interrupted s · s.cur s.th.pc 0x01 0))

/-- R310: an instruction of the system class executes on a system core in privileged mode only. In user mode each one
but `wfe` raises illegal instruction there, entering the interrupt handler. -/
def Claims.UserModeRefused : Prop :=
  ∀ (s : State) (a b d : SReg), isSysKey s.cur = true → s.th.sys.smode.getLsbD 0 = false → s.th.spec = none →
    let refused (i : Instr) : Prop := Completes i s (Interrupted s · s.cur s.th.pc 0x01 0)
    refused (.tlbinv a b) ∧ refused .tlbfence ∧ refused (.pgfree a) ∧ refused (.pgalloc d) ∧ refused (.lend a b) ∧
    refused (.recall a) ∧ refused (.keyload a b) ∧ refused .iret

/-- R310, R33: on a group of a launch with trap-enable every instruction of the system class raises illegal instruction. -/
def Claims.SystemClassOnGroup : Prop :=
  ∀ (s : State) (a b d : SReg) (k : Block) (x : Xlat), CanEnter s s.cur k x →
    let refused (i : Instr) : Prop := Completes i s (InHandler s · s.cur k 0x01 s.th.pc)
    refused (.tlbinv a b) ∧ refused .tlbfence ∧ refused (.pgfree a) ∧ refused (.pgalloc d) ∧ refused (.lend a b) ∧
    refused (.recall a) ∧ refused (.keyload a b) ∧ refused .wfe ∧ refused .iret

/-- R333, R311: `iret` goes on at IPC in the mode IMODE holds and changes nothing else; `wfe` goes on when an enabled
cause is pending and waits when none is; INTERRUPT_ENTRY takes the lowest pending enabled cause of a system core that
has interrupts enabled, where no `ldref` is outstanding. -/
def Obligations.InterruptsReturn : Prop :=
  (∀ s : State, Privileged s [] → s.th.sys.ipc.toNat % 4 = 0 →
    Completes .iret s (fun t =>
      t.thread s.cur = { s.th with
        pc := s.th.sys.ipc, counters := bumpMap s.th.counters 0 1, sys := { s.th.sys with smode := s.th.sys.imode } } ∧
      OnlyRunning s t)) ∧
  (∀ s : State, isSysKey s.cur = true → s.th.canIssue [] = true → s.th.hold = false →
    (s.th.sys.ipend &&& s.th.sys.ien ≠ 0 → Completes .wfe s (Passed s)) ∧
    (s.th.sys.ipend &&& s.th.sys.ien = 0 → Completes .wfe s (AgentOnly s · s.cur { s.th with wait := .event }))) ∧
  (∀ (s : State) (i : Nat), isSysKey s.subj.ag = true → (fget? s.threads s.subj.ag).isSome = true →
    (s.thread s.subj.ag).sys.smode.getLsbD 1 = true → (s.thread s.subj.ag).wait = .none →
    (s.thread s.subj.ag).status = .running → (s.thread s.subj.ag).win.any (·.ref) = false → (s.thread s.subj.ag).spec = none →
    i < 32 →
    ((s.thread s.subj.ag).sys.ipend &&& (s.thread s.subj.ag).sys.ien).getLsbD i = true →
    (∀ j, j < i → ((s.thread s.subj.ag).sys.ipend &&& (s.thread s.subj.ag).sys.ien).getLsbD j = false) →
    Completes .interruptEntry s (fun t =>
      Interrupted s t s.subj.ag (s.thread s.subj.ag).pc (BitVec.ofNat 8 (0x30 + i)) (fgetD (s.thread s.subj.ag).sys.vals i 0)))

/-! ### Special registers -/

/-- R57, R58, R312, R362, Tables 4.4, 15.2, 17.4: `sget` reads a register that the agent may read, zero-extended, and changes
nothing else. The registers that place an agent in its launch read 0 on a system core; TRAP.* read 0 outside handler mode. (That
PHASE and TAGERR are among those that read 0 on a system core is log entry 110, DESIGN CHOICE: the note under Table 4.4 lists
neither.) -/
def Obligations.SpecialReads : Prop :=
  ∀ (s : State) (d : SReg), s.Free anyone [d] →
    let reads (i : BitVec 12) (v : Nat) : Prop := Completes (.sget d i) s (Wrote s · d (BitVec.ofNat 64 v))
    (∀ i : BitVec 12, s.readable i.toNat = true → Completes (.sget d i) s (Wrote s · d (s.specialValue i.toNat))) ∧
    reads 0x001 s.th.mask.toNat ∧ reads 0x002 (s.th.mstack.length + s.th.mspilled) ∧ reads 0x020 s.th.ftv.toNat ∧
    reads 0x021 s.th.fpx.toNat ∧ reads 0x022 s.th.fptrap.toNat ∧ reads 0x023 s.th.rmode.toNat ∧ reads 0x030 s.cycle ∧
    reads 0x050 (s.th.bt 0).limit.toNat ∧ reads 0x057 (s.th.bt 7).limit.toNat ∧
    (isSysKey s.cur = true →
      reads 0x000 0 ∧ reads 0x004 0 ∧ reads 0x005 0 ∧ reads 0x006 0 ∧ reads 0x007 0 ∧ reads 0x008 0 ∧ reads 0x009 0 ∧
      reads 0x00A 0 ∧ reads 0x00B 0 ∧ reads 0x011 0 ∧ reads 0x031 0) ∧
    (∀ b, isSysKey s.cur = false → isSproutKey s.cur = false → s.blockOf s.cur = some b →
      reads 0x000 (ctxOfKey s.cur * b.launch.rowStride) ∧ reads 0x004 (ctxOfKey s.cur) ∧ reads 0x005 b.blockId ∧
      reads 0x006 (tileX (coreOfKey s.cur)) ∧ reads 0x007 (tileY (coreOfKey s.cur)) ∧ reads 0x008 b.launch.w ∧
      reads 0x009 b.launch.h ∧ reads 0x00A b.x0 ∧ reads 0x00B b.y0 ∧ reads 0x031 b.launch.phase) ∧
    (s.th.status = .handler →
      reads 0x100 s.th.tcause.toNat ∧ reads 0x101 s.th.tpc.toNat ∧ reads 0x102 s.th.tclause.toNat ∧
      reads 0x103 s.th.tindex.toNat ∧ reads 0x104 s.th.tlanes.toNat ∧ reads 0x105 s.th.trecord.toNat) ∧
    (s.th.status ≠ .handler →
      reads 0x100 0 ∧ reads 0x101 0 ∧ reads 0x102 0 ∧ reads 0x103 0 ∧ reads 0x104 0 ∧ reads 0x105 0) ∧
    (s.atPlotCore = true →
      let p := s.plot s.th.plot
      reads 0x400 s.th.sys.smode.toNat ∧ reads 0x401 s.th.sys.ien.toNat ∧ reads 0x402 s.th.sys.ivec.toNat ∧
      reads 0x403 s.th.sys.ipc.toNat ∧ reads 0x404 s.th.sys.imode.toNat ∧ reads 0x405 s.th.sys.icause.toNat ∧
      reads 0x406 s.th.sys.ival.toNat ∧ reads 0x407 s.th.sys.ipend.toNat ∧ reads 0x410 p.id ∧ reads 0x423 p.fring.tail.toNat ∧
      reads 0x43A p.lcomp.toNat ∧ reads 0x180 p.stopAt.toNat ∧ reads 0x830 p.ctxid.toNat ∧ reads 0x832 0)

/-- R58, R59: `sset` of a register that the agent itself holds; the other registers, memory and agents stay. FTV takes 1 and 2
alone, IVEC a multiple of 4, and IPEND clears the bits written as one. -/
def Claims.SpecialWrites : Prop :=
  ∀ (s : State) (a : SReg), s.Free anyone [a] →
    let v := s.th.sreg a
    let sets (i : BitVec 12) (x : Thread) : Prop :=
      Completes (.sset a i) s (AgentOnly s · s.cur { x with pc := s.th.pc + 4, counters := bumpMap s.th.counters 0 1 })
    sets 0x001 { s.th with mask := v } ∧
    (v = 1 ∨ v = 2 → sets 0x020 { s.th with ftv := v.setWidth 8 }) ∧
    sets 0x021 { s.th with fpx := v.setWidth 6 } ∧
    sets 0x022 { s.th with fptrap := v.setWidth 6 } ∧
    sets 0x023 { s.th with rmode := v.setWidth 2 } ∧
    (s.atPlotCore = true →
      sets 0x400 { s.th with sys := { s.th.sys with smode := v.setWidth 2 } } ∧
      sets 0x401 { s.th with sys := { s.th.sys with ien := v.setWidth 32 } } ∧
      (v.toNat % 4 = 0 → sets 0x402 { s.th with sys := { s.th.sys with ivec := v.setWidth 56 } }) ∧
      sets 0x403 { s.th with sys := { s.th.sys with ipc := v.setWidth 56 } } ∧
      sets 0x404 { s.th with sys := { s.th.sys with imode := v.setWidth 2 } } ∧
      Completes (.sset a 0x407) s (fun t =>
        (t.thread s.cur).sys.ipend = s.th.sys.ipend &&& ~~~(v.setWidth 32) ∧ (t.thread s.cur).pc = s.th.pc + 4 ∧
        (∀ r, (t.thread s.cur).sreg r = s.th.sreg r) ∧ OnlyRunning s t)) ∧
    (∀ b x, CanEnter s s.cur b x →
      (∀ i : BitVec 12, s.writable i.toNat = false → Completes (.sset a i) s (InHandler s · s.cur b 0x01 s.th.pc)) ∧
      (∀ i : BitVec 12, s.readable i.toNat = false → Completes (.sget a i) s (InHandler s · s.cur b 0x01 s.th.pc)) ∧
      (v ≠ 1 → v ≠ 2 → Completes (.sset a 0x020) s (InHandler s · s.cur b 0x03 s.th.pc)))

/-- R312, R362: a plot system core in privileged mode sets a register of its plot and goes on; the rest of the machine
stays. A write that the register's row refuses raises out-of-range. -/
def Claims.PlotRegisterWrites : Prop :=
  ∀ (s : State) (a : SReg), s.Free anyone [a] → s.atPlotCore = true →
    let v := s.th.sreg a
    let p := s.plot s.th.plot
    let sets (i : BitVec 12) (x : Plot) : Prop := Completes (.sset a i) s (PlotAndOn s · s.th.plot x)
    let refused (i : BitVec 12) : Prop :=
      s.th.sys.smode = 3 → s.th.spec = none → Completes (.sset a i) s (Interrupted s · s.cur s.th.pc 0x03 0)
    sets 0x180 { p with stopAt := v } ∧
    (v.toNat % 64 < p.vfCount → sets 0x413 { p with vfSel := v.toNat % 64 }) ∧
    (p.vfCount ≤ v.toNat % 64 → refused 0x413) ∧
    sets 0x423 { p with fring := { p.fring with tail := v.setWidth 32 } } ∧
    sets 0x42B { p with sysc := { p.sysc with tail := v.setWidth 32 } } ∧
    sets 0x436 { p with flog := { p.flog with tail := v.setWidth 32 } } ∧
    sets 0x43A { p with lcomp := p.lcomp &&& ~~~v } ∧
    sets 0x800 { p with cksCtl := v.setWidth 1 } ∧
    sets 0x804 { p with cks := { p.cks with tail := v.setWidth 32 } } ∧
    sets 0x840 { p with brk := fset p.brk 0 (v.setWidth 56) } ∧
    sets 0x847 { p with brk := fset p.brk 7 (v.setWidth 56) } ∧
    ((v.setWidth 56).toNat % 4096 ≠ 0 → refused 0x420 ∧ refused 0x428 ∧ refused 0x432 ∧ refused 0x801 ∧ refused 0x810) ∧
    (6 ≤ v.toNat % 16 → refused 0x820 ∧ refused 0x82F) ∧
    (v.toNat % 16 < 6 → v.toNat / 16 % 16 < 6 → sets 0x820 { p with trig := fset p.trig 0 (v &&& ~~~(0xE00 : Word)) })

/-- R57, Tables 4.4, 15.2, 17.4, 20.1: `sset` on an agent's registers and on its plot's. -/
def Obligations.SpecialWritten : Prop := Claims.SpecialWrites ∧ Claims.PlotRegisterWrites

/-- R312, R357, R359, R362, R370, R406, R408: the register writes that stand in the opcode table as happenings, on the value of
their subject. A write of VF.ROOT or of WIN.VA moves its interface to ERROR (R406): that every such write does, in whatever
state the interface is, is log entry 58 (DEDUCED). -/
def Claims.RegisterWriteEvents : Prop :=
  ∀ s : State,
    let v := s.subj.value
    let p := s.plot s.th.plot
    ((v = 1 ∨ v = 2) → Completes .ftvWrite s (AgentOnly s · s.cur { s.th with ftv := v.setWidth 8 })) ∧
    Completes .fpxWrite s (AgentOnly s · s.cur { s.th with fpx := v.setWidth 6 }) ∧
    (s.atPlotCore = true →
      Completes .stopatWrite s (PlotOnly s · s.th.plot { p with stopAt := v }) ∧
      Completes .ipendWrite s (fun t => ∃ vals, AgentOnly s t s.cur
        { s.th with sys := { s.th.sys with ipend := s.th.sys.ipend &&& ~~~(v.setWidth 32), vals := vals } }) ∧
      Completes .lcompWrite s (PlotOnly s · s.th.plot { p with lcomp := p.lcomp &&& ~~~v }) ∧
      ((v.setWidth 52).toNat % 4096 = 0 → p.areaOk (v.setWidth 52).toNat 2048 = true →
        Completes .vfRootWrite s (PlotOnly s · s.th.plot
          (p.modSel (fun f => { f with root := v.setWidth 52, status := 0, tdisp := .error })))) ∧
      ((v.setWidth 56).toNat % 2 ^ (fgetD p.vfs p.vfSel {}).winBits = 0 →
        Completes .winVaWrite s (PlotOnly s · s.th.plot (p.modSel (fun f => { f with winVa := v.setWidth 56, tdisp := .error })))) ∧
      (s.hringOk s.th.plot (v.setWidth 56) = true →
        (v.setWidth 56 = (0 : BitVec 56) ∨ ∃ x, s.hringXlat s.th.plot (v.setWidth 56) = .ok x ∧ s.portOf x.pa = none) →
        Completes .hringWrite s (PlotOnly s · s.th.plot (p.modSel (fun f => { f with hring := v.setWidth 56 })))) ∧
      (v.setWidth 2 ≠ (3 : BitVec 2) → (p.trcState = 2 → v.setWidth 2 = (0 : BitVec 2)) →
        Completes .trcStateWrite s (PlotOnly s · s.th.plot { p with trcState := v.setWidth 2 })) ∧
      Completes .dbgCtxidWrite s (fun t =>
        (t.plot s.th.plot).ctxid = v.setWidth 32 ∧
        (∀ n, n < 16 → (fgetD p.trig n 0).toNat % 16 = 2 → (fgetD p.trig n 0).toNat / 2 ^ 32 % 2 ^ 32 = v.toNat % 2 ^ 32 →
          (fgetD (t.plot s.th.plot).trig n 0).getLsbD 9 = true) ∧
        t = { s with plots := t.plots }) ∧
      Completes .dbgPanicWrite s (fun t =>
        (t.plot s.th.plot).panic = v.setWidth 32 ∧
        (∀ n, n < 16 → (fgetD p.trig n 0).toNat % 16 = 5 → (fgetD (t.plot s.th.plot).trig n 0).getLsbD 9 = true) ∧
        t = { s with plots := t.plots }) ∧
      Completes .dbgRunWrite s (PlotOnly s · s.th.plot (if v.getLsbD 0 then { p with resume := true } else p)))

/-- R326, R327, R325: a write of a weight or of a quantum that is not 0 takes effect and starts a slice of the function chosen
next; a quantum of 0 is refused in its status; SLICE_END starts the next slice when one has run its length. Where no launch of
the outgoing function is queued, no byte of memory changes. -/
def Claims.Slices : Prop :=
  ∀ s : State, (∀ c, (s.core c).parked = []) →
    let v := s.subj.value
    let p := s.plot s.th.plot
    let noneQueued (q : Nat) : Prop := ∀ l ∈ (s.plot q).waiting ++ (s.plot q).spilled, l.vf ≠ (s.plot q).vfCur
    (s.atPlotCore = true →
      Completes .vfWeightWrite s (fun t =>
        (fgetD (t.plot s.th.plot).vfs p.vfSel {}).weight = v.setWidth 8 ∧ (t.plot s.th.plot).sliceStart = s.cycle ∧
        (noneQueued s.th.plot → SameBytes s t)) ∧
      (v.setWidth 32 ≠ (0 : BitVec 32) → Completes .vfQuantumWrite s (fun t =>
        (fgetD (t.plot s.th.plot).vfs p.vfSel {}).quantum = v.setWidth 32 ∧
        (fgetD (t.plot s.th.plot).vfs p.vfSel {}).effq.toNat = max 30 (v.toNat % 2 ^ 32) ∧
        (t.plot s.th.plot).sliceStart = s.cycle ∧ (noneQueued s.th.plot → SameBytes s t))) ∧
      (v.setWidth 32 = (0 : BitVec 32) → Completes .vfQuantumWrite s (fun t =>
        PlotOnly s t s.th.plot (p.modSel (fun f => { f with status := 2 }))))) ∧
    (∀ n, (fget? s.plots s.subj.ag).isSome = true → (s.plot s.subj.ag).stopped = false →
      (s.plot s.subj.ag).sliceEnd ≤ s.cycle → s.nextVf s.subj.ag = some n →
      Completes .sliceEnd s (fun t =>
        (t.plot s.subj.ag).vfCur = n ∧ (t.plot s.subj.ag).sliceStart = s.cycle ∧
        (t.plot s.subj.ag).sliceEnd = s.cycle + (fgetD (s.plot s.subj.ag).vfs n {}).effq.toNat * 1400 ∧
        (noneQueued s.subj.ag → SameBytes s t)))

/-- R325, R326, Tables 4.4, 15.2, 17.4, 20.1: the register writes of the event rows, and the slices. -/
def Obligations.WriteEvents : Prop := Claims.RegisterWriteEvents ∧ Claims.Slices

/-! ### Handlers and groups -/

/-- R291: `tret` of a group in its handler, whose clauses have finished and whose record is readable, goes on at s61 under
the mask in s63 with FPTRAP from its record; its clauses return to the queue, its siblings resume, and no scalar register
and no byte of memory changes. -/
def Obligations.TrapReturns : Prop :=
  ∀ (s : State) (b : Block) (x : Xlat), s.Free groupOnly [61, 63] → isSysKey s.cur = false → s.blockOf s.cur = some b →
    s.th.status = .handler → s.th.clausesDone = true → s.th.walkHold = none → (s.th.sreg 61).toNat % 4 = 0 →
    (s.th.sreg 61).toNat < 2 ^ 56 → s.xlat s.cur (b.area + 0x80000 + 0x800 * ctxOfKey s.cur) = .ok x → x.rd = true →
    Completes .tret s (fun t =>
      (t.thread s.cur).status = .running ∧ (t.thread s.cur).pc = (s.th.sreg 61).setWidth 56 ∧
      (t.thread s.cur).mask = s.th.sreg 63 ∧ (∀ r, (t.thread s.cur).sreg r = s.th.sreg r) ∧
      (s.th.sq = [] → (t.thread s.cur).fptrap = (s.mem.byte (x.pa + 3)).setWidth 6) ∧
      (s.th.aband = none → (t.thread s.cur).queue = s.th.aside) ∧
      ((t.core (coreOfKey s.cur)).block = some { b with handler := none }) ∧
      (∀ g, g < 16 → groupKey (coreOfKey s.cur) g ≠ s.cur →
        (s.thread (groupKey (coreOfKey s.cur) g)).haltedBy = some (ctxOfKey s.cur) →
        (s.thread (groupKey (coreOfKey s.cur) g)).status = .halted →
        t.thread (groupKey (coreOfKey s.cur) g) =
          { s.thread (groupKey (coreOfKey s.cur) g) with status := .running, haltedBy := none }) ∧
      SameBytes s t)

/-- R292, R293, R294: in a handler, `ginspect`, `gmodify`, `gresume` and `gend` act on a sibling that its entry halted. -/
def Obligations.GroupControl : Prop :=
  ∀ (s : State) (d a b : SReg) (blk : Block) (g : Nat), s.Free notSprout [d, a, b] → isSysKey s.cur = false →
    isSproutKey s.cur = false → s.th.status = .handler → s.blockOf s.cur = some blk → g < blk.launch.groups → g < 16 →
    groupKey (coreOfKey s.cur) g ≠ s.cur →
    let key := groupKey (coreOfKey s.cur) g
    let x := s.thread key
    let sel (c r i : Nat) : Nat := c * 2 ^ 28 + r * 2 ^ 6 + i
    x.haltedBy = some (ctxOfKey s.cur) → x.status = .halted → blk.gone.contains g = false →
    ((s.th.sreg a).toNat % 16 = g →
      (∀ r : SReg, (s.th.sreg b).toNat % 2 ^ 32 = sel 0 0 r.val → Completes (.ginspect d a b) s (Wrote s · d (x.sreg r))) ∧
      ((s.th.sreg b).toNat % 2 ^ 32 = sel 1 0 0 → Completes (.ginspect d a b) s (Wrote s · d (x.pc.setWidth 64))) ∧
      ((s.th.sreg b).toNat % 2 ^ 32 = sel 1 0 1 → Completes (.ginspect d a b) s (Wrote s · d x.mask)) ∧
      ((s.th.sreg b).toNat % 2 ^ 32 = sel 1 0 4 → Completes (.ginspect d a b) s (Wrote s · d 1)) ∧
      (∀ p : PReg, (s.th.sreg b).toNat % 2 ^ 32 = sel 3 p.val 0 → Completes (.ginspect d a b) s (Wrote s · d (x.pred p.val))) ∧
      Completes (.gresume a) s (fun t =>
        t.thread key = { x with haltedBy := none, status := .running } ∧
        t.thread s.cur = { s.th with pc := s.th.pc + 4, counters := bumpMap s.th.counters 0 1 } ∧
        (∀ k, k ≠ key → k ≠ s.cur → t.thread k = s.thread k) ∧ SameElse s t) ∧
      (blk.gone.contains (ctxOfKey s.cur) = false → ctxOfKey s.cur < blk.launch.groups →
        Completes (.gend a) s (fun t =>
          (t.thread key).status = .ended ∧ (t.thread key).queue = [] ∧ (t.thread key).win = [] ∧ (t.thread key).log = [] ∧
          (∃ y, t.blockOf key = some y ∧ y.gone.contains g = true ∧ y.endedCount = blk.endedCount + 1) ∧
          (t.thread s.cur).pc = s.th.pc + 4 ∧ SameBytes s t))) ∧
    ((s.th.sreg a).toNat / 2 ^ 32 % 16 = g →
      (∀ r : SReg, (s.th.sreg a).toNat % 2 ^ 32 = sel 0 0 r.val → Completes (.gmodify a b) s (fun t =>
        (t.thread key).sreg r = s.th.sreg b ∧ (∀ q, q ≠ r → (t.thread key).sreg q = x.sreg q) ∧
        (t.thread key).pc = x.pc ∧ (t.thread key).mask = x.mask ∧
        (t.thread s.cur).pc = s.th.pc + 4 ∧ (∀ k, k ≠ key → k ≠ s.cur → t.thread k = s.thread k) ∧ SameElse s t)) ∧
      ((s.th.sreg a).toNat % 2 ^ 32 = sel 1 0 1 → Completes (.gmodify a b) s (fun t =>
        t.thread key = { x with mask := s.th.sreg b } ∧ (t.thread s.cur).pc = s.th.pc + 4 ∧
        (∀ k, k ≠ key → k ≠ s.cur → t.thread k = s.thread k) ∧ SameElse s t)) ∧
      ((s.th.sreg a).toNat % 2 ^ 32 = sel 1 0 0 → (s.th.sreg b).toNat % 4 = 0 → Completes (.gmodify a b) s (fun t =>
        t.thread key = { x with pc := (s.th.sreg b).setWidth 56 } ∧ (t.thread s.cur).pc = s.th.pc + 4 ∧
        (∀ k, k ≠ key → k ≠ s.cur → t.thread k = s.thread k) ∧ SameElse s t)))

/-- R292, R291: outside handler mode the group-control instructions and `tret` raise illegal instruction on a group. -/
def Claims.HandlerOnly : Prop :=
  ∀ (s : State) (d a b : SReg) (blk : Block) (x : Xlat), s.Free notSprout [d, a, b, 61, 63] → CanEnter s s.cur blk x →
    let refused (i : Instr) : Prop := Completes i s (InHandler s · s.cur blk 0x01 s.th.pc)
    refused (.ginspect d a b) ∧ refused (.gmodify a b) ∧ refused (.gresume a) ∧ refused (.gend a) ∧ refused .tret

/-- R26, R33, R84, R291, R310: where an instruction is illegal: a divergence instruction on the wrong top or on a system core,
the system class on a group or in user mode, the handler's instructions outside handler mode. -/
def Obligations.Refusals : Prop := Claims.DivergenceIllegal ∧ Claims.UserModeRefused ∧ Claims.SystemClassOnGroup ∧ Claims.HandlerOnly

/-- R295, R334, R319: `sysc` of a group waits at its plot's ring port once its fence is over; SYSC_MESSAGE gives it the
next entry of the ring, wherever its block stands, and raises cause 0x31; a write of SYSC.POST with the entry's index gives it the reply words in s0
and s1, and the `sysc` then goes on. A write of FPOST clears its fault from the outstanding ones. -/
def Obligations.SystemCalls : Prop :=
  (∀ (s : State) (n : BitVec 19), s.Free groupOnly [] → isSysKey s.cur = false →
    (s.th.wait = .none → FenceClear s true .p → Completes (.sysc n) s (fun t =>
      (t.thread s.cur).wait = .syscPort ∧ (t.thread s.cur).pc = s.th.pc ∧
      (t.plot s.th.plot).syscPort = (s.plot s.th.plot).syscPort ++ [⟨s.blockIdOf s.cur, s.cur, n⟩] ∧
      SameOthers s t s.cur ∧ SameBytes s t)) ∧
    (s.th.wait = .syscDone → Completes (.sysc n) s (AgentOnly s · s.cur
      { s.th with pc := s.th.pc + 4, counters := bumpMap s.th.counters 0 1, wait := .none, region := none }))) ∧
  (∀ (s : State) (w : SyscWait) (rest : List SyscWait) (x : Thread) (b : Block), (s.plot s.subj.ag).syscPort = w :: rest →
    s.threadOf w.block w.agent = some x → s.blockById w.block = some b → x.wait = .syscPort →
    (s.plot s.subj.ag).sysc.room = true → s.refreshing ((s.plot s.subj.ag).sysc.at 128) = false → s.waiters = [] → w.agent ≠ sysKey s.subj.ag →
    let p := s.plot s.subj.ag
    Completes .syscMessage s (fun t =>
      t.threadOf w.block w.agent = some { x with wait := .syscSent p.sysc.head } ∧ (t.plot s.subj.ag).syscPort = rest ∧
      (t.plot s.subj.ag).sysc.head = p.sysc.head + 1 ∧
      (t.thread (sysKey s.subj.ag)).sys.ipend.getLsbD 1 = true ∧
      (s.mem.headers = [] → t.mem.num (p.sysc.at 128) 4 = w.n.toNat) ∧ SameBytesOutside s t (p.sysc.at 128) 80)) ∧
  (∀ (s : State) (k : Nat) (x : Thread), s.atPlotCore = true → FenceClear s true .p → (k, x) ∈ s.threads →
    s.thread k = x → x.plot = s.th.plot → x.wait = .syscSent (s.subj.value.setWidth 32) → k ≠ s.cur →
    let r := (s.plot s.th.plot).sysc
    let a := r.base.toNat + 128 * ((s.subj.value.setWidth 32 : BitVec 32).toNat % r.cap.toNat)
    Completes .syscPostWrite s (fun t =>
      (t.thread k).sreg 0 = s.mem.word (a + 80) ∧ (t.thread k).sreg 1 = s.mem.word (a + 88) ∧
      (t.thread k).wait = .syscDone ∧ (t.plot s.th.plot).syscPost = s.subj.value.setWidth 32 ∧ SameBytes s t)) ∧
  (∀ s : State, s.atPlotCore = true → FenceClear s true .p → s.subj.value.toNat < 2 ^ 33 →
    Completes .fpostWrite s (fun t =>
      (t.plot s.th.plot).fpost = s.subj.value ∧
      (t.plot s.th.plot).outstanding =
        (s.plot s.th.plot).outstanding.filter (· ≠ (s.subj.value.setWidth 32 : BitVec 32)) ∧ SameBytes s t))

/-- R296, R297, R300: `idem` opens a region at the next word; REGISTER_PARITY_ERROR, where no `ldref` is outstanding and no branch
unresolved, restores the program counter, MASK and the depth of the mask stack of an open region and closes it; outside one
a poison trap at its word is pending on the group. -/
def Claims.IdempotentRegions : Prop :=
  (∀ s : State, s.Free notSprout [] →
    (isSysKey s.cur = true → Completes .idem s (WentTo s · (s.th.pc + 4))) ∧
    (isSysKey s.cur = false → Completes .idem s (AgentOnly s · s.cur
      { s.th with
        pc := s.th.pc + 4, counters := bumpMap s.th.counters 0 1
        region := some { start := s.th.pc + 4, mask := s.th.mask, depth := s.th.depth, clauseMark := s.th.nextId
                         logMark := s.th.nextId, loadMark := s.th.nextId } }))) ∧
  (∀ (s : State), (fget? s.threads s.subj.ag).isSome = true → (s.thread s.subj.ag).trap = none →
    (s.thread s.subj.ag).status = .running → (s.thread s.subj.ag).win.any (·.ref) = false → (s.thread s.subj.ag).spec = none →
    (∀ r, (s.thread s.subj.ag).region = some r → Completes .registerParityError s (fun t =>
      (t.thread s.subj.ag).pc = r.start ∧ (t.thread s.subj.ag).mask = r.mask ∧ (t.thread s.subj.ag).region = none ∧
      (r.depth ≤ (s.thread s.subj.ag).depth → (t.thread s.subj.ag).depth = r.depth) ∧
      (∀ q, (t.thread s.subj.ag).sreg q = (s.thread s.subj.ag).sreg q) ∧ SameOthers s t s.subj.ag ∧ SameElse s t)) ∧
    ((s.thread s.subj.ag).region = none → isSysKey s.subj.ag = false → isSproutKey s.subj.ag = false →
      Completes .registerParityError s (AgentOnly s · s.subj.ag
        { s.thread s.subj.ag with trap := some { cause := 0x07, pc := (s.thread s.subj.ag).pc } })))

/-- R189: BLOCK_MIGRATION of a drained block to a free core of its plot, whose lending suits its pre-emption latency, moves the
block with its slot, the rows, accumulator tiles and scratchpad granules that it holds, and its groups with their registers, and
takes it off the core it leaves. (That the block keeps its BLOCK.ID is log entry 65, DEDUCED.) -/
def Claims.BlockMigrates : Prop :=
  ∀ (s : State) (b : Block), (s.core s.subj.ag).block = some b → (s.usable b.launch.plot).contains (clusterOf s.subj.n) = true →
    s.latencyOk b.launch.plot b.launch s.subj.n = true → (s.core s.subj.n).block = none → s.subj.ag ≠ s.subj.n →
    s.subj.flag = true → s.coreDrained s.subj.ag = true →
    Completes .blockMigration s (fun t =>
      (∃ y, (t.core s.subj.n).block = some y ∧ y.launch = b.launch ∧ y.slot = b.slot ∧ y.blockId = b.blockId ∧ y.tags = b.tags) ∧
      (t.core s.subj.ag).block = none ∧
      (∀ r, fgetD (t.core s.subj.n).rows r [] = fgetD (s.core (if b.holds 0 r then s.subj.ag else s.subj.n)).rows r []) ∧
      (∀ i, fgetD (t.core s.subj.n).acc i 0 =
        fgetD (s.core (if b.holds 1 (i / 4096) then s.subj.ag else s.subj.n)).acc i 0) ∧
      (∀ i, fgetD (t.core s.subj.n).pad i 0 =
        fgetD (s.core (if b.holds 2 (i / 256) then s.subj.ag else s.subj.n)).pad i 0) ∧
      (∀ k x, (k, x) ∈ s.threads → s.thread k = x → k / 32 = s.subj.ag →
        (∀ y, (k, y) ∈ s.threads → y = x) →
        t.thread (groupKey s.subj.n (k % 32)) = { x with core := s.subj.n }) ∧
      SameBytes s t)

/-- R189, R296, R297, R300: idempotent regions, and a block that moves to another core. -/
def Obligations.BlocksReplayAndMove : Prop := Claims.IdempotentRegions ∧ Claims.BlockMigrates

/-! ### Barriers and publication -/

/-- R173, R174, R175: `bsync` and `rsync` of a group whose fence is over count one arrival and wait; once released they go on.
On a system core both only wait as a fence does. An `rsync` outside the launch rectangle raises out-of-range. -/
def Claims.BarriersArrive : Prop :=
  ∀ (s : State) (lw : Fin 7) (lh : Fin 5), s.Free notSprout [] →
    let c := coreOfKey s.cur
    let on : Thread := { s.th with pc := s.th.pc + 4, counters := bumpMap s.th.counters 0 1, wait := .none, region := none }
    (isSysKey s.cur = true → FenceClear s true .p → Completes .bsync s (Passed s) ∧ Completes (.rsync lw lh) s (Passed s)) ∧
    (isSysKey s.cur = false →
      (s.th.wait = .none → FenceClear s true .b →
        Completes .bsync s (AgentOnly s · s.cur { s.th with bsyncs := s.th.bsyncs + 1, wait := .bsync })) ∧
      (s.th.wait = .bsyncDone → Completes .bsync s (AgentOnly s · s.cur on)) ∧
      (∀ b, (s.core c).block = some b →
        (b.holdsRect c (2 ^ lw.val) (2 ^ lh.val) = true →
          (s.th.wait = .none → FenceClear s true .p →
            (∀ k ∈ s.launchKeys c, s.clashAt c (s.th.rsyncs + 1) (2 ^ lw.val) (2 ^ lh.val) k = false) →
            Completes (.rsync lw lh) s (AgentOnly s · s.cur
              { s.th with rsyncs := s.th.rsyncs + 1, wait := .rsync (2 ^ lw.val) (2 ^ lh.val) })) ∧
          (s.th.wait = .rsyncDone → Completes (.rsync lw lh) s (AgentOnly s · s.cur on))) ∧
        (∀ x, CanEnter s s.cur b x → b.holdsRect c (2 ^ lw.val) (2 ^ lh.val) = false →
          Completes (.rsync lw lh) s (InHandler s · s.cur b 0x03 s.th.pc))))

/-- R173, R174: BARRIER_COMPLETE, with CKS.CTL clear, releases every group that waits at an ordinal at which every group of the
block, or of the sub-rectangle, has arrived or gone, and changes nothing else of them. -/
def Claims.BarriersComplete : Prop :=
  ∀ s : State,
    let key := s.subj.ag
    let c := coreOfKey key
    let x := s.thread key
    (∀ p, (s.plot p).cksCtl = 0) →
    (x.wait = .bsync → key ∈ s.groupKeys c →
      (∀ k ∈ s.groupKeys c, s.isGone k = true ∨ x.bsyncs ≤ (s.thread k).bsyncs) →
      Completes .barrierComplete s (fun t =>
        (∀ k ∈ s.groupKeys c, (s.thread k).wait = .bsync → (s.thread k).bsyncs = x.bsyncs →
          t.thread k = { s.thread k with wait := .bsyncDone }) ∧
        (∀ k, ¬ (k ∈ s.groupKeys c ∧ (s.thread k).wait = .bsync ∧ (s.thread k).bsyncs = x.bsyncs) → t.thread k = s.thread k) ∧
        SameElse s t)) ∧
    (∀ w h, x.wait = .rsync w h → key ∈ (s.rectCores c w h).flatMap s.groupKeys →
      (∀ k ∈ (s.rectCores c w h).flatMap s.groupKeys, s.isGone k = true ∨ x.rsyncs ≤ (s.thread k).rsyncs) →
      Completes .barrierComplete s (fun t =>
        (∀ k ∈ (s.rectCores c w h).flatMap s.groupKeys, (s.thread k).wait = .rsync w h → (s.thread k).rsyncs = x.rsyncs →
          t.thread k = { s.thread k with wait := .rsyncDone }) ∧
        SameElse s t))

/-- R363, R364: with CKS.CTL set, the release of the one group of a block at its `bsync` writes an entry of 32 bytes at the head
of CKS, with the cycle, the CRC of the group's fold and its program counter, and counts the head. -/
def Claims.BarrierChecksum : Prop :=
  ∀ s : State,
    let key := s.subj.ag
    let x := s.thread key
    let q := s.plotOf key
    let r := (s.plot q).cks
    x.wait = .bsync → s.groupKeys (coreOfKey key) = [key] → (s.plot q).cksCtl = 1 → r.room = true → s.mem.headers = [] →
    Completes .barrierComplete s (fun t =>
      t.mem.num (r.at 32) 8 = s.cycle % 2 ^ 64 ∧ t.mem.num (r.at 32 + 8) 8 = crc64 0 (s.foldBytes key) % 2 ^ 64 ∧
      t.mem.num (r.at 32 + 16) 8 = x.pc.toNat ∧ SameBytesOutside s t (r.at 32) 32 ∧
      (t.plot q).cks = { r with head := r.head + 1 } ∧ t.thread key = { x with wait := .bsyncDone } ∧ SameOthers s t key)

/-- R173, R174, R175, R363, R364: arrivals wait, and a barrier completes, with its checksum. -/
def Obligations.Barriers : Prop := Claims.BarriersArrive ∧ Claims.BarriersComplete ∧ Claims.BarrierChecksum

/-- R183: `publish` of a well-formed reference by a group, whose checks pass and whose tag is ready, starts a publication and
makes the tag busy; where the object is published already the tag stays ready. R184, R185: the rake marks the oldest object
of the queue, waits for an earlier publication of its block that has marked what the object refers to, sets the marked
objects published in reverse, and at the end turns the tag ready. -/
def Obligations.PublicationRuns : Prop :=
  (∀ (s : State) (tag : Fin 64) (a : SReg) (sc : Scope) (x : Xlat) (hdr : Nat) (b : Block), s.Free notSprout [a] →
    isSysKey s.cur = false → s.th.wait = .none → FenceClear s true .b → s.portOf hdr = none →
    s.blockOf s.cur = some b → (s.th.sreg a).toNat < 2 ^ 56 → (s.th.sreg a).toNat % 256 = 16 →
    s.xlat s.cur ((s.th.sreg a).toNat - 16) = .ok x → x.rd = true → s.wellFormedRef s.cur (s.th.sreg a) = some hdr →
    s.mem.publishable b.slot hdr = true → (s.tag (coreOfKey s.cur) tag.val).ready = true →
    (¬ (s.mem.hdrState hdr = 2 ∧ sc.code ≤ s.mem.hdrScope hdr) → Completes (.publish tag a sc) s (fun t =>
      (t.tag (coreOfKey s.cur) tag.val).ready = false ∧ (t.thread s.cur).pc = s.th.pc + 4 ∧
      (∃ r, (t.plot s.th.plot).pubs = (s.plot s.th.plot).pubs ++ [r] ∧ r.scope = sc.code ∧ r.tag = tag.val ∧
        r.marked = [hdr] ∧ r.slot = b.slot ∧ r.queue = [⟨hdr + 16, hdr, none⟩]) ∧
      SameOthers s t s.cur ∧ SameBytes s t)) ∧
    (s.mem.hdrState hdr = 2 → sc.code ≤ s.mem.hdrScope hdr → Completes (.publish tag a sc) s (fun t =>
      (t.tag (coreOfKey s.cur) tag.val).ready = true ∧ (t.tag (coreOfKey s.cur) tag.val).err = false ∧
      (t.thread s.cur).pc = s.th.pc + 4 ∧ t.plots = s.plots ∧ SameOthers s t s.cur ∧ SameBytes s t))) ∧
  (∀ (s : State) (r : Publication) (e : MarkEntry) (rest : List MarkEntry),
    (s.plot s.subj.ag).pubs.find? (fun q => q.id == s.subj.n) = some r → r.queue = e :: rest → r.hold = none →
    s.refreshing e.hdr = false → s.waiters = [] → (∀ l ∈ s.mem.objLines e.hdr, s.portOf l = none) →
    s.mem.taggedValues e.hdr = [] →
    Completes .rakeMark s (fun t =>
      t.mem.hdrState e.hdr = 1 ∧ (t.plot s.subj.ag).pubs.find? (fun q => q.id == s.subj.n) = some { r with queue := rest } ∧
      SameBytesOutside s t (e.hdr + 6) 10 ∧ t.threads = s.threads)) ∧
  (∀ (s : State) (r q : Publication) (e : MarkEntry) (rest : List MarkEntry) (v : Nat) (x y : Xlat),
    let plot := s.subj.ag
    (s.plot plot).pubs.find? (fun q => q.id == s.subj.n) = some r → r.queue = e :: rest → r.hold = none → r.setting = false →
    s.refreshing e.hdr = false → s.waiters = [] → (∀ l ∈ s.mem.objLines e.hdr, s.portOf l = none) →
    s.mem.taggedValues e.hdr = [v] → v < 2 ^ 56 → v % 256 = 16 →
    r.fatal.contains ((v - 16) / 4096) = false → s.rakeXlat plot r.space (v - 16) = .ok y →
    let u := s.rakeMarked plot r e rest
    u.rakeXlat plot r.space (v - 16) = .ok x → x.obj = true →
    (v - 16) / 2 ^ pageBits x.size = (v + u.mem.hdrLength x.pa - 1) / 2 ^ pageBits x.size → u.mem.hdrState x.pa ≠ 2 →
    r.marked.contains x.pa = false → u.mem.sideOf x.pa = 0x7FF →
    (u.plot plot).pubs.filter (fun q => q.id != r.id && q.marked.contains x.pa) = [q] → q.slot = r.slot → q.id < r.id →
    Completes .rakeMark s (fun t =>
      (t.plot plot).pubs.find? (fun q => q.id == s.subj.n) = some { r with queue := rest, waits := r.waits ++ [q.id] } ∧
      t.mem = u.mem ∧ t.threads = s.threads)) ∧
  (∀ (s : State) (r : Publication) (hdr : Nat) (rest : List Nat),
    (s.plot s.subj.ag).pubs.find? (fun q => q.id == s.subj.n) = some r → r.queue = [] → r.setting = true →
    (r.left = hdr :: rest → r.scope < 6 → s.refreshing hdr = false → s.waiters = [] → Completes .rakeSet s (fun t =>
      t.mem.hdrState hdr = 2 ∧ t.mem.hdrScope hdr = r.scope ∧
      (2 ≤ r.scope → t.mem.sideOf hdr = formB r.scope r.cluster) ∧
      SameBytesOutside s t (hdr + 6) 10 ∧ t.threads = s.threads)) ∧
    (∀ b, r.left = [] → r.waits = [] → r.sysAgent = none → (s.core r.core).block = some b → b.id = r.block →
      Completes .rakeSet s (fun t =>
        (t.tag r.core r.tag).ready = true ∧ (t.tag r.core r.tag).err = r.bad ∧
        (t.plot s.subj.ag).pubs = (s.plot s.subj.ag).pubs.filter (fun q => q.id != r.id) ∧ t.threads = s.threads ∧ SameBytes s t)))

/-! ### Launches -/

/-- R271, R269: `launch` of a readable record whose waits are over writes the status of R271 to sd: reason × 256 + 2 where
Table 13.2 rejects it; the sequence number with status 0, the launch being queued, where its level has room; with status 1, the
record being written at the tail of its function's part of the overflow area, where only that has room (how the area is divided
is log entry 38, DESIGN CHOICE); and 3 where nothing has room. A group's launch with a copy tag as its target waits until the tag
is ready, and takes it; a rejected one gives it back, and one that answers 3 leaves it not ready (log entry 37, DEDUCED). A system
core's launch is of the running function, or of the owner of the host ring that holds its record. -/
def Claims.LaunchAccepted : Prop :=
  ∀ (s : State) (d a : SReg) (x : Xlat), s.Free notSprout [d, a] →
    s.checkAccess s.cur .load (s.th.sreg a) 64 = .ok x → s.mem.isPoison x.pa = false → s.portOf x.pa = none →
    let c := coreOfKey s.cur
    let p := s.plot s.th.plot
    let l := s.launchAt x.pa
    let n := l.compVal % 64
    let tagged : Prop := isSysKey s.cur = false ∧ l.compKind = 1
    let vf := if isSysKey s.cur then (s.hostRingVf s.th.plot x.pa).getD p.vfCur else p.vfCur
    let why := s.rejectReason s.th.plot l (if isSysKey s.cur then none else some s.alloc)
    let room : Prop := p.levelCount vf l.prio < 64 ∧ p.spilled.any (fun q => q.vf == vf && q.level == l.prio) = false
    let answers (v : Word) (tag : CopyTag) (t : State) : Prop :=
      (t.thread s.cur).sreg d = v ∧ (t.thread s.cur).pc = s.th.pc + 4 ∧ (∀ r, r ≠ d → (t.thread s.cur).sreg r = s.th.sreg r) ∧
      (tagged → t.tag c n = tag) ∧ SameOthers s t s.cur
    let queued (q : Launch) : Prop :=
      q.record = l.record ∧ q.seq = p.seq ∧ q.vf = vf ∧ q.level = l.prio ∧ q.launcher = some s.cur ∧ q.since = s.cycle
    (tagged → (s.tag c n).ready = false → (s.tag c n).taker ≠ some (ctxOfKey s.cur) → exec (.launch d a) s = .next s) ∧
    (FenceClear s true .p → (tagged → (s.tag c n).ready = true ∧ (s.core c).block.isSome = true) →
      (why ≠ 0 → Completes (.launch d a) s (fun t =>
        answers (BitVec.ofNat 64 (why * 256 + 2)) {} t ∧ t.plots = s.plots ∧ SameBytes s t)) ∧
      (why = 0 → room → Completes (.launch d a) s (fun t =>
        answers (BitVec.ofNat 64 (p.seq.toNat * 2 ^ 32)) { ready := false } t ∧
        (∃ q, (t.plot s.th.plot).waiting = p.waiting ++ [q] ∧ queued q) ∧
        (t.plot s.th.plot).seq = p.seq + 1 ∧ SameBytes s t)) ∧
      (why = 0 → ¬ room → p.ovfRoom vf = true → p.owed = [] → s.waiters = [] → s.refreshing (p.ovfAt vf (p.ovfNext vf)) = false →
        Completes (.launch d a) s (fun t =>
          answers (BitVec.ofNat 64 (p.seq.toNat * 2 ^ 32 + 1)) { ready := false } t ∧
          (∃ q, (t.plot s.th.plot).spilled = p.spilled ++ [q] ∧ queued q ∧ q.ovf = p.ovfNext vf) ∧
          (t.plot s.th.plot).seq = p.seq + 1 ∧
          (s.mem.headers = [] → t.mem.words8 (p.ovfAt vf (p.ovfNext vf)) = l.record) ∧
          SameBytesOutside s t (p.ovfAt vf (p.ovfNext vf)) 64)) ∧
      (why = 0 → ¬ room → p.ovfRoom vf = false → Completes (.launch d a) s (fun t =>
        answers 3 { ready := false } t ∧ t.plots = s.plots ∧ SameBytes s t)))

/-- R273, R272: LAUNCH_AGING moves up a level every launch below level 7 that has waited 2^20 cycles; OVERFLOW_REFILL moves the
oldest spilled record of a level of the running function into a free entry, with the record memory holds in the function's part
of the overflow area (its division among the functions is log entry 38, DESIGN CHOICE). -/
def Claims.LaunchQueues : Prop :=
  ∀ s : State,
    let p := s.plot s.subj.ag
    let up (l : Launch) : Launch :=
      if l.level < 7 ∧ l.since + 2 ^ 20 ≤ s.cycle then { l with level := l.level + 1, since := l.since + 2 ^ 20 } else l
    ((∃ l ∈ p.waiting ++ p.spilled, l.level < 7 ∧ l.since + 2 ^ 20 ≤ s.cycle) →
      Completes .launchAging s (PlotOnly s · s.subj.ag { p with waiting := p.waiting.map up, spilled := p.spilled.map up })) ∧
    (∀ l, p.levelCount p.vfCur s.subj.n < 64 → p.spilled = [l] → l.vf = p.vfCur → l.level = s.subj.n → p.owed = [] →
      let a := p.lovfBase.toNat + 64 * (l.vf * p.ovfCap + l.ovf % p.ovfCap)
      Completes .overflowRefill s (PlotOnly s · s.subj.ag
        { p with
          spilled := []
          waiting := p.waiting ++ [{ l with record := (List.range 8).map (fun i => s.mem.word (a + 8 * i)) }] }))

/-- R274, R275, R276, R27: LAUNCH_PLACEMENT places the eligible candidate on the first origin that qualifies: on every core of
the rectangle a block of the launch, numbered in block order, whose groups start at the entry with s0 the argument. -/
def Claims.LaunchPlacement : Prop :=
  ∀ (s : State) (l : Launch) (o : Nat × Nat),
    let p := s.plot s.subj.ag
    p.stopped = false → p.pair = none → p.candidates.find? p.eligible = some l →
    l.origins.find? (fun o => s.qualifies s.subj.ag l o) = some o → l.head = false → (l.tilesAt o).Nodup →
    (∀ c ∈ l.tilesAt o, (s.core c).block = none ∧ (s.core c).parked = []) →
    Completes .launchPlacement s (fun t =>
      (∀ i c, (l.tilesAt o)[i]? = some c →
        (∃ b, (t.core c).block = some b ∧ b.launch = l ∧ b.blockId = i ∧ b.x0 = o.1 ∧ b.y0 = o.2 ∧ b.gone = []) ∧
        (∀ g, g < l.groups →
          (t.thread (groupKey c g)).pc = BitVec.ofNat 56 l.entry ∧
          (t.thread (groupKey c g)).sreg 0 = BitVec.ofNat 64 l.arg ∧
          (∀ r : SReg, r ≠ 0 → (t.thread (groupKey c g)).sreg r = 0) ∧
          (t.thread (groupKey c g)).mask = BitVec.allOnes 64 ∧ (t.thread (groupKey c g)).mstack = [] ∧
          (t.thread (groupKey c g)).ftv = 1)) ∧
      (t.plot s.subj.ag).waiting = p.waiting.filter (fun x => x.seq != l.seq) ∧
      (t.plot s.subj.ag).running = p.running ++ [{ l with head := false }] ∧ SameBytes s t)

/-- R27, R269, R271, R274, R275, R276: a launch is accepted, and its blocks are placed. -/
def Obligations.LaunchStarts : Prop := Claims.LaunchAccepted ∧ Claims.LaunchPlacement

/-- R277: LAUNCH_COMPLETION takes a launch without blocks off the plot and signals its target: nothing, the bit of LCOMP for a
launch by the system core, or the copy tag of the launching block. -/
def Claims.LaunchCompletion : Prop :=
  ∀ (s : State) (l : Launch),
    let p := s.plot s.subj.ag
    p.running.find? (fun l => l.seq.toNat == s.subj.n && l.copy == s.subj.flag) = some l → s.launchLive l = false → l.copy = false →
    (l.compKind = 0 → Completes .launchCompletion s (PlotOnly s · s.subj.ag
      { p with running := p.running.filter (fun x => !x.same l) })) ∧
    (l.compKind = 1 → l.launcher = none → Completes .launchCompletion s (fun t =>
      (t.plot s.subj.ag).running = p.running.filter (fun x => !x.same l) ∧
      (t.plot s.subj.ag).lcomp = p.lcomp ||| BitVec.ofNat 64 (2 ^ (l.compVal % 64)) ∧
      (t.thread (sysKey s.subj.ag)).sys.ipend.getLsbD 2 = true ∧ SameBytes s t)) ∧
    (∀ k b, l.compKind = 1 → l.launcher = some k → isSysKey k = false → (s.core (k / 32)).block = some b →
      b.id = l.launcherBlock → Completes .launchCompletion s (fun t =>
        (t.plot s.subj.ag).running = p.running.filter (fun x => !x.same l) ∧
        (t.tag (k / 32) (l.compVal % 64)).ready = true ∧ (t.tag (k / 32) (l.compVal % 64)).err = false ∧
        (t.tag (k / 32) (l.compVal % 64)).status = BitVec.ofNat 32 (min l.ended 0xFFF * 2 ^ 16) ∧
        t.threads = s.threads ∧ SameBytes s t))

/-- R272, R273, R277: launches age, refill from the overflow area, and complete with no signal, in LCOMP, or in a copy tag. -/
def Obligations.LaunchProceeds : Prop := Claims.LaunchQueues ∧ Claims.LaunchCompletion

/-- R28, R277: `exit` of a group whose operations are done ends it, and frees the core with its last group; on a system core
in user mode it enters the interrupt handler with cause 0x21. R284: `yield` only goes on. R282: `phase` goes on when no
deterministic launch of a lower phase is left, and its waits are over. -/
def Obligations.ExitYieldPhase : Prop :=
  (∀ (s : State) (b : Block), s.Free anyone [] → isSysKey s.cur = false → isSproutKey s.cur = false → DeliveryClear s →
    s.th.sq = [] → s.opsDone s.cur = true → s.th.status = .running → s.blockOf s.cur = some b →
    ((∃ g, g < b.launch.groups ∧ g ≠ ctxOfKey s.cur ∧ b.gone.contains g = false) → Completes .exit s (fun t =>
      t.thread s.cur = { s.th with
        pc := s.th.pc + 4, counters := bumpMap s.th.counters 0 1, status := .exited, region := none, lastPc := s.th.pc } ∧
      (∃ y, t.blockOf s.cur = some y ∧ y.gone.contains (ctxOfKey s.cur) = true) ∧ SameOthers s t s.cur ∧ SameBytes s t)) ∧
    ((∀ g, g < b.launch.groups → g ≠ ctxOfKey s.cur →
        b.gone.contains g = true ∧ (s.thread (groupKey (coreOfKey s.cur) g)).sq = []) →
      (s.core (coreOfKey s.cur)).eops = [] → (s.core (coreOfKey s.cur)).mops = [] →
      (s.core (coreOfKey s.cur)).hreads = [] →
      Completes .exit s (fun t => (t.core (coreOfKey s.cur)).block = none ∧ SameBytes s t))) ∧
  (∀ s : State, isSysKey s.cur = true → s.th.canIssue [] = true → s.th.hold = false → s.th.sys.smode.getLsbD 0 = false →
    Completes .exit s (Interrupted s · s.cur (s.th.pc + 4) 0x21 0)) ∧
  (∀ s : State, s.Free notSprout [] → Completes .yield s (AgentOnly s · s.cur
    { s.th with pc := s.th.pc + 4, counters := bumpMap s.th.counters 0 1, last := !isSysKey s.cur })) ∧
  (∀ (s : State) (a : SReg), s.Free notSprout [a] → FenceClear s false .p →
    let n := (s.th.sreg a).toNat % 2 ^ 32
    (isSysKey s.cur = false → (s.launchOf s.cur).det = true → n ≤ (s.launchOf s.cur).phase) →
    (∀ l ∈ (s.plot s.th.plot).detLaunches, n ≤ l.phase) → Completes (.phase a) s (Passed s))

/-! ### The system class -/

/-- R315, R316, R62: `tlbinv` of an aligned range queues an invalidation of the TLBs of the plot; TLB_INVALIDATION_APPLY takes
what the oldest covers out of one TLB and cuts the translation registers of the agents behind it; `tlbfence` goes on when
every invalidation has reached every TLB, and neither a store translated before it is still queued nor a fill at a ring
address translated before it still runs. -/
def Obligations.Shootdown : Prop :=
  (∀ (s : State) (a b : SReg), Privileged s [a, b] →
    let va := (s.th.sreg a).toNat
    let v := (s.th.sreg b).toNat
    let p := s.plot s.th.plot
    (va % 4096 = 0 → va < 2 ^ 56 → v / 2 ^ 48 < p.vfCount → p.invs.countP (fun x => !x.cores.isEmpty) < 8 →
      v / 2 ^ 48 ≠ 0xFFFF → Completes (.tlbinv a b) s (PlotAndOn s · s.th.plot
        { p with invs := p.invs ++ [⟨va, v % 2 ^ 48, some (v / 2 ^ 48), s.tlbPlaces s.th.plot false, [], []⟩] })) ∧
    (va % 4096 = 0 → va < 2 ^ 56 → v / 2 ^ 48 = 0xFFFF → p.invs.countP (fun x => !x.cores.isEmpty) < 8 →
      Completes (.tlbinv a b) s (PlotAndOn s · s.th.plot
        { p with invs := p.invs ++ [⟨va, v % 2 ^ 48, none, s.tlbPlaces s.th.plot true, [], []⟩] })) ∧
    (s.th.sys.smode = 3 → s.th.spec = none → va % 4096 ≠ 0 → Completes (.tlbinv a b) s (Interrupted s · s.cur s.th.pc 0x02 0)) ∧
    (s.th.wait = .none → FenceClear s true .p →
      (∀ i ∈ p.invs, i.cores = [] ∧ (∀ x ∈ i.await, s.stillQueued x = false) ∧ ∀ x ∈ i.fills, s.stillFills x = false) →
      Completes .tlbfence s (PlotAndOn s · s.th.plot { p with invs := [] }))) ∧
  (∀ (s : State) (v : Invalidation) (rest : List Invalidation), (s.plot s.subj.ag).invs = v :: rest →
    v.cores.contains s.subj.n = true →
    Completes .tlbInvalidationApply s (fun t =>
      (∀ e ∈ (t.core s.subj.n).tlb, e.hit v = false ∧ e ∈ (s.core s.subj.n).tlb) ∧
      (∀ k ∈ s.servedBy s.subj.n, ∀ i, (t.thread k).bt i = ((s.thread k).bt i).cut v (s.spaceOf k)) ∧
      (∃ w, (t.plot s.subj.ag).invs = w :: rest ∧ w.cores = v.cores.filter (· ≠ s.subj.n) ∧
        (∀ x ∈ v.await, x ∈ w.await) ∧
        ∀ k ∈ s.servedBy s.subj.n, ∀ q ∈ (s.thread k).stale v (s.spaceOf k), (s.blockIdOf k, k, q) ∈ w.await) ∧
      SameBytes s t))

/-- R322, R323, R324: `pgfree` of a frame of the plot's own memory, not clean and not queued, queues it for the scrubber;
SCRUB_FRAME zeroes it, clears its tags, owners and errors, drops its cached lines, and counts up the tweak generation of its
pages; `pgalloc` takes
a clean frame of the size, of the hinted home where one is clean, answers 1 where no frame of the size is clean and the scrub
queue covers none, and waits where it covers one. -/
def Obligations.FreedMemory : Prop :=
  (∀ (s : State) (a : SReg), Privileged s [a] → s.th.wait = .none → FenceClear s true .p →
    let v := (s.th.sreg a).toNat
    let p := s.plot s.th.plot
    let size := v % 8
    let frame := v / 4096 * 4096
    v < 2 ^ 52 → v % 4096 = size → size < 5 → frame % 2 ^ pageBits size = 0 → p.owns frame (2 ^ pageBits size) = true →
    p.inScrub frame (2 ^ pageBits size) = false →
    (∀ x ∈ s.cleanPages p, x < frame ∨ frame + 2 ^ pageBits size ≤ x) →
    Completes (.pgfree a) s (PlotAndOn s · s.th.plot { p with scrub := p.scrub ++ [⟨frame, size⟩] })) ∧
  (∀ (s : State) (d : SReg), Privileged s [d] →
    let v := (s.th.sreg d).toNat
    let p := s.plot s.th.plot
    let fs := framesIn p (s.cleanPages p) (v % 8)
    v < 2 ^ 19 → v / 8 % 32 = 0 → v % 8 < 5 → (v / 256 ≤ 1282 ∨ v / 256 = 0x7FF) →
    (∀ f, ((fs.filter (fun a => homeOf s.mem.cxlSize a == v / 256)).min? = some f ∨
        (fs.filter (fun a => homeOf s.mem.cxlSize a == v / 256) = [] ∧ fs.min? = some f)) →
      Completes (.pgalloc d) s (fun t =>
        (t.thread s.cur).sreg d = BitVec.ofNat 64 f ∧ (t.thread s.cur).pc = s.th.pc + 4 ∧
        (∀ r, r ≠ d → (t.thread s.cur).sreg r = s.th.sreg r) ∧ SameOthers s t s.cur ∧
        SameBytesOutside s t p.poolBase.toNat (p.poolBits / 8 + 1))) ∧
    let queued := framesIn p (p.scrub.flatMap (fun q => pagesOf q.frame q.size)) (v % 8)
    (fs = [] → queued = [] → Completes (.pgalloc d) s (Wrote s · d 1)) ∧
    (fs = [] → queued ≠ [] → exec (.pgalloc d) s = .next s)) ∧
  (∀ (s : State) (q : ScrubItem) (rest : List ScrubItem), (s.plot s.subj.ag).scrub = q :: rest → s.scrubDie q = s.subj.n →
    let p := s.plot s.subj.ag
    let n := p.poolBits / 8 + 1
    (p.poolBase.toNat + n ≤ q.frame ∨ q.frame + q.bytes ≤ p.poolBase.toNat) → q.frame % 256 = 0 →
    Completes .scrubFrame s (fun t =>
      (∀ a, q.frame ≤ a → a < q.frame + q.bytes → t.mem.byte a = 0 ∧ t.mem.tag a = false ∧ t.mem.isPoison a = false ∧
        t.mem.sideOf a = 0x7FF) ∧
      (∀ a, (a < q.frame ∨ q.frame + q.bytes ≤ a) → (a < p.poolBase.toNat ∨ p.poolBase.toNat + n ≤ a) →
        t.mem.byte a = s.mem.byte a) ∧
      (∀ a, fgetD (t.plot s.subj.ag).tweak a 0 =
        fgetD p.tweak a 0 + BitVec.ofNat 32 ((pagesOf q.frame q.size).countP (· == a))) ∧
      (∀ l ∈ t.l2, l.1 < q.frame ∨ q.frame + q.bytes ≤ l.1) ∧
      (∀ d ∈ t.rdc, ∀ l ∈ d.2, l < q.frame ∨ q.frame + q.bytes ≤ l) ∧
      (∀ c ∈ t.cores, ∀ l ∈ c.2.l1, l.1 < q.frame ∨ q.frame + q.bytes ≤ l.1) ∧
      (t.plot s.subj.ag).scrub = rest ∧ t.threads = s.threads))

/-- R328, R329: `lend` of an idle cluster of the plot that the image allows gives it, reset, to the borrower; `recall` first
halts the borrower's launches there, but for a sprout that has performed an atomic, takes back the other sprouts, and tells
the borrower with cause 0x38; when the cluster is clear it returns, whatever the system core does, and `recall` retires. A
cluster that is not lent raises out-of-range. -/
def Claims.LendingAndRecall : Prop :=
  ∀ (s : State) (a b : SReg), Privileged s [a, b] →
    let k := (s.th.sreg a).toNat
    let v := (s.th.sreg b).toNat
    let me := s.th.plot
    let p := s.plot me
    let others (t : State) : Prop := ∀ key, key ≠ s.cur →
      t.thread key = if !isSysKey key && (clusterTiles k).contains (key / 32) then {} else s.thread key
    (k < 256 → v / 64 % 2 ^ 26 = 0 → 65536 ≤ v / 2 ^ 32 → p.clusters.contains k = true →
      (∀ l ∈ p.lends, l.cluster ≠ k) → s.clusterIdle k = true → (s.plot (v % 64)).clusters.any (clusterEdge k) = true →
      s.board.lendOk.contains (me, v % 64) = true → v % 64 ≠ me →
      Completes (.lend a b) s (fun t =>
        (t.plot me).lends = p.lends ++ [{ cluster := k, borrower := v % 64, limit := v / 2 ^ 32 }] ∧
        (t.plot (v % 64)).borrowed = (s.plot (v % 64)).borrowed ++ [k] ∧ (∀ c ∈ clusterTiles k, t.core c = {}) ∧
        (t.thread s.cur).pc = s.th.pc + 4 ∧ others t ∧ SameBytes s t)) ∧
    (s.th.sys.smode = 3 → s.th.spec = none → (∀ l ∈ p.lends, l.cluster ≠ k) →
      Completes (.recall a) s (Interrupted s · s.cur s.th.pc 0x03 0)) ∧
    (∀ l, p.lends = [l] → l.cluster = k → l.borrower ≠ me →
      (l.back = true → Completes (.recall a) s (PlotAndOn s · me { p with lends := [] })) ∧
      (l.recalling = none → l.back = false → Completes (.recall a) s (fun t =>
        (t.plot me).lends = [{ l with recalling := some (s.cycle + l.limit) }] ∧
        (∀ c y key, (s.core c).block = some y → y.launch.plot = l.borrower → y.launch.seq ∈ s.launchesOn k → key / 32 = c →
          (fget? s.threads key).isSome = true →
          (isSproutKey key = false → (t.thread key).frozen = true) ∧
          (isSproutKey key = true → (s.thread key).drained = false → (s.thread key).released = false →
            fget? t.threads key = none)) ∧
        (t.thread (sysKey l.borrower)).sys.ipend.getLsbD 8 = true ∧ SameBytes s t)) ∧
      (l.recalling ≠ none → l.back = false → s.launchesOn k = [] → s.clusterIdle k = true → s.subj.ag = me →
        ∃ t, recallProgressStep s = some t ∧
          (t.plot me).lends = [{ l with back := true }] ∧
          (t.plot l.borrower).borrowed = (s.plot l.borrower).borrowed.filter (· ≠ k) ∧
          (∀ c ∈ clusterTiles k, t.core c = {}) ∧ t.thread s.cur = s.th ∧ others t ∧ SameBytes s t))

/-- R329: RECALL_DEADLINE ends every group of a block that has not drained from the cluster when the deadline passes. -/
def Claims.RecallDeadlines : Prop :=
  ∀ (s : State) (l : Lent) (c : Nat) (b : Block),
    (s.plot s.subj.ag).lends.find? (fun l => !l.back && l.recalling.elim false (fun t => decide (t ≤ s.cycle))) = some l →
    (clusterTiles l.cluster).filter (fun c => !s.coreDrained c && (s.core c).block.elim false Block.lives) = [c] →
    (∀ k ∈ clusterTiles l.cluster, (s.core k).parked = []) →
    (s.core c).block = some b →
    Completes .recallDeadline s (fun t =>
      ∀ y, (t.core c).block = some y → ∀ g, g < 16 → g < b.launch.groups → y.gone.contains g = true)

/-- R328, R329: clusters are lent and recalled, and a recall meets its deadline. -/
def Obligations.Lending : Prop := Claims.LendingAndRecall ∧ Claims.RecallDeadlines

/-- R331: `keyload` from address 0 empties a slot; from a record of 64 bytes it writes the record's status and fills the slot
where the status is 0. SESSION_END empties every slot that the session filled, and its interfaces go to ERROR (R406). -/
def Obligations.ModelKeys : Prop :=
  (∀ (s : State) (a b : SReg), Privileged s [a, b] → (s.th.sreg a).toNat < 16 →
    let slot := (s.th.sreg a).toNat
    let p := s.plot s.th.plot
    (s.th.sreg b = 0 → Completes (.keyload a b) s (PlotAndOn s · s.th.plot { p with keys := ferase p.keys slot })) ∧
    (∀ x, s.th.sreg b ≠ 0 → s.checkAccess s.cur .load (s.th.sreg b) 64 = .ok x → s.th.sq = [] → s.mem.isPoison x.pa = false →
      x.wr = true → s.portOf x.pa = none → s.waiters = [] → s.refreshing x.pa = false →
      let r := s.keyRecord s.th.plot slot (s.mem.bytes x.pa 64)
      Completes (.keyload a b) s (fun t =>
        (s.mem.headers = [] → t.mem.byte (x.pa + 7) = BitVec.ofNat 8 r.1) ∧ SameBytesBeside s t (x.pa + 7) 1 ∧
        (∀ k, r.2 = some k → fget? (t.plot s.th.plot).keys slot = some k) ∧
        (r.2 = none → (t.plot s.th.plot).keys = p.keys) ∧ (t.thread s.cur).pc = s.th.pc + 4))) ∧
  (∀ s : State, s.mgr.sessions.contains s.subj.n = true →
    Completes .sessionEnd s (fun t =>
      t.mgr.sessions.contains s.subj.n = false ∧
      (∀ q, (fget? s.plots q).isSome = true →
        (t.plot q).keys = (s.plot q).keys.filter (fun k => k.2.session != s.subj.n) ∧
        ∀ i v, fget? (s.plot q).vfs i = some v → v.session = some s.subj.n → (fgetD (t.plot q).vfs i {}).tdisp = .error) ∧
      SameBytes s t))

/-- R321: for a page of two plots with an error in it, SHARED_PAGE_POISON first marks its leaf moving, and where no source is
recorded then unmaps it. -/
def Claims.SharedPagePoison : Prop :=
  ∀ (s : State) (a b : Nat),
    let page := s.subj.n / 4096 * 4096
    let ps := (s.plots.filter (fun p => inRanges p.2.shared page 4096)).map (·.2)
    ps ≠ [] → ps.flatMap (fun p => s.plotLeaves p page) = [(a, b)] →
    (∃ l ∈ s.mem.poison, page ≤ l ∧ l < page + 4096) → s.mem.headers = [] →
    (s.subj.flag = false → Completes .sharedPagePoison s (fun t =>
      t.mem.word a = s.mem.word a ||| 0x40 ∧ SameBytesOutside s t a 8)) ∧
    (s.subj.flag = true → (s.mem.word a).getLsbD 6 = true → fget? s.board.restorable page = none →
      Completes .sharedPagePoison s (fun t =>
        t.mem.word a = s.mem.word a &&& ~~~(0x41 : Word) ∧ SameBytesOutside s t a 8 ∧ t.threads = s.threads))

/-! ### Lane work -/

/-- R94, R96, R97: lane integer arithmetic. In every participating lane vd takes Write(y, t) of Table 5.4, read from the
operands as Read gives them; nothing else changes. (`vbext` takes the position and the width of its field from b itself at every
type, which is log entry 14, DEDUCED.) -/
def Obligations.LaneInteger : Prop :=
  ∀ (s : State) (t : IType) (d a : VReg) (b : BSrc) (z : CSrc) (p : PReg) (c : LaneCtl), s.CanWrite (vregRows t d) →
    let w := t.width
    let A (i : Nat) : Int := readElem t (s.vecBits s.laneCur t a i)
    let B (i : Nat) : Int := readElem t (s.bBits s.laneCur t b i)
    let x (i : Nat) : Nat := s.vecBits s.laneCur t a i % 2 ^ w
    let y (i : Nat) : Nat := s.bBits s.laneCur t b i % 2 ^ w
    let sx (i : Nat) : Int := (BitVec.ofNat w (x i)).toInt
    let sy (i : Nat) : Int := (BitVec.ofNat w (y i)).toInt
    let n (i : Nat) : Nat := s.bBits s.laneCur t b i % 64
    let gives (i : Instr) (v : Nat → Int) : Prop :=
      Completes i s (LaneWrote s · (s.lanes c) (vregRows t d) (fun k j => writtenElem t d.val k (v j)) 0)
    gives (.vadd t d a b c) (fun i => A i + B i) ∧
    gives (.vsub t d a b c) (fun i => A i - B i) ∧
    gives (.vmul t d a b c) (fun i => A i * B i) ∧
    gives (.vmulhS t d a b c) (fun i => sx i * sy i / 2 ^ w) ∧
    gives (.vmulhZ t d a b c) (fun i => ((x i * y i / 2 ^ w : Nat) : Int)) ∧
    gives (.vmad t d a b z c) (fun i => A i * B i + readElem t (s.cBits s.laneCur t z i)) ∧
    gives (.vand t d a b c) (fun i => ((x i &&& y i : Nat) : Int)) ∧
    gives (.vor t d a b c) (fun i => ((x i ||| y i : Nat) : Int)) ∧
    gives (.vxor t d a b c) (fun i => ((x i ^^^ y i : Nat) : Int)) ∧
    gives (.vandn t d a b c) (fun i => ((x i &&& (2 ^ w - 1 - y i) : Nat) : Int)) ∧
    gives (.vshl t d a b c) (fun i => if w ≤ n i then 0 else A i * 2 ^ n i) ∧
    gives (.vshrZ t d a b c) (fun i => ((x i / 2 ^ n i : Nat) : Int)) ∧
    gives (.vshrS t d a b c) (fun i => if w ≤ n i then (if sx i < 0 then -1 else 0) else sx i / 2 ^ n i) ∧
    gives (.vminS t d a b c) (fun i => if sx i ≤ sy i then sx i else sy i) ∧
    gives (.vminZ t d a b c) (fun i => ((if x i ≤ y i then x i else y i : Nat) : Int)) ∧
    gives (.vmaxS t d a b c) (fun i => if sx i ≤ sy i then sy i else sx i) ∧
    gives (.vmaxZ t d a b c) (fun i => ((if x i ≤ y i then y i else x i : Nat) : Int)) ∧
    gives (.vabs t d a c) (fun i => if A i < 0 then -A i else A i) ∧
    gives (.vsel t d a b p c) (fun i => if ((s.thread s.laneCur).pred p.val).getLsbD i then A i else B i) ∧
    gives (.vmov t d b c) B ∧
    gives (.vclz t d a c) (fun i => ((if x i = 0 then w else w - 1 - (x i).log2 : Nat) : Int)) ∧
    gives (.vpopc t d a c) (fun i => (((List.range w).filter (fun j => (x i).testBit j)).length : Int)) ∧
    gives (.vbext t d a b c) (fun i => ((x i / 2 ^ n i % 2 ^ (s.bBits s.laneCur t b i / 64 % 64 + 1) : Nat) : Int))

/-- R37, R91, R97, R98, R113: the lanes that take part are those of the captured mask whose combined guard holds. `vcmp` and the
predicate instructions write their bit of those lanes, `pget` their element; `vnop` writes nothing. (That `pset` executes for
every 16-bit immediate is log entry 13, DEDUCED.) -/
def Obligations.LanePredicates : Prop :=
  ∀ (s : State) (t : IType) (cc : Cmp) (p q : PReg) (a d : VReg) (b : BSrc) (ps : PSrc) (c : LaneCtl),
    let bit (r : PReg) (i : Nat) : Bool := ((s.thread s.laneCur).pred r.val).getLsbD i
    let guard (g : Guard) (i : Nat) : Bool := (g.p.val == 63 && g.neg) || (bit g.p i != g.neg)
    let A (i : Nat) : Int := readElem t (s.vecBits s.laneCur t a i)
    let B (i : Nat) : Int := readElem t (s.bBits s.laneCur t b i)
    let Q (i : Nat) : Bool := match ps with
      | .pred r => bit r i
      | .imm x => x
    let gives (i : Instr) (v : Nat → Bool) : Prop := Completes i s (LanePred s · (s.lanes c) p v 0)
    (∀ i, i < 64 → (s.lanes c).getLsbD i = (s.laneCtx.mask.getLsbD i &&
      (if c.orGuards then guard c.g1 i || guard c.g2 i else guard c.g1 i && guard c.g2 i))) ∧
    gives (.vcmp t cc p a b c) (fun i =>
      match cc with
      | .eq => decide (A i = B i)
      | .ne => decide (A i ≠ B i)
      | .lt => decide (A i < B i)
      | .le => decide (A i ≤ B i)
      | .gt => decide (B i < A i)
      | .ge => decide (B i ≤ A i)) ∧
    gives (.pand p q ps c) (fun i => bit q i && Q i) ∧
    gives (.por p q ps c) (fun i => bit q i || Q i) ∧
    gives (.pxor p q ps c) (fun i => bit q i != Q i) ∧
    gives (.pandn p q ps c) (fun i => bit q i && !Q i) ∧
    gives (.pset p b c) (fun i =>
      match b with
      | .vec v => (s.row s.laneCur v.val).at i != 0
      | .sca r => ((s.thread s.laneCur).sreg r).getLsbD i
      | .imm x => x.getLsbD 0) ∧
    (s.CanWrite [d.val] → Completes (.pget d q c) s
      (LaneWrote s · (s.lanes c) [d.val] (fun _ i => if bit q i then 1 else 0) 0)) ∧
    Completes (.vnop c) s (LaneWrote s · (s.lanes c) [] (fun _ _ => 0) 0)

/-- R99, R100, R101, R112: lane movement takes each participating lane's element from its source lane, whatever the mask;
reduction and prefix combine the participating lanes in ascending order; `vrand` runs its four rounds on key and counter. -/
def Obligations.LaneMovement : Prop :=
  ∀ (s : State) (t : IType) (op : RedOp) (d a v : VReg) (b : BSrc) (k : SReg) (c : LaneCtl),
    s.CanWrite (vregRows t d) → s.CanWrite [d.val] →
    let w := t.width
    let x (i : Nat) : Nat := s.vecBits s.laneCur t a i % 2 ^ w
    let arg (i : Nat) : Nat := s.bBits s.laneCur .i32 b i % 2 ^ 32
    let n (i : Nat) : Int := (BitVec.ofNat 32 (arg i)).toInt
    let m := s.lanes c
    let gives (i : Instr) (y : Nat → Int) : Prop :=
      Completes i s (LaneWrote s · m (vregRows t d) (fun k j => writtenElem t d.val k (y j)) 0)
    let sg (y : Nat) : Int := (BitVec.ofNat w y).toInt
    let comb (y z : Nat) : Nat :=
      match op with
      | .add => (y + z) % 2 ^ w
      | .minS => if sg z < sg y then z else y
      | .minZ => if z < y then z else y
      | .maxS => if sg y < sg z then z else y
      | .maxZ => if y < z then z else y
      | .and => y &&& z
      | .or => y ||| z
      | .xor => y ^^^ z
    let fold (is : List Nat) : Nat :=
      match is with
      | [] => 0
      | i :: is => is.foldl (fun y j => comb y (x j)) (x i)
    gives (.vxchg t d a b c) (fun i => (x (if arg i % 64 < 6 then i ^^^ 2 ^ (arg i % 64) else i) : Nat)) ∧
    gives (.vshift t d a b c) (fun i =>
      if (i : Int) + n i < 0 ∨ 63 < (i : Int) + n i then 0 else (x ((i : Int) + n i).toNat : Nat)) ∧
    gives (.vperm t d a v c) (fun i => (x (((s.row s.laneCur v.val).at i).toNat % 64) : Nat)) ∧
    gives (.vbcast t d a b c) (fun i => (x (arg i % 64) : Nat)) ∧
    gives (.vred op t d a c) (fun _ => (fold (setLanes m) : Nat)) ∧
    gives (.vscan op t d a c) (fun i => (fold ((setLanes m).filter (· ≤ i)) : Nat)) ∧
    Completes (.vrand d a k c) s (LaneWrote s · m [d.val] (fun _ i =>
      let k0 : Elem := ((s.thread s.laneCur).sreg k).setWidth 32
      let k1 : Elem := (fgetD (s.thread s.laneCur).sregs (k.val + 1) 0).setWidth 32
      let round (h key dc mc : Elem) (r : Nat) : Elem :=
        let z := ((h ^^^ key ^^^ dc) * mc).rotateLeft r
        z ^^^ (z >>> 16)
      round (round (round (round ((s.row s.laneCur a.val).at i) k0 0x6F1C2A95 0x8C35A2E7 7) k1 0x3B9ED471 0xB56D1F4B 11)
        k0 0xC84D136B 0xD2B74407 17) k1 0x27F58E0D 0x9E4A6C35 23) 0)

/-- R122, R123, R127, R137–R142: lane floating point. Every result is the exact one rounded once in the effective mode, each
half of .bf16x2 on its own, and the flags of the participating lanes join FPX. -/
def Obligations.LaneFloat : Prop :=
  ∀ (s : State) (t : FType) (r : RndOv) (td ts : CvtType) (cc : FCmp) (p : PReg) (d a : VReg) (b : BSrc) (z : CSrc)
    (c : LaneCtl), s.CanWrite [d.val] →
    let m := s.lanes c
    let f := ftypeFmt t
    let mode := effMode s.laneCtx.rmode r
    let A (i : Nat) : Elem := (s.row s.laneCur a.val).at i
    let B (i : Nat) : Elem := s.fbElem t b i
    let C (i : Nat) : Elem := s.fcElem z i
    let lo (i : Nat) : Nat × Flags := roundVal bf16 mode (fp32.value (A i).toNat)
    let hi (i : Nat) : Nat × Flags := roundVal bf16 mode (fp32.value (s.fbElem .f32 b i).toNat)
    let rounded (x : FVal × Flags) : Nat × Flags := ((roundVal f mode x.1).1, x.2 ||| (roundVal f mode x.1).2)
    let gives (i : Instr) (op : Nat → Nat → Nat → Nat × Flags) : Prop :=
      let v (i : Nat) : Elem × Flags := onHalves t op (A i) (B i) (C i)
      Completes i s (LaneWrote s · m [d.val] (fun _ i => (v i).1) (laneFlags m (fun i => (v i).2)))
    gives (.vfadd t r d a b c) (fun x y _ => rounded ((f.value x).add mode (f.value y))) ∧
    gives (.vfsub t r d a b c) (fun x y _ => rounded ((f.value x).add mode (f.value y).neg)) ∧
    gives (.vfmul t r d a b c) (fun x y _ => rounded ((f.value x).mul (f.value y))) ∧
    gives (.vfma t r d a b z c) (fun x y u => rounded ((f.value x).fma mode (f.value y) (f.value u))) ∧
    gives (.vfmin t r d a b c) (fun x y _ => fMinMax f false x y) ∧
    gives (.vfmax t r d a b c) (fun x y _ => fMinMax f true x y) ∧
    gives (.vfsgn t r d a b c) (fun x y _ => fSgn f x y) ∧
    gives (.vfcls t r d a c) (fun x _ _ => fCls f x) ∧
    gives (.vfrnd t r d a c) (fun x _ _ => fRnd f mode x) ∧
    Completes (.vfcmp t cc r p a b c) s (LanePred s · m p (fun i => (fcmpLane t cc (A i) (B i)).1)
      (laneFlags m (fun i => (fcmpLane t cc (A i) (B i)).2))) ∧
    (td ≠ .bf16x2 → ts ≠ .bf16x2 → Completes (.vfcvt td ts r d a b c) s
      (LaneWrote s · m [d.val] (fun _ i => BitVec.ofNat 32 (fCvt td ts mode (A i)).1)
        (laneFlags m (fun i => (fCvt td ts mode (A i)).2)))) ∧
    Completes (.vfcvt .bf16x2 .f32 r d a b c) s (LaneWrote s · m [d.val]
      (fun _ i => BitVec.ofNat 32 ((hi i).1 * 65536 + (lo i).1)) (laneFlags m (fun i => (lo i).2 ||| (hi i).2))) ∧
    (s.CanWrite [d.val, d.val + 1] → Completes (.vfcvt .f32 .bf16x2 r d a b c) s (LaneWrote s · m [d.val, d.val + 1]
      (fun k i =>
        let h := if k = d.val then (A i).toNat % 65536 else (A i).toNat / 65536
        if 0x7F80 < h % 32768 then 0x7FC00000 else BitVec.ofNat 32 (h * 65536)) 0))

/-- R120, R131, R132, R133: what the quantiser makes of a block. The first attempt's exponent s is the least with every finite
|x| at most M · 2^s, and 0 where all are 0, saturated to the scale format's range; each of at most two retries takes the next
code while an element overflows and that code is finite. An element is Round(x / S), the quotient to 64 more bits with what is
left over; one that still overflows takes ±M, and a NaN or an infinity what the format gives for it. -/
def Claims.QuantisedBlock : Prop :=
  ∀ (q : QType) (sf : ScaleFmt) (mode : RMode) (xs : List FVal),
    let g := qtypeFmt q
    let largest (s : Int) : FVal := match g.magVal false g.maxMag with
      | .fin _ n k => .fin false n (k + s)
      | .nan => .nan
      | .inf b => .inf b
    let S (c : Nat) : Nat × Int := match sf with
      | .e8m0 => (1, (c : Int) - 127)
      | .e4m3 => match e4m3.value c with
        | .fin _ n k => (n, k)
        | .nan => (1, 0)
        | .inf _ => (1, 0)
    let one (c : Nat) (neg : Bool) (m : Nat) (e : Int) : Nat × Flags :=
      if m = 0 then (g.pack neg 0, 0)
      else roundDy g mode neg (m * 2 ^ 64 / (S c).1) (e - (S c).2 - 64) (decide (m * 2 ^ 64 % (S c).1 ≠ 0))
    let overs (c : Nat) : Prop := ∃ neg m e, FVal.fin neg m e ∈ xs ∧ (one c neg m e).2 &&& flOverflow ≠ 0
    let last := match sf with
      | .e8m0 => 0xFE
      | .e4m3 => 0x7E
    let c := (quantBlock g sf mode xs).1
    let ys := (quantBlock g sf mode xs).2
    (∃ s : Int,
      let first : Nat := match sf with
        | .e8m0 => (min 127 (max (-127) s) + 127).toNat
        | .e4m3 =>
          let t := min 8 (max (-9) s)
          if -6 ≤ t then ((t + 7) * 8).toNat else if t = -7 then 4 else if t = -8 then 2 else 1
      ((∀ neg m e, FVal.fin neg m e ∈ xs → m = 0) → s = 0) ∧
      ((∃ neg m e, FVal.fin neg m e ∈ xs ∧ m ≠ 0) →
        (∀ neg m e, FVal.fin neg m e ∈ xs → (FVal.fin false m e).cmp (largest s) ≤ 0) ∧
        ∃ neg m e, FVal.fin neg m e ∈ xs ∧ 0 < (FVal.fin false m e).cmp (largest (s - 1))) ∧
      (c = first ∨ (c = first + 1 ∧ overs first) ∨ (c = first + 2 ∧ overs first ∧ overs (first + 1))) ∧
      c ≤ last ∧ (overs c → c = first + 2 ∨ c = last)) ∧
    ys.length = xs.length ∧
    (∀ i : Nat, xs[i]? = some .nan → ys[i]? = some (match g.nanCode with
      | some k => (k, 0)
      | none => (0, flInvalid))) ∧
    (∀ (i : Nat) neg, xs[i]? = some (.inf neg) → ys[i]? = some
      (if g.hasInf then (g.pack neg g.infMag, 0) else (g.pack neg g.maxMag, flQSat ||| flOverflow))) ∧
    (∀ (i : Nat) neg m e, xs[i]? = some (.fin neg m e) →
      let r := one c neg m e
      ys[i]? = some (if r.2 &&& flOverflow ≠ 0 then (g.pack neg g.maxMag, r.2 ||| flQSat ||| flInexact) else r))

/-- R130–R133, R143–R145: the quantiser writes each element's code and its block's scale; the dequantiser rounds the product
of element and scale; a special function is that of the function-table version that the clause captured. -/
def Claims.LaneScales : Prop :=
  ∀ (s : State) (q : QType) (l : BlockLen) (sf : ScaleFmt) (st : SType) (r : RndOv) (d a : VReg) (b : BSrc) (c : LaneCtl),
    s.CanWrite [d.val] →
    let m := s.lanes c
    let mode := effMode s.laneCtx.rmode r
    let A (i : Nat) : Elem := (s.row s.laneCur a.val).at i
    let block (i : Nat) : List Nat := (setLanes m).filter (fun j => j / blockLanes l == i / blockLanes l)
    let quant (i : Nat) : Nat × List (Nat × Flags) :=
      quantBlock (qtypeFmt q) sf mode ((block i).map (fun j => fp32.value (A j).toNat))
    let elem (i : Nat) : Nat × Flags := (quant i).2.getD ((block i).idxOf i) (0, 0)
    let scale (i : Nat) : Nat := match b with
      | .vec v => ((s.row s.laneCur v.val).at (i / blockLanes l * blockLanes l)).toNat % 256
      | .sca x => ((s.thread s.laneCur).sreg x).toNat % 256
      | .imm x => x.toNat % 256
    let factor (n : Nat) : FVal := match sf with
      | .e8m0 => if n = 255 then .nan else .fin false 1 ((n : Int) - 127)
      | .e4m3 => e4m3.value n
    let deq (i : Nat) : Nat × Flags :=
      let x := ((qtypeFmt q).value ((A i).toNat % 2 ^ (qtypeFmt q).width)).mul (factor (scale i))
      ((roundVal fp32 mode x.1).1, x.2 ||| (roundVal fp32 mode x.1).2)
    let fn (i : Instr) (g : SFun) : Prop :=
      let f := stypeFmt st
      let v (i : Nat) : Nat × Flags := specialFun g f mode s.laneCtx.ftv ((A i).toNat % 2 ^ f.width)
      Completes i s (LaneWrote s · m [d.val] (fun _ i => BitVec.ofNat 32 (v i).1) (laneFlags m (fun i => (v i).2)))
    (s.CanWrite [d.val + 1] → Completes (.vquant q l sf r d a c) s (LaneWrote s · m [d.val, d.val + 1]
      (fun k i => BitVec.ofNat 32 (if k = d.val then (elem i).1 else (quant i).1)) (laneFlags m (fun i => (elem i).2)))) ∧
    Completes (.vdequant q l sf r d a b c) s (LaneWrote s · m [d.val]
      (fun _ i => BitVec.ofNat 32 (deq i).1) (laneFlags m (fun i => (deq i).2))) ∧
    fn (.vrcp st r d a c) .rcp ∧ fn (.vrsqrt st r d a c) .rsqrt ∧ fn (.vsqrt st r d a c) .sqrt ∧
    fn (.vexp2 st r d a c) .exp2 ∧ fn (.vlog2 st r d a c) .log2 ∧ fn (.vsin st r d a c) .sin ∧
    fn (.vcos st r d a c) .cos ∧ fn (.vtanh st r d a c) .tanh

/-- R130–R133, R143–R145: quantising, dequantising and the special functions, with the codes and the scale of a block. -/
def Obligations.LaneScalesAndFunctions : Prop := Claims.LaneScales ∧ Claims.QuantisedBlock

/-- R61, R43, R59, R85, R86, R87: `tbind` sets a translation register for the run of its first page, or with limit 0 where the
address or the span gives none; `lrun` enqueues its clause with what it captures, and a bad instruction of the clause traps with
its index; `lsync` goes on, and `sfromv` and `sfromp` read, when the clauses are done. (A clause address is taken modulo 2^56,
which is log entry 80, DESIGN CHOICE.) -/
def Obligations.ClausesEnqueued : Prop :=
  (∀ (s : State) (b : BtReg) (a c : SReg), s.Free computeOnly [a, c] →
    let va := s.th.sreg a
    let span := s.th.sreg c
    let set (r : Translation) : Prop := Completes (.tbind b a c) s (fun t =>
      (t.thread s.cur).bt b.val = r ∧ (∀ q, q ≠ b.val → (t.thread s.cur).bt q = s.th.bt q) ∧
      t.thread s.cur = { s.th with
        bts := (t.thread s.cur).bts, pc := s.th.pc + 4, counters := bumpMap s.th.counters 0 1 } ∧ KeepsAround s t)
    (2 ^ 56 ≤ va.toNat ∨ span = 0 ∨ s.xlat s.cur va.toNat = .absent → set { vbase := va.setWidth 56 }) ∧
    (∀ x, va.toNat < 2 ^ 56 → span ≠ 0 → s.xlat s.cur va.toNat = .ok x →
      (x.rd = false → x.wr = false → set { vbase := va.setWidth 56 }) ∧
      (x.rd = true ∨ x.wr = true → span.toNat ≤ 2 ^ pageBits x.size - va.toNat % 2 ^ pageBits x.size →
        span.toNat < 2 ^ 48 → set { vbase := va.setWidth 56, frame := BitVec.ofNat 52 x.pa, limit := span.setWidth 48
                                    rd := x.rd, wr := x.wr, obj := x.obj, cacheable := x.cacheable }))) ∧
  (∀ (s : State) (n : BitVec 19), s.Free computeOnly [] →
    let va := ((s.launchOf s.cur).laneBase + 12 * n.toNat) % 2 ^ 56
    let kept := s.th.queue.filter (fun c => !s.th.finished c)
    let s' := s.modThread s.cur (fun t => { t with queue := kept })
    kept.length < (if isSproutKey s.cur then 2 else 8) →
    (∀ u h is, s'.readClause s.cur va = .ok u h is → u.logBusy s.cur = false → Completes (.lrun n) s (fun t =>
      (∃ c : Clause, (t.thread s.cur).queue = (u.thread s.cur).queue ++ [c] ∧ c.addr = BitVec.ofNat 56 va ∧ c.hdr = h ∧
        c.instrs = is ∧ c.next = 0 ∧ c.started = false ∧ c.mask = (u.thread s.cur).mask ∧
        c.rmode = (u.thread s.cur).rmode ∧ c.ftv = (u.thread s.cur).ftv) ∧
      (t.thread s.cur).pc = (u.thread s.cur).pc + 4 ∧ t.mem = u.mem)) ∧
    (∀ i b x, s'.readClause s.cur va = .illegal i → s.th.clausesDone = true → CanEnter s' s.cur b x →
      Completes (.lrun n) s (fun t => InHandler s' t s.cur b 0x01 s.th.pc ∧
        (t.thread s.cur).tclause = BitVec.ofNat 56 va ∧ (t.thread s.cur).tindex = BitVec.ofNat 8 i))) ∧
  (∀ (s : State) (d : SReg) (v : VReg) (p : PReg) (lane : Fin 64), s.th.clausesDone = true →
    (s.Free computeOnly [] → Completes .lsync s (WentTo s · (s.th.pc + 4))) ∧
    (s.Free computeOnly [d] → s.rowOk s.cur v.val = true → v.val ∉ s.th.pendingRows →
      Completes (.sfromv d v lane) s (Wrote s · d (((s.row s.cur v.val).at lane.val).setWidth 64))) ∧
    (s.Free computeOnly [d] → s.predOk p = true → Completes (.sfromp d p) s (Wrote s · d (s.th.pred p.val))))

/-- R89–R93: the first clause with an instruction left starts when the flags of its wait mask are clear; its next
instruction issues when no row it names is pending and no walk, log or queue keeps it at issue, and the next step executes it;
an operation with nothing outstanding
completes, and only then can its flag clear. -/
def Obligations.ClausesRun : Prop :=
  ∀ (s : State) (c : Clause),
    let key := s.subj.ag
    let t := s.thread key
    let others (f : Clause → Clause) : List Clause := t.queue.map (fun x => if x.id = c.id then f x else x)
    (t.laneLive = true → t.headClause = some c →
      (c.started = false → c.hdr.waitMask &&& t.flags = 0 → Completes .clauseStart s (AgentOnly s · key
        { t with queue := others (fun x => { x with started := true }) })) ∧
      (c.started = false → c.hdr.waitMask &&& t.flags ≠ 0 → exec .clauseStart s = .next s) ∧
      (∀ i, c.started = true → c.instrs[c.next]? = some i →
        ((∀ r ∈ (laneNames i).rows, r ∉ t.pendingRows) →
          (∀ u, s.laneNext key = some (u, i) → u.laneWaits i = false) → Completes .laneIssue s (fun u =>
          u.agenda = .exec i {} :: s.agenda ∧ u.laneCur = key ∧ u.mem = s.mem ∧ SameOthers s u key ∧
          (u.thread key).laneClause = c.id ∧ (u.thread key).laneIdx = c.next ∧
          (u.thread key).queue = others (fun x => { x with next := x.next + 1 }) ∧
          (∀ r, (u.thread key).sreg r = t.sreg r) ∧ ∀ k, u.row key k = s.row key k)) ∧
        ((∃ r ∈ (laneNames i).rows, r ∈ t.pendingRows) → exec .laneIssue s = .next s) ∧
        (∀ u, s.laneNext key = some (u, i) → u.laneWaits i = true → exec .laneIssue s = .next s))) ∧
    (∀ o, t.longOps.find? (fun o => decide (o.left = 0)) = some o → Completes .longLatencyComplete s (AgentOnly s · key
      { t with longOps := t.longOps.filter (fun x => x.id != o.id) })) ∧
    ((∀ o ∈ t.longOps, o.left ≠ 0) → exec .longLatencyComplete s = .next s)

/-- R92, R102, R103, R105, R107, R110, R111: a global lane memory instruction whose lanes all pass their checks enters one
load for each lane, or one queue entry with the lanes in ascending order, under one completion flag; registers and memory
wait. Where a lane fails and no page is missing, the lowest failing lane gives the cause of the lane fault. -/
def Claims.LaneMemory : Prop :=
  ∀ (s : State) (op : AmoOp) (t : IType) (d e : VReg) (bt : BtReg) (m : LaneAddr) (h : Hint) (fb : Bool) (c : LaneCtl)
    (x : Nat → Xlat), s.lanes c ≠ 0 → (s.thread s.laneCur).queueFull = false → isSproutKey s.laneCur = false →
    let key := s.laneCur
    let th := s.thread key
    let lanes := s.lanes c
    let eb := t.width / 8
    let check (acc : Access) (i : Nat) : Word × MemCheck :=
      s.laneCheck key (th.bt bt.val) acc (s.laneOffset key m eb i) eb
    let va (acc : Access) (i : Nat) : Nat := (check acc i).1.toNat
    let passes (acc : Access) : Prop := ∀ i, lanes.getLsbD i = true → (check acc i).2 = .ok (x i)
    let around (u : State) (left : BitVec 64) (rows : List Nat) : Prop :=
      (∃ o : LongOp, (u.thread key).longOps = th.longOps ++ [o] ∧ o.id = th.nextId ∧ o.left = left ∧ o.flag = th.flagOf fb ∧
        o.rows = rows) ∧
      (∀ j k, u.row j k = s.row j k) ∧ (∀ r, (u.thread key).sreg r = th.sreg r) ∧
      (∀ p, (u.thread key).pred p = th.pred p) ∧ SameOthers s u key ∧ u.mem = s.mem
    (passes .load → Completes (.vld t d bt m h fb c) s (fun u =>
      around u lanes (vregRows t d) ∧ (u.thread key).sq = th.sq ∧
      (u.thread key).win = th.win ++ (setLanes lanes).map (fun i =>
        { id := th.nextId + 1 + i, dest := .lane d.val i t th.nextId, va := va .load i, pa := (x i).pa, size := eb
          mark := th.nextId + 1, uncached := (x i).cellOnly }))) ∧
    (passes .store → Completes (.vst t bt m e h fb c) s (fun u =>
      around u 0 [] ∧ (u.thread key).win = th.win ∧
      (u.thread key).sq = th.sq ++ [{ seq := th.nextId + 1, kind := .laneStore th.nextId, parts := (setLanes lanes).map (fun i =>
        { lane := i, va := va .store i, pa := (x i).pa, data := leBytes eb (s.vecBits key t e i), cmp := leBytes eb 0
          obj := (x i).obj }) }])) ∧
    (passes .atomic → Completes (.vamo op t d bt m e h fb c) s (fun u =>
      around u lanes (vregRows t d) ∧ (u.thread key).win = th.win ∧
      (u.thread key).sq = th.sq ++ [{ seq := th.nextId + 1, kind := .laneAtomic op t d.val th.nextId
                                      parts := (setLanes lanes).map (fun i =>
        { lane := i, va := va .atomic i, pa := (x i).pa, data := leBytes eb (s.vecBits key t e i)
          cmp := leBytes eb (s.vecBits key t d i), obj := (x i).obj }) }])) ∧
    (∀ i cause, lanes.getLsbD i = true → (check .load i).2 = .trap cause →
      (∀ j, lanes.getLsbD j = true → (check .load j).2 ≠ .hold ∧ (check .load j).2 ≠ .wait) →
      (∀ j, j < i → lanes.getLsbD j = true → (check .load j).2 = .ok (x j)) →
      Completes (.vld t d bt m h fb c) s (fun u =>
        (u.thread key).laneStop = true ∧ u.mem = s.mem ∧
        ∃ pt, (u.thread key).trap = some pt ∧ pt.cause = 0x80 ||| cause ∧ pt.lanes.getLsbD i = true ∧
          ∀ j, j < i → pt.lanes.getLsbD j = false))

/-- R108, R110: a scratchpad instruction whose lanes are aligned and inside the allocation reads its elements, or writes
them in ascending lane order; every other byte of scratchpad, and all of memory, stays. -/
def Claims.LaneScratchpad : Prop :=
  ∀ (s : State) (t : IType) (d e : VReg) (m : LaneAddr) (c : LaneCtl),
    let key := s.laneCur
    let eb := t.width / 8
    let lanes := s.lanes c
    let o (i : Nat) : Int := s.laneOffset key m eb i
    let pad := s.core (coreOfKey key)
    (∀ i, lanes.getLsbD i = true → o i % (eb : Int) = 0 ∧ 0 ≤ o i ∧ o i + (eb : Int) ≤ ((s.launchOf key).scratch : Int)) →
    (s.CanWrite (vregRows t d) → pad.padBad = [] → Completes (.vlds t d m c) s (LaneWrote s · lanes (vregRows t d)
      (fun k i => writtenElem t d.val k (leNat ((List.range eb).map (fun j => fgetD pad.pad ((o i).toNat + j) 0)))) 0)) ∧
    Completes (.vsts t m e c) s (fun u =>
      (∀ a, fgetD (u.core (coreOfKey key)).pad a 0 =
        match ((setLanes lanes).filter (fun i => decide ((o i).toNat ≤ a ∧ a < (o i).toNat + eb))).getLast? with
        | some i => BitVec.ofNat 8 (s.vecBits key t e i / 256 ^ (a - (o i).toNat))
        | none => fgetD pad.pad a 0) ∧
      (∀ k, u.core k = { s.core k with pad := (u.core k).pad, padBad := (u.core k).padBad, reported := (u.core k).reported }) ∧
      (∀ j k, u.row j k = s.row j k) ∧ u.mem = s.mem ∧ SameOthers s u key)

/-- R92, R102, R103, R105, R107, R108, R110, R111: lane memory and scratchpad instructions. -/
def Obligations.LaneAccesses : Prop := Claims.LaneMemory ∧ Claims.LaneScratchpad

/-! ### References -/

/-- R68, R74, R178, R182: `ldref` enters the window and holds the agent where it is until it binds; a word without a tag then
raises a trap with cause 0x05 at the `ldref`, none while a branch before it is unresolved (R53), and one with it gives its
value. `stref` enters the queue with its tag set, or traps
with cause 0x04 where the value is a well-formed reference not published at a scope as wide as its container's; while the page
of the object that it names is moving, it waits (R320; that the object's header is then unread is log entry 90). -/
def Obligations.References : Prop :=
  (∀ (s : State) (d a : SReg) (off : BitVec 10) (x : Xlat), s.Free anyone [d, a] → s.logBusy s.cur = false →
    let ea := s.th.sreg a + off.signExtend 64 * 8
    (s.checkAccess s.cur .load ea 8 = .ok x → s.mem.isPoison x.pa = false → Completes (.ldref d a off) s (fun t =>
      (t.thread s.cur).win = s.th.win ++ [{ id := s.th.nextId, dest := .scalar d false, va := ea.toNat, pa := x.pa, size := 8
                                            mark := s.th.nextId, ref := true, uncached := x.cellOnly, back := some s.th.point }] ∧
      (t.thread s.cur).hold = true ∧ (t.thread s.cur).isPending d = true ∧ (t.thread s.cur).pc = s.th.pc ∧
      (∀ r, (t.thread s.cur).sreg r = s.th.sreg r) ∧ KeepsAround s t)) ∧
    (s.checkAccess s.cur .store ea 8 = .ok x → s.th.queueFull = false →
      let v := (s.th.sreg d).toNat
      let c := s.mem.container x.obj x.pa
      let refused : Prop := 1 ≤ c ∧ ∃ h, s.wellFormedRef s.cur (s.th.sreg d) = some h ∧ (s.mem.hdrState h ≠ 2 ∨ s.mem.hdrScope h < c)
      let moving := s.refMoving s.cur (s.th.sreg d) c
      (moving = true → exec (.stref d a off) s = .next s) ∧
      (moving = false → ¬ refused → Completes (.stref d a off) s (Queued s · .store
        { lane := 0, va := ea.toNat, pa := x.pa, data := leBytes 8 v, tag := true, obj := x.obj })) ∧
      (∀ b y, moving = false → refused → CanEnter s s.cur b y → Completes (.stref d a off) s (InHandler s · s.cur b 0x04 s.th.pc)))) ∧
  (∀ (s : State) (l : LoadReq) (d : SReg), l.dest = .scalar d false → l.ref = true → s.subj.flag = false →
    (s.thread s.subj.ag).win.find? (fun x => x.id == s.subj.n) = some l → (s.thread s.subj.ag).canBind l = true →
    s.portOf l.pa = none → s.mem.isPoison l.pa = false → l.untagged = false →
    (s.loadTag s.subj.ag l = true → Completes .loadBind s (fun t =>
      (t.thread s.subj.ag).sreg d = BitVec.ofNat 64 (s.loadNum s.subj.ag l) ∧ (t.thread s.subj.ag).isPending d = false ∧
      ((s.thread s.subj.ag).pc = (s.thread s.subj.ag).refAt →
        (t.thread s.subj.ag).pc = (s.thread s.subj.ag).pc + 4) ∧ SameOthers s t s.subj.ag ∧ SameBytes s t)) ∧
    (s.loadTag s.subj.ag l = false → (s.thread s.subj.ag).isSpec l.id = true → Completes .loadBind s (fun t =>
      (t.thread s.subj.ag).trap = (s.thread s.subj.ag).trap ∧ (t.thread s.subj.ag).pc = (s.thread s.subj.ag).pc ∧
      (∀ r, (t.thread s.subj.ag).sreg r = (s.thread s.subj.ag).sreg r) ∧ SameOthers s t s.subj.ag ∧ SameBytes s t)) ∧
    (s.loadTag s.subj.ag l = false → (s.thread s.subj.ag).isSpec l.id = false → (s.thread s.subj.ag).trap = none →
      isSysKey s.subj.ag = false → isSproutKey s.subj.ag = false → Completes .loadBind s (fun t =>
        (∃ pt, (t.thread s.subj.ag).trap = some pt ∧ pt.cause = 0x05 ∧ pt.pc = (s.thread s.subj.ag).refAt ∧
          pt.value = BitVec.ofNat 64 l.va) ∧
        (t.thread s.subj.ag).isPending d = false ∧ (∀ r, (t.thread s.subj.ag).sreg r = (s.thread s.subj.ag).sreg r) ∧
        SameOthers s t s.subj.ag ∧ SameBytes s t)))

/-! ### Matrix work -/

/-- R234, R236, R241, R245, R247–R254, R257: a matrix instruction whose checks pass joins the unit with the words it captured and
the batch it will be closed into; elements, flags, registers and memory wait. `mfmt` sets the format block; `mbatch` closes
a batch and writes its number; `mwait` goes on when no operation of the batch or an earlier one is left. -/
def Obligations.MatrixIssues : Prop :=
  ∀ (s : State) (tile : TileReg) (d a b : SReg) (f : MstFmt),
    let c := coreOfKey s.cur
    let o : MatrixOp :=
      { id := (s.core c).nextOp, group := ctxOfKey s.cur, kind := 0, tile := tile.val, batch := s.th.batch + 1 }
    let w := s.th.fmtBlock
    let A := s.th.triple a
    let B := s.th.triple b
    let kk := matK (fmtA w)
    let k0 := (tripleLayout B).stride2
    let queued (i : Instr) (names : List SReg) (o : MatrixOp) : Prop :=
      s.Free groupOnly names → tile.val < (s.launchOf s.cur).tiles → (s.core c).mops.length < 16 →
        Completes i s (fun t =>
          (t.core c).mops = (s.core c).mops ++ [o] ∧
          t.core c = { s.core c with mops := (t.core c).mops, nextOp := (s.core c).nextOp + 1, block := (t.core c).block } ∧
          (∀ k, k ≠ c → t.core k = s.core k) ∧
          t.thread s.cur = { s.th with pc := s.th.pc + 4, counters := bumpMap s.th.counters 0 1, region := none } ∧
          SameOthers s t s.cur ∧ SameBytes s t)
    let abc (r : SReg) : List SReg := [r, r + 1, r + 2]
    queued (.mzero tile) [] o ∧
    (captureOk 1 w = true → s.operandOk A kk (matBits (fmtA w)) = true → s.operandOk B kk (matBits (fmtB w)) = true →
      s.scalesOk A w (fmtScaleA w) kk = true → s.scalesOk B w (fmtScaleB w) kk = true →
      queued (.mma tile a b) (abc a ++ abc b) { o with kind := 1, fmt := w, a := A, b := B }) ∧
    (captureOk 2 w = true → s.operandOk A 32 (matBits (fmtA w)) = true → s.operandOk B 32 (matBits (fmtB w)) = true →
      0 ≤ k0 → k0 % 32 = 0 → s.runFits (fmtScaleB w + 256 * (k0.toNat / (32 * 2 ^ fmtGroup w))) 256 = true →
      queued (.mmaq tile a b) (abc a ++ abc b) { o with kind := 2, fmt := w, a := A, b := B }) ∧
    (captureOk 3 w = true → s.operandOk A kk (matBits (fmtA w)) = true → s.operandOk B kk (matBits (fmtB w)) = true →
      queued (.mmaRn tile a b) (abc a ++ abc b) { o with kind := 3, fmt := w, a := A, b := B }) ∧
    queued (.mresolveI32 tile a) [a] { o with kind := 4, scalar := s.th.sreg a } ∧
    queued (.mresolveTile tile a) [a] { o with kind := 5, scalar := s.th.sreg a } ∧
    ((s.th.sreg a).toNat % 4 = 0 → (s.th.sreg a).toNat < 2 ^ 20 → s.runFits (s.th.sreg a).toNat 256 = true →
      queued (.mresolveRow tile a) [a] { o with kind := 6, scalar := s.th.sreg a }) ∧
    (s.operandOk A 64 48 = true → queued (.mld tile a) (abc a) { o with kind := 7, a := A }) ∧
    (s.operandOk A 64 (outBits f) = true →
      queued (.mst tile a f) (abc a) { o with kind := 8, a := A, out := some f, fmt := w }) ∧
    (fmtBlockCode w ≠ 0 → s.operandOk A 64 (outBits f) = true →
      s.runFits (fmtScaleA w) (64 * (64 / blockLen (fmtBlockCode w))) = true →
      queued (.mstQE8m0 tile a f) (abc a) { o with kind := 9, a := A, out := some f, fmt := w } ∧
      queued (.mstQE4m3 tile a f) (abc a) { o with kind := 10, a := A, out := some f, fmt := w }) ∧
    (s.Free groupOnly [a] → fmtWordOk (s.th.sreg a) = true → Completes (.mfmt a) s (AgentOnly s · s.cur
      { s.th with fmtBlock := s.th.sreg a, pc := s.th.pc + 4, counters := bumpMap s.th.counters 0 1 })) ∧
    (s.Free groupOnly [d] → Completes (.mbatch d) s (fun t =>
      (t.thread s.cur).batch = s.th.batch + 1 ∧ (t.thread s.cur).sreg d = (s.th.batch + 1).setWidth 64 ∧
      (∀ r, r ≠ d → (t.thread s.cur).sreg r = s.th.sreg r) ∧ (t.thread s.cur).pc = s.th.pc + 4 ∧ OnlyRunning s t)) ∧
    (s.Free groupOnly [a] →
      let n : BitVec 32 := (s.th.sreg a).setWidth 32
      (n = 0 ∨ ((s.th.batch - n).toNat < 2 ^ 31 ∧ (∀ o ∈ s.groupOps s.cur, 2 ^ 31 ≤ (n - o.batch).toNat) ∧
          ∀ m ∈ s.th.mpoison, 2 ^ 31 ≤ (n - m).toNat) → Completes (.mwait a) s (AgentOnly s · s.cur
        { s.th with pc := s.th.pc + 4, counters := bumpMap s.th.counters 0 1, region := none })) ∧
      (n ≠ 0 → (s.th.batch - n).toNat < 2 ^ 31 → (∃ o ∈ s.groupOps s.cur, (n - o.batch).toNat < 2 ^ 31) →
        exec (.mwait a) s = .next s)) ∧
    (∀ bk x, s.Free groupOnly [] → CanEnter s s.cur bk x → (s.launchOf s.cur).tiles ≤ tile.val →
      Completes (.mzero tile) s (InHandler s · s.cur bk 0x01 s.th.pc))

/-- R242, R244, R246, R249, R251, R252, R258, R262: MATRIX_OP_START starts the operation at the head. MATRIX_OP_COMPLETE of a
started one without errors writes exactly its tile: `mzero` 0, `mma` and `mmaq` the chunk sums in increasing k (`mmaq` with
each weight expanded to BF16), `mma.rn` the residues of the exact sum, `mresolve.i32` the integer held within 32 bits,
`mresolve.tile` and `mresolve.row` that integer times a scale, `mld` 48 bits of each position; the stores write no element.
One that meets an uncorrectable error writes nothing and leaves its batch in poison. That operands are read, whole, when the
operation completes is log entry 31 (DEDUCED), and a NaN scale beside a NaN operand is log entry 28. -/
def Claims.MatrixTiles : Prop :=
  ∀ (s : State) (o : MatrixOp) (rest : List MatrixOp),
    let c := s.subj.ag
    let core := s.core c
    let key := groupKey c o.group
    let tile := (core.block.elim 0 (·.pool)) + o.tile
    let la := tripleLayout o.a
    let lb := tripleLayout o.b
    let kk := matK (fmtA o.fmt)
    let ca := (s.namedCore c la).map s.core
    let cb := (s.namedCore c lb).map s.core
    let aBits (i k : Nat) : Nat := operandBits ca la kk (matBits (fmtA o.fmt)) i k
    let bBits (j k : Nat) : Nat := operandBits cb lb kk (matBits (fmtB o.fmt)) j k
    let held (i j : Nat) : Nat := core.accAt (accKey tile i j)
    core.mops = o :: rest → s.unitRuns c = true →
    (o.started = false → Completes .matrixOpStart s (fun t =>
      (t.core c).mops = { o with started := true } :: rest ∧ (t.core c).acc = core.acc ∧ (t.core c).pad = core.pad ∧
      (∀ k, k ≠ c → t.core k = s.core k) ∧ t.threads = s.threads ∧ SameBytes s t)) ∧
    (o.started = true → (∀ k, (s.core k).padBad = []) → core.accBad = [] →
      let writes (v : Nat → Nat → Nat) : Prop := Completes .matrixOpComplete s (fun t =>
        (∀ i j, i < 64 → j < 64 → (t.core c).accAt (accKey tile i j) = v i j % 2 ^ 48) ∧
        (∀ k, (k < 4096 * tile ∨ 4096 * tile + 4096 ≤ k) → (t.core c).accAt k = core.accAt k) ∧
        (t.core c).mops = rest ∧ (t.core c).pad = core.pad ∧ (∀ k, k ≠ c → t.core k = s.core k) ∧ SameBytes s t)
      (o.kind = 0 → writes (fun _ _ => 0)) ∧
      (o.kind = 1 → writes (fun i j => (chunks (kk / 4) (fun k =>
        if operandMasked la kk i k || operandMasked lb kk j k then ⟨.fin false 0 0, false⟩
        else productTerm ((matFmt (fmtA o.fmt)).value (aBits i k)) (scaleOf core o.fmt (fmtScaleA o.fmt) kk i k)
          ((matFmt (fmtB o.fmt)).value (bBits j k)) (scaleOf core o.fmt (fmtScaleB o.fmt) kk j k))
        4 0 (held i j % 2 ^ 32, 0)).1)) ∧
      (o.kind = 2 → writes (fun i j => (chunks 8 (fun k =>
        if operandMasked la 32 i k || operandMasked lb 32 j k then ⟨.fin false 0 0, false⟩
        else
          let g := lb.stride2.toNat / (32 * 2 ^ fmtGroup o.fmt)
          let pair := core.padNum (fmtScaleB o.fmt + 256 * g + 4 * j) 4
          let q := operandBits cb lb 32 (matBits (fmtB o.fmt)) j k
          let d : Int := (BitVec.ofNat 4 q).toInt - (BitVec.ofNat 4 (pair / 2 ^ 16)).toInt
          let weight := (roundVal bf16 .rne ((ofIntVal d).mul (bf16.value (pair % 2 ^ 16))).1).1
          productTerm (bf16.value (operandBits ca la 32 (matBits (fmtA o.fmt)) i k)) (.fin false 1 0) (bf16.value weight)
            (.fin false 1 0))
        4 0 (held i j % 2 ^ 32, 0)).1)) ∧
      (o.kind = 3 → writes (fun i j => rnsAdd (held i j) ((List.range kk).foldl (fun t k => t +
        (BitVec.ofNat (matBits (fmtA o.fmt)) (aBits i k)).toInt * (BitVec.ofNat (matBits (fmtB o.fmt)) (bBits j k)).toInt) 0))) ∧
      (o.kind = 4 → writes (fun i j =>
        (BitVec.ofInt 32 (max (-2147483648) (min 2147483647 (rnsDecode (held i j))))).toNat)) ∧
      (o.kind = 5 → writes (fun i j => (roundVal fp32 .rne
        ((ofIntVal (rnsDecode (held i j))).mul (fp32.value (o.scalar.toNat % 2 ^ 32))).1).1)) ∧
      (o.kind = 6 → writes (fun i j => (roundVal fp32 .rne
        ((ofIntVal (rnsDecode (held i j))).mul (fp32.value (core.padNum (o.scalar.toNat + 4 * i) 4))).1).1)) ∧
      (o.kind = 7 → writes (fun i j => operandBits ca la 64 48 i j)) ∧
      (8 ≤ o.kind → Completes .matrixOpComplete s (fun t =>
        (t.core c).acc = core.acc ∧ (t.core c).mops = rest ∧
        (∀ k, k ≠ c → k ≠ s.storeCore c o → t.core k = s.core k) ∧ SameBytes s t))) ∧
    (o.started = true → 1 ≤ o.kind → o.kind ≤ 6 → (∃ k ∈ core.accBad, 4096 * tile ≤ k ∧ k < 4096 * tile + 4096) →
      Completes .matrixOpComplete s (fun t =>
        (t.core c).acc = core.acc ∧ (t.core c).pad = core.pad ∧ (t.core c).mops = rest ∧
        ((t.core c).block.isSome = true → (t.thread key).mpoison = (s.thread key).mpoison ++ [o.batch]) ∧ SameBytes s t))

/-- R252, R253, R254: an `mst` writes in the core that its triple names the rows and columns its edge leaves, each element rounded
to the form, row by row as one string of bits; bits past a row's end, and every other byte of scratchpad, stay. A
quantising `mst` writes each block's codes there and its scale in the issuing core. Rows, and scales, that fall on one another
are left out here: their order is log entry 118 (DESIGN CHOICE). -/
def Claims.MatrixStores : Prop :=
  ∀ (s : State) (o : MatrixOp) (rest : List MatrixOp) (x : Nat),
    let c := s.subj.ag
    let core := s.core c
    let tile := (core.block.elim 0 (·.pool)) + o.tile
    let l := tripleLayout o.a
    let f := o.out.getD .fp32
    let bits := outBits f
    let R := l.rowsValid
    let C := l.lenValid 64
    let nb := (C * bits + 7) / 8
    let place (i b : Nat) : Nat := padPlace l.mode (l.rowAt i + b)
    let places := (List.range R).flatMap (fun i => (List.range nb).map (place i))
    let code (i j : Nat) : Nat := core.accAt (accKey tile i j) % 2 ^ 32
    core.mops = o :: rest → s.unitRuns c = true → o.started = true → (∀ k, (s.core k).padBad = []) → core.accBad = [] →
    s.namedCore c l = some x → l.edgeOk 64 = true → places.Nodup →
    let stores (v : Nat → Nat → Nat) (others : Nat → Prop) (t : State) : Prop :=
      (∀ i j u, i < R → j < C → u < bits →
        (fgetD (t.core x).pad (place i ((j * bits + u) / 8)) 0).getLsbD ((j * bits + u) % 8) = (v i j).testBit u) ∧
      (∀ i p, i < R → C * bits ≤ p → p < 8 * nb →
        (fgetD (t.core x).pad (place i (p / 8)) 0).getLsbD (p % 8) =
          (fgetD (s.core x).pad (place i (p / 8)) 0).getLsbD (p % 8)) ∧
      (∀ a, a ∉ places → others a → fgetD (t.core x).pad a 0 = fgetD (s.core x).pad a 0) ∧
      (x ≠ c → t.core x = { s.core x with
        pad := (t.core x).pad, padBad := (t.core x).padBad, reported := (t.core x).reported }) ∧
      (t.core c).acc = core.acc ∧ (t.core c).mops = rest ∧ (∀ k, k ≠ c → k ≠ x → t.core k = s.core k) ∧ SameBytes s t
    let whole (v : FVal) (n : Nat) : Nat := match v with
      | .nan => 0
      | .inf neg => if neg then 2 ^ (n - 1) else 2 ^ (n - 1) - 1
      | .fin neg m e =>
        let r : Int := (intRound .rne neg m e).1
        let lo : Int := -((2 ^ (n - 1) : Nat) : Int)
        let hi : Int := ((2 ^ (n - 1) : Nat) : Int) - 1
        (BitVec.ofInt n (max lo (min hi (if neg then -r else r)))).toNat
    (o.kind = 8 → Completes .matrixOpComplete s (fun t =>
      (x ≠ c → (t.core c).pad = core.pad) ∧
      stores (fun i j => match f with
        | .fp32 => code i j
        | .int8 => whole (fp32.value (code i j)) 8
        | .int4 => whole (fp32.value (code i j)) 4
        | .bf16 | .fp16 | .e4m3 | .e5m2 | .e3m2 | .e2m3 | .e2m1 => (roundVal (outFmt f) .rne (fp32.value (code i j))).1)
        (fun _ => True) t)) ∧
    (∀ sf : ScaleFmt, (o.kind = 9 ∧ sf = .e8m0 ∨ o.kind = 10 ∧ sf = .e4m3) →
      let L := blockLen (fmtBlockCode o.fmt)
      let block (i q : Nat) : List FVal := ((List.range C).filter (fun j => j / L == q)).map (fun j => fp32.value (code i j))
      let made (i q : Nat) : Nat × List (Nat × Flags) := quantBlock (outFmt f) sf .rne (block i q)
      let scaleAt (i q : Nat) : Nat := fmtScaleA o.fmt + 64 / L * i + q
      (∀ i q, i < R → q * L < C → x = c → scaleAt i q ∉ places) →
      Completes .matrixOpComplete s (fun t =>
        stores (fun i j => ((made i (j / L)).2.getD (j % L) (0, 0)).1)
          (fun a => x = c → ∀ i q, i < R → q * L < C → scaleAt i q ≠ a) t ∧
        (∀ i q, i < R → q * L < C → fgetD (t.core c).pad (scaleAt i q) 0 = BitVec.ofNat 8 (made i q).1) ∧
        (x ≠ c → ∀ a, (∀ i q, i < R → q * L < C → scaleAt i q ≠ a) → fgetD (t.core c).pad a 0 = fgetD core.pad a 0)))

/-- R242, R244, R246, R249, R251–R254, R258, R262: a matrix operation writes exactly its tile or its bytes. -/
def Obligations.MatrixPerforms : Prop := Claims.MatrixTiles ∧ Claims.MatrixStores

/-! ### Engines -/

/-- R192, R193, R196, R199, R209–R211, R214, R216, R219, R220, R222, R225: an engine instruction whose tag is free, whose engine
has room and whose checks pass makes the tag busy and joins its engine with the octet it captured; memory and scratchpad wait. A
sprout holds its operation in its store queue. (The order of the bursts of an `hread` is fixed at issue by the translation of
that moment, which is log entry 49, DESIGN CHOICE.) -/
def Obligations.EnginesIssue : Prop :=
  ∀ (s : State) (tag : Fin 64) (k : Fin 16) (a b : SReg) (v : VReg) (rt : SReg) (off : BitVec 13),
    let c := coreOfKey s.cur
    let core := s.core c
    let oct := (List.range 8).map (fun i => s.th.sreg (a + Fin.ofNat 64 i))
    let octR (r : SReg) : List SReg := (List.range 8).map (fun i => r + Fin.ofNat 64 i)
    let octB := (List.range 8).map (fun i => s.th.sreg (b + Fin.ofNat 64 i))
    let on (t : State) : Prop :=
      t.thread s.cur = { s.th with pc := s.th.pc + 4, counters := bumpMap s.th.counters 0 1, region := none } ∧
      SameOthers s t s.cur ∧ SameBytes s t
    let busy (t : State) (n : Nat) : Prop :=
      (core.block.isSome = true → (t.tag c n).ready = false ∧ (t.tag c n).err = false ∧ (t.tag c n).status = 0) ∧
      ∀ m, m ≠ n → t.tag c m = s.tag c m
    let queued (i : Instr) (w : Who) (names : List SReg) (x : CopySpec) : Prop :=
      s.Free w names → isSproutKey s.cur = false → (s.tag c tag.val).ready = true → core.engineFull x.engine = false →
        Completes i s (fun t =>
          (t.core c).eops = core.eops ++ [{ id := core.nextOp, spec := x, group := ctxOfKey s.cur, after := s.th.nextId }] ∧
          t.core c = { core with eops := (t.core c).eops, nextOp := core.nextOp + 1, block := (t.core c).block } ∧
          (∀ j, j ≠ c → t.core j = s.core j) ∧ busy t tag.val ∧ on t)
    let held (i : Instr) (w : Who) (names : List SReg) (x : CopySpec) : Prop :=
      s.Free w names → isSproutKey s.cur = true → tag.val = 0 → s.th.queueFull = false →
        Completes i s (fun t => (t.thread s.cur).sq = s.th.sq ++ [{ seq := s.th.nextId, kind := .engine x, parts := [] }] ∧
          (t.thread s.cur).pc = s.th.pc + 4 ∧ OnlyRunning s t)
    let passes (x : CopySpec) : Prop := x.misaligned = false ∧ s.copyInRange x = true
    let copy (kind : Nat) : CopySpec := { kind := kind, tag := tag.val, oct := oct }
    let bin : CopySpec :=
      { kind := 5, tag := tag.val, oct := [], base := (s.th.sreg a).toNat, bin := (s.th.sreg b).toNat
        row := rowBytesOf (s.row s.cur v.val) }
    let fill : CopySpec := { kind := 4, tag := tag.val, oct := octB, base := (s.th.sreg a).toNat }
    (passes (copy 0) → queued (.tcopyIn tag a) groupOnly (octR a) (copy 0)) ∧
    (passes { copy 0 with key := some k.val } →
      queued (.tcopyInKey tag a k) groupOnly (octR a) { copy 0 with key := some k.val }) ∧
    (passes (copy 1) → queued (.tcopyOut tag a) computeOnly (octR a) (copy 1) ∧
      held (.tcopyOut tag a) computeOnly (octR a) (copy 1)) ∧
    (passes (copy 2) → queued (.tcopySs tag a) groupOnly (octR a) (copy 2)) ∧
    (passes { copy 3 with base := (s.th.sreg b).toNat } →
      queued (.tgather tag a b) groupOnly (b :: octR a) { copy 3 with base := (s.th.sreg b).toNat }) ∧
    (s.th.clausesDone = true → s.binRowOk v = true → bin.base % 32 = 0 → bin.base < 2 ^ 56 → bin.binAt bin.bin < 2 ^ 56 →
      queued (.tbin tag a b v) computeOnly [a, b] bin ∧ held (.tbin tag a b v) computeOnly [a, b] bin) ∧
    (passes fill → fill.base % 32 = 0 → fill.base < 2 ^ 56 → queued (.ringFill tag a b) groupOnly (a :: octR b) fill) ∧
    (∀ r : HreadReq,
      r = { id := core.nextOp, tag := rt.val, group := ctxOfKey s.cur, handler := s.th.pc + off.signExtend 56 * 4, oct := oct
            after := s.th.nextId, ftv := s.th.ftv, rmode := s.th.rmode, fptrap := s.th.fptrap, toRead := [] } →
      s.Free groupOnly (octR a) → (s.tag c rt.val).ready = true → core.hreads.length < 4 → s.hreadCheck r = none →
      r.spec.size ≠ 0 → Completes (.hread a rt off) s (fun t =>
        (∃ q, (t.core c).hreads = core.hreads ++ [q] ∧ q.toRead = s.burstOrder s.cur r ∧
          q = { r with toRead := q.toRead, clipped := r.spec.rows * r.perRow - q.toRead.length }) ∧
        busy t rt.val ∧ on t))

/-- R195, R213: a wait on tags answers when a tag of its mask is ready (`twait.any`, `tfirst`: the lowest) or all are
(`twait.all`), and stays where it is otherwise; a recorded cause traps; `tclr` clears errors and statuses. -/
def Claims.TagWaits : Prop :=
  ∀ (s : State) (d a : SReg), s.Free groupOnly [d, a] →
    let c := coreOfKey s.cur
    let m := s.th.sreg a
    let ready (k : Nat) : Prop := k < 64 ∧ m.getLsbD k = true ∧ (s.tag c k).ready = true
    let clean (k : Nat) : Prop := waitCause ((s.tag c k).status.toNat / 2 ^ 28) = none
    let lowest (k : Nat) : Prop := ready k ∧ ∀ j, j < k → ¬ ready j
    let all : Prop := ∀ k, k < 64 → m.getLsbD k = true → (s.tag c k).ready = true
    let word (k : Nat) : Word := BitVec.ofNat 64 ((s.tag c k).status.toNat * 2 ^ 32 + (if (s.tag c k).err then 128 else 0) + k)
    let gives (i : Instr) (v : Word) : Prop := Completes i s (fun t =>
      (t.thread s.cur).sreg d = v ∧ (∀ r, r ≠ d → (t.thread s.cur).sreg r = s.th.sreg r) ∧
      (t.thread s.cur).pc = s.th.pc + 4 ∧ (∀ k, t.tag c k = s.tag c k) ∧ SameOthers s t s.cur ∧ SameBytes s t)
    (m = 0 → gives (.twaitAny d a) 64) ∧
    (∀ k, lowest k → clean k → gives (.twaitAny d a) (word k) ∧ gives (.tfirst d a) (word k)) ∧
    (m ≠ 0 → (∀ k, ¬ ready k) → exec (.twaitAny d a) s = .next s) ∧
    ((∀ k, ¬ ready k) → gives (.tfirst d a) 64) ∧
    (all → (∀ k, k < 64 → m.getLsbD k = true → clean k) → gives (.twaitAll d a) m) ∧
    (¬ all → exec (.twaitAll d a) s = .next s) ∧
    (∀ k b x cause, lowest k → waitCause ((s.tag c k).status.toNat / 2 ^ 28) = some cause → CanEnter s s.cur b x →
      Completes (.twaitAny d a) s (InHandler s · s.cur b cause s.th.pc)) ∧
    (all → Completes (.tclr a) s (fun t =>
      (∀ k, k < 64 → (m.getLsbD k = true → (t.tag c k).err = false ∧ (t.tag c k).status = 0) ∧
        (m.getLsbD k = false → t.tag c k = s.tag c k)) ∧
      (∀ r, (t.thread s.cur).sreg r = s.th.sreg r) ∧ (t.thread s.cur).pc = s.th.pc + 4 ∧ SameOthers s t s.cur ∧
      SameBytes s t)) ∧
    (¬ all → exec (.tclr a) s = .next s)

/-- R206, R207, R208: a byte barrier of the block's scratchpad is set up, expects bytes, takes arrivals and flips when none is
pending and the expected bytes have arrived; a wait goes on when the phase has flipped, a test says whether it has. -/
def Claims.ByteBarriers : Prop :=
  ∀ (s : State) (d a b : SReg),
    let c := coreOfKey s.cur
    let o := (s.th.sreg a).toNat
    let v := (s.th.sreg b).toNat
    let x := (s.core c).barrier o
    s.Free groupOnly [d, a, b] → o % 16 = 0 → o < 2 ^ 20 → o + 16 ≤ (s.launchOf s.cur).scratch →
    let sat (n : Nat) : Nat := min n 0xFFFFFFFF
    let flip (y : Barrier) : Barrier :=
      if y.pending = 0 ∧ y.expected ≤ y.arrived then
        { phase := (y.phase + 1) % 2 ^ 32, pending := y.arrivals, arrivals := y.arrivals, arrived := y.arrived - y.expected
          expected := 0 }
      else y
    let on (t : State) : Prop :=
      (∀ r, r ≠ d → (t.thread s.cur).sreg r = s.th.sreg r) ∧ (t.thread s.cur).pc = s.th.pc + 4 ∧ SameOthers s t s.cur ∧
      SameBytes s t
    let sets (i : Instr) (y : Barrier) : Prop := Completes i s (fun t =>
      (t.core c).barrier o = flip y ∧ (∀ p, (p < o ∨ o + 16 ≤ p) → fgetD (t.core c).pad p 0 = fgetD (s.core c).pad p 0) ∧
      (t.thread s.cur).sreg d = s.th.sreg d ∧ on t)
    sets (.barInit a b) ⟨0, v / 2 ^ 32 % 2 ^ 16, v / 2 ^ 32 % 2 ^ 16, 0, v % 2 ^ 32⟩ ∧
    sets (.barExpect a b) { x with expected := sat (x.expected + v % 2 ^ 32) } ∧
    (x.pending ≠ 0 → sets (.barArrive a b) { x with pending := x.pending - 1, arrived := sat (x.arrived + v % 2 ^ 32) }) ∧
    (∀ k y, x.pending = 0 → CanEnter s s.cur k y → Completes (.barArrive a b) s (InHandler s · s.cur k 0x03 s.th.pc)) ∧
    (DeliveryClear s → x.phase % 2 ≠ v % 2 → Completes (.barWait a b) s (fun t =>
      (t.thread s.cur).sreg d = s.th.sreg d ∧ (t.core c).pad = (s.core c).pad ∧ on t)) ∧
    (DeliveryClear s → x.phase % 2 = v % 2 → exec (.barWait a b) s = .next s) ∧
    Completes (.barTest d a b) s (fun t =>
      (t.thread s.cur).sreg d = (if x.phase % 2 ≠ v % 2 then 1 else 0) ∧ (t.core c).pad = (s.core c).pad ∧ on t)

/-- R195, R206, R207, R208, R213: waits on copy tags and byte barriers. -/
def Obligations.CopyWaits : Prop := Claims.TagWaits ∧ Claims.ByteBarriers

/-- R216, R217: `ring.init` joins the queue, and performing sets both indices; `ring.await` gives the oldest full slot's address
and stays while the ring is empty; `ring.release` joins the queue, performing moves the read index on by one, and then it
retires. -/
def Obligations.RingsWork : Prop :=
  (∀ (s : State) (d a b : SReg) (x : Xlat),
    let va := (s.th.sreg a).toNat
    let r := s.ringAt x.pa
    let part : Part := { lane := 0, va := va + 16, pa := x.pa + 16, data := leBytes 16 0, obj := x.obj }
    s.logBusy s.cur = false → r.ok x.pa = true → s.portOf x.pa = none →
    (s.Free groupOnly [a, b] → s.th.queueFull = false → s.checkAccess s.cur .atomic (s.th.sreg a) 32 = .ok x →
      s.th.touchesRing va x.pa = false →
      Completes (.ringInit a b) s (Queued s · (.ringInit (s.th.sreg b)) part)) ∧
    (s.Free groupOnly [d, a] → s.checkAccess s.cur .load (s.th.sreg a) 32 = .ok x → s.th.touchesRing va x.pa = false →
      s.mem.isPoison x.pa = false →
      (r.ri < r.wi → Completes (.ringAwait d a) s (fun t =>
        (t.thread s.cur).sreg d = BitVec.ofNat 64 ((r.base + r.ri % r.slots * r.slotBytes) % 2 ^ 64) ∧
        (∀ q, q ≠ d → (t.thread s.cur).sreg q = s.th.sreg q) ∧ (t.thread s.cur).pc = s.th.pc + 4 ∧ SameOthers s t s.cur ∧
        SameBytes s t)) ∧
      (r.wi ≤ r.ri → Completes (.ringAwait d a) s (fun t => t.threads = s.threads ∧ SameBytes s t))) ∧
    (s.Free groupOnly [a] → s.th.wait = .none → FenceClear s true .p → va % 32 = 0 →
      s.checkAccess s.cur .atomic (s.th.sreg a) 32 = .ok x → Completes (.ringRelease a) s (fun t =>
        (t.thread s.cur).sq = [{ seq := s.th.nextId, kind := .ringRelease, parts := [part] }] ∧
        (t.thread s.cur).wait = .ringRel ∧ (t.thread s.cur).pc = s.th.pc ∧ SameOthers s t s.cur ∧ SameBytes s t)) ∧
    (s.Free groupOnly [a] → s.th.wait = .ringRelDone → Completes (.ringRelease a) s (fun t =>
      (t.thread s.cur).pc = s.th.pc + 4 ∧ (t.thread s.cur).wait = .none ∧ OnlyRunning s t))) ∧
  (∀ (s : State) (e : SqEntry) (es : List SqEntry) (p : Part), (s.thread s.subj.ag).sq = e :: es → e.parts = [p] →
    e.held = false → isSproutKey s.subj.ag = false → s.refreshing p.pa = false → s.waiters = [] → s.mem.headers = [] →
    s.portOf p.pa = none →
    (∀ b, s.blockOf s.subj.ag = some b → ∃ g < b.launch.groups, b.gone.contains g = false) →
    (∀ v, e.kind = .ringInit v → Completes .atomicPerform s (fun t =>
      t.mem.word p.pa = v ∧ t.mem.word (p.pa + 8) = v ∧ SameBytesOutside s t p.pa 16 ∧ (t.thread s.subj.ag).sq = es)) ∧
    (e.kind = .ringRelease → s.mem.word (p.pa + 8) ≠ s.mem.word p.pa → Completes .atomicPerform s (fun t =>
      t.mem.word (p.pa + 8) = s.mem.word (p.pa + 8) + 1 ∧ SameBytesOutside s t (p.pa + 8) 8 ∧
      (t.thread s.subj.ag).wait = .ringRelDone)) ∧
    (e.kind = .ringRelease → s.mem.word (p.pa + 8) = s.mem.word p.pa → Completes .atomicPerform s (fun t =>
      (t.thread s.subj.ag).wait = .ringRelEmpty ∧ SameBytes s t)))

/-- What the engine statements speak of: operation o of core c is there, its units run, it has work to do and has not finished. -/
structure Runs (s : State) (o : EngineOp) : Prop where
  named : s.subj.n = o.id
  here : (s.core s.subj.ag).op? o.id = some o
  kind : isSysKey (groupKey s.subj.ag o.group) = false
  units : s.unitRuns s.subj.ag = true
  access : s.subj.flag = false
  more : o.finished = false
  size : o.spec.kind = 5 ∨ o.spec.size ≠ 0

/-- The operation of the running engine is now p. -/
def Now (s t : State) (o p : EngineOp) : Prop := (t.core s.subj.ag).op? o.id = some p

/-- No register and no byte of the core's scratchpad changes. -/
def Quiet (s t : State) : Prop := t.threads = s.threads ∧ (t.core s.subj.ag).pad = (s.core s.subj.ag).pad

/-- R176, R204, R210: ENGINE_ACCESS starts an operation, in issue order, once the entries queued before it have left; a `tgather`
captures its index list. -/
def Claims.OperationsStart : Prop :=
  ∀ (s : State) (o : EngineOp),
    let c := s.subj.ag
    let key := groupKey c o.group
    Runs s o → o.started = false →
    (s.queuedBefore key o.after = true → exec .engineAccess s = .next s) ∧
    (s.queuedBefore key o.after = false → o.spec.kind ≠ 4 → (s.core c).mayStart o = true →
      (o.spec.kind = 3 → (s.core c).padBad = []) →
      Completes .engineAccess s (fun t => (∃ p, Now s t o p ∧ p.started = true ∧ p.spec = o.spec ∧ p.done = o.done ∧
        (o.spec.kind = 3 → ∀ r, r < o.spec.rows → p.idxOf r = (s.core c).padNum (o.spec.base + 4 * r) 4)) ∧ Quiet s t ∧
        SameBytes s t))

/-- R203, R209, R210, R211: a `tcopy.in` or a `tgather` reads one run of bytes of a line at a time, of the row or of the row that
the index names, and zeros where it is clipped; a `tcopy.in` with a key reads the whole sealed blob in order. -/
def Claims.CopiesRead : Prop :=
  ∀ (s : State) (o : EngineOp) (y : Xlat),
    let key := groupKey s.subj.ag o.group
    let x := o.spec
    let q := o.run
    let va := x.globalAt (if x.kind = 3 then o.idxOf q.1 else q.1) q.2.1
    let takes (bs : List Byte) : Prop := Completes .engineAccess s (fun t =>
      (∃ p, Now s t o p ∧ p.blob = o.blob ++ bs ∧ p.done = o.done + bs.length ∧ p.cause = o.cause ∧ p.finished = false) ∧
      Quiet s t ∧ SameBytes s t)
    Runs s o → o.started = true → s.queuedBefore key o.after = false → (x.kind = 0 ∨ x.kind = 3) →
    (x.key = none → o.done < x.size →
      (q.2.2.2 = true → takes (List.replicate q.2.2.1 0)) ∧
      (q.2.2.2 = false → s.engineReach key va q.2.2.1 .load o.hold o.fatal = .ok y → s.portOf y.pa = none →
        takes (s.mem.bytes y.pa q.2.2.1))) ∧
    (x.key.isSome = true → o.done < x.size + 32 →
      let a := ((x.word 0).toNat + o.done) % 2 ^ 64
      let n := min (x.size + 32 - o.done) (256 - a % 256)
      s.engineReach key a n .load o.hold o.fatal = .ok y → s.portOf y.pa = none → takes (s.mem.bytes y.pa n))

/-- R205, R209–R212: when all has been read, the cores that still run a block of the launch in the sub-rectangle (the issuing core
alone, without multicast) take the tile, one a step and the issuing core last: each position of the layout its byte, and no
other byte. With a key the tile is the plaintext of a blob whose tag verifies under the nonce of its first 12 bytes and the
tile's size, and zeros for one that does not, or that could not be read. That a core takes its whole tile in one step is log
entry 31 (DEDUCED); the order of the cores is log entry 5. -/
def Claims.CopiesWrite : Prop :=
  ∀ (s : State) (o : EngineOp),
    let c := s.subj.ag
    let x := o.spec
    let bits (bs : List Byte) : List Nat := bs.map (·.toNat)
    let opened (k : List Byte) : Option (List Nat) :=
      gcmOpen (bits k) (bits (o.blob.take 12)) (bits (leBytes 8 x.size)) (bits ((o.blob.drop 16).take x.size))
        (bits (o.blob.drop (16 + x.size)))
    Runs s o → o.started = true → s.queuedBefore (groupKey c o.group) o.after = false → (x.kind = 0 ∨ x.kind = 3) →
    (x.key = none → x.size ≤ o.done) → (x.key.isSome = true → x.size + 32 ≤ o.done) →
    (o.todo = none → Completes .engineAccess s (fun t =>
      (∃ p ks, Now s t o p ∧ p.todo = some ks ∧ p.finished = false ∧
        ∀ k, k ∈ ks ↔ (x.multicast = false ∧ k = c) ∨ (x.multicast = true ∧
          ∃ i j a b, i < (x.rect c).2.2.1 ∧ j < (x.rect c).2.2.2 ∧ k = tileOf ((x.rect c).1 + i) ((x.rect c).2.1 + j) ∧
            (s.core c).block = some a ∧ (s.core k).block = some b ∧ a.launch.seq = b.launch.seq ∧
            a.launch.plot = b.launch.plot)) ∧ Quiet s t ∧ SameBytes s t)) ∧
    (∀ k ks, o.todo = some (k :: ks) → k ∈ s.receivers c x → (x.cells.map (fun z => x.layout.place z.1 z.2)).Nodup →
      let gives (bs : List Byte) (cause : Nat) : Prop := bs.length = x.size → Completes .engineAccess s (fun t =>
        (∃ p, Now s t o p ∧ p.todo = some ks ∧ p.finished = decide (ks = []) ∧
          (ks = [] → p.cause = if o.cause = 0 then cause else o.cause)) ∧
        t.threads = s.threads ∧ SameBytes s t ∧ (∀ j, j ≠ c → j ≠ k → t.core j = s.core j) ∧
        (k ≠ c → (t.core c).pad = (s.core c).pad) ∧
        (∀ r b, r < x.rows → b < x.rowBytes →
          fgetD (t.core k).pad (x.layout.place r b) 0 = bs.getD (r * x.rowBytes + b) 0) ∧
        ∀ a, (∀ r b, r < x.rows → b < x.rowBytes → x.layout.place r b ≠ a) →
          fgetD (t.core k).pad a 0 = fgetD (s.core k).pad a 0)
      (x.key = none → gives o.blob 0) ∧
      (∀ kb p, x.key.isSome = true → o.key = some kb → opened kb = some p → o.cause = 0 →
        gives (p.map (fun b => BitVec.ofNat 8 b)) 0) ∧
      (x.key.isSome = true → (∀ kb p, o.key = some kb → opened kb ≠ some p) → gives (List.replicate x.size 0) 5) ∧
      (∀ kb p, x.key.isSome = true → o.key = some kb → opened kb = some p → o.cause ≠ 0 →
        gives (List.replicate x.size 0) o.cause))

/-- R176, R205, R209: a `tcopy.out` takes its tile and then writes one run of a line at a time; a `tcopy.ss` moves its tile to the
places of its destination, and no other byte changes. That each takes its whole tile in one step is log entry 31 (DEDUCED). -/
def Claims.CopiesOut : Prop :=
  ∀ (s : State) (o : EngineOp) (y : Xlat),
    let c := s.subj.ag
    let key := groupKey c o.group
    let x := o.spec
    let q := o.run
    let n := q.2.2.1
    let k := clusterMate c x.layout.core
    let from' (r b : Nat) : Byte := if o.clipped r b then 0 else fgetD (s.core k).pad (x.layout.place r b) 0
    Runs s o → o.started = true → s.queuedBefore key o.after = false → (s.core k).padBad = [] →
    (x.kind = 1 → o.phase = 0 → Completes .engineAccess s (fun t =>
      (∃ p, Now s t o p ∧ p.phase = 1 ∧ p.cause = o.cause ∧
        ∀ r b, r < x.rows → b < x.rowBytes → p.blob.getD (r * x.rowBytes + b) 0 = from' r b) ∧ Quiet s t ∧ SameBytes s t)) ∧
    (x.kind = 1 → o.phase ≠ 0 → o.done < x.size → q.2.2.2 = false → s.engineReach key (x.globalAt q.1 q.2.1) n .store o.hold o.fatal = .ok y →
      s.refreshing y.pa = false → s.waiters = [] →
      Completes .engineAccess s (fun t => (∃ p, Now s t o p ∧ p.done = o.done + n) ∧ (t.core c).pad = (s.core c).pad ∧
        SameBytesBeside s t y.pa n ∧
        (s.mem.headers = [] → ∀ i, i < n → o.done + i < o.blob.length →
          t.mem.byte (y.pa + i) = o.blob.getD (o.done + i) 0))) ∧
    (x.kind = 1 → o.phase ≠ 0 → o.done < x.size → q.2.2.2 = true →
      Completes .engineAccess s (fun t => (∃ p, Now s t o p ∧ p.done = o.done + n) ∧ Quiet s t ∧ SameBytes s t)) ∧
    (x.kind = 2 → (x.cells.map (fun z => x.ssDest.place z.1 z.2)).Nodup →
      let d := clusterMate c x.ssDest.core
      Completes .engineAccess s (fun t => (∃ p, Now s t o p ∧ p.finished = true ∧ p.cause = o.cause) ∧
        t.threads = s.threads ∧ SameBytes s t ∧ (∀ j, j ≠ c → j ≠ d → t.core j = s.core j) ∧
        (d ≠ c → (t.core c).pad = (s.core c).pad) ∧
        (∀ r b, r < x.rows → b < x.rowBytes → fgetD (t.core d).pad (x.ssDest.place r b) 0 = from' r b) ∧
        ∀ a, (∀ r b, r < x.rows → b < x.rowBytes → x.ssDest.place r b ≠ a) →
          fgetD (t.core d).pad a 0 = fgetD (s.core d).pad a 0))

/-- R215: a `tbin` counts in its bin's entry; a row for which the bin has room goes there, one for which it has none to the bin's
overflow entry, where that is another, and one for which that has none is counted as dropped. The counters saturate. -/
def Claims.BinsRun : Prop :=
  ∀ (s : State) (o : EngineOp) (y : Xlat),
    let key := groupKey s.subj.ag o.group
    let x := o.spec
    Runs s o → o.started = true → s.queuedBefore key o.after = false → x.kind = 5 →
    s.portOf y.pa = none → s.refreshing y.pa = false → s.waiters = [] → s.mem.headers = [] →
    let n := s.mem.num (y.pa + 16) 4
    let counts (f : Nat) (P : EngineOp → Prop) : Prop := Completes .engineAccess s (fun t =>
      (∃ p, Now s t o p ∧ P p) ∧ t.mem.num (y.pa + f) 4 = min (s.mem.num (y.pa + f) 4 + 1) 0xFFFFFFFF ∧
      SameBytesOutside s t (y.pa + f) 4 ∧ (t.core s.subj.ag).pad = (s.core s.subj.ag).pad)
    let placed (outcome : Nat) (p : EngineOp) : Prop :=
      p.phase = 3 ∧ p.outcome = outcome ∧ p.slot = n ∧ p.finished = false ∧
      p.windex = BitVec.ofNat 64 (s.mem.num y.pa 8 + n * s.mem.num (y.pa + 8) 4)
    let ovf := s.mem.num (y.pa + 24) 4
    let reach (bin : Nat) : Prop := s.engineReach key (x.binAt bin) 32 .atomic o.hold o.fatal = .ok y
    (o.phase = 0 → reach x.bin →
      (n < s.mem.num (y.pa + 12) 4 → counts 16 (placed 0)) ∧
      (s.mem.num (y.pa + 12) 4 ≤ n → ovf ≠ 0xFFFFFFFF → ovf ≠ x.bin → counts 16 (fun p => p.phase = 1 ∧ p.slot = ovf)) ∧
      (s.mem.num (y.pa + 12) 4 ≤ n → ovf = 0xFFFFFFFF ∨ ovf = x.bin → counts 16 (fun p => p.phase = 2))) ∧
    (o.phase = 1 → reach o.slot →
      (n < s.mem.num (y.pa + 12) 4 → counts 16 (placed 1)) ∧
      (s.mem.num (y.pa + 12) 4 ≤ n → counts 16 (fun p => p.phase = 2))) ∧
    (o.phase = 2 → reach x.bin → counts 20 (fun p => p.outcome = 2 ∧ p.finished = true)) ∧
    (o.phase = 3 → o.done < 256 → x.row.length = 256 →
      let va := (o.windex.toNat + o.done) % 2 ^ 64
      let k := min (256 - o.done) (256 - va % 256)
      s.engineReach key va k .store o.hold o.fatal = .ok y → Completes .engineAccess s (fun t =>
        (∃ p, Now s t o p ∧ p.done = o.done + k) ∧ SameBytesOutside s t y.pa k ∧
        ∀ i, i < k → t.mem.byte (y.pa + i) = x.row.getD (o.done + i) 0))

/-- R193, R207: ENGINE_OPERATION_COMPLETE of a finished operation of a group turns its tag ready with its status, and then adds its
bytes to the barrier of each receiving core. -/
def Claims.OperationsComplete : Prop :=
  ∀ (s : State) (o : EngineOp),
    let c := s.subj.ag
    let core := s.core c
    let x := o.spec
    s.subj.n = o.id → core.op? o.id = some o → o.finished = true → o.group < 16 →
    (x.kind = 5 ∨ x.barrierOn = false → Completes .engineOperationComplete s (fun t =>
      ((t.core c).block.isSome = true → t.tag c x.tag = { (s.tag c x.tag) with
        ready := true, err := decide (o.cause ≠ 0), status := BitVec.ofNat 32 (o.cause * 2 ^ 28 + o.detail), sprouts := [] }) ∧
      (t.core c).eops = core.eops.filter (fun p => p.id != o.id) ∧ (∀ k, (t.core k).pad = (s.core k).pad) ∧ SameBytes s t)) ∧
    (x.kind ≠ 5 → x.barrierOn = true → (s.receivers c x).Nodup → Completes .engineOperationComplete s (fun t =>
      (∀ k ∈ s.receivers c x,
        (t.core k).barrier x.barrier =
          ({ (s.core k).barrier x.barrier with arrived := min (((s.core k).barrier x.barrier).arrived + x.size) 0xFFFFFFFF } :
            Barrier).flip ∧
        ∀ a, (a < x.barrier ∨ x.barrier + 16 ≤ a) → fgetD (t.core k).pad a 0 = fgetD (s.core k).pad a 0) ∧
      (∀ k, k ∉ s.receivers c x → (t.core k).pad = (s.core k).pad) ∧ SameBytes s t))

/-- R176, R193, R203, R204, R205, R207, R209–R212, R215: engine operations start, run and complete. -/
def Obligations.EnginesRun : Prop :=
  Claims.OperationsStart ∧ Claims.CopiesRead ∧ Claims.CopiesWrite ∧ Claims.CopiesOut ∧ Claims.BinsRun ∧ Claims.OperationsComplete

/-- R217, R221, R223, R224: RING_FILL_START takes the first free slot of the ring; BURST_DELIVERY starts a sprout with the
burst's number, address, row and offset, the words 4 to 7 of its octet and the burst's data in v0; a sprout that runs too long
is abandoned with cause 0x0D; LAST_BURST_EVENT turns the tag ready when every burst is delivered or lost and every sprout done.
(That RING_FILL_START takes its whole scratchpad source in the step that takes the slot is log entry 31, DEDUCED.) -/
def Obligations.BulkReadsRun : Prop :=
  (∀ (s : State) (o : EngineOp),
    let c := s.subj.ag
    let r := s.ringAt o.ring
    s.subj.n = o.id → (s.core c).op? o.id = some o → o.spec.kind = 4 → o.started = true → o.finished = false → o.phase = 0 →
    s.firstAtRing c o = true → r.ok o.ring = true →
    (r.wi < r.ri + r.slots → o.spec.size ≤ r.slotBytes → Completes .ringFillStart s (fun t =>
      (∃ p, (t.core c).op? o.id = some p ∧ p.slot = (r.base + r.wi % r.slots * r.slotBytes) % 2 ^ 64 ∧
        p.windex = BitVec.ofNat 64 r.wi ∧ p.phase = 1 ∧ p.blob = (o.source (s.core (o.sourceCore c))).map (·.1)) ∧
      (t.core c).pad = (s.core c).pad ∧ SameBytes s t)) ∧
    (r.wi < r.ri + r.slots → r.slotBytes < o.spec.size → Completes .ringFillStart s (fun t =>
      (∃ p, (t.core c).op? o.id = some p ∧ p.finished = true ∧ (o.cause = 0 → p.cause = 6)) ∧ t.threads = s.threads ∧
      SameBytes s t)) ∧
    (r.ri + r.slots ≤ r.wi → exec .ringFillStart s = .next s)) ∧
  (∀ (s : State) (r : HreadReq) (b : Burst) (i : Nat),
    let c := s.subj.ag
    let key := groupKey c (16 + i)
    s.burstsRun c = true → (s.core c).req? s.subj.n = some r → (s.core c).bursts.find? (fun x => x.req == s.subj.n) = some b →
    i < 16 → fget? s.threads key = none → (∀ j, j < i → (fget? s.threads (groupKey c (16 + j))).isSome = true) →
    Completes .burstDelivery s (fun t =>
      let x := t.thread key
      x.pc = r.handler ∧ x.sreg 0 = BitVec.ofNat 64 b.n ∧ x.sreg 1 = r.addr b.n ∧
      x.sreg 2 = BitVec.ofNat 64 (b.n / r.perRow) ∧ x.sreg 3 = BitVec.ofNat 64 (256 * (b.n % r.perRow)) ∧
      x.sreg 4 = r.oct.getD 4 0 ∧ x.sreg 5 = r.oct.getD 5 0 ∧ x.sreg 6 = r.oct.getD 6 0 ∧ x.sreg 7 = r.oct.getD 7 0 ∧
      (∀ q : SReg, 8 ≤ q.val → x.sreg q = 0) ∧ x.mask = BitVec.allOnes 64 ∧ x.ftv = r.ftv ∧ x.rmode = r.rmode ∧
      x.fptrap = r.fptrap ∧ x.fpx = 0 ∧ x.status = .running ∧
      (∀ k, k < 64 → (fgetD x.ownRows 0 []).getD k 0 = BitVec.ofNat 32 (leNat ((b.data.drop (4 * k)).take 4))) ∧
      SameOthers s t key ∧ SameBytes s t)) ∧
  (∀ s : State,
    let key := s.subj.ag
    let x := s.thread key
    isSproutKey key = true → (fget? s.threads key).isSome = true → x.released = false →
    (x.startCycle + 65536 + x.heldCycles ≤ s.cycle → Completes .sproutTimeLimit s (fun t =>
      SameOthers s t key ∧ SameBytes s t ∧
      (∀ r, (s.core (coreOfKey key)).req? x.req = some r → (∃ q, (t.core (coreOfKey key)).req? x.req = some q ∧
        q.abandoned = r.abandoned ++ [(x.burst, 0x0D, 4)] ∧ q.live = r.live.filter (· ≠ x.burst))))) ∧
    (s.cycle < x.startCycle + 65536 + x.heldCycles → exec .sproutTimeLimit s = .next s)) ∧
  (∀ (s : State) (r : HreadReq),
    let c := s.subj.ag
    (s.core c).req? s.subj.n = some r → s.subj.n = r.id → r.barrierOn = false →
    (r.toRead = [] → r.live = [] → (s.core c).bursts.any (fun b => b.req == r.id) = false →
      Completes .lastBurstEvent s (fun t =>
        ((t.core c).block.isSome = true → (t.tag c r.tag).ready = true ∧
          ((t.tag c r.tag).err = true ↔ (lowestLost r.abandoned).elim 0 (·.2.2) ≠ 0)) ∧
        (t.core c).hreads = (s.core c).hreads.filter (fun q => q.id != r.id) ∧ SameBytes s t)) ∧
    (r.toRead ≠ [] ∨ r.live ≠ [] → exec .lastBurstEvent s = .next s))

/-! ### Walks and held instructions -/

/-- R21, R72, R104, R161, R167, R172, R315, R317, R319, R320: PAGE_WALK begins for an access that needs the translation, and for
no other, and reads a word a step: a table takes it a level down, a leaf ends it and joins the TLBs on its path (which those
are is log entry 96, DESIGN CHOICE), an absent word is kept for its access to meet (log entry 52, DESIGN CHOICE), a moving one
makes it wait. HOST_READBACK sends the zero-length read of a fence of scope s after the last earlier host store, with the
agent's number as its tag (log entry 101, DESIGN CHOICE), and ends its wait when the completion has entered. FAULT_REPLAY makes
a held load or queue entry again once every message of it is posted, and one whose page is fatal raises a trap with cause
0x0C. OPERAND_LOG_ENTRY_FREE frees a replayed entry. -/
def Claims.WalksAndReplays : Prop :=
  (∀ s : State,
    let key := s.subj.ag
    let plot := s.plotOf key
    let p := s.plot plot
    let va := s.subj.value.toNat
    let among (w : Walk) (f : Walk → Walk) : List Walk := p.walks.map (fun x => if x.id = w.id then f x else x)
    isUnitAgent key = false →
    (s.subj.n = 0 → s.needs key (s.spaceOf key) va = false → exec .pageWalk s = .next s) ∧
    (s.subj.n = 0 → s.needs key (s.spaceOf key) va = true → (∀ w ∈ p.walks, w.of key (s.spaceOf key) va = false) →
      Completes .pageWalk s (fun t =>
        (t.plot plot).walks = p.walks ++ [{ id := s.nextWalk, agent := key, space := s.spaceOf key, va := va, level := 4
                                            table := p.rootOf (s.spaceOf key) }] ∧
        t.threads = s.threads ∧ t.cores = s.cores ∧ t.mem = s.mem)) ∧
    (∀ w, s.subj.n ≠ 0 → p.walks.find? (fun x => x.id == s.subj.n && !x.waits && !x.missed) = some w → w.agent = key →
      fget? s.mem.hist (w.table + 8 * walkIndex w.level w.va) = none →
      s.portOf (w.table + 8 * walkIndex w.level w.va) = none →
      let v := s.mem.word (w.table + 8 * walkIndex w.level w.va)
      let read := walkWord s.mem p w.space w.va w.level v
      let step (f : Walk → Walk) : Prop := Completes .pageWalk s (fun t =>
        (t.plot plot).walks = among w f ∧ t.threads = s.threads ∧ t.cores = s.cores ∧ t.mem = s.mem)
      (∀ a, read = .table a → step (fun x => { x with level := x.level - 1, table := a })) ∧
      (∀ x, read = .done (.ok x) → Completes .pageWalk s (fun t =>
        (t.plot plot).walks = p.walks.filter (fun x => x.id != w.id) ∧
        ((∀ k ∈ s.tlbPath w.agent, tlbFind (s.core k).tlb w.space w.va = none) → ∀ k ∈ s.tlbPath w.agent,
          (t.core k).tlb = (s.core k).tlb ++ [tlbEntryOf w.space w.va x]) ∧
        t.threads = s.threads ∧ t.mem = s.mem)) ∧
      (read = .done .absent → step (fun x => { x with missed := true })) ∧
      (read = .done .moving → step (fun x => { x with waits := true })))) ∧
  (∀ s : State,
    let key := s.subj.ag
    let x := s.thread key
    (s.launchOf key).copy = false → (s.launchOf key).paired = false →
    (x.wait = .readback → s.hostDrained key = true → Completes .hostReadback s (fun t =>
      t.thread key = { x with wait := .readbackSent } ∧ SameOthers s t key ∧ SameBytes s t ∧
      ∀ g, fget? s.gates 0 = some g →
        ∃ a, fget? t.gates 0 = some { g with outq := g.outq ++ [a] } ∧ a.kind = 1 ∧ a.target = key ∧ a.payload = [])) ∧
    (x.wait = .readback → s.hostDrained key = false → exec .hostReadback s = .next s) ∧
    (∀ y, x.wait = .readbackSent → s.enteredBy (readbackFor key) = some y → Completes .hostReadback s (fun t =>
      t.thread key = { x with wait := .readbackDone } ∧ t.entered = s.entered.erase y ∧ SameOthers s t key ∧ SameBytes s t)) ∧
    (x.wait = .readbackSent → s.enteredBy (readbackFor key) = none → exec .hostReadback s = .next s)) ∧
  (∀ (s : State) (e : LogEntry) (y : Xlat),
    let key := s.subj.ag
    let x := s.thread key
    x.log.find? (s.canResend key) = none → x.log.find? LogEntry.served = some e → x.trap = none → x.frozen = false →
    (∀ l, e.target = .load l.id → x.win.find? (fun z => z.id == l.id) = some l → e.isFatal = false →
      s.checkAccess key .load (BitVec.ofNat 64 l.va) l.size = .ok y → s.mem.isPoison y.pa = false →
      Completes .faultReplay s (fun t =>
        (t.thread key).win = x.win.map (fun z => if z.id = l.id then { z with pa := y.pa, held := false, uncached := y.cellOnly } else z) ∧
        (∀ r, (t.thread key).sreg r = x.sreg r) ∧ SameOthers s t key ∧ t.mem = s.mem)) ∧
    (∀ q p, e.target = .queue q.seq → x.sq.find? (fun z => z.seq == q.seq) = some q → q.parts = [p] → p.tag = false →
      e.isFatal = false → s.checkAccess key (accessOf e.access) (BitVec.ofNat 64 p.va) p.data.length = .ok y →
      Completes .faultReplay s (fun t =>
        (t.thread key).sq = x.sq.map (fun z =>
          if z.seq = q.seq then { z with parts := [{ p with pa := y.pa, obj := y.obj }], held := false } else z) ∧
        (∀ r, (t.thread key).sreg r = x.sreg r) ∧ SameOthers s t key ∧ t.mem = s.mem)) ∧
    (∀ l, e.target = .load l.id → x.win.find? (fun z => z.id == l.id) = some l → e.isFatal = true →
      isSysKey key = false → isSproutKey key = false → Completes .faultReplay s (fun t =>
        (∃ pt, (t.thread key).trap = some pt ∧ pt.cause = 0x0C ∧ pt.pc = e.pc ∧ pt.value = BitVec.ofNat 64 l.va) ∧
        SameOthers s t key ∧ t.mem = s.mem))) ∧
  (∀ (s : State) (e : LogEntry),
    let key := s.subj.ag
    let x := s.thread key
    (x.log.find? (·.replayed) = some e → Completes .operandLogEntryFree s (AgentOnly s · key
      { x with log := x.log.filter (fun y => y.id != e.id) })) ∧
    ((∀ e ∈ x.log, e.replayed = false) → exec .operandLogEntryFree s = .next s))

/-- R21, R72, R104, R167, R172, R315, R317, R319–R321: walks, faults served and replayed, and shared-page poison. -/
def Obligations.FaultsAndPoison : Prop := Claims.WalksAndReplays ∧ Claims.SharedPagePoison

/-! ### Debug and the package -/

/-- R373: `tile.open` opens a record with its label, the cycle, the group and the core; `tile.close` waits for the operations on
the tile that had issued when it began, then writes the record to the tile-record ring; without a record, and on a system core,
both only go on. -/
def Claims.TileRecords : Prop :=
  ∀ (s : State) (tile : TileReg) (a : SReg),
    let c := coreOfKey s.cur
    let p := s.plot s.th.plot
    let on : Thread := { s.th with pc := s.th.pc + 4, counters := bumpMap s.th.counters 0 1 }
    let closed : Thread := { on with wait := .none }
    let mark := match s.th.wait with
      | .closing m => m
      | _ => (s.core c).nextOp
    let pending : Prop := ∃ o ∈ (s.core c).mops, o.tile = tile.val ∧ o.id < mark
    (s.Free notSprout [a] → isSysKey s.cur = true →
      Completes (.tileOpen tile a) s (AgentOnly s · s.cur on) ∧ Completes (.tileClose tile) s (AgentOnly s · s.cur on)) ∧
    (∀ b, s.Free groupOnly [a] → s.blockOf s.cur = some b → tile.val < b.launch.tiles →
      Completes (.tileOpen tile a) s (fun t =>
        t.blockOf s.cur = some { b with
          recs := fset b.recs tile.val { label := s.th.sreg a, opened := s.cycle, group := ctxOfKey s.cur, place := c } } ∧
        t.thread s.cur = on ∧ SameOthers s t s.cur ∧ SameBytes s t) ∧
      (pending → Completes (.tileClose tile) s (AgentOnly s · s.cur { s.th with wait := .closing mark })) ∧
      (¬ pending → fget? b.recs tile.val = none → Completes (.tileClose tile) s (AgentOnly s · s.cur closed)) ∧
      (∀ r, ¬ pending → fget? b.recs tile.val = some r → p.trec.room = true → Completes (.tileClose tile) s (fun t =>
        SameBytesOutside s t (p.trec.at 64) 64 ∧ (s.mem.headers = [] → t.mem.num (p.trec.at 64) 8 = r.label.toNat) ∧
        (t.plot s.th.plot).trec = { p.trec with head := p.trec.head + 1 } ∧
        t.blockOf s.cur = some { b with recs := ferase b.recs tile.val } ∧ t.thread s.cur = closed ∧ SameOthers s t s.cur)))

/-- R367–R370, R372: `trig` fires a trigger armed by software, and disarms one that fires once; the triggers that have fired in a
cycle act at its end, in ascending number. `cnt` reads a counter of Table 17.5, and bit 63 where it is not available; those of
a system core's function are VF.CUR's (log entry 62, DEDUCED), and what the counters of hits and misses count is log entry 6.
SAMPLER_TICK takes the tick of a cycle that is a multiple of the period, and writes one sample for the core whose sampled
context exists (its state is log entry 69, DEDUCED). -/
def Claims.TriggersAndCounters : Prop :=
  (∀ (s : State) (n : Fin 16),
    let p := s.plot s.th.plot
    let w := fgetD p.trig n.val 0
    let on : Thread := { s.th with pc := s.th.pc + 4, counters := bumpMap s.th.counters 0 1 }
    s.Free notSprout [] →
    (w.toNat % 16 ≠ 1 → Completes (.trig n) s (AgentOnly s · s.cur on)) ∧
    (w.toNat % 16 = 1 → Completes (.trig n) s (fun t =>
      fgetD (t.plot s.th.plot).trig n.val 0 =
        (if w.getLsbD 8 then (w ||| 0x200) &&& BitVec.ofNat 64 (2 ^ 64 - 16) else w ||| 0x200) ∧
      fgetD (t.plot s.th.plot).fired n.val 0 = w ∧ (t.plot s.th.plot).trcState = p.trcState ∧
      (t.plot s.th.plot).stopNow = p.stopNow ∧ (t.plot s.th.plot).stopAt = p.stopAt ∧
      t.thread s.cur = on ∧ SameOthers s t s.cur ∧ SameBytes s t))) ∧
  (∀ (p : Plot) (cycle : Nat) (x : Nat × Word) (xs : List (Nat × Word)), p.fired = x :: xs →
    let act : Nat := x.2.toNat / 16 % 16
    let q : Plot :=
      { p with
        fired := xs
        trcState := if act = 1 ∧ p.trcState ≠ 2 then 1 else if act = 2 then 0 else if act = 3 then 2 else p.trcState
        stopAt := if act = 4 then BitVec.ofNat 64 (cycle + x.2.toNat / 2 ^ 12 % 2 ^ 20) else p.stopAt
        stopNow := decide (act = 5) || p.stopNow }
    p.actFired cycle = q.actFired cycle ∧ (p.actFired cycle).fired = []) ∧
  (∀ (s : State) (d : SReg) (idx : BitVec 12), s.Free anyone [d] → isSproutKey s.cur = false →
    let sys := isSysKey s.cur
    let p := s.plot s.th.plot
    let vf := if sys then p.vfCur else (s.launchOf s.cur).vf
    let v : Vf := fgetD p.vfs vf {}
    let i := idx.toNat
    let gives (n : Nat) : Prop := Completes (.cnt d idx) s (Wrote s · d (BitVec.ofNat 64 n))
    (v.missing = [] →
      (i = 0 → gives (fgetD s.th.counters 0 0)) ∧
      (1 ≤ i → i ≤ 4 → gives (if sys then 2 ^ 63 else fgetD s.th.counters i 0)) ∧
      (∀ b, 0x10 ≤ i → i ≤ 0x13 → s.blockOf s.cur = some b → gives (if sys then 2 ^ 63 else fgetD b.counters i 0)) ∧
      (∀ b, sys = false → 0x20 ≤ i → i ≤ 0x22 → s.blockOf s.cur = some b → gives (s.statSum (statB b.id i))) ∧
      (0x30 ≤ i → i ≤ 0x38 → gives (s.statSum (statP s.th.plot i))) ∧
      (i = 0x40 → gives (p.servedNow vf s.cycle)) ∧ (i = 0x41 → gives v.faults)) ∧
    (0x42 ≤ i → gives (2 ^ 63)) ∧ (sys = true → 0x20 ≤ i → i ≤ 0x22 → gives (2 ^ 63)) ∧
    (sys = false ∨ 0x40 ≤ i → i ∈ v.missing → gives (2 ^ 63))) ∧
  (∀ s : State,
    let p := s.plot s.subj.ag
    let k := p.smpPeriod.toNat
    let x := s.cycle / 2 ^ k % 32
    let there := ((s.usable s.subj.ag).flatMap clusterTiles).filter (fun c => (fget? s.threads (groupKey c x)).isSome)
    let q := { p with smpLast := s.cycle }
    (p.trcState = 1 → k ≠ 0 → s.cycle % 2 ^ k = 0 → p.smpLast ≠ s.cycle →
      (there = [] → Completes .samplerTick s (PlotOnly s · s.subj.ag q)) ∧
      (∀ c, there = [c] → p.trc.room = true → Completes .samplerTick s (fun t =>
        t.plot s.subj.ag = { q with trc := { p.trc with head := p.trc.head + 1 } } ∧ SameBytesOutside s t (p.trc.at 16) 16 ∧
        (s.mem.headers = [] → t.mem.num (p.trc.at 16) 8 = (s.sample (groupKey c x)).toNat) ∧ t.threads = s.threads))) ∧
    (p.trcState ≠ 1 ∨ s.cycle % 2 ^ k ≠ 0 → exec .samplerTick s = .next s))

/-- R357–R361: PLOT_STOP freezes every core that runs a block of the plot and raises cause 0x3A; PACKAGE_STOP stops the
package with an image of it, without keys and without the DRAM's bytes; PACKAGE_RELEASE goes on with the next cycle;
IMAGE_RESTORE puts the image back with its lines over the memory's bytes, in the cycle after its stop, and refuses an image of
another configuration with the safe state 3. That the image is a field of the machine, and that one whose keys came from
another boot nonce gives the free contents `Config.garbled`, is log entry 53 (DESIGN CHOICE). -/
def Claims.StopsAndImages : Prop :=
  ∀ s : State,
    let p := s.plot s.subj.ag
    ((fget? s.plots s.subj.ag).isSome = true → p.stopNow = true ∨ p.stopAt.toNat ≤ s.cycle → Completes .plotStop s (fun t =>
      (t.plot s.subj.ag).stopped = true ∧ (t.plot s.subj.ag).stopAt = BitVec.allOnes 64 ∧
      (∀ k c b, k / 32 = c → (s.core c).block = some b → b.launch.plot = s.subj.ag → (fget? s.threads k).isSome = true →
        c < 1280 → (t.thread k).frozen = true) ∧
      (t.thread (sysKey s.subj.ag)).sys.ipend.getLsbD 10 = true ∧ SameBytes s t)) ∧
    (p.stopNow = false → s.cycle < p.stopAt.toNat → exec .plotStop s = .next s) ∧
    (s.stopped = false → s.pkgStopAt.toNat ≤ s.cycle → s.board.imageBase = none → s.safeAfterStop = none →
      Completes .packageStop s (fun t =>
        t.stopped = true ∧ (∃ i, t.image = some i ∧ i.cycle = s.cycle ∧ i.digest = s.mgr.cfgDigest ∧ i.nonce = s.mgr.bootNonce ∧
          i.mach.mem.cells = [] ∧ i.mach.threads = s.threads ∧ i.mach.pkgStopAt = BitVec.allOnes 64 ∧
          (∀ l ∈ s.l2, (l.1, s.mem.bytes l.1 256) ∈ i.lines) ∧ ∀ q ∈ i.mach.plots, q.2.keys = []) ∧ t.threads = s.threads ∧
        t.cores = s.cores ∧ SameBytes s t)) ∧
    (s.stopped = false → s.stopReq = none → s.cycle < s.pkgStopAt.toNat → exec .packageStop s = .next s) ∧
    (s.stopped = true → s.boot ≠ .safe → Completes .packageRelease s (fun t =>
      t.stopped = false ∧ t.cycle = s.cycle + 1 ∧ t.plots = s.plots ∧ t.mem = s.mem ∧
      (∀ k, (t.thread k).pc = (s.thread k).pc ∧ (∀ r, (t.thread k).sreg r = (s.thread k).sreg r) ∧
        (t.thread k).mask = (s.thread k).mask) ∧
      ∀ c, (t.core c).block = (s.core c).block ∧ (t.core c).acc = (s.core c).acc ∧ (t.core c).pad = (s.core c).pad)) ∧
    (∀ i, s.image = some i → s.boot = .ready ∨ s.boot = .step 8 → i.digest = s.mgr.cfgDigest → i.nonce = s.mgr.bootNonce →
      Completes .imageRestore s (fun t =>
        t.cycle = i.cycle + 1 ∧ t.plots = i.mach.plots ∧ t.boot = .ready ∧ t.stopped = false ∧
        (∀ k, (t.thread k).pc = (fgetD i.mach.threads k {}).pc ∧
          ∀ r, (t.thread k).sreg r = (fgetD i.mach.threads k {}).sreg r) ∧
        (∀ c, (t.core c).block = (fgetD i.mach.cores c {}).block ∧ (t.core c).acc = (fgetD i.mach.cores c {}).acc ∧
          (t.core c).pad = (fgetD i.mach.cores c {}).pad) ∧ (i.lines = [] → SameBytes s t) ∧
        ∀ l bs, i.lines = [(l, bs)] → SameBytesOutside s t l bs.length ∧ ∀ j, j < bs.length → t.mem.byte (l + j) = bs.getD j 0)) ∧
    (∀ i, s.image = some i → s.boot = .ready ∨ s.boot = .step 8 → i.digest = s.mgr.cfgDigest → i.nonce ≠ s.mgr.bootNonce →
      Completes .imageRestore s (fun t =>
        t.cycle = i.cycle + 1 ∧ t.boot = .ready ∧ t.stopped = false ∧
        t.plots = (Config.garbled i.nonce s.mgr.bootNonce).plots ∧ t.mem = s.mem)) ∧
    (∀ i, s.image = some i → s.boot = .ready ∨ s.boot = .step 8 → i.digest ≠ s.mgr.cfgDigest → Completes .imageRestore s (fun t =>
      t.boot = .safe ∧ t.diag.state = 3 ∧ t.threads = s.threads ∧ t.cores = s.cores ∧ t.plots = s.plots ∧ t.mem = s.mem))

/-- R357–R361, R367–R370, R372, R373: debug records, counters, stops and images. -/
def Obligations.DebugAndImages : Prop := Claims.TileRecords ∧ Claims.TriggersAndCounters ∧ Claims.StopsAndImages

/-- R346–R348, R374, R377, R414, R415, R417, R418: what happens to the package. A board input reaches gate 20, and nothing else
moves; an unanswered loss of the reference asks for a stop at the next multiple of 14; a ratio changes only outside
deterministic operation; a refresh closes its channel for 490 cycles; an error marks its word, element or line; the answer to
an alert lowers a ratio; a dump goes to its buffer in host memory; a follower of the exchange keeps its residual offset, and the
leader has none; each step of bring-up shown leads to the next or to the safe state. (What the manager's log shows is log entry 54,
the times of the exchange and the value of ALIGN.OFS are 102, the numbers of board inputs are 9, and a test that bring-up makes is
the flag by 47.) -/
def Obligations.PackageEvents : Prop :=
  ∀ s : State,
    let k := s.subj.ag
    let input (i : Instr) (n : Nat) : Prop := (fget? s.gates 20).isSome = true → (fgetD s.gates 20 {}).mode ≠ 2 →
      Completes i s (fun t => (fgetD t.gates 20 {}).port = (fgetD s.gates 20 {}).port ++ [{ kind := 8, source := n }] ∧
        t = { s with gates := t.gates })
    input .referenceLoss 1 ∧ input .referenceReturn 2 ∧
    ((fgetD s.gates 20 {}).mode = 2 → exec .referenceLoss s = .next s) ∧
    (∀ c, s.refLost = some c → c + 896 < s.cycle → Completes .referenceHoldoverTimeout s (fun t =>
      (∃ n, n % 14 = 0 ∧ c + 896 < n ∧ n ≤ c + 896 + 14 ∧ t.stopReq = some (s.stopReq.elim n (min n))) ∧ t.refLost = none ∧
      t.threads = s.threads ∧ t.mem = s.mem)) ∧
    (s.refLost = none → exec .referenceHoldoverTimeout s = .next s) ∧
    (5 ≤ s.subj.n → s.subj.n ≤ 7 → k < 160 →
      (s.deterministic k = false → (∀ c ∈ clusterTiles k, (s.core c).block = none) → Completes .clusterRatioChange s (fun t =>
        fgetD t.ratios k 7 = s.subj.n ∧ t = { s with ratios := t.ratios })) ∧
      (s.deterministic k = true → Completes .clusterRatioChange s (fun t =>
        t.ratios = s.ratios ∧ t.mgr.log = s.mgr.log ++ [(3, k)] ∧ t.threads = s.threads ∧ t.mem = s.mem))) ∧
    (∀ j, k < 1280 → 1 ≤ j → s.cycle = 5460 * j + 341 * (k % 16) → fgetD s.refresh k 0 ≤ s.cycle →
      Completes .dramRefresh s (fun t => fgetD t.refresh k 0 = s.cycle + 490 ∧ t = { s with refresh := t.refresh })) ∧
    (k < 1280 → s.subj.n < 131072 → Completes .softError s (fun t =>
      (s.subj.flag = false → s.subj.n ∈ (t.core k).padBad ∧ (t.core k).accBad = (s.core k).accBad) ∧
      (s.subj.flag = true → s.subj.n ∈ (t.core k).accBad ∧ (t.core k).padBad = (s.core k).padBad) ∧
      (t.core k).pad = (s.core k).pad ∧ (t.core k).acc = (s.core k).acc ∧ t.threads = s.threads ∧ t.mem = s.mem)) ∧
    (isDram s.subj.n = true → s.mem.isPoison s.subj.n = false → s.subj.flag = false → Completes .uncorrectableLineError s (fun t =>
      t.mem.isPoison s.subj.n = true ∧ SameBytes s t ∧ t.threads = s.threads)) ∧
    (0 < s.mgr.alerts → s.subj.flag = false → s.deterministic k = false → 5 ≤ s.subj.n → s.subj.n < fgetD s.ratios k 7 →
      (∀ c ∈ clusterTiles k, (s.core c).block = none) → Completes .powerThermalAlert s (fun t =>
        (s.subj.n ≠ 7 → fgetD t.ratios k 7 = s.subj.n) ∧ t.mgr.alerts = s.mgr.alerts - 1 ∧ t.threads = s.threads ∧ t.mem = s.mem)) ∧
    (s.boot ≠ .off → s.diag.dumpBuf = 0 → Completes .fatalDump s (fun t =>
      t.boot = .safe ∧ t.diag.state = 2 ∧ t.diag.dumpStatus = 3 ∧ t.threads = s.threads ∧ t.mem = s.mem)) ∧
    (let bs := s.dump
     s.boot ≠ .off → s.diag.dumpBuf ≠ 0 → bs.length ≤ s.diag.dumpBytes.toNat → Completes .fatalDump s (fun t =>
      t.boot = .safe ∧ t.diag.state = 2 ∧ t.diag.dumpStatus = 1 ∧ t.threads = s.threads ∧
      SameBytesOutside s t (2 ^ 49 + s.diag.dumpBuf.toNat) bs.length ∧
      (s.mem.headers = [] → ∀ i, i < bs.length → t.mem.byte (2 ^ 49 + s.diag.dumpBuf.toNat + i) = bs.getD i 0))) ∧
    (s.boot = .step 6 → s.board.peers = true →
      (s.subj.flag = true → s.board.leader = false →
        (∀ ofs, s.mgr.exchange.residual = some ofs → Completes .alignmentExchange s (fun t =>
          t.boot = .step 7 ∧ t.mgr.alignOfs = BitVec.ofInt 32 ofs ∧ t.threads = s.threads ∧ t.mem = s.mem)) ∧
        (s.mgr.exchange.residual = none → exec .alignmentExchange s = .next s)) ∧
      (s.subj.flag = true → s.board.leader = true → s.mgr.exchange.begun = true → s.mgr.exchange.answers ≠ 0 →
        Completes .alignmentExchange s (fun t =>
          t.boot = .step 7 ∧ t.mgr.alignOfs = 0 ∧ t.threads = s.threads ∧ t.mem = s.mem)) ∧
      (s.subj.flag = false → Completes .alignmentExchange s (fun t =>
        t.boot = .step 7 ∧ t.mgr.log = s.mgr.log ++ [(4, 0)] ∧ t.threads = s.threads ∧ t.mem = s.mem))) ∧
    (s.boot = .off → s.subj.flag = true → Completes .powerUp s (fun t => t = { s with boot := .step 1 })) ∧
    (s.boot = .step 3 → Completes .powerUp s (fun t =>
      t.boot = (if s.subj.flag then .step 4 else .safe) ∧ (s.subj.flag = false → t.diag.state = 1) ∧ t.mem = s.mem)) ∧
    (s.boot = .step 7 → Completes .powerUp s (fun t =>
      t = { s with boot := .step 8, cycle := 0, gates := t.gates })) ∧
    (∀ p ivec, s.boot = .step 8 → s.board.plots = [(p, ivec)] → Completes .powerUp s (fun t =>
      t.boot = .ready ∧ (t.thread (sysKey p.id)).pc = ivec ∧ (t.thread (sysKey p.id)).sys.smode = 1 ∧
      (t.thread (sysKey p.id)).sys.ien = 0 ∧ (∀ r, (t.thread (sysKey p.id)).sreg r = 0) ∧ SameBytes s t))

/-- R349–R352, R354, R355: a gate admits at most one arrival a cycle, and in record mode logs it in the cycle; its control block
takes the writes that Table 17.1 allows; an outbound transaction leaves, in record mode with its digest, in replay compared
with it; a replay skips the entries from before its start, injects each at its cycle, and asks for a stop before an entry that
cannot be. Registers of agents do not change; a migration image sets the counters of its function (R368); a request of another
endpoint is not supported (R403), and a completion brings the bytes that a read of host memory has asked for (R407). (That a replay
runs from the log's head to its tail is log entry 88, how a migration image enters is 103, how a host request and a completion are
told apart is 34, and how reads wait for their answers is 100.) -/
def Obligations.Gates : Prop :=
  ∀ (s : State) (g : Gate),
    let k := s.subj.ag
    fget? s.gates k = some g →
    let now (t : State) : Gate := fgetD t.gates k {}
    let restores (a : Arrival) : Prop := a.kind = 8 ∧ a.source = 5
    (∀ i a, g.mode = 0 → s.stopped = false → (s.boot.running = true → g.admittedOnce = true → g.lastAdmit ≠ s.cycle) →
      s.scanPort k g.port 0 [] = some (i, a) → ¬ restores a → Completes .gateAdmission s (fun t =>
        (now t).port = g.port.eraseIdx i ∧ (now t).lastAdmit = s.cycle ∧ (now t).admittedOnce = true ∧ t.threads = s.threads ∧
        t.cores = s.cores ∧ (a.kind ≠ 2 → SameBytes s t))) ∧
    (∀ i a f, k = 20 → g.mode = 0 → s.stopped = false → (s.boot.running = true → g.admittedOnce = true → g.lastAdmit ≠ s.cycle) →
      s.scanPort k g.port 0 [] = some (i, a) → restores a →
      let plot := a.target / 64
      let img := VfImage.ofNumbers (payloadNumbers a.payload)
      (fget? s.plots plot).isSome = true → fget? (s.plot plot).vfs (a.target % 64) = some f → Completes .gateAdmission s (fun t =>
        fget? (t.plot plot).vfs (a.target % 64) = some { f with
          served := fgetD img.own 0x40 f.served, faults := fgetD img.own 0x41 f.faults, missing := img.lacks } ∧
        (∀ key, (t.thread key).pc = (s.thread key).pc ∧ (∀ r, (t.thread key).sreg r = (s.thread key).sreg r) ∧
          (t.thread key).mask = (s.thread key).mask) ∧ SameBytes s t)) ∧
    (∀ i a, k = 0 → g.mode = 0 → s.stopped = false → (s.boot.running = true → g.admittedOnce = true → g.lastAdmit ≠ s.cycle) →
      s.scanPort k g.port 0 [] = some (i, a) →
      (a.fromPeer = true → Completes .gateAdmission s (fun t =>
        (∃ c, (now t).outq = g.outq ++ [c] ∧ c.kind = 2 ∧ c.status = 1 ∧ c.payload = []) ∧ t = { s with gates := t.gates })) ∧
      (∀ q, a.kind = 2 → a.payload ≠ [] → s.answersFor 0 a = some q → q.since = [] → (s.plot q.plot).pair = none →
        Completes .gateAdmission s (fun t =>
          SameBytesOutside s t a.target a.payload.length ∧
          (s.mem.headers = [] → ∀ j, j < a.payload.length → t.mem.byte (a.target + j) = a.payload.getD j 0) ∧
          (s.asks = [q] → t.asks = [{ q with answered := true }]) ∧ t.threads = s.threads))) ∧
    (g.mode = 1 → s.stopped = false → s.boot.running = true → g.admittedOnce = true → g.lastAdmit = s.cycle →
      Completes .gateAdmission s (fun t =>
        (now t).port = g.port ∧ (now t).logHead = g.logHead ∧ t = { s with gates := t.gates })) ∧
    (∀ i a, g.mode = 1 → s.stopped = false → (s.boot.running = true → g.admittedOnce = true → g.lastAdmit ≠ s.cycle) →
      s.scanPort k g.port 0 [] = some (i, a) → a.payload.length ≤ 64 → (g.logHead - g.logTail).toNat < g.logCap.toNat →
      a.kind ≠ 2 → ¬ restores a →
      let slot := g.logBase.toNat + 96 * (g.logHead.toNat % g.logCap.toNat)
      Completes .gateAdmission s (fun t =>
        (now t).logHead = g.logHead + 1 ∧ (now t).port = g.port.eraseIdx i ∧ SameBytesOutside s t slot 96 ∧
        (s.mem.headers = [] → t.mem.num slot 6 = s.cycle % 2 ^ 48 ∧ t.mem.byte (slot + 6) = BitVec.ofNat 8 a.kind) ∧
        t.threads = s.threads)) ∧
    (let v := s.subj.value
     let free : Prop := s.stopped = true ∨ s.boot.running = false
     let sets (h : Gate) : Prop := Completes .gateControlWrite s (fun t => now t = h ∧ t = { s with gates := t.gates })
     (s.subj.n = 0 → free → v.toNat ≤ 2 →
       sets { g with mode := v.setWidth 8, replaying := g.replaying && decide (v.toNat = 2) }) ∧
     (s.subj.n = 0 → ¬ free ∨ 2 < v.toNat → sets g) ∧
     (s.subj.n = 8 → v.toNat % 4096 = 0 → sets { g with logBase := v }) ∧
     (s.subj.n = 8 → v.toNat % 4096 ≠ 0 → sets g) ∧
     (∀ j, s.subj.n = 0x10 → j ≤ 20 → v = BitVec.ofNat 64 (2 ^ j) → sets { g with logCap := BitVec.ofNat 32 (2 ^ j) }) ∧
     (s.subj.n = 0x18 → sets { g with logTail := v.setWidth 32 }) ∧
     (s.subj.n = 0x20 → v.toNat % 256 = 0 → sets { g with payBase := v }) ∧
     (s.subj.n = 0x28 → v.toNat % 256 = 0 → sets { g with payCap := v.setWidth 32 }) ∧
     (s.subj.n = 0x30 → sets { g with payTail := v.setWidth 32 }) ∧
     (s.subj.n = 0x40 → v.toNat % 4096 = 0 → sets { g with outBase := v }) ∧
     (∀ j, s.subj.n = 0x48 → j ≤ 20 → v = BitVec.ofNat 64 (2 ^ j) → sets { g with outCap := BitVec.ofNat 32 (2 ^ j) }) ∧
     (s.subj.n = 0x50 → sets { g with outTail := v.setWidth 32 })) ∧
    (∀ a rest, g.outq = a :: rest → s.stopped = false →
      let slot := g.outBase.toNat + 32 * (g.outHead.toNat % g.outCap.toNat)
      (g.mode = 0 → Completes .outboundTransaction s (fun t =>
        now t = { g with outq := rest } ∧ t = { s with gates := t.gates })) ∧
      (g.mode = 1 → (g.outHead - g.outTail).toNat < g.outCap.toNat → Completes .outboundTransaction s (fun t =>
        (now t).outq = rest ∧ (now t).outHead = g.outHead + 1 ∧ SameBytesOutside s t slot 32 ∧
        (s.mem.headers = [] → t.mem.num slot 6 = s.cycle % 2 ^ 48 ∧ t.mem.num (slot + 16) 8 = a.target % 2 ^ 64) ∧
        t.threads = s.threads)) ∧
      (g.mode = 2 → Completes .outboundTransaction s (fun t =>
        (now t).outq = rest ∧ (now t).digestAt = g.digestAt + 1 ∧ (g.digestAt = g.outTail → (now t).mismatch.getLsbD 63 = true) ∧
        t.threads = s.threads ∧ t.mem = s.mem))) ∧
    (g.mode = 2 → s.stopped = false → g.replaying = true →
      let e := s.entryAt k
      let skip : Prop := g.admittedOnce = false ∧ e.1 < g.lastCycle
      let good : Prop := g.readAt ≠ g.logTail ∧ g.broken ≠ some g.readAt ∧ (g.broken = none → s.brokenAt k = none)
      (good → skip → Completes .replayInject s (fun t =>
        now t = { g with readAt := g.readAt + 1 } ∧ t = { s with gates := t.gates })) ∧
      (good → ¬ skip → s.cycle ≠ e.1 → exec .replayInject s = .next s) ∧
      (good → ¬ skip → s.cycle = e.1 → ¬ restores e.2 → Completes .replayInject s (fun t =>
        (now t).readAt = g.readAt + 1 ∧ (now t).lastCycle = e.1 ∧ t.threads = s.threads ∧ (e.2.kind ≠ 2 → SameBytes s t))) ∧
      (g.broken = none → g.admittedOnce = true → g.logTail = g.readAt + 1 → e.1 ≤ g.lastCycle ∨ e.1 < s.cycle →
        Completes .replayInject s (fun t =>
          t.stopReq = some (s.stopReq.elim (e.1 - 1) (min (e.1 - 1))) ∧ t.events = s.events ++ [(k, 1)] ∧
          (now t).broken = some g.readAt ∧ t.threads = s.threads ∧ t.mem = s.mem)))

/-- R331, R332, R374, R404–R406, R410, R412–R414: a host request moves one run of its bytes through its function's window; an
interface is locked by a live session, with its plot's two measurements, started and stopped, by messages that gate 0 has
admitted; a changed BAR moves its interface to ERROR, and a configuration request before the link is up gets Retry Status; the
manager answers SPDM messages; a CXL response brings the line that was asked for, and one with poison marks it; a Brixvex flit
that its link's key opens goes on to its port, or is a message of the alignment exchange, and another is logged; a doorbell moves
a queue's tail and a completion entry is written. (The places of registers in configuration space, the codes of messages and the
layout of flits are the model's: log entries 86, 91, 93 and 102; what a response carries is 57, the codes of the manager's log are
54, and the layout of storage entries is 55.) -/
def Obligations.HostAndPeers : Prop :=
  ∀ s : State,
    let p := s.subj.ag
    let f := s.subj.n
    (∀ r x, s.hostReqs.find? (fun r => r.plot == f) = some r → r.hold = none →
      let va := (fgetD (s.plot f).vfs r.vf {}).winVa.toNat + r.offset + r.done
      let n := min (r.size - r.done) (4096 - va % 4096)
      s.unitReach f r.vf va (if r.write then 5 else 4) 0x7FE (if r.write then .store else .load) none [portTlb f] = .ok x →
      s.mem.escapesRun portParty x.obj r.write x.pa n = false →
      (r.write = true → s.refreshing x.pa = false → s.waiters = [] → s.ringsMoving f = false → Completes .hostWindowRequest s (fun t =>
        SameBytesOutside s t x.pa n ∧
        (s.mem.headers = [] → ∀ i, i < n → r.done + i < r.data.length → t.mem.byte (x.pa + i) = r.data.getD (r.done + i) 0) ∧
        t.hostReqs.length = s.hostReqs.length - (if r.size ≤ r.done + n then 1 else 0))) ∧
      (r.write = false → s.portOf x.pa = none → (linesOf x.pa n).find? s.mem.isPoison = none → r.done + n < r.size → Completes .hostWindowRequest s (fun t =>
        t.hostReqs.find? (fun r => r.plot == f) = some { r with done := r.done + n, data := r.data ++ s.mem.bytes x.pa n } ∧
        SameBytes s t ∧ t.threads = s.threads))) ∧
    (∀ (x : Nat × Arrival) (h : HostFn), s.fnOf x.2 = some h → h.enable = true → (s.plot h.plot).pair = none → s.boot ≠ .safe →
      let v : Vf := fgetD (s.plot h.plot).vfs h.vf {}
      let becomes (i : Instr) (w : Vf) : Prop := Completes i s (fun t =>
        fgetD (t.plot h.plot).vfs h.vf {} = w ∧ t.entered = s.entered.erase x ∧ (∀ q, q ≠ h.plot → t.plot q = s.plot q) ∧
        t.threads = s.threads ∧ t.mem = s.mem)
      (s.enteredBy (messageOf mLock) = some x →
        (v.tdisp = .unlocked → s.mgr.sessions.contains x.2.number = true → becomes .lockInterface { v with
          tdisp := .locked, session := some x.2.number
          bound := [s.measurement (0x10 + h.plot), s.measurement (0x40 + h.plot)] }) ∧
        (v.tdisp ≠ .unlocked ∨ s.mgr.sessions.contains x.2.number = false → becomes .lockInterface v)) ∧
      (s.enteredBy (messageOf mStart) = some x → becomes .startInterface (if v.tdisp = .locked then { v with tdisp := .run } else v)) ∧
      (s.enteredBy (messageOf mStop) = some x → becomes .stopInterface { v with tdisp := .unlocked, session := none, bound := [] }) ∧
      (s.enteredBy (fun gate a => gate == 0 && a.kind == 3) = some x → s.boot = .ready → x.2.target % 4096 = 0x18 →
        x.2.payload ≠ [] →
        let bus := leNat x.2.payload / 2 ^ v.winBits * 2 ^ v.winBits
        becomes .configurationRequest (if bus = v.bus then v else { v with bus := bus, tdisp := .error }))) ∧
    (∀ x, s.boot = .safe → s.enteredBy (messageOf mLock) = some x → Completes .lockInterface s (fun t =>
      t = { s with entered := s.entered.erase x })) ∧
    (s.enteredBy (messageOf mLock) = none → exec .lockInterface s = .next s) ∧
    (s.enteredBy (messageOf mStart) = none → exec .startInterface s = .next s) ∧
    (∀ x g, s.enteredBy (fun gate a => gate == 0 && a.kind == 3) = some x → s.linkUp = false → fget? s.gates 0 = some g →
      Completes .configurationRequest s (fun t => t.plots = s.plots ∧ t.threads = s.threads ∧ t.mem = s.mem ∧
        ∃ a, fget? t.gates 0 = some { g with outq := g.outq ++ [a] } ∧ a.kind = 2 ∧ a.status = 2 ∧ a.payload = [])) ∧
    (∀ x, s.enteredBy (fun gate a => gate == 0 && a.kind == 4 && decide (mSpdm ≤ a.code)) = some x → s.boot = .ready →
      (x.2.code = mSpdm + 1 → Completes .spdmRequest s (fun t =>
        t.mgr.sessions.contains x.2.number = true ∧ t.threads = s.threads ∧ t.plots = s.plots ∧ t.mem = s.mem)) ∧
      (∀ g, x.2.code = mSpdm → fget? s.gates 0 = some g → Completes .spdmRequest s (fun t =>
        (∃ a sig, fget? t.gates 0 = some { g with outq := g.outq ++ [a] } ∧ a.kind = 4 ∧
          a.payload = s.measurement x.2.number ++ sig) ∧ t.threads = s.threads ∧ t.plots = s.plots ∧ t.mem = s.mem))) ∧
    (s.boot ≠ .ready → exec .spdmRequest s = .next s) ∧
    (∀ x, s.enteredBy (fun gate a => decide (1 ≤ gate ∧ gate ≤ 3) && a.kind == 5) = some x → isCxl x.2.target = true →
      (∀ q, (s.plot q).pair = none) →
      (x.2.payload.length < 257 → Completes .cxlResponse s (fun t =>
        t.mem.isPoison x.2.target = (x.2.poisoned || s.mem.isPoison x.2.target) ∧ SameBytes s t ∧ t.threads = s.threads)) ∧
      (∀ q, 257 ≤ x.2.payload.length → s.answersFor x.1 x.2 = some q → q.since = [] →
        let bs := s.responseText (s.arrivalPlot x.1 x.2) x.2
        Completes .cxlResponse s (fun t =>
          SameBytesOutside s t (lineOf x.2.target) bs.length ∧
          (s.mem.headers = [] → ∀ j, j < bs.length → t.mem.byte (lineOf x.2.target + j) = bs.getD j 0) ∧
          (x.2.poisoned = true → t.mem.isPoison x.2.target = true) ∧
          (s.asks = [q] → t.asks = [{ q with answered := true }]) ∧ t.threads = s.threads))) ∧
    (∀ a rest, (s.gate p).flits = a :: rest → (s.gate p).mode ≠ 2 →
      (∀ y b, s.openFlit p a = some (y, b) → Completes .brixvexFlit s (fun t =>
        let e := s.mgr.exchange
        (t.gate p).flits = rest ∧ (t.gate p).flitSeq = (s.gate p).flitSeq + 1 ∧
        (t.gate p).port = (if y = flitWrite then (s.gate p).port ++ [b] else (s.gate p).port) ∧
        (y = flitWrite ∨ s.boot ≠ .step 6 → t.mgr = s.mgr) ∧
        (s.boot = .step 6 →
          (y = flitSync → t.mgr.exchange = { e with syncGot := some a.target }) ∧
          (y = flitDelayReq → t.mgr.exchange = { e with answers := e.answers + 1 } ∧ ∃ c, (t.gate p).outq = (s.gate p).outq ++ [c]) ∧
          (y = flitDelayResp → t.mgr.exchange = { e with delayGot := some (leNat b.payload) }) ∧
          (y = flitRelease → t.mgr.exchange = { e with release := some (leNat b.payload) })) ∧
        t.threads = s.threads ∧ t.mem = s.mem)) ∧
      (s.openFlit p a = none → Completes .brixvexFlit s (fun t =>
        (t.gate p).flits = rest ∧ (t.gate p).port = (s.gate p).port ∧ t.mgr.log = s.mgr.log ++ [(8, p)] ∧ t.threads = s.threads ∧
        t.mem = s.mem))) ∧
    (∀ a rest, (s.gate p).flits = a :: rest → (s.gate p).mode = 2 → Completes .brixvexFlit s (fun t =>
      (t.gate p).flits = rest ∧ (t.gate p).port = (s.gate p).port ∧ t = { s with gates := t.gates })) ∧
    (∀ q, fget? s.nvme (nvmeKey p f) = some q →
      (s.netMode p ≠ .brixvex → f < 16 → s.subj.m < q.size → Completes .nvmeDoorbell s (fun t =>
        fget? t.nvme (nvmeKey p f) = some { q with tail := s.subj.m } ∧ t = { s with nvme := t.nvme })) ∧
      (∀ e rest x, f < 64 → q.done = e :: rest → e.1.length = 2 →
        s.unitReach p 64 (q.cqBase + 16 * q.cqTail) 5 0x7FE .store q.hold [portTlb p] = .ok x →
        s.mem.escapesRun portParty x.obj true x.pa 16 = false → s.refreshing x.pa = false → s.waiters = [] →
        Completes .nvmeCompletion s (fun t =>
          SameBytesOutside s t x.pa 16 ∧
          (s.mem.headers = [] → t.mem.byte (x.pa + 12) = e.1.getD 0 0 ∧ t.mem.byte (x.pa + 13) = e.1.getD 1 0 ∧
            t.mem.num (x.pa + 14) 2 = ((if q.phase then 1 else 0) + 2 * e.2) % 65536) ∧
          (∃ r, fget? t.nvme (nvmeKey p f) = some r ∧ r.done = rest))) ∧
      (q.done = [] → q.cmd = none → q.head = q.tail → exec .nvmeCompletion s = .next s))

/-- Each of the instructions named completes with its own effect where nothing stops it: the barriers (R173, R174), `idem` (R296),
the frames and clusters of a plot (R323, R324, R328, R329), `wfe` and `iret` (R333), tile records (R373), `trig` (R372) and `cnt`
(R367). The frames of these instructions are stated above. -/
def Claims.InstructionsPerform : Prop :=
  ∀ (s : State) (d a b : SReg) (lw : Fin 7) (lh : Fin 5) (tile : TileReg) (n : Fin 16),
    let c := coreOfKey s.cur
    let me := s.th.plot
    let p := s.plot me
    let x := (s.th.sreg a).toNat
    let y := (s.th.sreg b).toNat
    let on (t : State) : Prop := (t.thread s.cur).pc = s.th.pc + 4
    (s.Free notSprout [] → isSysKey s.cur = false →
      (s.th.wait = .none → FenceClear s true .b →
        Completes .bsync s (fun t => (t.thread s.cur).wait = .bsync ∧ (t.thread s.cur).bsyncs = s.th.bsyncs + 1)) ∧
      (s.th.wait = .bsyncDone → Completes .bsync s on) ∧
      (∀ k, (s.core c).block = some k → k.holdsRect c (2 ^ lw.val) (2 ^ lh.val) = true →
        (s.th.wait = .none → FenceClear s true .p →
          (∀ q ∈ s.launchKeys c, s.clashAt c (s.th.rsyncs + 1) (2 ^ lw.val) (2 ^ lh.val) q = false) →
          Completes (.rsync lw lh) s (fun t =>
            (t.thread s.cur).wait = .rsync (2 ^ lw.val) (2 ^ lh.val) ∧ (t.thread s.cur).rsyncs = s.th.rsyncs + 1)) ∧
        (s.th.wait = .rsyncDone → Completes (.rsync lw lh) s on)) ∧
      Completes .idem s (fun t => on t ∧ ∃ r, (t.thread s.cur).region = some r ∧ r.start = s.th.pc + 4 ∧ r.mask = s.th.mask)) ∧
    (Privileged s [a] → s.th.wait = .none → FenceClear s true .p → x < 2 ^ 52 → x % 4096 = 0 → p.owns x 4096 = true →
      p.inScrub x 4096 = false → (∀ f ∈ s.cleanPages p, f < x ∨ x + 4096 ≤ f) →
      Completes (.pgfree a) s (fun t => on t ∧ (t.plot me).scrub = p.scrub ++ [⟨x, 0⟩])) ∧
    (∀ f, Privileged s [d] → s.th.sreg d = 0x7FF00 → (framesIn p (s.cleanPages p) 0).min? = some f →
      (framesIn p (s.cleanPages p) 0).filter (fun q => homeOf s.mem.cxlSize q == 0x7FF) = [] →
      Completes (.pgalloc d) s (fun t => on t ∧ (t.thread s.cur).sreg d = BitVec.ofNat 64 f)) ∧
    (Privileged s [a, b] → x < 256 → y / 64 % 2 ^ 26 = 0 → 65536 ≤ y / 2 ^ 32 → y % 64 ≠ me → p.clusters.contains x = true →
      (∀ l ∈ p.lends, l.cluster ≠ x) → s.clusterIdle x = true → (s.plot (y % 64)).clusters.any (clusterEdge x) = true →
      s.board.lendOk.contains (me, y % 64) = true → Completes (.lend a b) s (fun t =>
        on t ∧ (t.plot me).lends = p.lends ++ [{ cluster := x, borrower := y % 64, limit := y / 2 ^ 32 }])) ∧
    (∀ l, Privileged s [a, b] → p.lends = [l] → l.cluster = x → l.borrower ≠ me → l.back = true → Completes (.recall a) s (fun t => on t ∧ (t.plot me).lends = [])) ∧
    (Privileged s [] → s.th.sys.ipend &&& s.th.sys.ien ≠ 0 → Completes .wfe s on) ∧
    (Privileged s [] → s.th.sys.ipc.toNat % 4 = 0 → Completes .iret s (fun t =>
      (t.thread s.cur).pc = s.th.sys.ipc ∧ (t.thread s.cur).sys.smode = s.th.sys.imode)) ∧
    (∀ k, s.Free groupOnly [a] → s.blockOf s.cur = some k → tile.val < k.launch.tiles →
      Completes (.tileOpen tile a) s (fun t => on t ∧ ∃ k', t.blockOf s.cur = some k' ∧
        fget? k'.recs tile.val = some { label := s.th.sreg a, opened := s.cycle, group := ctxOfKey s.cur, place := c }) ∧
      ((s.core c).mops = [] → fget? k.recs tile.val = none → Completes (.tileClose tile) s on) ∧
      (∀ r, (s.core c).mops = [] → fget? k.recs tile.val = some r → p.trec.room = true → Completes (.tileClose tile) s (fun t =>
        on t ∧ (t.plot me).trec.head = p.trec.head + 1))) ∧
    (let w := fgetD p.trig n.val 0
     s.Free notSprout [] →
       (w.toNat % 16 ≠ 1 → Completes (.trig n) s on) ∧
       (w.toNat % 16 = 1 → w.getLsbD 8 = false → Completes (.trig n) s (fun t =>
         on t ∧ (fgetD (t.plot me).trig n.val 0).getLsbD 9 = true))) ∧
    (s.Free anyone [d] → isSysKey s.cur = true → (fgetD p.vfs p.vfCur {}).missing = [] → Completes (.cnt d 0) s (fun t =>
      on t ∧ (t.thread s.cur).sreg d = BitVec.ofNat 64 (fgetD s.th.counters 0 0)))

/-- Each of the happenings named that touch agents and their blocks completes with its own effect: barriers (R173, R174), parity
errors (R297), migration (R189), the scrubber (R322), recalls (R329), interrupts (R311), and the queue of launches (R272–R277).
(That a moved block keeps its BLOCK.ID is log entry 65, DEDUCED; the place of a spilled record is log entry 38, DESIGN CHOICE.)
-/
def Claims.AgentHappeningsPerform : Prop :=
  ∀ s : State,
    let k := s.subj.ag
    let x := s.thread k
    let p := s.plot k
    let c := coreOfKey k
    ((∀ q, (s.plot q).cksCtl = 0) → k ∈ s.groupKeys c → x.wait = .bsync →
      (∀ j ∈ s.groupKeys c, s.isGone j = true ∨ x.bsyncs ≤ (s.thread j).bsyncs) →
      Completes .barrierComplete s (fun t => (t.thread k).wait = .bsyncDone)) ∧
    (∀ r, (fget? s.threads k).isSome = true → x.trap = none → x.status = .running → x.win.any (·.ref) = false → x.spec = none →
      x.region = some r → Completes .registerParityError s (fun t =>
        (t.thread k).pc = r.start ∧ (t.thread k).mask = r.mask ∧ (t.thread k).region = none)) ∧
    (∀ b, (s.core k).block = some b → (s.usable b.launch.plot).contains (clusterOf s.subj.n) = true →
      s.latencyOk b.launch.plot b.launch s.subj.n = true → (s.core s.subj.n).block = none → k ≠ s.subj.n →
      s.subj.flag = true → s.coreDrained k = true → Completes .blockMigration s (fun t =>
        (t.core k).block = none ∧ ∃ y, (t.core s.subj.n).block = some y ∧ y.launch = b.launch ∧ y.blockId = b.blockId)) ∧
    (∀ q rest, p.scrub = q :: rest → s.scrubDie q = s.subj.n → Completes .scrubFrame s (fun t => (t.plot k).scrub = rest)) ∧
    (∀ l j b, p.lends.find? (fun l => !l.back && l.recalling.elim false (fun t => decide (t ≤ s.cycle))) = some l →
      (clusterTiles l.cluster).filter (fun c => !s.coreDrained c && (s.core c).block.elim false Block.lives) = [j] →
      (∀ q ∈ clusterTiles l.cluster, (s.core q).parked = []) → (s.core j).block = some b →
      Completes .recallDeadline s (fun t =>
        ∀ y, (t.core j).block = some y → ∀ g, g < 16 → g < b.launch.groups → y.gone.contains g = true)) ∧
    (isSysKey k = true → (fget? s.threads k).isSome = true → x.sys.smode = 3 → x.wait = .none → x.status = .running →
      x.win.any (·.ref) = false → x.spec = none → (x.sys.ipend &&& x.sys.ien).getLsbD 0 = true →
      Completes .interruptEntry s (fun t =>
        (t.thread k).pc = x.sys.ivec ∧ (t.thread k).sys.ipc = x.pc ∧ (t.thread k).sys.icause = 0x30 ∧
        (t.thread k).sys.smode = 1 ∧ (t.thread k).sys.imode = 3)) ∧
    (∀ l, p.waiting = [l] → p.spilled = [] → l.level < 7 → l.since + 2 ^ 20 ≤ s.cycle → Completes .launchAging s (fun t =>
      (t.plot k).waiting = [{ l with level := l.level + 1, since := l.since + 2 ^ 20 }])) ∧
    (∀ l, p.levelCount p.vfCur s.subj.n < 64 → p.spilled = [l] → l.vf = p.vfCur → l.level = s.subj.n → p.owed = [] →
      Completes .overflowRefill s (fun t =>
        (t.plot k).spilled = [] ∧ ∃ q, (t.plot k).waiting = p.waiting ++ [q] ∧ q.seq = l.seq)) ∧
    (∀ l o j, p.stopped = false → p.pair = none → p.candidates.find? p.eligible = some l →
      l.origins.find? (fun o => s.qualifies k l o) = some o → l.head = false → l.tilesAt o = [j] → (s.core j).block = none →
      (s.core j).parked = [] → Completes .launchPlacement s (fun t =>
        (∃ b, (t.core j).block = some b ∧ b.launch = l ∧ b.blockId = 0) ∧ (t.plot k).running = p.running ++ [{ l with head := false }])) ∧
    (∀ l, p.running = [l] → l.seq.toNat = s.subj.n → s.subj.flag = false → l.copy = false → s.launchLive l = false →
      l.compKind = 0 → Completes .launchCompletion s (fun t => (t.plot k).running = []))

/-- Each of the happenings named that concern the package completes with its own effect: the sampler (R369), stops, releases and
images (R357–R361), the gates (R349–R352, R355), and what befalls the package (R346–R348, R374, R377, R414, R415, R417, R418).
(The image as a field of the machine is log entry 53, the value of ALIGN.OFS is 102, the numbers of board inputs are 9, and a
test that bring-up makes is the flag by 47.) -/
def Claims.PackageHappeningsPerform : Prop :=
  ∀ s : State,
    let k := s.subj.ag
    let p := s.plot k
    (let j := p.smpPeriod.toNat
     p.trcState = 1 → j ≠ 0 → s.cycle % 2 ^ j = 0 → p.smpLast ≠ s.cycle →
      (∀ c ∈ (s.usable k).flatMap clusterTiles, fget? s.threads (groupKey c (s.cycle / 2 ^ j % 32)) = none) →
      Completes .samplerTick s (fun t => (t.plot k).smpLast = s.cycle)) ∧
    ((fget? s.plots k).isSome = true → p.stopNow = true ∨ p.stopAt.toNat ≤ s.cycle → Completes .plotStop s (fun t => (t.plot k).stopped = true)) ∧
    (s.stopped = false → s.pkgStopAt.toNat ≤ s.cycle → s.board.imageBase = none → s.safeAfterStop = none →
      Completes .packageStop s (fun t => t.stopped = true ∧ ∃ i, t.image = some i ∧ i.cycle = s.cycle)) ∧
    (s.stopped = true → s.boot ≠ .safe → Completes .packageRelease s (fun t => t.stopped = false)) ∧
    (∀ i, s.image = some i → s.boot = .ready → i.digest = s.mgr.cfgDigest → i.nonce = s.mgr.bootNonce →
      Completes .imageRestore s (fun t => t.cycle = i.cycle + 1 ∧ t.plots = i.mach.plots ∧
        ∀ q, (t.thread q).pc = (fgetD i.mach.threads q {}).pc)) ∧
    ((fget? s.gates 20).isSome = true → (fgetD s.gates 20 {}).mode ≠ 2 →
      let came (i : Instr) (n : Nat) : Prop := Completes i s (fun t =>
        (fgetD t.gates 20 {}).port = (fgetD s.gates 20 {}).port ++ [{ kind := 8, source := n }])
      came .referenceLoss 1 ∧ came .referenceReturn 2) ∧
    (∀ c, s.refLost = some c → c + 896 < s.cycle → Completes .referenceHoldoverTimeout s (fun t =>
      t.refLost = none ∧ t.stopReq.isSome = true)) ∧
    (5 ≤ s.subj.n → s.subj.n ≤ 7 → k < 160 → s.deterministic k = false → (∀ c ∈ clusterTiles k, (s.core c).block = none) →
      Completes .clusterRatioChange s (fun t => fgetD t.ratios k 7 = s.subj.n)) ∧
    (∀ j, k < 1280 → 1 ≤ j → s.cycle = 5460 * j + 341 * (k % 16) → fgetD s.refresh k 0 ≤ s.cycle →
      Completes .dramRefresh s (fun t => fgetD t.refresh k 0 = s.cycle + 490)) ∧
    (k < 1280 → s.subj.n < 131072 → s.subj.flag = false → Completes .softError s (fun t => s.subj.n ∈ (t.core k).padBad)) ∧
    (isDram s.subj.n = true → s.mem.isPoison s.subj.n = false → s.subj.flag = false →
      Completes .uncorrectableLineError s (fun t => t.mem.isPoison s.subj.n = true)) ∧
    (0 < s.mgr.alerts → s.subj.flag = false → s.deterministic k = false → 5 ≤ s.subj.n → s.subj.n < fgetD s.ratios k 7 →
      s.subj.n ≠ 7 → (∀ c ∈ clusterTiles k, (s.core c).block = none) → Completes .powerThermalAlert s (fun t =>
        fgetD t.ratios k 7 = s.subj.n ∧ t.mgr.alerts = s.mgr.alerts - 1)) ∧
    (s.boot ≠ .off → s.diag.dumpBuf = 0 → Completes .fatalDump s (fun t =>
      t.boot = .safe ∧ t.diag.state = 2 ∧ t.diag.dumpStatus = 3)) ∧
    (∀ ofs, s.boot = .step 6 → s.board.peers = true → s.subj.flag = true → s.board.leader = false →
      s.mgr.exchange.residual = some ofs → Completes .alignmentExchange s (fun t =>
        t.boot = .step 7 ∧ t.mgr.alignOfs = BitVec.ofInt 32 ofs)) ∧
    (s.boot = .off → s.subj.flag = true → Completes .powerUp s (fun t => t.boot = .step 1)) ∧
    (∀ g, fget? s.gates k = some g →
      (∀ i a, g.mode = 0 → s.stopped = false → (s.boot.running = true → g.admittedOnce = true → g.lastAdmit ≠ s.cycle) →
        s.scanPort k g.port 0 [] = some (i, a) →
        Completes .gateAdmission s (fun t => (fgetD t.gates k {}).port = g.port.eraseIdx i ∧
          (fgetD t.gates k {}).lastAdmit = s.cycle)) ∧
      (s.subj.n = 0x18 → Completes .gateControlWrite s (fun t => (fgetD t.gates k {}).logTail = s.subj.value.setWidth 32)) ∧
      (∀ a rest, g.outq = a :: rest → s.stopped = false → g.mode = 0 → Completes .outboundTransaction s (fun t =>
        (fgetD t.gates k {}).outq = rest)) ∧
      (g.mode = 2 → s.stopped = false → g.replaying = true → g.readAt ≠ g.logTail → g.broken ≠ some g.readAt →
        (g.broken = none → s.brokenAt k = none) → (g.admittedOnce = false → g.lastCycle ≤ (s.entryAt k).1) →
        s.cycle = (s.entryAt k).1 → Completes .replayInject s (fun t =>
          (fgetD t.gates k {}).readAt = g.readAt + 1 ∧ (fgetD t.gates k {}).lastCycle = s.cycle)))

/-- Forms that complete, each with its own effect, under conditions on the state and the operands alone. -/
def Obligations.FormsComplete : Prop :=
  Claims.InstructionsPerform ∧ Claims.AgentHappeningsPerform ∧ Claims.PackageHappeningsPerform

/-! ### The step, the encoding, and reset -/

/-- R18, R29, R30, R51, R53: what stands first in the agenda moves first; with nothing there, the running agent, when it fetches
and no branch before it is unresolved, executes the instruction that the four bytes at its PC decode to, or fetches past it
where it is a branch that waits for its operands; then the issue ports go on. The bytes are those of its core's code cache
where the line is resident, and memory's where it is not; the fetch changes nothing but the mark of R18, the code cache, the TLBs
and the counts of their misses (log entry 6). (The agenda and the order of a cycle are the model's own account of what runs at once: log entry 5.) -/
def Obligations.StepRunsDecoded : Prop :=
  (∀ (s : State) (i : Instr) (x : Subject) (rest : List Move), s.agenda = .exec i x :: rest →
    step s = exec i { s with agenda := rest, subj := x }) ∧
  (∀ (s : State) (u : Slot) (rest : List Move), s.agenda = .happen u :: rest →
    step s = .next (({ s with agenda := rest } : State).happen u)) ∧
  (∀ (s : State) (i : Instr) (x : Xlat) (bs : List Byte), s.agenda = [] → s.fetches s.cur = true → s.brkHits s.cur = [] →
    s.th.spec = none → s.th.pc.toNat % 4 = 0 → x.pa % 4 = 0 → s.xlat s.cur s.th.pc.toNat = .ok x → x.rd = true →
    (∀ cells, fget? (s.core (tlbPlace s.cur)).icache (x.pa - x.pa % 256) = some cells → bs = cellsGet cells x.pa 4) →
    (fget? (s.core (tlbPlace s.cur)).icache (x.pa - x.pa % 256) = none → bs = s.mem.bytes x.pa 4 ∧ s.portOf (lineOf x.pa) = none) →
    decodeScalarBytes bs = .ok i →
    ∃ u : State,
      (u.fetchesPast i = false → step s = onNext (exec i u) (fun t => (s.afterTurn t).turnOver)) ∧
      (u.fetchesPast i = true → step s = .next (s.afterTurn (u.goPast i)).turnOver) ∧
      u = { s with subj := {}, threads := u.threads, cores := u.cores } ∧
      u.th = { s.th with last := false } ∧ SameOthers s u s.cur ∧
      ∀ c, u.core c = { s.core c with tlb := (u.core c).tlb, icache := (u.core c).icache, stats := (u.core c).stats })

/-- Tables 3.1, 3.2, 3.6, 3.9 and 3.12: words written out field by field from the encoding tables, and the instructions they
stand for. -/
def Obligations.DecodedWords : Prop :=
  let scalar (op x y z fn : Nat) : Except DecodeError Instr :=
    decodeScalarBytes (leBytes 4 (op * 2 ^ 25 + x * 2 ^ 19 + y * 2 ^ 13 + z * 2 ^ 7 + fn))
  let true' : Nat := 63 * 2 ^ 45 + 2 ^ 44 + 63 * 2 ^ 38 + 2 ^ 37
  let always : LaneCtl := ⟨⟨63, true⟩, ⟨63, true⟩, false, 0, false⟩
  scalar 0x01 3 1 2 0x00 = .ok (.add 3 1 2) ∧
  scalar 0x01 0 0 0 0x7F = .ok .nop ∧
  scalar 0x10 5 6 63 127 = .ok (.addi 5 6 (-1)) ∧
  scalar 0x26 7 8 0 16 = .ok (.ld64 7 8 16) ∧
  scalar 0x30 1 2 63 126 = .ok (.beq 1 2 (-2)) ∧
  scalar 0x2E 4 5 6 0x21 = .ok (.amoMinS 4 5 6 .relaxed .d) ∧
  scalar 0x40 9 0 0 0x30 = .ok (.sget 9 0x030) ∧
  scalar 0x4A 2 3 6 0 = .ok (.mma 2 3 6) ∧
  scalar 0x50 1 8 0 0x12 = .ok (.tcopyInKey 1 8 2) ∧
  scalar 0x60 0 0 0 0x0F = .ok (.fenceAr .d) ∧
  scalar 0x6B 0 0 0 0x08 = .ok .iret ∧
  scalar 0x01 0 1 0 0x7F = .error .nonzeroUnused ∧
  scalar 0x05 0 0 0 0x00 = .error .unallocatedOp ∧
  decodeLaneBytes (leBytes 12 (0x00C * 2 ^ 86 + 1 * 2 ^ 79 + 2 * 2 ^ 72 + 3 * 2 ^ 65 + true')) =
    .ok (.vadd .i32 1 2 (.vec 3) always) ∧
  decodeLaneBytes (leBytes 12 (0x180 * 2 ^ 86 + 4 * 2 ^ 79 + 5 * 2 ^ 72 + true' + 2 * 2 ^ 26 + 0x3C00)) =
    .ok (.vfadd .f32 .rmode 4 5 (.imm 0x3C00) always) ∧
  decodeHeaderBytes (leBytes 12 (0x3FF * 2 ^ 86 + 0x005 * 2 ^ 74 + 1 * 2 ^ 70 + 15 * 2 ^ 66 + 2 * 2 ^ 58)) =
    .ok ⟨5, some 1, none, 2⟩

/-- R29–R42: decoding and encoding agree. The word of a well-formed instruction, with every operand at every value its
field admits, decodes to that instruction; a word that decodes is the word of the instruction it decodes to, so that no
field it does not use is other than 0; and the same of clause headers. -/
def Obligations.RoundTrip : Prop :=
  (∀ (i : Instr) (bs : List Byte), i.wf = true → encode i = some bs →
    (bs.length = 4 ∧ decodeScalarBytes bs = .ok i) ∨ (bs.length = 12 ∧ decodeLaneBytes bs = .ok i)) ∧
  (∀ (i : Instr) (bs : List Byte), bs.length = 4 → decodeScalarBytes bs = .ok i → i.wf = true ∧ encode i = some bs) ∧
  (∀ (i : Instr) (bs : List Byte), bs.length = 12 → decodeLaneBytes bs = .ok i → i.wf = true ∧ encode i = some bs) ∧
  (∀ h : ClauseHeader, h.wf = true → decodeHeaderBytes (leBytes 12 (encodeHeader h)) = .ok h) ∧
  (∀ (h : ClauseHeader) (bs : List Byte), bs.length = 12 → decodeHeaderBytes bs = .ok h →
    h.wf = true ∧ bs = leBytes 12 (encodeHeader h))

/-- R20, R70: every step keeps memory in its canonical form: addresses strictly rising, and no byte listed that reads as an
unlisted one does. (The form is the model's: log entry 1.) -/
def Obligations.StepKeepsMemory : Prop :=
  ∀ s t : State, s.MemoryCanonical → step s = .next t → t.MemoryCanonical

/-- R27, Tables 4.4, 15.2 and 17.4: the state after reset. CYCLE is 0 and no agent fetches; memory lists nothing and holds
no tag, no poison and every line unclaimed; a plot's, a virtual function's and an agent's registers begin at the values the
tables state. (Where the tables state none, the values are the model's: log entries 1, 2 and 3.) -/
def Obligations.ResetState : Prop :=
  let s := State.reset
  let t := s.thread 0
  let p := s.plot 0
  s.MemoryCanonical ∧ s.cycle = 0 ∧ s.stopped = false ∧ s.agenda = [] ∧ (∀ k, s.fetches k = false) ∧
  (∀ a, s.mem.byte a = 0 ∧ s.mem.tag a = false ∧ s.mem.isPoison a = false ∧ s.mem.sideOf a = 0x7FF) ∧
  (∀ g, g < 21 → (s.gate g).mode = 0) ∧
  (∀ r, t.sreg r = 0) ∧ (∀ q, t.pred q = 0) ∧ (∀ b, (t.bt b).limit = 0) ∧ (∀ key k i, (s.row key k).at i = 0) ∧
  t.mask = BitVec.allOnes 64 ∧ t.mstack = [] ∧ t.mspilled = 0 ∧ t.flags = 0 ∧ t.ftv = 1 ∧ t.fpx = 0 ∧ t.fptrap = 0 ∧
  t.rmode = 0 ∧ t.tcause = 0 ∧ t.tpc = 0 ∧
  t.sys.smode = 1 ∧ t.sys.imode = 0 ∧ t.sys.ivec = 0 ∧ t.sys.ipc = 0 ∧ t.sys.icause = 0 ∧ t.sys.ival = 0 ∧ t.sys.ien = 0 ∧ t.sys.ipend = 0 ∧
  p.stopAt = BitVec.allOnes 64 ∧ p.vfCur = 0 ∧ p.fpost = 0 ∧ p.lcomp = 0 ∧ p.poolBase = 0 ∧ p.waiting = [] ∧ p.running = [] ∧
  (∀ f, let v : Vf := fgetD p.vfs f {}
    v.weight = 1 ∧ v.quantum = 1000 ∧ v.effq = 1000 ∧ v.status = 0 ∧ v.root = 0)
end

