-- ==== Sys2Proof/Laws/Map.lean ====
section
/-! SUPPORT. What the sorted maps and the memory cells give back, and that every write keeps the canonical form. -/

namespace Sys2Proof.Machine

/-! ### Maps -/

theorem fget?_fset {α : Type} (m : FMap α) (k j : Nat) (v : α) :
    fget? (fset m k v) j = if j = k then some v else fget? m j := by
  induction m with
  | nil =>
    by_cases h : j = k
    · subst h; simp [fset, fget?]
    · rw [if_neg h]; simp [fset, fget?, Ne.symm h]
  | cons p m ih =>
    obtain ⟨i, w⟩ := p
    by_cases h : j = k
    · subst h
      simp only [fset]
      split
      · simp [fget?]
      · split
        · simp [fget?]
        · simp only [fget?]; rw [if_neg (by omega), ih]; simp
    · rw [if_neg h] at ih ⊢
      simp only [fset]
      split
      · simp only [fget?]; rw [if_neg (Ne.symm h)]
      · split
        · subst_vars; simp only [fget?]; rw [if_neg (Ne.symm h), if_neg (Ne.symm h)]
        · simp only [fget?, ih]

@[simp] theorem fget?_fset_self {α : Type} (m : FMap α) (k : Nat) (v : α) : fget? (fset m k v) k = some v := by
  simp [fget?_fset]

theorem fget?_fset_ne {α : Type} (m : FMap α) {k j : Nat} (v : α) (h : j ≠ k) : fget? (fset m k v) j = fget? m j := by
  simp [fget?_fset, h]

@[simp] theorem fgetD_fset_self {α : Type} (m : FMap α) (k : Nat) (v d : α) : fgetD (fset m k v) k d = v := by
  simp [fgetD]

theorem fgetD_fset_ne {α : Type} (m : FMap α) {k j : Nat} (v d : α) (h : j ≠ k) :
    fgetD (fset m k v) j d = fgetD m j d := by
  simp [fgetD, fget?_fset_ne m v h]

theorem fgetD_fset {α : Type} (m : FMap α) (k j : Nat) (v d : α) :
    fgetD (fset m k v) j d = if j = k then v else fgetD m j d := by
  split
  · subst_vars; simp
  · exact fgetD_fset_ne m v d ‹_›

theorem fget?_ferase {α : Type} (m : FMap α) (k j : Nat) :
    fget? (ferase m k) j = if j = k then none else fget? m j := by
  induction m with
  | nil => simp [ferase, fget?]
  | cons p m ih =>
    obtain ⟨i, w⟩ := p
    by_cases hi : i = k
    · subst hi
      simp only [ferase, if_true, fget?, ih]
      split
      · rfl
      · rw [if_neg (Ne.symm ‹_›)]
    · simp only [ferase, if_neg hi, fget?, ih]
      split
      · rw [if_neg (by omega)]
      · rfl

@[simp] theorem fget?_ferase_self {α : Type} (m : FMap α) (k : Nat) : fget? (ferase m k) k = none := by
  simp [fget?_ferase]

theorem fget?_ferase_ne {α : Type} (m : FMap α) {k j : Nat} (h : j ≠ k) : fget? (ferase m k) j = fget? m j := by
  simp [fget?_ferase, h]

/-! ### Cells -/

theorem cellsWfFrom_mono {m : List Host.Cell} {a b : Nat} (h : cellsWfFrom b m = true) (hab : a ≤ b) :
    cellsWfFrom a m = true := by
  cases m with
  | nil => rfl
  | cons p m => simp only [cellsWfFrom, Bool.and_eq_true, decide_eq_true_eq] at h ⊢; exact ⟨⟨by omega, h.1.2⟩, h.2⟩

theorem fget?_of_lt {m : List Host.Cell} {b a : Nat} (h : cellsWfFrom b m = true) (hab : a < b) : fget? m a = none := by
  induction m generalizing b with
  | nil => rfl
  | cons p m ih =>
    simp only [cellsWfFrom, Bool.and_eq_true, decide_eq_true_eq] at h
    simp only [fget?]
    rw [if_neg (by omega)]
    exact ih h.2 (by omega)

theorem cellsWfFrom_fset {m : List Host.Cell} {b a : Nat} {v : Byte} (h : cellsWfFrom b m = true) (hab : b ≤ a)
    (hv : v ≠ unlistedByte) : cellsWfFrom b (fset m a v) = true := by
  induction m generalizing b with
  | nil => simp [fset, cellsWfFrom, hab, hv]
  | cons p m ih =>
    obtain ⟨i, w⟩ := p
    simp only [cellsWfFrom, Bool.and_eq_true, decide_eq_true_eq] at h
    simp only [fset]
    split
    · simp only [cellsWfFrom, Bool.and_eq_true, decide_eq_true_eq]
      exact ⟨⟨hab, hv⟩, ⟨by omega, h.1.2⟩, h.2⟩
    · split
      · subst_vars
        simp only [cellsWfFrom, Bool.and_eq_true, decide_eq_true_eq]
        exact ⟨⟨hab, hv⟩, h.2⟩
      · simp only [cellsWfFrom, Bool.and_eq_true, decide_eq_true_eq]
        exact ⟨h.1, ih h.2 (by omega)⟩

theorem cellsWfFrom_ferase {m : List Host.Cell} {b : Nat} (h : cellsWfFrom b m = true) (a : Nat) :
    cellsWfFrom b (ferase m a) = true := by
  induction m generalizing b with
  | nil => rfl
  | cons p m ih =>
    obtain ⟨i, w⟩ := p
    have h' := h
    simp only [cellsWfFrom, Bool.and_eq_true, decide_eq_true_eq] at h
    simp only [ferase]
    split
    · exact cellsWfFrom_mono (ih h.2) (by omega)
    · simp only [cellsWfFrom, Bool.and_eq_true, decide_eq_true_eq]; exact ⟨h.1, ih h.2⟩

/-- Writing a byte keeps the canonical form. -/
theorem cellSet_wf {m : List Host.Cell} (h : Memory.wf m = true) (a : Nat) (b : Byte) : Memory.wf (cellSet m a b) = true := by
  unfold cellSet
  split
  · exact cellsWfFrom_ferase h a
  · exact cellsWfFrom_fset h (Nat.zero_le a) ‹_›

/-- Writing a run of bytes keeps the canonical form. -/
theorem cellsSet_wf {m : List Host.Cell} (h : Memory.wf m = true) (a : Nat) (bs : List Byte) :
    Memory.wf (cellsSet m a bs) = true := by
  induction bs generalizing m a with
  | nil => exact h
  | cons b bs ih => exact ih (cellSet_wf h a b) (a + 1)

@[simp] theorem cellGet_cellSet_self (m : List Host.Cell) (a : Nat) (b : Byte) : cellGet (cellSet m a b) a = b := by
  unfold cellSet cellGet
  split
  · rw [fget?_ferase_self]; simp_all
  · simp

theorem cellGet_cellSet_ne (m : List Host.Cell) {a c : Nat} (b : Byte) (h : c ≠ a) :
    cellGet (cellSet m a b) c = cellGet m c := by
  unfold cellSet cellGet
  split
  · rw [fget?_ferase_ne m h]
  · rw [fget?_fset_ne m b h]

/-- A byte outside the run reads as before. -/
theorem cellGet_cellsSet_outside (m : List Host.Cell) (a : Nat) (bs : List Byte) {c : Nat}
    (h : c < a ∨ a + bs.length ≤ c) : cellGet (cellsSet m a bs) c = cellGet m c := by
  induction bs generalizing m a with
  | nil => rfl
  | cons b bs ih =>
    simp only [List.length_cons] at h
    rw [cellsSet, ih _ _ (by omega), cellGet_cellSet_ne _ _ (by omega)]

/-- A byte of the run reads as written. -/
theorem cellGet_cellsSet_inside (m : List Host.Cell) (a : Nat) (bs : List Byte) (i : Nat)
    (h : i < bs.length) : cellGet (cellsSet m a bs) (a + i) = bs.getD i 0 := by
  induction bs generalizing m a i with
  | nil => simp at h
  | cons b bs ih =>
    rw [cellsSet]
    cases i with
    | zero => rw [cellGet_cellsSet_outside _ _ _ (by omega), Nat.add_zero, cellGet_cellSet_self]; rfl
    | succ i =>
      have := ih (cellSet m a b) (a + 1) i (by simpa using h)
      rw [show a + (i + 1) = a + 1 + i by omega, this]; rfl

/-- Writing a run's own present values changes no byte. -/
theorem cellGet_cellsSet_same (m : List Host.Cell) (a n c : Nat) (bs : List Byte)
    (hl : bs.length = n) (h : ∀ i, i < n → bs.getD i 0 = cellGet m (a + i)) :
    cellGet (cellsSet m a bs) c = cellGet m c := by
  by_cases hc : c < a ∨ a + bs.length ≤ c
  · exact cellGet_cellsSet_outside m a bs hc
  · obtain ⟨i, rfl⟩ : ∃ i, c = a + i := ⟨c - a, by omega⟩
    rw [cellGet_cellsSet_inside m a bs i (by omega), h i (by omega)]

end Sys2Proof.Machine
end

