-- ==== Sys2Proof/Laws/State.lean ====
section
/-! SUPPORT. The fields of the state and of an agent's record after each update of them: one lemma per field and update. -/

namespace Sys2Proof.Machine

/-! ### Agents' records -/

@[simp] theorem State.thread_setThread_self (s : State) (k : Nat) (t : Thread) : (s.setThread k t).thread k = t := by
  simp [State.thread, State.setThread]

theorem State.thread_setThread_ne (s : State) {k j : Nat} (t : Thread) (h : j ≠ k) :
    (s.setThread k t).thread j = s.thread j := by
  simp [State.thread, State.setThread, fgetD_fset_ne _ _ _ h]

@[simp] theorem State.thread_modThread_self (s : State) (k : Nat) (f : Thread → Thread) :
    (s.modThread k f).thread k = f (s.thread k) := by simp [State.modThread]

theorem State.thread_modThread_ne (s : State) {k j : Nat} (f : Thread → Thread) (h : j ≠ k) :
    (s.modThread k f).thread j = s.thread j := s.thread_setThread_ne _ h

@[simp] theorem State.setThread_cur (s : State) (k : Nat) (t : Thread) : (s.setThread k t).cur = s.cur := rfl
@[simp] theorem State.setThread_mem (s : State) (k : Nat) (t : Thread) : (s.setThread k t).mem = s.mem := rfl
@[simp] theorem State.setThread_cores (s : State) (k : Nat) (t : Thread) : (s.setThread k t).cores = s.cores := rfl
@[simp] theorem State.setThread_plots (s : State) (k : Nat) (t : Thread) : (s.setThread k t).plots = s.plots := rfl
@[simp] theorem State.setThread_subj (s : State) (k : Nat) (t : Thread) : (s.setThread k t).subj = s.subj := rfl
@[simp] theorem State.setThread_cycle (s : State) (k : Nat) (t : Thread) : (s.setThread k t).cycle = s.cycle := rfl
@[simp] theorem State.core_setThread (s : State) (k c : Nat) (t : Thread) : (s.setThread k t).core c = s.core c := rfl
@[simp] theorem State.plot_setThread (s : State) (k p : Nat) (t : Thread) : (s.setThread k t).plot p = s.plot p := rfl
@[simp] theorem State.modThread_cur (s : State) (k : Nat) (f : Thread → Thread) : (s.modThread k f).cur = s.cur := rfl
@[simp] theorem State.modThread_mem (s : State) (k : Nat) (f : Thread → Thread) : (s.modThread k f).mem = s.mem := rfl
@[simp] theorem State.modThread_cores (s : State) (k : Nat) (f : Thread → Thread) : (s.modThread k f).cores = s.cores := rfl
@[simp] theorem State.modThread_plots (s : State) (k : Nat) (f : Thread → Thread) : (s.modThread k f).plots = s.plots := rfl
@[simp] theorem State.modThread_subj (s : State) (k : Nat) (f : Thread → Thread) : (s.modThread k f).subj = s.subj := rfl
@[simp] theorem State.modThread_cycle (s : State) (k : Nat) (f : Thread → Thread) : (s.modThread k f).cycle = s.cycle := rfl
@[simp] theorem State.core_modThread (s : State) (k c : Nat) (f : Thread → Thread) : (s.modThread k f).core c = s.core c := rfl
@[simp] theorem State.plot_modThread (s : State) (k p : Nat) (f : Thread → Thread) : (s.modThread k f).plot p = s.plot p := rfl
@[simp] theorem State.blockOf_modThread (s : State) (k j : Nat) (f : Thread → Thread) :
    (s.modThread k f).blockOf j = s.blockOf j := rfl
@[simp] theorem State.launchOf_modThread (s : State) (k j : Nat) (f : Thread → Thread) :
    (s.modThread k f).launchOf j = s.launchOf j := rfl
@[simp] theorem State.th_modThread (s : State) (f : Thread → Thread) : (s.modThread s.cur f).th = f s.th := by
  simp [State.th]

theorem State.modThread_threads (s : State) (k : Nat) (f : Thread → Thread) :
    s.modThread k f = { s with threads := (s.modThread k f).threads } := rfl

theorem State.modThread_modThread (s : State) (k : Nat) (f g : Thread → Thread) :
    ((s.modThread k f).modThread k g).thread k = g (f (s.thread k)) := by simp

/-! ### Cores and plots -/

@[simp] theorem State.core_modCore_self (s : State) (c : Nat) (f : Core → Core) :
    (s.modCore c f).core c = f (s.core c) := by simp [State.core, State.modCore, State.setCore]

theorem State.core_modCore_ne (s : State) {c d : Nat} (f : Core → Core) (h : d ≠ c) :
    (s.modCore c f).core d = s.core d := by
  simp [State.core, State.modCore, State.setCore, fgetD_fset_ne _ _ _ h]

@[simp] theorem State.modCore_cur (s : State) (c : Nat) (f : Core → Core) : (s.modCore c f).cur = s.cur := rfl
@[simp] theorem State.modCore_mem (s : State) (c : Nat) (f : Core → Core) : (s.modCore c f).mem = s.mem := rfl
@[simp] theorem State.modCore_threads (s : State) (c : Nat) (f : Core → Core) : (s.modCore c f).threads = s.threads := rfl
@[simp] theorem State.modCore_plots (s : State) (c : Nat) (f : Core → Core) : (s.modCore c f).plots = s.plots := rfl
@[simp] theorem State.modCore_subj (s : State) (c : Nat) (f : Core → Core) : (s.modCore c f).subj = s.subj := rfl
@[simp] theorem State.thread_modCore (s : State) (c k : Nat) (f : Core → Core) : (s.modCore c f).thread k = s.thread k := rfl
@[simp] theorem State.plot_modCore (s : State) (c p : Nat) (f : Core → Core) : (s.modCore c f).plot p = s.plot p := rfl

@[simp] theorem State.plot_modPlot_self (s : State) (p : Nat) (f : Plot → Plot) :
    (s.modPlot p f).plot p = f (s.plot p) := by simp [State.plot, State.modPlot, State.setPlot]

theorem State.plot_modPlot_ne (s : State) {p q : Nat} (f : Plot → Plot) (h : q ≠ p) :
    (s.modPlot p f).plot q = s.plot q := by
  simp [State.plot, State.modPlot, State.setPlot, fgetD_fset_ne _ _ _ h]

@[simp] theorem State.modPlot_cur (s : State) (p : Nat) (f : Plot → Plot) : (s.modPlot p f).cur = s.cur := rfl
@[simp] theorem State.modPlot_mem (s : State) (p : Nat) (f : Plot → Plot) : (s.modPlot p f).mem = s.mem := rfl
@[simp] theorem State.modPlot_threads (s : State) (p : Nat) (f : Plot → Plot) : (s.modPlot p f).threads = s.threads := rfl
@[simp] theorem State.modPlot_cores (s : State) (p : Nat) (f : Plot → Plot) : (s.modPlot p f).cores = s.cores := rfl
@[simp] theorem State.modPlot_subj (s : State) (p : Nat) (f : Plot → Plot) : (s.modPlot p f).subj = s.subj := rfl
@[simp] theorem State.thread_modPlot (s : State) (p k : Nat) (f : Plot → Plot) : (s.modPlot p f).thread k = s.thread k := rfl
@[simp] theorem State.core_modPlot (s : State) (p c : Nat) (f : Plot → Plot) : (s.modPlot p f).core c = s.core c := rfl

/-! ### Memory -/

@[simp] theorem State.withMem_mem (s : State) (m : Store) : (s.withMem m).mem = m := rfl
@[simp] theorem State.withMem_cur (s : State) (m : Store) : (s.withMem m).cur = s.cur := rfl
@[simp] theorem State.withMem_threads (s : State) (m : Store) : (s.withMem m).threads = s.threads := rfl
@[simp] theorem State.withMem_cores (s : State) (m : Store) : (s.withMem m).cores = s.cores := rfl
@[simp] theorem State.withMem_plots (s : State) (m : Store) : (s.withMem m).plots = s.plots := rfl
@[simp] theorem State.thread_withMem (s : State) (k : Nat) (m : Store) : (s.withMem m).thread k = s.thread k := rfl
@[simp] theorem State.core_withMem (s : State) (c : Nat) (m : Store) : (s.withMem m).core c = s.core c := rfl
@[simp] theorem State.plot_withMem (s : State) (p : Nat) (m : Store) : (s.withMem m).plot p = s.plot p := rfl

/-! ### Writers at a channel (R348) -/

theorem State.leave_of_none {s : State} (h : s.waiters = []) (w : Writer) : s.leave w = s := by
  simp [State.leave, State.hasPlace, h]

theorem State.blocks_of_none {s : State} (h : s.waiters = []) (w : Writer) (pa : Nat) : s.blocks w pa = s.refreshing pa := by
  simp [State.blocks, h, fgetD, fget?]

/-- Where no writer waits, a write to a channel that does not refresh proceeds at once. -/
theorem State.through_free {s : State} {pa : Nat} (h : s.waiters = []) (hr : s.refreshing pa = false) (w : Writer)
    (go : State → Option State) : s.through w pa go = go s := by
  rw [State.through, State.blocks_of_none h, hr, State.leave_of_none h]; rfl

/-! ### Registers of a record -/

@[simp] theorem Thread.sreg_setSreg_self (t : Thread) (r : SReg) (v : Word) : (t.setSreg r v).sreg r = v := by
  simp [Thread.sreg, Thread.setSreg]

theorem Thread.sreg_setSreg_ne (t : Thread) {r q : SReg} (v : Word) (h : q ≠ r) : (t.setSreg r v).sreg q = t.sreg q := by
  simp only [Thread.sreg, Thread.setSreg]
  exact fgetD_fset_ne _ _ _ (fun e => h (Fin.ext e))

@[simp] theorem Thread.setSreg_pc (t : Thread) (r : SReg) (v : Word) : (t.setSreg r v).pc = t.pc := rfl
@[simp] theorem Thread.setSreg_mask (t : Thread) (r : SReg) (v : Word) : (t.setSreg r v).mask = t.mask := rfl
@[simp] theorem Thread.setSreg_pendS (t : Thread) (r : SReg) (v : Word) : (t.setSreg r v).pendS = t.pendS := rfl
@[simp] theorem Thread.setSreg_hold (t : Thread) (r : SReg) (v : Word) : (t.setSreg r v).hold = t.hold := rfl
@[simp] theorem Thread.setSreg_wait (t : Thread) (r : SReg) (v : Word) : (t.setSreg r v).wait = t.wait := rfl
@[simp] theorem Thread.setSreg_counters (t : Thread) (r : SReg) (v : Word) : (t.setSreg r v).counters = t.counters := rfl
@[simp] theorem Thread.setSreg_preds (t : Thread) (r : SReg) (v : Word) : (t.setSreg r v).preds = t.preds := rfl

@[simp] theorem Thread.pred_setPred_self (t : Thread) (p : Nat) (v : BitVec 64) : (t.setPred p v).pred p = v := by
  simp [Thread.pred, Thread.setPred]

theorem Thread.pred_setPred_ne (t : Thread) {p q : Nat} (v : BitVec 64) (h : q ≠ p) :
    (t.setPred p v).pred q = t.pred q := by simp [Thread.pred, Thread.setPred, fgetD_fset_ne _ _ _ h]

@[simp] theorem Thread.goto_pc (t : Thread) (a : BitVec 56) : (t.goto a).pc = a := rfl
@[simp] theorem Thread.goto_sregs (t : Thread) (a : BitVec 56) : (t.goto a).sregs = t.sregs := rfl
@[simp] theorem Thread.goto_sreg (t : Thread) (a : BitVec 56) (r : SReg) : (t.goto a).sreg r = t.sreg r := rfl
@[simp] theorem Thread.goto_mask (t : Thread) (a : BitVec 56) : (t.goto a).mask = t.mask := rfl
@[simp] theorem Thread.goto_mstack (t : Thread) (a : BitVec 56) : (t.goto a).mstack = t.mstack := rfl
@[simp] theorem Thread.advance_pc (t : Thread) : t.advance.pc = t.pc + 4 := rfl
@[simp] theorem Thread.advance_sregs (t : Thread) : t.advance.sregs = t.sregs := rfl
@[simp] theorem Thread.advance_sreg (t : Thread) (r : SReg) : t.advance.sreg r = t.sreg r := rfl
@[simp] theorem Thread.advance_mask (t : Thread) : t.advance.mask = t.mask := rfl
@[simp] theorem Thread.advance_mstack (t : Thread) : t.advance.mstack = t.mstack := rfl

end Sys2Proof.Machine
end

