-- ==== Sys2Proof/Laws/Issue.lean ====
section
/-! SUPPORT. What issue and retirement do, said once: the three ways an issue can go, and the frames of the operand
forms built on it. -/

namespace Sys2Proof.Machine

open Sys2Proof

/-- The state in which an instruction's own effect begins: a hold that is over is cleared (R74, R76). -/
def State.issued (s : State) : State :=
  if s.th.hold then s.modThread s.cur (fun t => { t with hold := false, wait := .none }) else s

@[simp] theorem State.issued_cur (s : State) : s.issued.cur = s.cur := by unfold State.issued; split <;> rfl
@[simp] theorem State.issued_mem (s : State) : s.issued.mem = s.mem := by unfold State.issued; split <;> rfl

theorem Thread.waitOver_free {t : Thread} (h : t.hold = false) : { t with hold := false, wait := t.waitOver } = t := by
  cases t; cases h; rfl

theorem State.issued_th (s : State) : s.issued.th = { s.th with hold := false, wait := s.th.waitOver } := by
  cases h : s.th.hold
  · rw [Thread.waitOver_free h, State.issued, h]; rfl
  · simp only [State.issued, Thread.waitOver, h, if_true, State.th_modThread]

theorem State.issued_thread_ne (s : State) {k : Nat} (h : k ≠ s.cur) : s.issued.thread k = s.thread k := by
  unfold State.issued; split
  · exact s.thread_modThread_ne _ h
  · rfl

theorem SameElse.refl (s : State) : SameElse s s := rfl

theorem SameElse.trans {s t u : State} (h : SameElse s t) (k : SameElse t u) : SameElse s u := by
  unfold SameElse at *; rw [k, h]

theorem State.sameElse_modThread (s : State) (k : Nat) (f : Thread → Thread) : SameElse s (s.modThread k f) := rfl

theorem State.issued_rest (s : State) : SameElse s s.issued := by
  unfold State.issued; split <;> rfl

theorem State.issued_of_free (s : State) (h : s.th.hold = false) : s.issued = s := by
  simp [State.issued, h]

@[simp] theorem State.issued_sreg (s : State) (r : SReg) : s.issued.th.sreg r = s.th.sreg r := by
  rw [State.issued_th]; rfl

/-- The three ways of an issue: refused with a trap, not ready, or the instruction's own effect. -/
theorem State.issue_cases (s : State) (w : Who) (names : List SReg) (body : State → State) :
    s.issue w names body =
      if s.admits w names = false then s.trapNow cIllegal
      else if s.th.canIssue names = false then s else body s.issued := by
  unfold State.issue State.issued
  cases s.admits w names <;> cases s.th.canIssue names <;> cases s.th.hold <;> rfl

theorem State.issue_ready {s : State} {w : Who} {names : List SReg} (h : s.Ready w names) (body : State → State) :
    s.issue w names body = body s.issued := by
  rw [State.issue_cases, h.1, h.2]; rfl

theorem State.issue_free {s : State} {w : Who} {names : List SReg} (h : s.Free w names) (body : State → State) :
    s.issue w names body = body s := by
  rw [State.issue_ready h.1, s.issued_of_free h.2]

/-- Changing the running agent's record alone, after an issue. -/
theorem State.onlyRunning_issued (s : State) (f : Thread → Thread) : OnlyRunning s (s.issued.modThread s.cur f) where
  others k h := by rw [State.thread_modThread_ne _ _ h, s.issued_thread_ne h]
  rest := s.issued_rest.trans (s.issued.sameElse_modThread _ _)
  memory a := by simp

/-- A result and a retirement after an issue: the frame of every instruction that writes one scalar register. -/
theorem State.finish_issued (s : State) (d : SReg) (v : Word) : Wrote s (s.issued.finish d v) d v where
  agent := by
    have e : (s.issued.finish d v).thread s.cur = (s.issued.th.setSreg d v).advance := by
      unfold State.finish; rw [State.issued_cur, State.thread_modThread_self]; simp [State.th]
    rw [e]
    exact
      { value := by simp
        keeps := fun r h => by rw [Thread.advance_sreg, Thread.sreg_setSreg_ne _ _ h, State.issued_sreg]
        next := by simp [State.issued_th]
        rest := by simp [State.issued_th, Thread.advance, Thread.goto, Thread.setSreg] }
  only := by unfold State.finish; rw [State.issued_cur]; exact s.onlyRunning_issued _

/-- A retirement after an issue. -/
theorem State.goto_issued (s : State) (pc : BitVec 56) : WentTo s (s.issued.goto pc) pc where
  agent := by
    have e : (s.issued.goto pc).thread s.cur = s.issued.th.goto pc := by
      unfold State.goto; rw [State.issued_cur, State.thread_modThread_self]; simp [State.th]
    rw [e]
    exact { next := rfl, rest := by simp [State.issued_th, Thread.goto] }
  only := by unfold State.goto; rw [State.issued_cur]; exact s.onlyRunning_issued _

/-- The two-operand form: sd takes the function of sa and sb, and nothing else changes (R63). -/
theorem State.alu2_wrote {s : State} {d a b : SReg} (h : s.Ready anyone [d, a, b]) (f : Word → Word → Word) :
    Wrote s (s.alu2 d a b f) d (f (s.th.sreg a) (s.th.sreg b)) := by
  unfold State.alu2; rw [State.issue_ready h]; simpa using s.finish_issued d (f (s.th.sreg a) (s.th.sreg b))

/-- The one-operand form (R63, R64). -/
theorem State.alu1_wrote {s : State} {d a : SReg} (h : s.Ready anyone [d, a]) (f : Word → Word) :
    Wrote s (s.alu1 d a f) d (f (s.th.sreg a)) := by
  unfold State.alu1; rw [State.issue_ready h]; simpa using s.finish_issued d (f (s.th.sreg a))

/-- The turn of a port at which no context stands makes none (R18). -/
theorem State.afterTurn_absent {s t : State} (h : fget? t.threads s.cur = none) : s.afterTurn t = t := by
  simp [State.afterTurn, h]

end Sys2Proof.Machine
end

