-- ==== Sys2Proof/Laws/Memory.lean ====
section
/-! SUPPORT. What the operations over memory give back: bytes outside a write, bytes inside it, and the canonical form. -/

namespace Sys2Proof.Machine

@[simp] theorem leBytes_length (n w : Nat) : (leBytes n w).length = n := by
  induction n generalizing w with
  | zero => rfl
  | succ n ih => simp [leBytes, ih]

/-- The little-endian bytes of a number give the number back, modulo their width. -/
theorem leNat_leBytes (n w : Nat) : leNat (leBytes n w) = w % 256 ^ n := by
  induction n generalizing w with
  | zero => simp [leBytes, leNat, Nat.mod_one]
  | succ n ih =>
    have h : (BitVec.ofNat 8 w).toNat = w % 256 := BitVec.toNat_ofNat w 8
    rw [leBytes, leNat, ih, h, Nat.pow_succ', Nat.mod_mul]

@[simp] theorem Store.pushHist_cells (m : Store) (w : Nat) : (m.pushHist w).cells = m.cells := rfl
@[simp] theorem Store.pushHist_headers (m : Store) (w : Nat) : (m.pushHist w).headers = m.headers := rfl
@[simp] theorem Store.setSide_cells (m : Store) (a : Nat) (v : BitVec 12) : (m.setSide a v).cells = m.cells := rfl
@[simp] theorem Store.setSide_headers (m : Store) (a : Nat) (v : BitVec 12) : (m.setSide a v).headers = m.headers := rfl
@[simp] theorem Store.writeRef_cells (m : Store) (a : Nat) (bs : List Byte) : (m.writeRef a bs).cells = (m.write a bs).cells := rfl

theorem Store.byte_eq {m n : Store} (h : n.cells = m.cells) (a : Nat) : n.byte a = m.byte a := by simp [Store.byte, h]

/-- A claim of a line that is no known header changes no byte. -/
theorem Store.claim_cells {m : Store} {pa : Nat} (h : m.headers.contains (lineOf pa) = false) (p : Party) (obj : Bool) :
    (m.claim p obj pa).cells = m.cells := by
  unfold Store.claim; split
  · simp only [h]; rfl
  · rfl

@[simp] theorem Store.setHdr_headers (m : Store) (a owner scope state : Nat) :
    (m.setHdr a owner scope state).headers = insNat m.headers a := rfl

@[simp] theorem Store.foldl_pushHist_cells (ws : List Nat) (m : Store) : (ws.foldl Store.pushHist m).cells = m.cells := by
  induction ws generalizing m with
  | nil => rfl
  | cons w ws ih => simp [ih]

@[simp] theorem Store.bytes_length (m : Store) (a n : Nat) : (m.bytes a n).length = n := by simp [Store.bytes, cellsGet]

theorem Store.bytes_getD (m : Store) (a n i : Nat) (h : i < n) : (m.bytes a n).getD i 0 = m.byte (a + i) := by
  simp [Store.bytes, cellsGet, Store.byte, List.getD, h]

/-- Restoring header bytes keeps the canonical form. -/
theorem Store.keepHeaders_wf (m : Store) (a n : Nat) {c : List Host.Cell} (h : Memory.wf c = true) :
    Memory.wf (m.keepHeaders a n c) = true := by
  unfold Store.keepHeaders
  generalize m.headers.filter _ = hs
  induction hs generalizing c with
  | nil => exact h
  | cons x hs ih => exact ih (cellsSet_wf h _ _)

/-- Restoring header bytes gives every byte its value before the write or after it. -/
theorem Store.keepHeaders_get (m : Store) (a n : Nat) (c : List Host.Cell) (x : Nat) :
    cellGet (m.keepHeaders a n c) x = cellGet c x ∨ cellGet (m.keepHeaders a n c) x = m.byte x := by
  unfold Store.keepHeaders
  generalize m.headers.filter _ = hs
  induction hs generalizing c with
  | nil => exact .inl rfl
  | cons k hs ih =>
    rcases ih (cellsSet c (k + 6) (m.bytes (k + 6) 10)) with e | e
    · by_cases hx : x < k + 6 ∨ k + 6 + (m.bytes (k + 6) 10).length ≤ x
      · rw [cellGet_cellsSet_outside _ _ _ hx] at e; exact .inl e
      · obtain ⟨i, rfl⟩ : ∃ i, x = k + 6 + i := ⟨x - (k + 6), by omega⟩
        simp only [Store.bytes_length] at hx
        rw [cellGet_cellsSet_inside _ _ _ _ (by simp; omega), Store.bytes_getD _ _ _ _ (by omega)] at e
        exact .inr e
    · exact .inr e

/-- A byte that lies in no marked or published header is not restored. -/
theorem Store.keepHeaders_get_outside (m : Store) (a n : Nat) (c : List Host.Cell) (x : Nat)
    (h : ∀ k ∈ m.headers, x < k ∨ k + 16 ≤ x) : cellGet (m.keepHeaders a n c) x = cellGet c x := by
  unfold Store.keepHeaders
  have hs : ∀ k ∈ m.headers.filter (fun h => decide (h + 6 < a + n ∧ a < h + 16)), x < k ∨ k + 16 ≤ x :=
    fun k hk => h k (List.mem_filter.mp hk).1
  revert hs
  generalize m.headers.filter _ = hs
  intro hs'
  induction hs generalizing c with
  | nil => rfl
  | cons k hs ih =>
    have := hs' k (by simp)
    rw [List.foldl_cons, ih _ (fun j hj => hs' j (by simp [hj])), cellGet_cellsSet_outside _ _ _ (by simp; omega)]

/-- A write keeps the canonical form. -/
theorem Store.write_wf {m : Store} (h : Memory.wf m.cells = true) (a : Nat) (bs : List Byte) :
    Memory.wf (m.write a bs).cells = true :=
  m.keepHeaders_wf _ _ (cellsSet_wf (by simpa using h) _ _)

@[simp] theorem Store.write_headers (m : Store) (a : Nat) (bs : List Byte) : (m.write a bs).headers = m.headers := by
  have : ∀ (ws : List Nat) (m : Store), (ws.foldl Store.pushHist m).headers = m.headers := by
    intro ws; induction ws with
    | nil => intro m; rfl
    | cons w ws ih => intro m; rw [List.foldl_cons, ih]; rfl
  exact this _ _

theorem Store.write_cells (m : Store) (a : Nat) (bs : List Byte) :
    (m.write a bs).cells = m.keepHeaders a bs.length (cellsSet m.cells a bs) := by
  show m.keepHeaders a bs.length (cellsSet (List.foldl Store.pushHist m _).cells a bs) = _
  rw [Store.foldl_pushHist_cells]

/-- A byte outside the write reads as before. -/
theorem Store.byte_write_outside (m : Store) (a : Nat) (bs : List Byte) (c : Nat)
    (h : c < a ∨ a + bs.length ≤ c) : (m.write a bs).byte c = m.byte c := by
  have e := cellGet_cellsSet_outside m.cells a bs h
  show cellGet (m.write a bs).cells c = cellGet m.cells c
  rw [Store.write_cells]
  rcases m.keepHeaders_get a bs.length (cellsSet m.cells a bs) c with x | x
  · rw [x, e]
  · exact x

/-- A byte of the write reads as written, where no marked or published header keeps it. -/
theorem Store.byte_write_inside (m : Store) (a : Nat) (bs : List Byte) (i : Nat)
    (h : i < bs.length) (hh : ∀ k ∈ m.headers, a + i < k ∨ k + 16 ≤ a + i) :
    (m.write a bs).byte (a + i) = bs.getD i 0 := by
  show cellGet (m.write a bs).cells (a + i) = _
  rw [Store.write_cells, Store.keepHeaders_get_outside _ _ _ _ _ hh, cellGet_cellsSet_inside _ _ _ _ h]

/-- Setting a header keeps the canonical form. -/
theorem Store.setHdr_wf {m : Store} (h : Memory.wf m.cells = true) (a owner scope state : Nat) :
    Memory.wf (m.setHdr a owner scope state).cells = true :=
  cellsSet_wf (by simpa using h) _ _

/-- A claim keeps the canonical form. -/
theorem Store.claim_wf {m : Store} (h : Memory.wf m.cells = true) (p : Party) (obj : Bool) (pa : Nat) :
    Memory.wf (m.claim p obj pa).cells = true := by
  unfold Store.claim
  split
  · simp only []
    split
    · exact Store.setHdr_wf h _ _ _ _
    · exact h
  · exact h

/-- Setting a header changes bytes 6 to 15 of it alone. -/
theorem Store.byte_setHdr_outside (m : Store) (h owner scope state a : Nat) (ha : a < h + 6 ∨ h + 16 ≤ a) :
    (m.setHdr h owner scope state).byte a = m.byte a :=
  cellGet_cellsSet_outside _ _ _ (by simp; omega)

end Sys2Proof.Machine
end

