-- ==== Sys2Proof/Laws/Access.lean ====
section
/-! SUPPORT. What an access leaves around its agent: filling the TLB, entering the window or the queue. -/

namespace Sys2Proof.Machine

open Sys2Proof

/-! ### Writes that leave (R167, R410) -/

/-- A write that leaves by a gate changes the gates, and what the reads on their way have to be taken under. -/
theorem State.leaves_rest (s : State) (plot pa : Nat) (bs : List Byte) :
    s.leaves plot pa bs = { s with gates := (s.leaves plot pa bs).gates, asks := (s.leaves plot pa bs).asks } := by
  unfold State.leaves
  split
  · rfl
  · next g _ _ =>
    have h : ∀ (ls : List Nat) (u : State),
        ls.foldl (fun s' l => s'.outbound g 0 l plot (s'.cipherLine plot l)) u =
          { u with gates := (ls.foldl (fun s' l => s'.outbound g 0 l plot (s'.cipherLine plot l)) u).gates } := by
      intro ls
      induction ls with
      | nil => intro u; rfl
      | cons l ls ih => intro u; rw [List.foldl_cons, ih]; rfl
    rw [h]; rfl
  · rfl

/-- Of the machine a write of the device's own changes memory, the gates and the reads on their way. -/
theorem State.put_rest (s : State) (plot pa : Nat) (bs : List Byte) :
    s.put plot pa bs =
      { s with mem := s.mem.write pa bs, gates := (s.put plot pa bs).gates, asks := (s.put plot pa bs).asks } := by
  unfold State.put; rw [State.leaves_rest]; rfl

@[simp] theorem State.put_threads (s : State) (plot pa : Nat) (bs : List Byte) : (s.put plot pa bs).threads = s.threads := by
  rw [State.put_rest]
@[simp] theorem State.put_cores (s : State) (plot pa : Nat) (bs : List Byte) : (s.put plot pa bs).cores = s.cores := by
  rw [State.put_rest]

/-- A write proceeds, or takes its place in front of its channel. -/
theorem State.through_cases {s u : State} {w : Writer} {pa : Nat} {go : State → Option State} (h : s.through w pa go = some u) :
    (s.blocks w pa = false ∧ go (s.leave w) = some u) ∨ (s.blocks w pa = true ∧ s.join w pa = some u) := by
  cases b : s.blocks w pa with
  | false => exact .inl ⟨rfl, by simpa [State.through, b] using h⟩
  | true => exact .inr ⟨rfl, by simpa [State.through, b] using h⟩

/-- A write that the device owes is made at once where nothing stands before it. -/
theorem State.owe_free {s : State} {plot pa : Nat} (h : s.waiters = []) (hr : s.refreshing pa = false)
    (ho : (s.plot plot).owed = []) (kind : OwedKind) (bytes : List Byte) :
    s.owe plot kind pa bytes = s.pay plot { n := (s.plot plot).nextOwed, kind := kind, pa := pa, bytes := bytes } := by
  simp [State.owe, ho, State.blocks_of_none h, hr]

/-! ### Reads that the outside answers (R24) -/

/-- A read whose home is in the package sends nothing and waits for nothing. -/
theorem State.asking_inside {s : State} {pa : Nat} (h : s.portOf pa = none) (who : Reader) (plot : Nat) (copy : Bool) :
    s.asking who plot copy pa = .ready s := by
  simp [State.asking, h]

theorem State.fromOutside_inside {s : State} {pa : Nat} (h : s.portOf pa = none) (who : Reader) (plot : Nat) (copy : Bool)
    (go : State → Option State) : s.fromOutside who plot copy pa go = go s := by
  simp [State.fromOutside, State.asking_inside h]

theorem State.taken_inside {s : State} {pa : Nat} (h : s.portOf pa = none) (who : Reader) (plot : Nat) (copy : Bool) :
    s.taken who plot copy pa = s := by
  simp [State.taken, State.asking_inside h]

/-! ### Filling the TLB -/

/-- Of the machine the cores alone differ, and of each of them its TLB and its counts. -/
structure Learned (s u : State) : Prop where
  rest : u = { s with cores := u.cores }
  core : ∀ c, u.core c = { s.core c with tlb := (u.core c).tlb, stats := (u.core c).stats }

theorem Learned.refl (s : State) : Learned s s := ⟨rfl, fun _ => rfl⟩

theorem Learned.trans {s t u : State} (h : Learned s t) (k : Learned t u) : Learned s u where
  rest := by rw [k.rest, h.rest]
  core c := by rw [k.core c, h.core c]

/-- One core's TLB and counts change. -/
theorem Learned.modCore (s : State) (k : Nat) {f : Core → Core} (hf : ∀ x, f x = { x with tlb := (f x).tlb, stats := (f x).stats }) :
    Learned s (s.modCore k f) where
  rest := rfl
  core c := by
    by_cases h : c = k
    · subst h; rw [State.core_modCore_self]; exact hf _
    · rw [State.core_modCore_ne _ _ h]

theorem State.fillTlb_learned (s : State) (place space va : Nat) (r : WalkResult) : Learned s (s.fillTlb place space va r) := by
  unfold State.fillTlb
  cases r with
  | ok x => simp only []; split; exacts [.refl s, .modCore s _ (fun _ => rfl)]
  | absent => exact .refl s
  | moving => exact .refl s

theorem State.fillAll_learned (ks : List Nat) (s : State) (space va : Nat) (r : WalkResult) :
    Learned s (ks.foldl (fun s' k => s'.fillTlb k space va r) s) := by
  induction ks generalizing s with
  | nil => exact .refl s
  | cons k ks ih => exact (s.fillTlb_learned k space va r).trans (ih _)

theorem State.statPlot_learned (s : State) (key k n : Nat) : Learned s (s.statPlot key k n) := .modCore s _ (fun _ => rfl)

theorem State.statBlock_learned (s : State) (key k n : Nat) : Learned s (s.statBlock key k n) := by
  unfold State.statBlock; split; exacts [.refl s, .modCore s _ (fun _ => rfl)]

theorem State.countXlat_learned (s : State) (key va : Nat) : Learned s (s.countXlat key va) := by
  unfold State.countXlat
  simp only []
  split <;> split
  exacts [.refl s, s.statBlock_learned _ _ _, s.statPlot_learned _ _ _, (s.statBlock_learned _ _ _).trans (State.statPlot_learned _ _ _ _)]

theorem State.fill_learned (s : State) (k va : Nat) (r : WalkResult) : Learned s (s.fill k va r) :=
  (s.countXlat_learned k va).trans (State.fillAll_learned _ _ _ _ _)

theorem State.fill_rest (s : State) (k va : Nat) (r : WalkResult) : s.fill k va r = { s with cores := (s.fill k va r).cores } :=
  (s.fill_learned k va r).rest

theorem State.fill_core (s : State) (k va : Nat) (r : WalkResult) (c : Nat) :
    (s.fill k va r).core c =
      { s.core c with tlb := ((s.fill k va r).core c).tlb, stats := ((s.fill k va r).core c).stats } :=
  (s.fill_learned k va r).core c

@[simp] theorem State.fill_cur (s : State) (k va : Nat) (r : WalkResult) : (s.fill k va r).cur = s.cur := by rw [State.fill_rest]
@[simp] theorem State.fill_mem (s : State) (k va : Nat) (r : WalkResult) : (s.fill k va r).mem = s.mem := by rw [State.fill_rest]
@[simp] theorem State.fill_threads (s : State) (k va : Nat) (r : WalkResult) : (s.fill k va r).threads = s.threads := by
  rw [State.fill_rest]
@[simp] theorem State.fill_plots (s : State) (k va : Nat) (r : WalkResult) : (s.fill k va r).plots = s.plots := by
  rw [State.fill_rest]
@[simp] theorem State.thread_fill (s : State) (k va : Nat) (r : WalkResult) (j : Nat) :
    (s.fill k va r).thread j = s.thread j := by unfold State.thread; rw [State.fill_threads]

/-- Changing the running agent's record, and learning a translation. -/
theorem State.keepsAround (s : State) (f : Thread → Thread) (va : Nat) (r : WalkResult) :
    KeepsAround s ((s.modThread s.cur f).fill s.cur va r) where
  memory := by simp
  bytes a := by simp
  others k h := by rw [State.thread_fill, State.thread_modThread_ne _ _ h]
  cores c := by rw [State.fill_core]; rfl
  rest := by rw [State.fill_rest]; rfl

end Sys2Proof.Machine
end

