-- ==== Sys2Proof/Laws/Crypto.lean ====
section
/-! SUPPORT. What AES gives is bytes where its key and its block are, so that a text of the machine's own key can be sealed. -/

namespace Sys2Proof.Machine

/-- Every number of a list is a byte. -/
def AllBytes (l : List Nat) : Prop := ∀ x ∈ l, x < 256

theorem xor_byte {a b : Nat} (ha : a < 256) (hb : b < 256) : a ^^^ b < 256 := Nat.xor_lt_two_pow (n := 8) ha hb

theorem xtime_byte {x : Nat} (h : x < 256) : xtime x < 256 := by
  unfold xtime
  split
  · omega
  · exact xor_byte (by omega) (by omega)

theorem gmulAux_byte : ∀ (n a b : Nat), a < 256 → gmulAux n a b < 256
  | 0, _, _, _ => by simp [gmulAux]
  | n + 1, a, b, h => by
    unfold gmulAux
    refine xor_byte ?_ (gmulAux_byte n _ _ (xtime_byte h))
    split <;> omega

theorem gmul_byte {a : Nat} (b : Nat) (h : a < 256) : gmul a b < 256 := gmulAux_byte 8 a b h

theorem aesSub_byte {x : Nat} (h : x < 256) : aesSub x < 256 := by
  have r : ∀ y n, rotl8 y n < 256 := fun y n => Nat.mod_lt _ (by decide)
  have g : ginv x < 256 := by
    unfold ginv
    exact gmul_byte _ (gmul_byte _ (gmul_byte _ (gmul_byte _ (gmul_byte _ (gmul_byte _ (gmul_byte _ (gmul_byte _ (gmul_byte _ (gmul_byte _ (gmul_byte _ h))))))))))
  unfold aesSub
  exact xor_byte (xor_byte (xor_byte (xor_byte (xor_byte g (r _ _)) (r _ _)) (r _ _)) (r _ _)) (by decide)

theorem xorBytes_all : ∀ {a b : List Nat}, AllBytes a → AllBytes b → AllBytes (xorBytes a b)
  | [], _, _, _ => by simp [xorBytes, AllBytes]
  | _ :: _, [], _, _ => by simp [xorBytes, AllBytes]
  | x :: a, y :: b, ha, hb => by
    have ih : AllBytes (xorBytes a b) :=
      xorBytes_all (fun z h => ha z (List.mem_cons_of_mem _ h)) (fun z h => hb z (List.mem_cons_of_mem _ h))
    intro z hz
    simp only [xorBytes, List.zipWith_cons_cons, List.mem_cons] at hz
    rcases hz with rfl | hz
    · exact xor_byte (ha x List.mem_cons_self) (hb y List.mem_cons_self)
    · exact ih z hz

theorem map_all {l : List Nat} {f : Nat → Nat} (hf : ∀ x, x < 256 → f x < 256) (h : AllBytes l) : AllBytes (l.map f) := by
  intro z hz
  obtain ⟨x, hx, rfl⟩ := List.mem_map.1 hz
  exact hf x (h x hx)

theorem sublist_all {a b : List Nat} (s : a.Sublist b) (h : AllBytes b) : AllBytes a := fun x hx => h x (s.subset hx)

theorem getD_all {l : List Nat} (h : AllBytes l) (i : Nat) : l.getD i 0 < 256 := by
  rw [List.getD_eq_getElem?_getD]
  rcases hi : l[i]? with _ | x
  · simp
  · simpa using h x (List.mem_of_getElem? hi)

theorem getD_lists {ws : List (List Nat)} (h : ∀ w ∈ ws, AllBytes w) (i : Nat) : AllBytes (ws.getD i []) := by
  rw [List.getD_eq_getElem?_getD]
  rcases hi : ws[i]? with _ | x
  · simp [AllBytes]
  · simpa using h x (List.mem_of_getElem? hi)

theorem aesRcon_byte : ∀ n, aesRcon n < 256
  | 0 => by decide
  | n + 1 => xtime_byte (aesRcon_byte n)

theorem aesExpand_all : ∀ (n i : Nat) (ws : List (List Nat)), (∀ w ∈ ws, AllBytes w) → ∀ w ∈ aesExpand n i ws, AllBytes w
  | 0, _, _, h => h
  | n + 1, i, ws, h => by
    unfold aesExpand
    refine aesExpand_all n (i + 1) _ ?_
    intro w hw
    rcases List.mem_cons.1 hw with rfl | hw
    · refine xorBytes_all (getD_lists h 7) ?_
      have p := getD_lists h 0
      split
      · have q : AllBytes (((ws.getD 0 []).drop 1 ++ (ws.getD 0 []).take 1).map aesSub) :=
          map_all (fun _ => aesSub_byte) (fun x hx => by
            rcases List.mem_append.1 hx with k | k
            · exact p x (List.mem_of_mem_drop k)
            · exact p x (List.mem_of_mem_take k))
        split
        · simp [AllBytes]
        · next y ys e =>
          rw [e] at q
          intro z hz
          rcases List.mem_cons.1 hz with rfl | hz
          · exact xor_byte (q y List.mem_cons_self) (aesRcon_byte _)
          · exact q z (List.mem_cons_of_mem _ hz)
      · split
        · exact map_all (fun _ => aesSub_byte) p
        · exact p
    · exact h w hw

theorem aesKeys_all {key : List Nat} (h : AllBytes key) : ∀ k ∈ aesKeys key, AllBytes k := by
  intro k hk
  unfold aesKeys at hk
  obtain ⟨r, -, rfl⟩ := List.mem_map.1 hk
  intro x hx
  obtain ⟨w, hw, hx⟩ := List.mem_flatten.1 hx
  refine aesExpand_all 52 8 _ ?_ w (List.mem_reverse.1 (List.mem_of_mem_drop (List.mem_of_mem_take hw))) x hx
  intro v hv
  obtain ⟨i, -, rfl⟩ := List.mem_map.1 (List.mem_reverse.1 hv)
  exact fun z hz => h z (List.mem_of_mem_drop (List.mem_of_mem_take hz))

theorem aesShift_all {b : List Nat} (n : Nat) (h : AllBytes b) : AllBytes (aesShift n b) := by
  intro z hz
  obtain ⟨i, -, rfl⟩ := List.mem_map.1 hz
  exact getD_all h _

theorem aesMix_all {m b : List Nat} (h : AllBytes m) : AllBytes (aesMix m b) := by
  intro z hz
  obtain ⟨i, -, rfl⟩ := List.mem_map.1 hz
  have f : ∀ (l : List Nat) (t : Nat), t < 256 →
      l.foldl (fun t k => t ^^^ gmul (m.getD ((k + 4 - i % 4) % 4) 0) (b.getD (4 * (i / 4) + k) 0)) t < 256 := by
    intro l
    induction l with
    | nil => exact fun _ h => h
    | cons k l ih => exact fun t ht => ih _ (xor_byte ht (gmul_byte _ (getD_all h _)))
  exact f _ 0 (by decide)

/-- AES of a block of bytes under a key of bytes gives bytes. -/
theorem aesEncrypt_all {key blk : List Nat} (hk : AllBytes key) (hb : AllBytes blk) : AllBytes (aesEncrypt key blk) := by
  unfold aesEncrypt
  have ks := aesKeys_all hk
  split
  · exact hb
  · next k0 rest e =>
    rw [e] at ks
    have rest' : ∀ k ∈ rest, AllBytes k := fun k h => ks k (List.mem_cons_of_mem _ h)
    have mid : ∀ (l : List (List Nat)) (s : List Nat), (∀ k ∈ l, AllBytes k) → AllBytes s →
        AllBytes (l.foldl (fun s k => xorBytes (aesMix [2, 3, 1, 1] (aesShift 1 (s.map aesSub))) k) s) := by
      intro l
      induction l with
      | nil => exact fun _ _ h => h
      | cons k l ih =>
        exact fun s hl _ => ih _ (fun k h => hl k (List.mem_cons_of_mem _ h))
          (xorBytes_all (aesMix_all (by unfold AllBytes; decide)) (hl k List.mem_cons_self))
    exact xorBytes_all (aesShift_all 1 (map_all (fun _ => aesSub_byte)
      (mid _ _ (fun k h => rest' k (List.mem_of_mem_take h)) (xorBytes_all hb (ks k0 List.mem_cons_self)))))
      (getD_lists rest' 13)

theorem beBytes_all (n v : Nat) : AllBytes (beBytes n v) := by
  intro z hz
  obtain ⟨i, -, rfl⟩ := List.mem_map.1 hz
  exact Nat.mod_lt _ (by decide)

theorem shake256_all (msg : List Nat) (n : Nat) : AllBytes (shake256 msg n) := by
  intro z hz
  unfold shake256 at hz
  obtain ⟨w, -, hw⟩ := List.mem_flatMap.1 (List.mem_of_mem_take hz)
  obtain ⟨i, -, rfl⟩ := List.mem_map.1 hw
  exact Nat.mod_lt _ (by decide)

/-- Under a key and a nonce of bytes every text has a tag of bytes, with which it opens. -/
theorem gcmOpen_some {key nonce : List Nat} (hk : AllBytes key) (hn : AllBytes nonce) (aad ct : List Nat) :
    ∃ tag, AllBytes tag ∧ tag.length = min 16 (aesEncrypt key (nonce ++ beBytes 4 1)).length ∧
      gcmOpen key nonce aad ct tag = some ((gcmCtr key nonce 2 (blocks16 ct)).take ct.length) := by
  refine ⟨_, ?_, ?_, if_pos rfl⟩
  · exact xorBytes_all (beBytes_all _ _) (aesEncrypt_all hk (fun x hx => by
      rcases List.mem_append.1 hx with h | h
      · exact hn x h
      · exact beBytes_all _ _ x h))
  · simp only [xorBytes, List.length_zipWith, beBytes, List.length_map, List.length_range]

end Sys2Proof.Machine
end

