-- ==== Sys2Proof/Laws/Lane.lean ====
section
/-! SUPPORT. What the masked writes of the lane instructions do, said once: rows, predicates and the counters. -/

namespace Sys2Proof.Machine

open Sys2Proof

/-! ### Rows (R17, R219, R276) -/

theorem rowOfReg_lt {l : Launch} {g k i : Nat} (h : rowOfReg l g k = some i) :
    ∃ o, i = g * l.rowStride + o ∧ o < l.rowStride ∧ (k < l.rows → o = k) ∧ (l.rows ≤ k → 124 ≤ k ∧ o = l.rows + (k - 124)) := by
  unfold rowOfReg at h
  split at h
  · next hk =>
    refine ⟨k, (Option.some.inj h).symm, ?_, fun _ => rfl, fun h' => absurd hk (by omega)⟩
    unfold Launch.rowStride; split <;> omega
  · split at h
    · next hk hp =>
      refine ⟨l.rows + (k - 124), (by have := Option.some.inj h; omega), ?_, fun h' => absurd h' hk, fun _ => ⟨hp.2.1, rfl⟩⟩
      unfold Launch.rowStride; rw [if_pos hp.1]; omega
    · cases h

/-- Two names of two groups of one launch name different rows of the register file. -/
theorem rowOfReg_inj {l : Launch} {g g' k k' i : Nat} (h : rowOfReg l g k = some i) (h' : rowOfReg l g' k' = some i) :
    g = g' ∧ k = k' := by
  obtain ⟨o, e, lt, a, b⟩ := rowOfReg_lt h
  obtain ⟨o', e', lt', a', b'⟩ := rowOfReg_lt h'
  have pos : 0 < l.rowStride := by omega
  have hg : g = g' := by
    have h1 : i / l.rowStride = g := by
      rw [e, Nat.add_comm, Nat.add_mul_div_right _ _ pos, Nat.div_eq_of_lt lt, Nat.zero_add]
    have h2 : i / l.rowStride = g' := by
      rw [e', Nat.add_comm, Nat.add_mul_div_right _ _ pos, Nat.div_eq_of_lt lt', Nat.zero_add]
    omega
  subst hg
  have ho : o = o' := by omega
  refine ⟨rfl, ?_⟩
  by_cases c : k < l.rows <;> by_cases c' : k' < l.rows
  · have := a c; have := a' c'; omega
  · have := a c; have := b' (by omega); omega
  · have := b (by omega); have := a' c'; omega
  · have := b (by omega); have := b' (by omega); omega

theorem blend_at (old : Row) (m : BitVec 64) (f : Nat → Elem) {i : Nat} (h : i < 64) :
    (old.blend m f).at i = if m.getLsbD i then f i else old.at i := by
  simp [Row.blend, Row.at, List.getD, h]

@[simp] theorem State.setRow_cur (s : State) (key k : Nat) (r : Row) : (s.setRow key k r).cur = s.cur := by
  unfold State.setRow; split; · rfl
  split <;> rfl
@[simp] theorem State.setRow_laneCur (s : State) (key k : Nat) (r : Row) : (s.setRow key k r).laneCur = s.laneCur := by
  unfold State.setRow; split; · rfl
  split <;> rfl
@[simp] theorem State.setRow_mem (s : State) (key k : Nat) (r : Row) : (s.setRow key k r).mem = s.mem := by
  unfold State.setRow; split; · rfl
  split <;> rfl

/-- Of an agent's record a row write changes its own rows alone. -/
theorem State.setRow_thread (s : State) (key k : Nat) (r : Row) (j : Nat) :
    (s.setRow key k r).thread j = { s.thread j with ownRows := ((s.setRow key k r).thread j).ownRows } ∧
      (j ≠ key → (s.setRow key k r).thread j = s.thread j) := by
  unfold State.setRow
  split
  · by_cases h : j = key
    · subst h; simp
    · rw [State.thread_modThread_ne _ _ h]; exact ⟨rfl, fun _ => rfl⟩
  · split
    · exact ⟨rfl, fun _ => rfl⟩
    · exact ⟨rfl, fun _ => rfl⟩

/-- Of a core a row write changes the rows alone. -/
theorem State.setRow_core (s : State) (key k : Nat) (r : Row) (c : Nat) :
    (s.setRow key k r).core c = { s.core c with rows := ((s.setRow key k r).core c).rows } := by
  unfold State.setRow
  split
  · rfl
  · split
    · by_cases h : c = coreOfKey key
      · subst h; simp
      · rw [State.core_modCore_ne _ _ h]
    · rfl

theorem State.setRow_rest (s : State) (key k : Nat) (r : Row) :
    s.setRow key k r = { s with threads := (s.setRow key k r).threads, cores := (s.setRow key k r).cores } := by
  unfold State.setRow
  split
  · rfl
  · split <;> rfl

theorem State.setRow_blockOf (s : State) (key k : Nat) (r : Row) (j : Nat) :
    (s.setRow key k r).blockOf j = s.blockOf j := by
  unfold State.blockOf; rw [s.setRow_core]

theorem State.setRow_launchOf (s : State) (key k : Nat) (r : Row) (j : Nat) :
    (s.setRow key k r).launchOf j = s.launchOf j := by
  unfold State.launchOf; rw [s.setRow_blockOf]

theorem State.setRow_rowOk (s : State) (key k : Nat) (r : Row) (j n : Nat) :
    (s.setRow key k r).rowOk j n = s.rowOk j n := by
  unfold State.rowOk; rw [s.setRow_launchOf]

/-- A row that may be named reads as it was written. -/
theorem State.row_setRow_self (s : State) {key k : Nat} (r : Row) (h : s.rowOk key k = true) :
    (s.setRow key k r).row key k = r := by
  unfold State.row
  rw [s.setRow_launchOf]
  unfold State.rowOk at h
  unfold State.setRow
  split at h
  · next hs => simp [hs]
  · next hs =>
    simp only [hs]
    cases e : rowOfReg (s.launchOf key) (ctxOfKey key) k with
    | none => rw [e] at h; cases h
    | some i => simp

/-- Every other row stays. -/
theorem State.row_setRow_ne (s : State) {key k j n : Nat} (r : Row) (h : j ≠ key ∨ n ≠ k) :
    (s.setRow key k r).row j n = s.row j n := by
  unfold State.row
  rw [s.setRow_launchOf]
  split
  · next hj =>
    unfold State.setRow
    split
    · by_cases e : j = key
      · subst e; simp [fgetD_fset_ne _ _ _ (h.resolve_left (fun x => x rfl))]
      · rw [State.thread_modThread_ne _ _ e]
    · split <;> rfl
  · next hj =>
    cases e : rowOfReg (s.launchOf j) (ctxOfKey j) n with
    | none => rfl
    | some i =>
      unfold State.setRow
      cases hk : isSproutKey key
      · cases e' : rowOfReg (s.launchOf key) (ctxOfKey key) k with
        | none => rfl
        | some i' =>
          by_cases hc : coreOfKey j = coreOfKey key
          · have hl : s.launchOf j = s.launchOf key := by unfold State.launchOf State.blockOf; rw [hc]
            have hi : i ≠ i' := by
              intro hi; subst hi; rw [hl] at e
              have := rowOfReg_inj e e'
              rcases h with h | h
              · apply h; unfold coreOfKey at hc; unfold ctxOfKey at this; omega
              · exact h this.2
            simp only [Bool.false_eq_true, if_false, hc, State.core_modCore_self, fgetD_fset_ne _ _ _ hi]
          · simp only [Bool.false_eq_true, if_false, State.core_modCore_ne _ _ hc]
      · rfl

/-! ### Masked writes -/

/-- What a chain of row writes of the agent of lane work leaves: nothing but rows may differ. -/
structure RowsOnly (s t : State) : Prop where
  laneCur : t.laneCur = s.laneCur
  agent : ∀ j, t.thread j = { s.thread j with ownRows := (t.thread j).ownRows }
  others : SameOthers s t s.laneCur
  cores : ∀ c, t.core c = { s.core c with rows := (t.core c).rows }
  rest : t = { s with threads := t.threads, cores := t.cores }

theorem RowsOnly.refl (s : State) : RowsOnly s s := ⟨rfl, fun _ => rfl, fun _ _ => rfl, fun _ => rfl, rfl⟩

theorem RowsOnly.setRow {s t : State} (h : RowsOnly s t) (k : Nat) (r : Row) : RowsOnly s (t.setRow s.laneCur k r) where
  laneCur := by rw [State.setRow_laneCur, h.laneCur]
  agent j := by rw [(t.setRow_thread s.laneCur k r j).1, h.agent j]
  others j hj := by rw [(t.setRow_thread s.laneCur k r j).2 hj, h.others j hj]
  cores c := by rw [t.setRow_core s.laneCur k r c, h.cores c]
  rest := by rw [t.setRow_rest s.laneCur k r, h.rest]

theorem RowsOnly.rowOk {s t : State} (h : RowsOnly s t) (j n : Nat) : t.rowOk j n = s.rowOk j n := by
  unfold State.rowOk State.launchOf State.blockOf; rw [h.cores]

/-- The blends of some rows of the agent of lane work, one after the other, each from the row as it was. -/
def State.blendRows (s : State) (m : BitVec 64) (y : Nat → Nat → Elem) (rows : List Nat) (u : State) : State :=
  rows.foldl (fun u k => u.setRow s.laneCur k ((s.row s.laneCur k).blend m (y k))) u

theorem State.blendRows_spec (s : State) (m : BitVec 64) (y : Nat → Nat → Elem) (rows : List Nat) {u : State}
    (h : RowsOnly s u) (ok : s.CanWrite rows) :
    RowsOnly s (s.blendRows m y rows u) ∧
      (∀ k ∈ rows, (s.blendRows m y rows u).row s.laneCur k = (s.row s.laneCur k).blend m (y k)) ∧
      (∀ j k, (j ≠ s.laneCur ∨ k ∉ rows) → (s.blendRows m y rows u).row j k = u.row j k) := by
  induction rows generalizing u with
  | nil => exact ⟨h, fun _ hk => absurd hk List.not_mem_nil, fun _ _ _ => rfl⟩
  | cons a rows ih =>
    have hu := h.setRow a ((s.row s.laneCur a).blend m (y a))
    obtain ⟨i1, i2, i3⟩ := ih hu (fun k hk => ok k (List.mem_cons_of_mem _ hk))
    refine ⟨i1, ?_, ?_⟩
    · intro k hk
      by_cases hr : k ∈ rows
      · exact i2 k hr
      · have hka : k = a := (List.mem_cons.1 hk).resolve_right hr
        subst hka
        refine (i3 _ _ (Or.inr hr)).trans ?_
        exact u.row_setRow_self _ (by rw [h.rowOk]; exact ok k List.mem_cons_self)
    · intro j k hjk
      have h1 : j ≠ s.laneCur ∨ k ∉ rows := hjk.imp id (fun h e => h (List.mem_cons_of_mem _ e))
      have h2 : j ≠ s.laneCur ∨ k ≠ a := hjk.imp id (fun h e => h (e ▸ List.mem_cons_self))
      exact (i3 j k h1).trans (u.row_setRow_ne _ h2)

/-- Flags that are none change no point. -/
theorem Thread.mapPoints_none (t : Thread) (n : Nat) : t.mapPoints (fun p => p.raiseFp 0 n) = t := by
  have e : (fun p : Point => p.raiseFp 0 n) = id := by funext p; simp [Point.raiseFp]
  rw [e]
  cases t with | mk => simp [Thread.mapPoints]

/-- Raised flags join FPX and the points after their instruction. -/
theorem State.raiseFp_thread (s : State) (k : Nat) (f : Flags) (n : Nat) :
    (s.raiseFp k f n).thread k = ((s.thread k).raiseFp f).mapPoints (fun p => p.raiseFp f n) := by
  unfold State.raiseFp
  split
  · next e => subst e; rw [Thread.mapPoints_none]; simp [Thread.raiseFp]
  · simp

/-- Rows blended, flags raised and lanes counted: the whole effect of a lane instruction that writes rows. -/
theorem State.laneWrote (s : State) (m : BitVec 64) (y : Nat → Nat → Elem) (rows : List Nat) (f : Flags)
    (ok : s.CanWrite rows) :
    LaneWrote s (((s.blendRows m y rows s).raiseFp s.laneCur f (s.thread s.laneCur).laneClause).countLane m) m rows y f := by
  obtain ⟨h, hw, hk⟩ := s.blendRows_spec m y rows (RowsOnly.refl s) ok
  generalize s.blendRows m y rows s = u at h hw hk
  generalize hn : (s.thread s.laneCur).laneClause = n
  have key : ∀ j, ((u.raiseFp s.laneCur f n).countLane m).thread j =
      if j = s.laneCur then
        ({ s.thread s.laneCur with
           ownRows := (u.thread s.laneCur).ownRows, fpx := (s.thread s.laneCur).fpx ||| f
           counters := bumpMap (bumpMap (s.thread s.laneCur).counters 1 1) 2 (setLanes m).length } : Thread).mapPoints
          (fun p => p.raiseFp f n)
      else s.thread j := by
    intro j
    have e1 : (u.raiseFp s.laneCur f n).laneCur = s.laneCur := by unfold State.raiseFp; split <;> exact h.laneCur
    unfold State.countLane; rw [e1]
    split
    · next e => subst e; rw [State.thread_modThread_self, State.raiseFp_thread, h.agent]; rfl
    · next e =>
      rw [State.thread_modThread_ne _ _ e]
      unfold State.raiseFp; split
      · exact h.others j e
      · rw [State.thread_modThread_ne _ _ e]; exact h.others j e
  have hcores : ((u.raiseFp s.laneCur f n).countLane m).cores = u.cores := by unfold State.raiseFp State.countLane; split <;> rfl
  have hrow : ∀ j k, ((u.raiseFp s.laneCur f n).countLane m).row j k = u.row j k := by
    intro j k
    unfold State.row State.launchOf State.blockOf State.core
    rw [hcores, key]
    split
    · split
      · next e => subst e; rfl
      · next e => rw [h.others j e]
    · rfl
  exact
    { written := fun k hkr i hi => by rw [hrow, hw k hkr, blend_at _ _ _ hi]
      kept := fun j k hjk => by rw [hrow, hk j k hjk]
      preds := fun p => by rw [key, if_pos rfl]; rfl
      flags := by rw [key, if_pos rfl]; rfl
      around :=
        { agent := by rw [key, if_pos rfl, hn]; rfl
          others := fun j hj => by rw [key, if_neg hj]
          cores := fun c => by unfold State.core; rw [hcores]; exact h.cores c
          rest := by
            have : ((u.raiseFp s.laneCur f n).countLane m) = { u with threads := ((u.raiseFp s.laneCur f n).countLane m).threads } := by
              unfold State.raiseFp State.countLane; split <;> rfl
            rw [this, h.rest] } }

/-- The low w bits of a number are those of its low 64 bits. -/
theorem ofNat_ofInt64 (w : Nat) (hw : w ≤ 64) (y : Int) : BitVec.ofNat w (BitVec.ofInt 64 y).toNat = BitVec.ofInt w y := by
  have e : BitVec.ofNat w (BitVec.ofInt 64 y).toNat = (BitVec.ofInt 64 y).setWidth w := by
    apply BitVec.eq_of_toNat_eq; simp
  rw [e]
  apply BitVec.eq_of_toNat_eq
  simp only [BitVec.toNat_setWidth, BitVec.toNat_ofInt]
  have hd : (2 ^ w : Nat) ∣ 2 ^ 64 := Nat.pow_dvd_pow 2 hw
  have h1 : (0 : Int) ≤ y % ((2 ^ 64 : Nat) : Int) := Int.emod_nonneg _ (by decide)
  have h2 : (0 : Int) ≤ y % ((2 ^ w : Nat) : Int) := Int.emod_nonneg _ (by exact_mod_cast (Nat.two_pow_pos w).ne')
  apply Int.ofNat.inj
  show (((y % ((2 ^ 64 : Nat) : Int)).toNat % 2 ^ w : Nat) : Int) = ((y % ((2 ^ w : Nat) : Int)).toNat : Int)
  rw [Int.natCast_emod, Int.toNat_of_nonneg h1, Int.toNat_of_nonneg h2]
  exact Int.emod_emod_of_dvd y (by exact_mod_cast hd)

/-- Write(y, t) of a width of at most 32 bits (R94). -/
theorem lowElem_eq (t : IType) (ht : t ≠ .i64) (d k : Nat) (y : Int) : lowElem t y = writtenElem t d k y := by
  cases t <;> first | exact absurd rfl ht | skip
  all_goals simp only [lowElem, writtenElem, readElem, IType.width, ofNat_ofInt64 _ (by decide : (8 : Nat) ≤ 64),
    ofNat_ofInt64 _ (by decide : (16 : Nat) ≤ 64), ofNat_ofInt64 _ (by decide : (32 : Nat) ≤ 64), BitVec.ofInt_toInt]
  case i8 => rfl
  case i16 => rfl
  all_goals
    rw [show ∀ n : Nat, BitVec.ofInt 32 (n : Int) = BitVec.ofNat 32 n from fun n => by simp]
    rw [← ofNat_ofInt64 _ (by decide) y]
    apply BitVec.eq_of_toNat_eq
    simp
    omega

/-- A masked write of Write(y, t), with the count of its lanes (R94, R97). -/
theorem State.writeLanes_wrote (s : State) (t : IType) (d : VReg) (m : BitVec 64) (y : Nat → Int)
    (ok : s.CanWrite (vregRows t d)) :
    LaneWrote s ((s.writeLanes s.laneCur t d m y).countLane m) m (vregRows t d) (fun k i => writtenElem t d.val k (y i)) 0 := by
  have h := s.laneWrote m (fun k i => writtenElem t d.val k (y i)) (vregRows t d) 0 ok
  have e : s.blendRows m (fun k i => writtenElem t d.val k (y i)) (vregRows t d) s = s.writeLanes s.laneCur t d m y := by
    unfold State.writeLanes vregRows
    by_cases ht : t = .i64
    · subst ht
      simp [State.blendRows, writtenElem, lowElem, highElem]
    · simp [State.blendRows, ht, ← lowElem_eq t ht d.val d.val]
  rw [e] at h
  simpa [State.raiseFp] using h

/-- A masked write of float elements, with their flags and the count of lanes (R127). -/
theorem State.writeFloat_wrote (s : State) (d : VReg) (m : BitVec 64) (f : Nat → Elem × Flags) (ok : s.CanWrite [d.val]) :
    LaneWrote s (s.writeFloat d m f) m [d.val] (fun _ i => (f i).1) (laneFlags m (fun i => (f i).2)) :=
  s.laneWrote m (fun _ i => (f i).1) [d.val] _ ok

/-- The bits of a number built from a test of each place. -/
theorem bitSum_testBit (f : Nat → Bool) (n : Nat) :
    ((List.range n).filter f).foldl (fun x i => x + 2 ^ i) 0 < 2 ^ n ∧
      ∀ i, (((List.range n).filter f).foldl (fun x i => x + 2 ^ i) 0).testBit i = (decide (i < n) && f i) := by
  induction n with
  | zero => exact ⟨by simp, by simp⟩
  | succ n ih =>
    rw [List.range_succ, List.filter_append, List.foldl_append]
    generalize ((List.range n).filter f).foldl (fun x i => x + 2 ^ i) 0 = v at ih
    obtain ⟨lt, tb⟩ := ih
    have split : ∀ i, (decide (i < n + 1) && f i) = ((decide (i < n) && f i) || (decide (i = n) && f n)) := by
      intro i
      rcases Nat.lt_trichotomy i n with h | h | h
      · simp [h, Nat.lt_succ_of_lt h, Nat.ne_of_lt h]
      · subst h; simp
      · simp [Nat.not_lt.2 (Nat.le_of_lt h), Nat.ne_of_gt h, show ¬ i < n + 1 by omega]
    cases hf : f n
    · simp only [List.filter_cons, hf, List.filter_nil, Bool.false_eq_true, if_false, List.foldl_nil]
      refine ⟨Nat.lt_of_lt_of_le lt (Nat.pow_le_pow_right (by decide) (Nat.le_succ n)), fun i => ?_⟩
      rw [tb, split, hf]; simp
    · simp only [List.filter_cons, hf, List.filter_nil, if_true, List.foldl_cons, List.foldl_nil]
      refine ⟨by rw [Nat.pow_succ]; omega, fun i => ?_⟩
      have e := Nat.two_pow_add_eq_or_of_lt lt 1
      rw [Nat.mul_one] at e
      rw [split, hf, ← tb, Nat.add_comm, e, Nat.testBit_or, Nat.testBit_two_pow, Bool.or_comm]
      simp [eq_comm]

theorem laneBits_getLsbD (f : Nat → Bool) {i : Nat} (h : i < 64) : (laneBits f).getLsbD i = f i := by
  unfold laneBits
  rw [BitVec.getLsbD_ofNat, (bitSum_testBit f 64).2]; simp [h]

/-- The lanes that take part are those of the captured mask whose combined guard holds (R37). -/
theorem participants_getLsbD (mask : BitVec 64) (pred : PReg → BitVec 64) (c : LaneCtl) {i : Nat} (h : i < 64) :
    (participants mask pred c).getLsbD i = (mask.getLsbD i && guardHolds pred c i) :=
  laneBits_getLsbD _ h

/-- A masked write of one predicate, with the count of its lanes (R97, R98). -/
theorem State.writePred_wrote (s : State) (p : PReg) (m : BitVec 64) (y : Nat → Bool) :
    LanePred s ((s.writePred s.laneCur p m y).countLane m) m p y 0 := by
  have key : ∀ j, ((s.writePred s.laneCur p m y).countLane m).thread j =
      if j = s.laneCur then
        { (s.thread s.laneCur).setPred p.val (mergeBits m (laneBits y) ((s.thread s.laneCur).pred p.val)) with
          counters := bumpMap (bumpMap (s.thread s.laneCur).counters 1 1) 2 (setLanes m).length }
      else s.thread j := by
    intro j
    unfold State.countLane State.writePred
    split
    · next e => subst e; rw [show (s.modThread s.laneCur _).laneCur = s.laneCur from rfl]; simp [Thread.setPred]
    · next e => rw [State.thread_modThread_ne _ _ (by exact e), State.thread_modThread_ne _ _ e]
  refine ⟨fun i hi => ?_, fun q hq => ?_, fun j k => ?_, ?_, ⟨?_, fun j hj => ?_, fun c => rfl, rfl⟩⟩
  · rw [key, if_pos rfl]
    show (((s.thread s.laneCur).setPred p.val _).pred p.val).getLsbD i = _
    rw [Thread.pred_setPred_self]
    simp only [mergeBits, BitVec.getLsbD_or, BitVec.getLsbD_and, BitVec.getLsbD_not, laneBits_getLsbD y hi, hi]
    cases m.getLsbD i <;> simp
  · rw [key, if_pos rfl]
    exact Thread.pred_setPred_ne _ _ hq
  · unfold State.row
    rw [key]
    show _ = _
    split
    · split
      · next e => subst e; rfl
      · rfl
    · rfl
  · rw [key, if_pos rfl]; simp [Thread.setPred]
  · rw [Thread.mapPoints_none, key, if_pos rfl]; rfl
  · rw [key, if_neg hj]

end Sys2Proof.Machine
end

