-- ==== Sys2Proof/Laws/PerInstr.lean ====
section
/-! SUPPORT. One family of facts with a lemma for each constructor of `Instr`: no instruction has both a scalar and a lane
encoding. -/

namespace Sys2Proof.Laws

/-- An instruction has at most one encoding (Tables 3.1 and 3.6). -/
def OneWord.Statement (i : Instr) : Prop := encodeScalarRaw i = none ∨ encodeLaneRaw i = none

theorem OneWord.add (d a b : SReg) : OneWord.Statement (.add d a b) := .inr rfl
theorem OneWord.sub (d a b : SReg) : OneWord.Statement (.sub d a b) := .inr rfl
theorem OneWord.and (d a b : SReg) : OneWord.Statement (.and d a b) := .inr rfl
theorem OneWord.or (d a b : SReg) : OneWord.Statement (.or d a b) := .inr rfl
theorem OneWord.xor (d a b : SReg) : OneWord.Statement (.xor d a b) := .inr rfl
theorem OneWord.andn (d a b : SReg) : OneWord.Statement (.andn d a b) := .inr rfl
theorem OneWord.shl (d a b : SReg) : OneWord.Statement (.shl d a b) := .inr rfl
theorem OneWord.shrZ (d a b : SReg) : OneWord.Statement (.shrZ d a b) := .inr rfl
theorem OneWord.shrS (d a b : SReg) : OneWord.Statement (.shrS d a b) := .inr rfl
theorem OneWord.nop : OneWord.Statement .nop := .inr rfl
theorem OneWord.mul (d a b : SReg) : OneWord.Statement (.mul d a b) := .inr rfl
theorem OneWord.mulhS (d a b : SReg) : OneWord.Statement (.mulhS d a b) := .inr rfl
theorem OneWord.mulhZ (d a b : SReg) : OneWord.Statement (.mulhZ d a b) := .inr rfl
theorem OneWord.divS (d a b : SReg) : OneWord.Statement (.divS d a b) := .inr rfl
theorem OneWord.divZ (d a b : SReg) : OneWord.Statement (.divZ d a b) := .inr rfl
theorem OneWord.remS (d a b : SReg) : OneWord.Statement (.remS d a b) := .inr rfl
theorem OneWord.remZ (d a b : SReg) : OneWord.Statement (.remZ d a b) := .inr rfl
theorem OneWord.minS (d a b : SReg) : OneWord.Statement (.minS d a b) := .inr rfl
theorem OneWord.minZ (d a b : SReg) : OneWord.Statement (.minZ d a b) := .inr rfl
theorem OneWord.maxS (d a b : SReg) : OneWord.Statement (.maxS d a b) := .inr rfl
theorem OneWord.maxZ (d a b : SReg) : OneWord.Statement (.maxZ d a b) := .inr rfl
theorem OneWord.sltS (d a b : SReg) : OneWord.Statement (.sltS d a b) := .inr rfl
theorem OneWord.sltZ (d a b : SReg) : OneWord.Statement (.sltZ d a b) := .inr rfl
theorem OneWord.seq (d a b : SReg) : OneWord.Statement (.seq d a b) := .inr rfl
theorem OneWord.clz (d a : SReg) : OneWord.Statement (.clz d a) := .inr rfl
theorem OneWord.ctz (d a : SReg) : OneWord.Statement (.ctz d a) := .inr rfl
theorem OneWord.popc (d a : SReg) : OneWord.Statement (.popc d a) := .inr rfl
theorem OneWord.bext (d a b : SReg) : OneWord.Statement (.bext d a b) := .inr rfl
theorem OneWord.addi (d a : SReg) (imm : BitVec 13) : OneWord.Statement (.addi d a imm) := .inr rfl
theorem OneWord.andi (d a : SReg) (imm : BitVec 13) : OneWord.Statement (.andi d a imm) := .inr rfl
theorem OneWord.ori (d a : SReg) (imm : BitVec 13) : OneWord.Statement (.ori d a imm) := .inr rfl
theorem OneWord.xori (d a : SReg) (imm : BitVec 13) : OneWord.Statement (.xori d a imm) := .inr rfl
theorem OneWord.shli (d a : SReg) (n : Fin 64) : OneWord.Statement (.shli d a n) := .inr rfl
theorem OneWord.shriZ (d a : SReg) (n : Fin 64) : OneWord.Statement (.shriZ d a n) := .inr rfl
theorem OneWord.shriS (d a : SReg) (n : Fin 64) : OneWord.Statement (.shriS d a n) := .inr rfl
theorem OneWord.sltiS (d a : SReg) (imm : BitVec 13) : OneWord.Statement (.sltiS d a imm) := .inr rfl
theorem OneWord.sltiZ (d a : SReg) (imm : BitVec 13) : OneWord.Statement (.sltiZ d a imm) := .inr rfl
theorem OneWord.bexti (d a : SReg) (pos wid1 : Fin 64) : OneWord.Statement (.bexti d a pos wid1) := .inr rfl
theorem OneWord.lhi (d : SReg) (k : Fin 4) (v : BitVec 17) : OneWord.Statement (.lhi d k v) := .inr rfl
theorem OneWord.pcadd (d : SReg) (imm : BitVec 19) : OneWord.Statement (.pcadd d imm) := .inr rfl
theorem OneWord.ldI8 (d a : SReg) (imm : BitVec 13) : OneWord.Statement (.ldI8 d a imm) := .inr rfl
theorem OneWord.ldZ8 (d a : SReg) (imm : BitVec 13) : OneWord.Statement (.ldZ8 d a imm) := .inr rfl
theorem OneWord.ldI16 (d a : SReg) (imm : BitVec 13) : OneWord.Statement (.ldI16 d a imm) := .inr rfl
theorem OneWord.ldZ16 (d a : SReg) (imm : BitVec 13) : OneWord.Statement (.ldZ16 d a imm) := .inr rfl
theorem OneWord.ldI32 (d a : SReg) (imm : BitVec 13) : OneWord.Statement (.ldI32 d a imm) := .inr rfl
theorem OneWord.ldZ32 (d a : SReg) (imm : BitVec 13) : OneWord.Statement (.ldZ32 d a imm) := .inr rfl
theorem OneWord.ld64 (d a : SReg) (imm : BitVec 13) : OneWord.Statement (.ld64 d a imm) := .inr rfl
theorem OneWord.st8 (d a : SReg) (imm : BitVec 13) : OneWord.Statement (.st8 d a imm) := .inr rfl
theorem OneWord.st16 (d a : SReg) (imm : BitVec 13) : OneWord.Statement (.st16 d a imm) := .inr rfl
theorem OneWord.st32 (d a : SReg) (imm : BitVec 13) : OneWord.Statement (.st32 d a imm) := .inr rfl
theorem OneWord.st64 (d a : SReg) (imm : BitVec 13) : OneWord.Statement (.st64 d a imm) := .inr rfl
theorem OneWord.ldref (d a : SReg) (off : BitVec 10) : OneWord.Statement (.ldref d a off) := .inr rfl
theorem OneWord.stref (d a : SReg) (off : BitVec 10) : OneWord.Statement (.stref d a off) := .inr rfl
theorem OneWord.amoAdd (d a b : SReg) (ord : AmoOrd) (sc : Scope) : OneWord.Statement (.amoAdd d a b ord sc) := .inr rfl
theorem OneWord.amoAnd (d a b : SReg) (ord : AmoOrd) (sc : Scope) : OneWord.Statement (.amoAnd d a b ord sc) := .inr rfl
theorem OneWord.amoOr (d a b : SReg) (ord : AmoOrd) (sc : Scope) : OneWord.Statement (.amoOr d a b ord sc) := .inr rfl
theorem OneWord.amoXor (d a b : SReg) (ord : AmoOrd) (sc : Scope) : OneWord.Statement (.amoXor d a b ord sc) := .inr rfl
theorem OneWord.amoMinS (d a b : SReg) (ord : AmoOrd) (sc : Scope) : OneWord.Statement (.amoMinS d a b ord sc) := .inr rfl
theorem OneWord.amoMinZ (d a b : SReg) (ord : AmoOrd) (sc : Scope) : OneWord.Statement (.amoMinZ d a b ord sc) := .inr rfl
theorem OneWord.amoMaxS (d a b : SReg) (ord : AmoOrd) (sc : Scope) : OneWord.Statement (.amoMaxS d a b ord sc) := .inr rfl
theorem OneWord.amoMaxZ (d a b : SReg) (ord : AmoOrd) (sc : Scope) : OneWord.Statement (.amoMaxZ d a b ord sc) := .inr rfl
theorem OneWord.amoSwap (d a b : SReg) (ord : AmoOrd) (sc : Scope) : OneWord.Statement (.amoSwap d a b ord sc) := .inr rfl
theorem OneWord.amoCas (d a b : SReg) (ord : AmoOrd) (sc : Scope) : OneWord.Statement (.amoCas d a b ord sc) := .inr rfl
theorem OneWord.beq (a b : SReg) (off : BitVec 13) : OneWord.Statement (.beq a b off) := .inr rfl
theorem OneWord.bne (a b : SReg) (off : BitVec 13) : OneWord.Statement (.bne a b off) := .inr rfl
theorem OneWord.bltS (a b : SReg) (off : BitVec 13) : OneWord.Statement (.bltS a b off) := .inr rfl
theorem OneWord.bgeS (a b : SReg) (off : BitVec 13) : OneWord.Statement (.bgeS a b off) := .inr rfl
theorem OneWord.bltZ (a b : SReg) (off : BitVec 13) : OneWord.Statement (.bltZ a b off) := .inr rfl
theorem OneWord.bgeZ (a b : SReg) (off : BitVec 13) : OneWord.Statement (.bgeZ a b off) := .inr rfl
theorem OneWord.jal (d : SReg) (off : BitVec 19) : OneWord.Statement (.jal d off) := .inr rfl
theorem OneWord.jalr (d a : SReg) (off : BitVec 13) : OneWord.Statement (.jalr d a off) := .inr rfl
theorem OneWord.bany (p : PReg) (off : BitVec 13) : OneWord.Statement (.bany p off) := .inr rfl
theorem OneWord.ball (p : PReg) (off : BitVec 13) : OneWord.Statement (.ball p off) := .inr rfl
theorem OneWord.divb (p : PReg) (off : BitVec 13) : OneWord.Statement (.divb p off) := .inr rfl
theorem OneWord.delse (off : BitVec 19) : OneWord.Statement (.delse off) := .inr rfl
theorem OneWord.djoin : OneWord.Statement .djoin := .inr rfl
theorem OneWord.dloop (off : BitVec 19) : OneWord.Statement (.dloop off) := .inr rfl
theorem OneWord.dbrk (p : PReg) : OneWord.Statement (.dbrk p) := .inr rfl
theorem OneWord.dnext (off : BitVec 19) : OneWord.Statement (.dnext off) := .inr rfl
theorem OneWord.sget (d : SReg) (idx : BitVec 12) : OneWord.Statement (.sget d idx) := .inr rfl
theorem OneWord.sset (a : SReg) (idx : BitVec 12) : OneWord.Statement (.sset a idx) := .inr rfl
theorem OneWord.tbind (t : BtReg) (a b : SReg) : OneWord.Statement (.tbind t a b) := .inr rfl
theorem OneWord.lrun (n : BitVec 19) : OneWord.Statement (.lrun n) := .inr rfl
theorem OneWord.lsync : OneWord.Statement .lsync := .inr rfl
theorem OneWord.sfromv (d : SReg) (v : VReg) (lane : Fin 64) : OneWord.Statement (.sfromv d v lane) := .inr rfl
theorem OneWord.sfromp (d : SReg) (p : PReg) : OneWord.Statement (.sfromp d p) := .inr rfl
theorem OneWord.vadd (t : IType) (d a : VReg) (b : BSrc) (c : LaneCtl) : OneWord.Statement (.vadd t d a b c) := .inl rfl
theorem OneWord.vsub (t : IType) (d a : VReg) (b : BSrc) (c : LaneCtl) : OneWord.Statement (.vsub t d a b c) := .inl rfl
theorem OneWord.vmul (t : IType) (d a : VReg) (b : BSrc) (c : LaneCtl) : OneWord.Statement (.vmul t d a b c) := .inl rfl
theorem OneWord.vmulhS (t : IType) (d a : VReg) (b : BSrc) (c : LaneCtl) : OneWord.Statement (.vmulhS t d a b c) := .inl rfl
theorem OneWord.vmulhZ (t : IType) (d a : VReg) (b : BSrc) (c : LaneCtl) : OneWord.Statement (.vmulhZ t d a b c) := .inl rfl
theorem OneWord.vmad (t : IType) (d a : VReg) (b : BSrc) (x : CSrc) (c : LaneCtl) : OneWord.Statement (.vmad t d a b x c) := .inl rfl
theorem OneWord.vand (t : IType) (d a : VReg) (b : BSrc) (c : LaneCtl) : OneWord.Statement (.vand t d a b c) := .inl rfl
theorem OneWord.vor (t : IType) (d a : VReg) (b : BSrc) (c : LaneCtl) : OneWord.Statement (.vor t d a b c) := .inl rfl
theorem OneWord.vxor (t : IType) (d a : VReg) (b : BSrc) (c : LaneCtl) : OneWord.Statement (.vxor t d a b c) := .inl rfl
theorem OneWord.vandn (t : IType) (d a : VReg) (b : BSrc) (c : LaneCtl) : OneWord.Statement (.vandn t d a b c) := .inl rfl
theorem OneWord.vshl (t : IType) (d a : VReg) (b : BSrc) (c : LaneCtl) : OneWord.Statement (.vshl t d a b c) := .inl rfl
theorem OneWord.vshrZ (t : IType) (d a : VReg) (b : BSrc) (c : LaneCtl) : OneWord.Statement (.vshrZ t d a b c) := .inl rfl
theorem OneWord.vshrS (t : IType) (d a : VReg) (b : BSrc) (c : LaneCtl) : OneWord.Statement (.vshrS t d a b c) := .inl rfl
theorem OneWord.vminS (t : IType) (d a : VReg) (b : BSrc) (c : LaneCtl) : OneWord.Statement (.vminS t d a b c) := .inl rfl
theorem OneWord.vminZ (t : IType) (d a : VReg) (b : BSrc) (c : LaneCtl) : OneWord.Statement (.vminZ t d a b c) := .inl rfl
theorem OneWord.vmaxS (t : IType) (d a : VReg) (b : BSrc) (c : LaneCtl) : OneWord.Statement (.vmaxS t d a b c) := .inl rfl
theorem OneWord.vmaxZ (t : IType) (d a : VReg) (b : BSrc) (c : LaneCtl) : OneWord.Statement (.vmaxZ t d a b c) := .inl rfl
theorem OneWord.vabs (t : IType) (d a : VReg) (c : LaneCtl) : OneWord.Statement (.vabs t d a c) := .inl rfl
theorem OneWord.vsel (t : IType) (d a : VReg) (b : BSrc) (p : PReg) (c : LaneCtl) : OneWord.Statement (.vsel t d a b p c) := .inl rfl
theorem OneWord.vmov (t : IType) (d : VReg) (b : BSrc) (c : LaneCtl) : OneWord.Statement (.vmov t d b c) := .inl rfl
theorem OneWord.vclz (t : IType) (d a : VReg) (c : LaneCtl) : OneWord.Statement (.vclz t d a c) := .inl rfl
theorem OneWord.vpopc (t : IType) (d a : VReg) (c : LaneCtl) : OneWord.Statement (.vpopc t d a c) := .inl rfl
theorem OneWord.vbext (t : IType) (d a : VReg) (b : BSrc) (c : LaneCtl) : OneWord.Statement (.vbext t d a b c) := .inl rfl
theorem OneWord.vcmp (t : IType) (cc : Cmp) (d : PReg) (a : VReg) (b : BSrc) (c : LaneCtl) : OneWord.Statement (.vcmp t cc d a b c) := .inl rfl
theorem OneWord.pand (d a : PReg) (b : PSrc) (c : LaneCtl) : OneWord.Statement (.pand d a b c) := .inl rfl
theorem OneWord.por (d a : PReg) (b : PSrc) (c : LaneCtl) : OneWord.Statement (.por d a b c) := .inl rfl
theorem OneWord.pxor (d a : PReg) (b : PSrc) (c : LaneCtl) : OneWord.Statement (.pxor d a b c) := .inl rfl
theorem OneWord.pandn (d a : PReg) (b : PSrc) (c : LaneCtl) : OneWord.Statement (.pandn d a b c) := .inl rfl
theorem OneWord.pset (d : PReg) (b : BSrc) (c : LaneCtl) : OneWord.Statement (.pset d b c) := .inl rfl
theorem OneWord.pget (d : VReg) (a : PReg) (c : LaneCtl) : OneWord.Statement (.pget d a c) := .inl rfl
theorem OneWord.vxchg (t : IType) (d a : VReg) (b : BSrc) (c : LaneCtl) : OneWord.Statement (.vxchg t d a b c) := .inl rfl
theorem OneWord.vshift (t : IType) (d a : VReg) (b : BSrc) (c : LaneCtl) : OneWord.Statement (.vshift t d a b c) := .inl rfl
theorem OneWord.vperm (t : IType) (d a b : VReg) (c : LaneCtl) : OneWord.Statement (.vperm t d a b c) := .inl rfl
theorem OneWord.vbcast (t : IType) (d a : VReg) (b : BSrc) (c : LaneCtl) : OneWord.Statement (.vbcast t d a b c) := .inl rfl
theorem OneWord.vred (op : RedOp) (t : IType) (d a : VReg) (c : LaneCtl) : OneWord.Statement (.vred op t d a c) := .inl rfl
theorem OneWord.vscan (op : RedOp) (t : IType) (d a : VReg) (c : LaneCtl) : OneWord.Statement (.vscan op t d a c) := .inl rfl
theorem OneWord.vld (t : IType) (d : VReg) (bt : BtReg) (m : LaneAddr) (h : Hint) (fb : Bool) (c : LaneCtl) : OneWord.Statement (.vld t d bt m h fb c) := .inl rfl
theorem OneWord.vst (t : IType) (bt : BtReg) (m : LaneAddr) (e : VReg) (h : Hint) (fb : Bool) (c : LaneCtl) : OneWord.Statement (.vst t bt m e h fb c) := .inl rfl
theorem OneWord.vlds (t : IType) (d : VReg) (m : LaneAddr) (c : LaneCtl) : OneWord.Statement (.vlds t d m c) := .inl rfl
theorem OneWord.vsts (t : IType) (m : LaneAddr) (e : VReg) (c : LaneCtl) : OneWord.Statement (.vsts t m e c) := .inl rfl
theorem OneWord.vamo (op : AmoOp) (t : IType) (d : VReg) (bt : BtReg) (m : LaneAddr) (e : VReg) (h : Hint) (fb : Bool) (c : LaneCtl) : OneWord.Statement (.vamo op t d bt m e h fb c) := .inl rfl
theorem OneWord.vrand (d a : VReg) (k : SReg) (c : LaneCtl) : OneWord.Statement (.vrand d a k c) := .inl rfl
theorem OneWord.vnop (c : LaneCtl) : OneWord.Statement (.vnop c) := .inl rfl
theorem OneWord.vfadd (t : FType) (r : RndOv) (d a : VReg) (b : BSrc) (c : LaneCtl) : OneWord.Statement (.vfadd t r d a b c) := .inl rfl
theorem OneWord.vfsub (t : FType) (r : RndOv) (d a : VReg) (b : BSrc) (c : LaneCtl) : OneWord.Statement (.vfsub t r d a b c) := .inl rfl
theorem OneWord.vfmul (t : FType) (r : RndOv) (d a : VReg) (b : BSrc) (c : LaneCtl) : OneWord.Statement (.vfmul t r d a b c) := .inl rfl
theorem OneWord.vfma (t : FType) (r : RndOv) (d a : VReg) (b : BSrc) (x : CSrc) (c : LaneCtl) : OneWord.Statement (.vfma t r d a b x c) := .inl rfl
theorem OneWord.vfmin (t : FType) (r : RndOv) (d a : VReg) (b : BSrc) (c : LaneCtl) : OneWord.Statement (.vfmin t r d a b c) := .inl rfl
theorem OneWord.vfmax (t : FType) (r : RndOv) (d a : VReg) (b : BSrc) (c : LaneCtl) : OneWord.Statement (.vfmax t r d a b c) := .inl rfl
theorem OneWord.vfsgn (t : FType) (r : RndOv) (d a : VReg) (b : BSrc) (c : LaneCtl) : OneWord.Statement (.vfsgn t r d a b c) := .inl rfl
theorem OneWord.vfcmp (t : FType) (cc : FCmp) (r : RndOv) (d : PReg) (a : VReg) (b : BSrc) (c : LaneCtl) : OneWord.Statement (.vfcmp t cc r d a b c) := .inl rfl
theorem OneWord.vfcls (t : FType) (r : RndOv) (d a : VReg) (c : LaneCtl) : OneWord.Statement (.vfcls t r d a c) := .inl rfl
theorem OneWord.vfrnd (t : FType) (r : RndOv) (d a : VReg) (c : LaneCtl) : OneWord.Statement (.vfrnd t r d a c) := .inl rfl
theorem OneWord.vfcvt (td ts : CvtType) (r : RndOv) (d a : VReg) (b : BSrc) (c : LaneCtl) : OneWord.Statement (.vfcvt td ts r d a b c) := .inl rfl
theorem OneWord.vquant (t : QType) (l : BlockLen) (sf : ScaleFmt) (r : RndOv) (d a : VReg) (c : LaneCtl) : OneWord.Statement (.vquant t l sf r d a c) := .inl rfl
theorem OneWord.vdequant (t : QType) (l : BlockLen) (sf : ScaleFmt) (r : RndOv) (d a : VReg) (b : BSrc) (c : LaneCtl) : OneWord.Statement (.vdequant t l sf r d a b c) := .inl rfl
theorem OneWord.vrcp (t : SType) (r : RndOv) (d a : VReg) (c : LaneCtl) : OneWord.Statement (.vrcp t r d a c) := .inl rfl
theorem OneWord.vrsqrt (t : SType) (r : RndOv) (d a : VReg) (c : LaneCtl) : OneWord.Statement (.vrsqrt t r d a c) := .inl rfl
theorem OneWord.vsqrt (t : SType) (r : RndOv) (d a : VReg) (c : LaneCtl) : OneWord.Statement (.vsqrt t r d a c) := .inl rfl
theorem OneWord.vexp2 (t : SType) (r : RndOv) (d a : VReg) (c : LaneCtl) : OneWord.Statement (.vexp2 t r d a c) := .inl rfl
theorem OneWord.vlog2 (t : SType) (r : RndOv) (d a : VReg) (c : LaneCtl) : OneWord.Statement (.vlog2 t r d a c) := .inl rfl
theorem OneWord.vsin (t : SType) (r : RndOv) (d a : VReg) (c : LaneCtl) : OneWord.Statement (.vsin t r d a c) := .inl rfl
theorem OneWord.vcos (t : SType) (r : RndOv) (d a : VReg) (c : LaneCtl) : OneWord.Statement (.vcos t r d a c) := .inl rfl
theorem OneWord.vtanh (t : SType) (r : RndOv) (d a : VReg) (c : LaneCtl) : OneWord.Statement (.vtanh t r d a c) := .inl rfl
theorem OneWord.mfmt (a : SReg) : OneWord.Statement (.mfmt a) := .inr rfl
theorem OneWord.mzero (t : TileReg) : OneWord.Statement (.mzero t) := .inr rfl
theorem OneWord.mma (t : TileReg) (a b : SReg) : OneWord.Statement (.mma t a b) := .inr rfl
theorem OneWord.mmaq (t : TileReg) (a b : SReg) : OneWord.Statement (.mmaq t a b) := .inr rfl
theorem OneWord.mmaRn (t : TileReg) (a b : SReg) : OneWord.Statement (.mmaRn t a b) := .inr rfl
theorem OneWord.mbatch (d : SReg) : OneWord.Statement (.mbatch d) := .inr rfl
theorem OneWord.mwait (a : SReg) : OneWord.Statement (.mwait a) := .inr rfl
theorem OneWord.mresolveI32 (t : TileReg) (a : SReg) : OneWord.Statement (.mresolveI32 t a) := .inr rfl
theorem OneWord.mresolveTile (t : TileReg) (a : SReg) : OneWord.Statement (.mresolveTile t a) := .inr rfl
theorem OneWord.mresolveRow (t : TileReg) (a : SReg) : OneWord.Statement (.mresolveRow t a) := .inr rfl
theorem OneWord.mld (t : TileReg) (a : SReg) : OneWord.Statement (.mld t a) := .inr rfl
theorem OneWord.mst (t : TileReg) (a : SReg) (f : MstFmt) : OneWord.Statement (.mst t a f) := .inr rfl
theorem OneWord.mstQE8m0 (t : TileReg) (a : SReg) (f : MstFmt) : OneWord.Statement (.mstQE8m0 t a f) := .inr rfl
theorem OneWord.mstQE4m3 (t : TileReg) (a : SReg) (f : MstFmt) : OneWord.Statement (.mstQE4m3 t a f) := .inr rfl
theorem OneWord.tcopyIn (tag : Fin 64) (a : SReg) : OneWord.Statement (.tcopyIn tag a) := .inr rfl
theorem OneWord.tcopyInKey (tag : Fin 64) (a : SReg) (k : Fin 16) : OneWord.Statement (.tcopyInKey tag a k) := .inr rfl
theorem OneWord.tcopyOut (tag : Fin 64) (a : SReg) : OneWord.Statement (.tcopyOut tag a) := .inr rfl
theorem OneWord.tcopySs (tag : Fin 64) (a : SReg) : OneWord.Statement (.tcopySs tag a) := .inr rfl
theorem OneWord.tgather (tag : Fin 64) (a b : SReg) : OneWord.Statement (.tgather tag a b) := .inr rfl
theorem OneWord.tbin (tag : Fin 64) (a b : SReg) (v : VReg) : OneWord.Statement (.tbin tag a b v) := .inr rfl
theorem OneWord.hread (a : SReg) (tag : SReg) (off : BitVec 13) : OneWord.Statement (.hread a tag off) := .inr rfl
theorem OneWord.twaitAny (d a : SReg) : OneWord.Statement (.twaitAny d a) := .inr rfl
theorem OneWord.twaitAll (d a : SReg) : OneWord.Statement (.twaitAll d a) := .inr rfl
theorem OneWord.tfirst (d a : SReg) : OneWord.Statement (.tfirst d a) := .inr rfl
theorem OneWord.tclr (a : SReg) : OneWord.Statement (.tclr a) := .inr rfl
theorem OneWord.barInit (a b : SReg) : OneWord.Statement (.barInit a b) := .inr rfl
theorem OneWord.barExpect (a b : SReg) : OneWord.Statement (.barExpect a b) := .inr rfl
theorem OneWord.barArrive (a b : SReg) : OneWord.Statement (.barArrive a b) := .inr rfl
theorem OneWord.barWait (a b : SReg) : OneWord.Statement (.barWait a b) := .inr rfl
theorem OneWord.barTest (d a b : SReg) : OneWord.Statement (.barTest d a b) := .inr rfl
theorem OneWord.ringInit (a b : SReg) : OneWord.Statement (.ringInit a b) := .inr rfl
theorem OneWord.ringFill (tag : Fin 64) (a b : SReg) : OneWord.Statement (.ringFill tag a b) := .inr rfl
theorem OneWord.ringAwait (d a : SReg) : OneWord.Statement (.ringAwait d a) := .inr rfl
theorem OneWord.ringRelease (a : SReg) : OneWord.Statement (.ringRelease a) := .inr rfl
theorem OneWord.fenceAcq (sc : Scope) : OneWord.Statement (.fenceAcq sc) := .inr rfl
theorem OneWord.fenceRel (sc : Scope) : OneWord.Statement (.fenceRel sc) := .inr rfl
theorem OneWord.fenceAr (sc : Scope) : OneWord.Statement (.fenceAr sc) := .inr rfl
theorem OneWord.tfence (sc : Scope) : OneWord.Statement (.tfence sc) := .inr rfl
theorem OneWord.bsync : OneWord.Statement .bsync := .inr rfl
theorem OneWord.rsync (w : Fin 7) (h : Fin 5) : OneWord.Statement (.rsync w h) := .inr rfl
theorem OneWord.publish (tag : Fin 64) (a : SReg) (sc : Scope) : OneWord.Statement (.publish tag a sc) := .inr rfl
theorem OneWord.launch (d a : SReg) : OneWord.Statement (.launch d a) := .inr rfl
theorem OneWord.exit : OneWord.Statement .exit := .inr rfl
theorem OneWord.yield : OneWord.Statement .yield := .inr rfl
theorem OneWord.phase (a : SReg) : OneWord.Statement (.phase a) := .inr rfl
theorem OneWord.idem : OneWord.Statement .idem := .inr rfl
theorem OneWord.trap (code : BitVec 19) : OneWord.Statement (.trap code) := .inr rfl
theorem OneWord.tret : OneWord.Statement .tret := .inr rfl
theorem OneWord.ginspect (d a b : SReg) : OneWord.Statement (.ginspect d a b) := .inr rfl
theorem OneWord.gmodify (a b : SReg) : OneWord.Statement (.gmodify a b) := .inr rfl
theorem OneWord.gresume (a : SReg) : OneWord.Statement (.gresume a) := .inr rfl
theorem OneWord.gend (a : SReg) : OneWord.Statement (.gend a) := .inr rfl
theorem OneWord.sysc (n : BitVec 19) : OneWord.Statement (.sysc n) := .inr rfl
theorem OneWord.tlbinv (a b : SReg) : OneWord.Statement (.tlbinv a b) := .inr rfl
theorem OneWord.tlbfence : OneWord.Statement .tlbfence := .inr rfl
theorem OneWord.pgfree (a : SReg) : OneWord.Statement (.pgfree a) := .inr rfl
theorem OneWord.pgalloc (d : SReg) : OneWord.Statement (.pgalloc d) := .inr rfl
theorem OneWord.lend (a b : SReg) : OneWord.Statement (.lend a b) := .inr rfl
theorem OneWord.recall (a : SReg) : OneWord.Statement (.recall a) := .inr rfl
theorem OneWord.keyload (a b : SReg) : OneWord.Statement (.keyload a b) := .inr rfl
theorem OneWord.wfe : OneWord.Statement .wfe := .inr rfl
theorem OneWord.iret : OneWord.Statement .iret := .inr rfl
theorem OneWord.tileOpen (t : TileReg) (a : SReg) : OneWord.Statement (.tileOpen t a) := .inr rfl
theorem OneWord.tileClose (t : TileReg) : OneWord.Statement (.tileClose t) := .inr rfl
theorem OneWord.trig (n : Fin 16) : OneWord.Statement (.trig n) := .inr rfl
theorem OneWord.cnt (d : SReg) (idx : BitVec 12) : OneWord.Statement (.cnt d idx) := .inr rfl
theorem OneWord.ftvWrite : OneWord.Statement .ftvWrite := .inr rfl
theorem OneWord.fpxWrite : OneWord.Statement .fpxWrite := .inr rfl
theorem OneWord.stopatWrite : OneWord.Statement .stopatWrite := .inr rfl
theorem OneWord.scalarLoadReturn : OneWord.Statement .scalarLoadReturn := .inr rfl
theorem OneWord.storeQueueDrain : OneWord.Statement .storeQueueDrain := .inr rfl
theorem OneWord.atomicPerform : OneWord.Statement .atomicPerform := .inr rfl
theorem OneWord.loadBind : OneWord.Statement .loadBind := .inr rfl
theorem OneWord.faultReplay : OneWord.Statement .faultReplay := .inr rfl
theorem OneWord.operandLogEntryFree : OneWord.Statement .operandLogEntryFree := .inr rfl
theorem OneWord.clauseStart : OneWord.Statement .clauseStart := .inr rfl
theorem OneWord.laneIssue : OneWord.Statement .laneIssue := .inr rfl
theorem OneWord.longLatencyComplete : OneWord.Statement .longLatencyComplete := .inr rfl
theorem OneWord.matrixOpStart : OneWord.Statement .matrixOpStart := .inr rfl
theorem OneWord.matrixOpComplete : OneWord.Statement .matrixOpComplete := .inr rfl
theorem OneWord.engineOperationComplete : OneWord.Statement .engineOperationComplete := .inr rfl
theorem OneWord.burstDelivery : OneWord.Statement .burstDelivery := .inr rfl
theorem OneWord.sproutTimeLimit : OneWord.Statement .sproutTimeLimit := .inr rfl
theorem OneWord.lastBurstEvent : OneWord.Statement .lastBurstEvent := .inr rfl
theorem OneWord.ringFillStart : OneWord.Statement .ringFillStart := .inr rfl
theorem OneWord.engineAccess : OneWord.Statement .engineAccess := .inr rfl
theorem OneWord.hostReadback : OneWord.Statement .hostReadback := .inr rfl
theorem OneWord.pageWalk : OneWord.Statement .pageWalk := .inr rfl
theorem OneWord.barrierComplete : OneWord.Statement .barrierComplete := .inr rfl
theorem OneWord.rakeMark : OneWord.Statement .rakeMark := .inr rfl
theorem OneWord.rakeSet : OneWord.Statement .rakeSet := .inr rfl
theorem OneWord.overflowRefill : OneWord.Statement .overflowRefill := .inr rfl
theorem OneWord.launchAging : OneWord.Statement .launchAging := .inr rfl
theorem OneWord.launchPlacement : OneWord.Statement .launchPlacement := .inr rfl
theorem OneWord.launchCompletion : OneWord.Statement .launchCompletion := .inr rfl
theorem OneWord.trapEntry : OneWord.Statement .trapEntry := .inr rfl
theorem OneWord.syscMessage : OneWord.Statement .syscMessage := .inr rfl
theorem OneWord.registerParityError : OneWord.Statement .registerParityError := .inr rfl
theorem OneWord.blockMigration : OneWord.Statement .blockMigration := .inr rfl
theorem OneWord.tlbInvalidationApply : OneWord.Statement .tlbInvalidationApply := .inr rfl
theorem OneWord.scrubFrame : OneWord.Statement .scrubFrame := .inr rfl
theorem OneWord.recallDeadline : OneWord.Statement .recallDeadline := .inr rfl
theorem OneWord.interruptEntry : OneWord.Statement .interruptEntry := .inr rfl
theorem OneWord.ipendWrite : OneWord.Statement .ipendWrite := .inr rfl
theorem OneWord.lcompWrite : OneWord.Statement .lcompWrite := .inr rfl
theorem OneWord.fpostWrite : OneWord.Statement .fpostWrite := .inr rfl
theorem OneWord.syscPostWrite : OneWord.Statement .syscPostWrite := .inr rfl
theorem OneWord.vfWeightWrite : OneWord.Statement .vfWeightWrite := .inr rfl
theorem OneWord.vfQuantumWrite : OneWord.Statement .vfQuantumWrite := .inr rfl
theorem OneWord.vfRootWrite : OneWord.Statement .vfRootWrite := .inr rfl
theorem OneWord.winVaWrite : OneWord.Statement .winVaWrite := .inr rfl
theorem OneWord.hringWrite : OneWord.Statement .hringWrite := .inr rfl
theorem OneWord.sliceEnd : OneWord.Statement .sliceEnd := .inr rfl
theorem OneWord.sharedPagePoison : OneWord.Statement .sharedPagePoison := .inr rfl
theorem OneWord.sessionEnd : OneWord.Statement .sessionEnd := .inr rfl
theorem OneWord.dbgCtxidWrite : OneWord.Statement .dbgCtxidWrite := .inr rfl
theorem OneWord.dbgPanicWrite : OneWord.Statement .dbgPanicWrite := .inr rfl
theorem OneWord.dbgRunWrite : OneWord.Statement .dbgRunWrite := .inr rfl
theorem OneWord.trcStateWrite : OneWord.Statement .trcStateWrite := .inr rfl
theorem OneWord.samplerTick : OneWord.Statement .samplerTick := .inr rfl
theorem OneWord.packageStop : OneWord.Statement .packageStop := .inr rfl
theorem OneWord.plotStop : OneWord.Statement .plotStop := .inr rfl
theorem OneWord.imageRestore : OneWord.Statement .imageRestore := .inr rfl
theorem OneWord.referenceLoss : OneWord.Statement .referenceLoss := .inr rfl
theorem OneWord.referenceReturn : OneWord.Statement .referenceReturn := .inr rfl
theorem OneWord.referenceHoldoverTimeout : OneWord.Statement .referenceHoldoverTimeout := .inr rfl
theorem OneWord.clusterRatioChange : OneWord.Statement .clusterRatioChange := .inr rfl
theorem OneWord.dramRefresh : OneWord.Statement .dramRefresh := .inr rfl
theorem OneWord.gateAdmission : OneWord.Statement .gateAdmission := .inr rfl
theorem OneWord.gateControlWrite : OneWord.Statement .gateControlWrite := .inr rfl
theorem OneWord.outboundTransaction : OneWord.Statement .outboundTransaction := .inr rfl
theorem OneWord.replayInject : OneWord.Statement .replayInject := .inr rfl
theorem OneWord.hostWindowRequest : OneWord.Statement .hostWindowRequest := .inr rfl
theorem OneWord.lockInterface : OneWord.Statement .lockInterface := .inr rfl
theorem OneWord.stopInterface : OneWord.Statement .stopInterface := .inr rfl
theorem OneWord.configurationRequest : OneWord.Statement .configurationRequest := .inr rfl
theorem OneWord.brixvexFlit : OneWord.Statement .brixvexFlit := .inr rfl
theorem OneWord.nvmeDoorbell : OneWord.Statement .nvmeDoorbell := .inr rfl
theorem OneWord.nvmeCompletion : OneWord.Statement .nvmeCompletion := .inr rfl
theorem OneWord.cxlResponse : OneWord.Statement .cxlResponse := .inr rfl
theorem OneWord.alignmentExchange : OneWord.Statement .alignmentExchange := .inr rfl
theorem OneWord.powerUp : OneWord.Statement .powerUp := .inr rfl
theorem OneWord.fatalDump : OneWord.Statement .fatalDump := .inr rfl
theorem OneWord.powerThermalAlert : OneWord.Statement .powerThermalAlert := .inr rfl
theorem OneWord.startInterface : OneWord.Statement .startInterface := .inr rfl
theorem OneWord.spdmRequest : OneWord.Statement .spdmRequest := .inr rfl
theorem OneWord.packageRelease : OneWord.Statement .packageRelease := .inr rfl
theorem OneWord.softError : OneWord.Statement .softError := .inr rfl
theorem OneWord.uncorrectableLineError : OneWord.Statement .uncorrectableLineError := .inr rfl

end Sys2Proof.Laws
end

