-- ==== Sys2Proof/Laws/Traps.lean ====
section
/-! SUPPORT. Taking a trap and taking an interrupt, said once: what the shared operations do when they go to a handler. -/

namespace Sys2Proof.Machine

open Sys2Proof

/-! ### Halting the siblings (R286 item 1) -/

theorem State.haltFold (core g : Nat) (l : List Nat) (s : State) (hl : l.Nodup) :
    let h (s' : State) (x : Nat) : State :=
      if x ≠ g ∧ (fget? s'.threads (groupKey core x)).isSome ∧ (s'.thread (groupKey core x)).status = .running then
        s'.modThread (groupKey core x) (fun t => { t.unspec with status := .halted, haltedBy := some g })
      else s'
    (∀ k, (∀ x ∈ l, groupKey core x ≠ k) → (l.foldl h s).thread k = s.thread k) ∧
      (l.foldl h s).thread (groupKey core g) = s.thread (groupKey core g) ∧
      (∀ x ∈ l, x ≠ g → (fget? s.threads (groupKey core x)).isSome = true → (s.thread (groupKey core x)).status = .running →
        ((l.foldl h s).thread (groupKey core x)).status = .halted) ∧
      l.foldl h s = { s with threads := (l.foldl h s).threads } := by
  induction l generalizing s with
  | nil => exact ⟨fun _ _ => rfl, rfl, fun _ hx => absurd hx List.not_mem_nil, rfl⟩
  | cons a l ih =>
    intro h
    obtain ⟨na, nl⟩ := List.nodup_cons.1 hl
    obtain ⟨i1, i2, i3, i4⟩ := ih (h s a) nl
    have ne : ∀ k, k ≠ groupKey core a → (h s a).thread k = s.thread k := by
      intro k hk; simp only [h]; split
      · exact s.thread_modThread_ne _ hk
      · rfl
    have nf : ∀ k, k ≠ groupKey core a → fget? (h s a).threads k = fget? s.threads k := by
      intro k hk; simp only [h]; split
      · exact fget?_fset_ne _ _ hk
      · rfl
    have inj : ∀ x y, groupKey core x = groupKey core y → x = y := by intro x y e; unfold groupKey at e; omega
    refine ⟨?_, ?_, ?_, ?_⟩
    · intro k hk
      rw [List.foldl_cons, i1 k (fun x hx => hk x (List.mem_cons_of_mem _ hx))]
      exact ne k (fun e => hk a List.mem_cons_self e.symm)
    · rw [List.foldl_cons, i2]
      by_cases e : a = g
      · subst e; simp [h]
      · exact ne _ (fun e' => e (inj _ _ e'.symm))
    · intro x hx hg hs hr
      rw [List.foldl_cons]
      rcases List.mem_cons.1 hx with e | hx
      · subst e
        have : ((h s x).thread (groupKey core x)).status = .halted := by
          simp only [h]; rw [if_pos ⟨hg, hs, hr⟩]; simp
        rw [i1 _ (fun y hy e => na (by rw [← inj _ _ e]; exact hy))]; exact this
      · have hk : groupKey core x ≠ groupKey core a := fun e => na (by rw [← inj _ _ e]; exact hx)
        exact i3 x hx hg (by rw [nf _ hk]; exact hs) (by rw [ne _ hk]; exact hr)
    · rw [List.foldl_cons, i4]
      have : h s a = { s with threads := (h s a).threads } := by simp only [h]; split <;> rfl
      rw [this]

theorem State.haltSiblings_spec (s : State) (core g : Nat) :
    (s.haltSiblings core g).thread (groupKey core g) = s.thread (groupKey core g) ∧
      (∀ x, x < 16 → x ≠ g → (fget? s.threads (groupKey core x)).isSome = true → (s.thread (groupKey core x)).status = .running →
        ((s.haltSiblings core g).thread (groupKey core x)).status = .halted) ∧
      s.haltSiblings core g = { s with threads := (s.haltSiblings core g).threads } := by
  have h := State.haltFold core g (List.range 16) s List.nodup_range
  exact ⟨h.2.1, fun x hx => h.2.2.1 x (List.mem_range.2 hx), h.2.2.2⟩

/-- A group's key from its core and its context. -/
theorem groupKey_of_key (key : Nat) :
    groupKey (coreOfKey key) (ctxOfKey key) = key := by
  unfold groupKey coreOfKey ctxOfKey; omega

/-! ### Entering the handler (R286) -/

/-- An agent that has fetched past no unresolved branch has nothing to take back. -/
theorem Thread.unspec_of_none {t : Thread} (h : t.spec = none) : t.unspec = t := by unfold Thread.unspec; rw [h]


/-- A trap of a group that can enter its handler enters it. -/
theorem State.takeTrap_inHandler {s : State} {key : Nat} {b : Block} {x : Xlat} (h : CanEnter s key b x) (pt : PendingTrap) :
    InHandler s (s.takeTrap key pt) key b pt.cause pt.pc := by
  have hk := groupKey_of_key key
  obtain ⟨h1, h2, h3⟩ := s.haltSiblings_spec (coreOfKey key) (ctxOfKey key)
  rw [hk] at h1
  have ha : s.admitWrite (.area key) x.pa = (s, true) := by
    unfold State.admitWrite
    rw [State.blocks_of_none h.taken.1, h.taken.2, State.leave_of_none h.taken.1]; rfl
  unfold State.takeTrap
  have hst : ¬ ((s.thread key).status = .handler) := by rw [h.runs]; decide
  simp only [h.trapEn, hst, h.block, h.noHandler, h.first, Block.recordVa, h.page, h.writable, decide_false, Bool.not_true,
    Bool.or_self, Bool.false_eq_true, if_false, Option.isSome_none, if_true, ha, State.enterTrap]
  generalize hm : State.put _ _ _ _ = u
  have tu : ∀ k, u.thread k = (s.haltSiblings (coreOfKey key) (ctxOfKey key)).thread k := by
    intro k; unfold State.thread; rw [← hm, State.put_threads]; rfl
  have te : ((u.modThread key (fun t => t.unspec.enterHandler pt (b.area + 0x80000 + 0x800 * ctxOfKey key) (s.launchOf key).handlerPc)).fill key
      (b.area + 0x80000 + 0x800 * ctxOfKey key) (.ok x)).thread key =
      (s.thread key).enterHandler pt (b.area + 0x80000 + 0x800 * ctxOfKey key) (s.launchOf key).handlerPc := by
    rw [State.thread_fill, State.thread_modThread_self, tu, h1, Thread.unspec_of_none h.resolved]
  have hset : ∀ r : SReg, r.val < 60 → ((s.thread key).enterHandler pt (b.area + 0x80000 + 0x800 * ctxOfKey key)
      (s.launchOf key).handlerPc).sreg r = (s.thread key).sreg r := by
    intro r hr
    simp only [Thread.sreg, Thread.enterHandler]
    rw [fgetD_fset_ne _ _ _ (by omega), fgetD_fset_ne _ _ _ (by omega), fgetD_fset_ne _ _ _ (by omega),
      fgetD_fset_ne _ _ _ (by omega)]
  refine ⟨?_, ?_, ?_, ?_, ?_, ?_, ?_, ?_, ?_, ?_, ?_, ?_, ?_, ?_⟩
  all_goals try rw [te]
  all_goals try rfl
  · simp [Thread.sreg, Thread.enterHandler, fgetD_fset]
  · simp [Thread.sreg, Thread.enterHandler, fgetD_fset]
  · simp [Thread.sreg, Thread.enterHandler, fgetD_fset]
  · simp [Thread.sreg, Thread.enterHandler]
  · exact hset
  · exact ⟨rfl, rfl⟩
  · intro g hg hne hs hr
    rw [State.thread_fill, State.thread_modThread_ne _ _ hne, tu]
    exact h2 g hg (fun e => hne (by rw [e]; exact hk)) hs hr

/-- The same through the shared entry to every precise trap. -/
theorem State.raise_inHandler {s : State} {key : Nat} {b : Block} {x : Xlat} (h : CanEnter s key b x) (pt : PendingTrap) :
    InHandler s (s.raise key pt) key b pt.cause pt.pc := by
  unfold State.raise
  rw [h.isGroup.1, h.isGroup.2]
  exact State.takeTrap_inHandler h pt

theorem State.trapNow_inHandler {s : State} {b : Block} {x : Xlat} (h : CanEnter s s.cur b x) (cause : BitVec 8) :
    InHandler s (s.trapNow cause) s.cur b cause s.th.pc := State.raise_inHandler h _

theorem State.trapVa_inHandler {s : State} {b : Block} {x : Xlat} (h : CanEnter s s.cur b x) {cause : BitVec 8}
    (hc : cause ≠ cPage) (va : Nat) : InHandler s (s.trapVa cause va) s.cur b cause s.th.pc := by
  unfold State.trapVa
  rw [if_neg (by exact hc)]
  exact State.raise_inHandler h _

end Sys2Proof.Machine
end

