-- ==== Sys2Proof/Tests/Slice0.lean ====
section
/-! SUPPORT. Tests of the model on fixed values: the checks of well-formedness, words written out from the tables of the
spec, small steps, and for every statement with hypotheses a state that meets them. -/

namespace Sys2Proof.Tests

open Sys2Proof Sys2Proof.Machine

set_option Elab.async false

/-! ### Decoding -/

/-- A scalar word of format SA (Table 3.1): op, then d or a, then a or b, then b, then func. -/
def sw (op x y z fn : Nat) : Nat := op * 2 ^ 25 + x * 2 ^ 19 + y * 2 ^ 13 + z * 2 ^ 7 + fn

/-- A lane word (Table 3.6) with both guards the constant true; `lo` holds the fields below bit 37. -/
def lw (op d a b c e lo : Nat) : Nat :=
  op * 2 ^ 86 + d * 2 ^ 79 + a * 2 ^ 72 + b * 2 ^ 65 + c * 2 ^ 58 + e * 2 ^ 51 + 63 * 2 ^ 45 + 2 ^ 44 + 63 * 2 ^ 38
    + 2 ^ 37 + lo

/-- No guards, no stall, no yield. -/
def always : LaneCtl := ⟨⟨63, true⟩, ⟨63, true⟩, false, 0, false⟩

/-- Table 3.2, ops 0x01 to 0x04. -/
theorem test_decode_scalar_arithmetic :
    [(sw 0x01 10 20 33 0x00, .add 10 20 33),
     (sw 0x01 11 20 33 0x01, .sub 11 20 33),
     (sw 0x01 12 20 33 0x02, .and 12 20 33),
     (sw 0x01 13 20 33 0x03, .or 13 20 33),
     (sw 0x01 14 20 33 0x04, .xor 14 20 33),
     (sw 0x01 15 20 33 0x05, .andn 15 20 33),
     (sw 0x01 16 20 33 0x06, .shl 16 20 33),
     (sw 0x01 17 20 33 0x07, .shrZ 17 20 33),
     (sw 0x01 18 20 33 0x08, .shrS 18 20 33),
     (sw 0x01 0 0 0 0x7F, .nop),
     (sw 0x02 63 0 62 0x00, .mul 63 0 62),
     (sw 0x02 63 1 62 0x01, .mulhS 63 1 62),
     (sw 0x02 63 2 62 0x02, .mulhZ 63 2 62),
     (sw 0x02 63 4 62 0x04, .divS 63 4 62),
     (sw 0x02 63 5 62 0x05, .divZ 63 5 62),
     (sw 0x02 63 6 62 0x06, .remS 63 6 62),
     (sw 0x02 63 7 62 0x07, .remZ 63 7 62),
     (sw 0x03 0 63 1 0x00, .minS 0 63 1),
     (sw 0x03 1 63 1 0x01, .minZ 1 63 1),
     (sw 0x03 2 63 1 0x02, .maxS 2 63 1),
     (sw 0x03 3 63 1 0x03, .maxZ 3 63 1),
     (sw 0x03 4 63 1 0x04, .sltS 4 63 1),
     (sw 0x03 5 63 1 0x05, .sltZ 5 63 1),
     (sw 0x03 6 63 1 0x06, .seq 6 63 1),
     (sw 0x04 5 40 0 0x00, .clz 5 40),
     (sw 0x04 5 41 0 0x01, .ctz 5 41),
     (sw 0x04 5 42 0 0x02, .popc 5 42),
     (sw 0x04 5 6 7 0x03, .bext 5 6 7)].all
      (fun p => decide (decodeTableWord 32 p.1 = some p.2)) = true := by decide +kernel

/-- Table 3.2, ops 0x10 to 0x2F, with Tables 3.3 and 3.4. -/
theorem test_decode_scalar_immediate_memory :
    [(sw 0x10 2 1 33 0x00, .addi 2 1 0x1080),
     (sw 0x11 2 1 33 0x01, .andi 2 1 0x1081),
     (sw 0x12 2 1 33 0x02, .ori 2 1 0x1082),
     (sw 0x13 2 1 33 0x03, .xori 2 1 0x1083),
     (sw 0x14 2 1 0 0x3F, .shli 2 1 63),
     (sw 0x15 2 1 0 0x3E, .shriZ 2 1 62),
     (sw 0x16 2 1 0 0x3D, .shriS 2 1 61),
     (sw 0x17 2 1 63 0x7F, .sltiS 2 1 0x1FFF),
     (sw 0x18 2 1 63 0x7E, .sltiZ 2 1 0x1FFE),
     (sw 0x19 2 1 4 0x45, .bexti 2 1 5 9),
     (sw 0x1A 3 32 0 0x05, .lhi 3 2 5),
     (sw 0x1B 3 63 63 0x7E, .pcadd 3 0x7FFFE),
     (sw 0x20 9 8 1 0x00, .ldI8 9 8 128),
     (sw 0x21 9 8 1 0x01, .ldZ8 9 8 129),
     (sw 0x22 9 8 1 0x02, .ldI16 9 8 130),
     (sw 0x23 9 8 1 0x03, .ldZ16 9 8 131),
     (sw 0x24 9 8 1 0x04, .ldI32 9 8 132),
     (sw 0x25 9 8 1 0x05, .ldZ32 9 8 133),
     (sw 0x26 9 8 1 0x06, .ld64 9 8 134),
     (sw 0x27 9 8 1 0x07, .st8 9 8 135),
     (sw 0x28 9 8 1 0x08, .st16 9 8 136),
     (sw 0x29 9 8 1 0x09, .st32 9 8 137),
     (sw 0x2A 9 8 1 0x0A, .st64 9 8 138),
     (sw 0x2C 9 8 0 0x10, .ldref 9 8 2),
     (sw 0x2C 9 8 63 0x79, .stref 9 8 0x3FF),
     (sw 0x2D 9 4 8 0x00, .amoAdd 9 4 8 .relaxed .g),
     (sw 0x2D 9 4 8 0x0B, .amoAnd 9 4 8 .acq .b),
     (sw 0x2E 9 4 8 0x14, .amoOr 9 4 8 .rel .c),
     (sw 0x2E 9 4 8 0x1F, .amoXor 9 4 8 .ar .d),
     (sw 0x2F 9 4 8 0x20, .amoMinS 9 4 8 .relaxed .p),
     (sw 0x2F 9 4 8 0x2B, .amoMinZ 9 4 8 .acq .s),
     (sw 0x2D 9 4 8 0x34, .amoMaxS 9 4 8 .rel .g),
     (sw 0x2D 9 4 8 0x3F, .amoMaxZ 9 4 8 .ar .b),
     (sw 0x2E 9 4 8 0x40, .amoSwap 9 4 8 .relaxed .c),
     (sw 0x2E 9 4 8 0x4B, .amoCas 9 4 8 .acq .d)].all
      (fun p => decide (decodeTableWord 32 p.1 = some p.2)) = true := by decide +kernel

/-- Table 3.2, ops 0x30 to 0x46. -/
theorem test_decode_scalar_control :
    [(sw 0x30 1 2 63 0x7D, .beq 1 2 0x1FFD),
     (sw 0x31 1 2 63 0x7D, .bne 1 2 0x1FFD),
     (sw 0x32 1 2 63 0x7D, .bltS 1 2 0x1FFD),
     (sw 0x33 1 2 63 0x7D, .bgeS 1 2 0x1FFD),
     (sw 0x34 1 2 63 0x7D, .bltZ 1 2 0x1FFD),
     (sw 0x35 1 2 63 0x7D, .bgeZ 1 2 0x1FFD),
     (sw 0x36 1 63 63 0x7F, .jal 1 0x7FFFF),
     (sw 0x37 1 2 63 0x7F, .jalr 1 2 0x1FFF),
     (sw 0x38 33 0 0 0x05, .bany 33 5),
     (sw 0x39 33 0 0 0x05, .ball 33 5),
     (sw 0x3A 33 0 0 0x05, .divb 33 5),
     (sw 0x3B 0 0 0 0x09, .delse 9),
     (sw 0x3C 0 0 0 0x00, .djoin),
     (sw 0x3D 0 0 1 0x00, .dloop 128),
     (sw 0x3E 34 0 0 0x00, .dbrk 34),
     (sw 0x3F 0 1 0 0x00, .dnext 8192),
     (sw 0x40 4 0 31 0x7F, .sget 4 0xFFF),
     (sw 0x41 0 4 0 0x11, .sset 4 0x011),
     (sw 0x42 7 3 4 0x00, .tbind 7 3 4),
     (sw 0x43 0 63 0 0x01, .lrun 0x7E001),
     (sw 0x44 0 0 0 0x00, .lsync),
     (sw 0x45 6 0 2 0x7F, .sfromv 6 5 63),
     (sw 0x46 6 33 0 0x00, .sfromp 6 33)].all
      (fun p => decide (decodeTableWord 32 p.1 = some p.2)) = true := by decide +kernel

/-- Table 3.2, ops 0x48 to 0x60, with Table 3.3. -/
theorem test_decode_scalar_engines :
    [(sw 0x48 0 9 0 0x00, .mfmt 9),
     (sw 0x49 15 0 0 0x00, .mzero 15),
     (sw 0x4A 15 61 3 0x00, .mma 15 61 3),
     (sw 0x4B 15 61 3 0x00, .mmaq 15 61 3),
     (sw 0x4C 15 61 3 0x00, .mmaRn 15 61 3),
     (sw 0x4D 9 0 0 0x00, .mbatch 9),
     (sw 0x4D 0 9 0 0x01, .mwait 9),
     (sw 0x4E 4 9 0 0x00, .mresolveI32 4 9),
     (sw 0x4E 4 9 0 0x01, .mresolveTile 4 9),
     (sw 0x4E 4 9 0 0x02, .mresolveRow 4 9),
     (sw 0x4F 4 61 0 0x00, .mld 4 61),
     (sw 0x4F 4 61 0 0x40, .mst 4 61 .bf16),
     (sw 0x4F 4 61 0 0x41, .mst 4 61 .fp16),
     (sw 0x4F 4 61 0 0x42, .mst 4 61 .e4m3),
     (sw 0x4F 4 61 0 0x43, .mst 4 61 .e5m2),
     (sw 0x4F 4 61 0 0x44, .mst 4 61 .e3m2),
     (sw 0x4F 4 61 0 0x45, .mst 4 61 .e2m3),
     (sw 0x4F 4 61 0 0x46, .mst 4 61 .e2m1),
     (sw 0x4F 4 61 0 0x47, .mst 4 61 .int8),
     (sw 0x4F 4 61 0 0x48, .mst 4 61 .int4),
     (sw 0x4F 4 61 0 0x4F, .mst 4 61 .fp32),
     (sw 0x4F 4 61 0 0x52, .mstQE8m0 4 61 .e4m3),
     (sw 0x4F 4 61 0 0x66, .mstQE4m3 4 61 .e2m1),
     (sw 0x50 63 56 0 0x00, .tcopyIn 63 56),
     (sw 0x50 63 56 0 0x1F, .tcopyInKey 63 56 15),
     (sw 0x51 63 8 0 0x00, .tcopyOut 63 8),
     (sw 0x52 63 8 0 0x00, .tcopySs 63 8),
     (sw 0x53 1 8 9 0x00, .tgather 1 8 9),
     (sw 0x54 1 9 10 0x7F, .tbin 1 9 10 127),
     (sw 0x55 8 9 63 0x7F, .hread 8 9 0x1FFF),
     (sw 0x56 1 2 0 0x00, .twaitAny 1 2),
     (sw 0x56 1 2 0 0x01, .twaitAll 1 2),
     (sw 0x56 1 2 0 0x02, .tfirst 1 2),
     (sw 0x56 0 2 0 0x03, .tclr 2),
     (sw 0x57 0 2 3 0x00, .barInit 2 3),
     (sw 0x57 0 2 3 0x01, .barExpect 2 3),
     (sw 0x57 0 2 3 0x02, .barArrive 2 3)].all
      (fun p => decide (decodeTableWord 32 p.1 = some p.2)) = true := by decide +kernel

/-- Table 3.2, ops 0x60 to 0x73, with Table 3.3. -/
theorem test_decode_scalar_system :
    [(sw 0x57 0 2 3 0x03, .barWait 2 3),
     (sw 0x57 1 2 3 0x04, .barTest 1 2 3),
     (sw 0x58 0 2 3 0x00, .ringInit 2 3),
     (sw 0x58 7 2 16 0x01, .ringFill 7 2 16),
     (sw 0x58 1 2 0 0x02, .ringAwait 1 2),
     (sw 0x58 0 2 0 0x03, .ringRelease 2),
     (sw 0x60 0 0 0 0x0D, .fenceAcq .d),
     (sw 0x60 0 0 0 0x12, .fenceRel .p),
     (sw 0x60 0 0 0 0x17, .fenceAr .s),
     (sw 0x61 0 0 0 0x10, .tfence .p),
     (sw 0x62 0 0 0 0x00, .bsync),
     (sw 0x63 0 0 0 0x34, .rsync 6 4),
     (sw 0x64 1 2 0 0x14, .publish 1 2 .s),
     (sw 0x65 1 2 0 0x00, .launch 1 2),
     (sw 0x66 0 0 0 0x00, .exit),
     (sw 0x66 0 0 0 0x01, .yield),
     (sw 0x66 0 2 0 0x02, .phase 2),
     (sw 0x66 0 0 0 0x03, .idem),
     (sw 0x68 0 63 0 0x01, .trap 0x7E001),
     (sw 0x69 0 0 0 0x00, .tret),
     (sw 0x69 1 2 3 0x01, .ginspect 1 2 3),
     (sw 0x69 0 2 3 0x02, .gmodify 2 3),
     (sw 0x69 0 2 0 0x03, .gresume 2),
     (sw 0x69 0 2 0 0x04, .gend 2),
     (sw 0x6A 0 0 0 0x07, .sysc 7),
     (sw 0x6B 0 2 3 0x00, .tlbinv 2 3),
     (sw 0x6B 0 0 0 0x01, .tlbfence),
     (sw 0x6B 0 2 0 0x02, .pgfree 2),
     (sw 0x6B 1 0 0 0x03, .pgalloc 1),
     (sw 0x6B 0 2 3 0x04, .lend 2 3),
     (sw 0x6B 0 2 0 0x05, .recall 2),
     (sw 0x6B 0 2 3 0x06, .keyload 2 3),
     (sw 0x6B 0 0 0 0x07, .wfe),
     (sw 0x6B 0 0 0 0x08, .iret),
     (sw 0x70 15 2 0 0x00, .tileOpen 15 2),
     (sw 0x71 15 0 0 0x00, .tileClose 15),
     (sw 0x72 0 0 0 0x0F, .trig 15),
     (sw 0x73 1 0 31 0x7F, .cnt 1 0xFFF)].all
      (fun p => decide (decodeTableWord 32 p.1 = some p.2)) = true := by decide +kernel

/-- Table 3.9, ops 0x008 to 0x0C7, with Table 5.3. -/
theorem test_decode_lane_integer :
    [(lw 0x008 2 4 6 0 0 (0), .vadd .i8 2 4 (.vec 6) always),
     (lw 0x012 2 4 63 0 0 (1 * 2 ^ 26), .vsub .i16 2 4 (.sca 63) always),
     (lw 0x01C 2 4 0 0 0 (2 * 2 ^ 26 + 0x8001), .vmul .i32 2 4 (.imm 0x8001) always),
     (lw 0x026 2 4 6 0 0 (0), .vmulhS .i64 2 4 (.vec 6) always),
     (lw 0x028 2 4 63 0 0 (1 * 2 ^ 26), .vmulhZ .i8 2 4 (.sca 63) always),
     (lw 0x033 2 4 0 9 0 (2 * 2 ^ 26 + 0x8001 + 1 * 2 ^ 24), .vmad .z16 2 4 (.imm 0x8001) (.sca 9) always),
     (lw 0x03D 2 4 6 0 0 (0), .vand .z32 2 4 (.vec 6) always),
     (lw 0x040 2 4 63 0 0 (1 * 2 ^ 26), .vor .i8 2 4 (.sca 63) always),
     (lw 0x04A 2 4 0 0 0 (2 * 2 ^ 26 + 0x8001), .vxor .i16 2 4 (.imm 0x8001) always),
     (lw 0x054 2 4 6 0 0 (0), .vandn .i32 2 4 (.vec 6) always),
     (lw 0x05E 2 4 63 0 0 (1 * 2 ^ 26), .vshl .i64 2 4 (.sca 63) always),
     (lw 0x066 2 4 0 0 0 (2 * 2 ^ 26 + 0x8001), .vshrZ .i64 2 4 (.imm 0x8001) always),
     (lw 0x068 2 4 6 0 0 (0), .vshrS .i8 2 4 (.vec 6) always),
     (lw 0x072 2 4 63 0 0 (1 * 2 ^ 26), .vminS .i16 2 4 (.sca 63) always),
     (lw 0x07C 2 4 0 0 0 (2 * 2 ^ 26 + 0x8001), .vminZ .i32 2 4 (.imm 0x8001) always),
     (lw 0x086 2 4 6 0 0 (0), .vmaxS .i64 2 4 (.vec 6) always),
     (lw 0x088 2 4 63 0 0 (1 * 2 ^ 26), .vmaxZ .i8 2 4 (.sca 63) always),
     (lw 0x096 2 4 0 0 0 (0), .vabs .i64 2 4 always),
     (lw 0x099 2 4 6 0 63 (0), .vsel .z8 2 4 (.vec 6) 63 always),
     (lw 0x0A3 2 0 63 0 0 (1 * 2 ^ 26), .vmov .z16 2 (.sca 63) always),
     (lw 0x0AD 2 4 0 0 0 (0), .vclz .z32 2 4 always),
     (lw 0x0B0 2 4 0 0 0 (0), .vpopc .i8 2 4 always),
     (lw 0x0BA 2 4 63 0 0 (1 * 2 ^ 26), .vbext .i16 2 4 (.sca 63) always),
     (lw 0x0C4 2 4 0 0 0 (2 * 2 ^ 26 + 0x8001 + 5 * 2 ^ 16), .vcmp .i32 .ge 2 4 (.imm 0x8001) always),
     (lw 0x0C4 1 1 0 0 0 (2 * 2 ^ 26 + 0 * 2 ^ 16 + 17), .vcmp .i32 .eq 1 1 (.imm 17) always),
     (lw 0x0C4 1 1 0 0 0 (2 * 2 ^ 26 + 1 * 2 ^ 16 + 17), .vcmp .i32 .ne 1 1 (.imm 17) always),
     (lw 0x0C4 1 1 0 0 0 (2 * 2 ^ 26 + 2 * 2 ^ 16 + 17), .vcmp .i32 .lt 1 1 (.imm 17) always),
     (lw 0x0C4 1 1 0 0 0 (2 * 2 ^ 26 + 3 * 2 ^ 16 + 17), .vcmp .i32 .le 1 1 (.imm 17) always),
     (lw 0x0C4 1 1 0 0 0 (2 * 2 ^ 26 + 4 * 2 ^ 16 + 17), .vcmp .i32 .gt 1 1 (.imm 17) always),
     (lw 0x0C4 1 1 0 0 0 (2 * 2 ^ 26 + 5 * 2 ^ 16 + 17), .vcmp .i32 .ge 1 1 (.imm 17) always),
     (lw 0x008 126 124 122 0 0 (0), .vadd .i8 126 124 (.vec 122) always),
     (lw 0x009 126 124 122 0 0 (0), .vadd .z8 126 124 (.vec 122) always),
     (lw 0x00A 126 124 122 0 0 (0), .vadd .i16 126 124 (.vec 122) always),
     (lw 0x00B 126 124 122 0 0 (0), .vadd .z16 126 124 (.vec 122) always),
     (lw 0x00C 126 124 122 0 0 (0), .vadd .i32 126 124 (.vec 122) always),
     (lw 0x00D 126 124 122 0 0 (0), .vadd .z32 126 124 (.vec 122) always),
     (lw 0x00E 126 124 122 0 0 (0), .vadd .i64 126 124 (.vec 122) always)].all
      (fun p => decide (decodeTableWord 96 p.1 = some p.2)) = true := by decide +kernel

/-- Table 3.9, ops 0x100 to 0x137 and 0x2C0 to 0x301, with Tables 3.7, 3.11, 5.5 and 5.7. -/
theorem test_decode_lane_predicates_movement_memory :
    [(lw 0x100 3 4 62 0 0 (0), .pand 3 4 (.pred 62) always),
     (lw 0x101 3 4 0 0 0 (2 * 2 ^ 26 + 1), .por 3 4 (.imm true) always),
     (lw 0x102 3 4 62 0 0 (0), .pxor 3 4 (.pred 62) always),
     (lw 0x103 3 4 0 0 0 (2 * 2 ^ 26 + 1), .pandn 3 4 (.imm true) always),
     (lw 0x104 3 0 9 0 0 (1 * 2 ^ 26), .pset 3 (.sca 9) always),
     (lw 0x105 100 4 0 0 0 (0), .pget 100 4 always),
     (lw 0x10C 2 4 9 0 0 (1 * 2 ^ 26), .vxchg .i32 2 4 (.sca 9) always),
     (lw 0x116 2 4 0 0 0 (2 * 2 ^ 26 + 3), .vshift .i64 2 4 (.imm 3) always),
     (lw 0x119 2 4 5 0 0 (0), .vperm .z8 2 4 5 always),
     (lw 0x122 2 4 0 0 0 (2 * 2 ^ 26 + 3), .vbcast .i16 2 4 (.imm 3) always),
     (lw 0x133 2 4 0 0 0 (0 * 2 ^ 16), .vscan .add .z16 2 4 always),
     (lw 0x12D 2 4 0 0 0 (1 * 2 ^ 16), .vred .minS .z32 2 4 always),
     (lw 0x133 2 4 0 0 0 (2 * 2 ^ 16), .vscan .minZ .z16 2 4 always),
     (lw 0x12D 2 4 0 0 0 (3 * 2 ^ 16), .vred .maxS .z32 2 4 always),
     (lw 0x133 2 4 0 0 0 (4 * 2 ^ 16), .vscan .maxZ .z16 2 4 always),
     (lw 0x12D 2 4 0 0 0 (5 * 2 ^ 16), .vred .and .z32 2 4 always),
     (lw 0x133 2 4 0 0 0 (6 * 2 ^ 16), .vscan .or .z16 2 4 always),
     (lw 0x12D 2 4 0 0 0 (7 * 2 ^ 16), .vred .xor .z32 2 4 always),
     (lw 0x300 5 6 62 0 0 (1 * 2 ^ 26), .vrand 5 6 62 always),
     (lw 0x301 0 0 0 0 0 (0), .vnop always),
     (lw 0x2C4 5 7 0 0 0 (0), .vld .i32 5 7 ⟨none, none, 0⟩ .normal false always),
     (lw 0x2C6 6 7 9 10 0 (1 * 2 ^ 33 + 1 * 2 ^ 24 + 1 * 2 ^ 23 + 4 * 2 ^ 16 + 0xFFF8), .vld .i64 6 7 ⟨some ⟨9, 3⟩, some 10, 0xFFF8⟩ .evictFirst true always),
     (lw 0x2C8 0 1 9 0 12 (2 * 2 ^ 33 + 1 * 2 ^ 16 + 4), .vst .i8 1 ⟨some ⟨9, 0⟩, none, 4⟩ 12 .evictLast false always),
     (lw 0x2D3 5 0 0 10 0 (1 * 2 ^ 24 + 4), .vlds .z16 5 ⟨none, some 10, 4⟩ always),
     (lw 0x2DD 0 0 9 0 12 (3 * 2 ^ 16), .vsts .z32 ⟨some ⟨9, 2⟩, none, 0⟩ 12 always),
     (lw 0x2E4 2 7 9 0 12 (3 * 2 ^ 33 + 2 * 2 ^ 20 + 0 * 2 ^ 16), .vamo .add .i32 2 7 ⟨some ⟨9, 1⟩, none, 0⟩ 12 .noL1 false always),
     (lw 0x2E5 2 7 0 0 12 (3 * 2 ^ 33 + 0 * 2 ^ 20 + 1 * 2 ^ 16), .vamo .and .z32 2 7 ⟨none, none, 0⟩ 12 .noL1 false always),
     (lw 0x2E6 2 7 9 0 12 (3 * 2 ^ 33 + 2 * 2 ^ 20 + 2 * 2 ^ 16), .vamo .or .i64 2 7 ⟨some ⟨9, 1⟩, none, 0⟩ 12 .noL1 false always),
     (lw 0x2E4 2 7 0 0 12 (3 * 2 ^ 33 + 0 * 2 ^ 20 + 3 * 2 ^ 16), .vamo .xor .i32 2 7 ⟨none, none, 0⟩ 12 .noL1 false always),
     (lw 0x2E5 2 7 9 0 12 (3 * 2 ^ 33 + 2 * 2 ^ 20 + 4 * 2 ^ 16), .vamo .minS .z32 2 7 ⟨some ⟨9, 1⟩, none, 0⟩ 12 .noL1 false always),
     (lw 0x2E6 2 7 0 0 12 (3 * 2 ^ 33 + 0 * 2 ^ 20 + 5 * 2 ^ 16), .vamo .minZ .i64 2 7 ⟨none, none, 0⟩ 12 .noL1 false always),
     (lw 0x2E4 2 7 9 0 12 (3 * 2 ^ 33 + 2 * 2 ^ 20 + 6 * 2 ^ 16), .vamo .maxS .i32 2 7 ⟨some ⟨9, 1⟩, none, 0⟩ 12 .noL1 false always),
     (lw 0x2E5 2 7 0 0 12 (3 * 2 ^ 33 + 0 * 2 ^ 20 + 7 * 2 ^ 16), .vamo .maxZ .z32 2 7 ⟨none, none, 0⟩ 12 .noL1 false always),
     (lw 0x2E6 2 7 9 0 12 (3 * 2 ^ 33 + 2 * 2 ^ 20 + 8 * 2 ^ 16), .vamo .swap .i64 2 7 ⟨some ⟨9, 1⟩, none, 0⟩ 12 .noL1 false always),
     (lw 0x2E4 2 7 0 0 12 (3 * 2 ^ 33 + 0 * 2 ^ 20 + 9 * 2 ^ 16), .vamo .cas .i32 2 7 ⟨none, none, 0⟩ 12 .noL1 false always)].all
      (fun p => decide (decodeTableWord 96 p.1 = some p.2)) = true := by decide +kernel

/-- Table 3.9, ops 0x180 to 0x2BF, with Tables 3.8, 3.10, 3.11 and 7.7. -/
theorem test_decode_lane_float :
    [(lw 0x180 3 5 6 0 0 (0 * 2 ^ 20 + 0), .vfadd .f32 .rmode 3 5 (.vec 6) always),
     (lw 0x191 3 5 63 0 0 (1 * 2 ^ 20 + 1 * 2 ^ 26), .vfsub .f16 .rne 3 5 (.sca 63) always),
     (lw 0x1A2 3 5 0 0 0 (2 * 2 ^ 20 + 2 * 2 ^ 26 + 0x3F80), .vfmul .bf16 .rtz 3 5 (.imm 0x3F80) always),
     (lw 0x1B3 3 5 6 9 0 (3 * 2 ^ 20 + 0), .vfma .bf16x2 .rdn 3 5 (.vec 6) (.vec 9) always),
     (lw 0x1C0 3 5 63 0 0 (4 * 2 ^ 20 + 1 * 2 ^ 26), .vfmin .f32 .rup 3 5 (.sca 63) always),
     (lw 0x1D1 3 5 0 0 0 (0 * 2 ^ 20 + 2 * 2 ^ 26 + 0x3F80), .vfmax .f16 .rmode 3 5 (.imm 0x3F80) always),
     (lw 0x1E2 3 5 6 0 0 (1 * 2 ^ 20 + 0), .vfsgn .bf16 .rne 3 5 (.vec 6) always),
     (lw 0x1F3 3 5 63 0 0 (2 * 2 ^ 20 + 1 * 2 ^ 26 + 7 * 2 ^ 16), .vfcmp .bf16x2 .ordered .rtz 3 5 (.sca 63) always),
     (lw 0x200 3 5 0 0 0 (3 * 2 ^ 20), .vfcls .f32 .rdn 3 5 always),
     (lw 0x211 3 5 0 0 0 (4 * 2 ^ 20), .vfrnd .f16 .rup 3 5 always),
     (lw 0x1F0 1 1 2 0 0 (0 * 2 ^ 16), .vfcmp .f32 .eq .rmode 1 1 (.vec 2) always),
     (lw 0x1F0 1 1 2 0 0 (1 * 2 ^ 16), .vfcmp .f32 .ne .rmode 1 1 (.vec 2) always),
     (lw 0x1F0 1 1 2 0 0 (2 * 2 ^ 16), .vfcmp .f32 .lt .rmode 1 1 (.vec 2) always),
     (lw 0x1F0 1 1 2 0 0 (3 * 2 ^ 16), .vfcmp .f32 .le .rmode 1 1 (.vec 2) always),
     (lw 0x1F0 1 1 2 0 0 (4 * 2 ^ 16), .vfcmp .f32 .gt .rmode 1 1 (.vec 2) always),
     (lw 0x1F0 1 1 2 0 0 (5 * 2 ^ 16), .vfcmp .f32 .ge .rmode 1 1 (.vec 2) always),
     (lw 0x1F0 1 1 2 0 0 (6 * 2 ^ 16), .vfcmp .f32 .unordered .rmode 1 1 (.vec 2) always),
     (lw 0x1F0 1 1 2 0 0 (7 * 2 ^ 16), .vfcmp .f32 .ordered .rmode 1 1 (.vec 2) always),
     (lw 0x220 3 5 0 0 0 (4 * 2 ^ 16), .vfcvt .f32 .e4m3 .rmode 3 5 (.vec 0) always),
     (lw 0x221 3 5 0 0 0 (0 * 2 ^ 16), .vfcvt .f16 .f32 .rmode 3 5 (.vec 0) always),
     (lw 0x222 3 5 0 0 0 (0 * 2 ^ 16), .vfcvt .bf16 .f32 .rmode 3 5 (.vec 0) always),
     (lw 0x223 3 5 9 0 0 (1 * 2 ^ 26 + 2 * 2 ^ 20 + 0 * 2 ^ 16), .vfcvt .bf16x2 .f32 .rtz 3 5 (.sca 9) always),
     (lw 0x224 3 5 0 0 0 (0 * 2 ^ 16), .vfcvt .e4m3 .f32 .rmode 3 5 (.vec 0) always),
     (lw 0x225 3 5 0 0 0 (0 * 2 ^ 16), .vfcvt .e5m2 .f32 .rmode 3 5 (.vec 0) always),
     (lw 0x226 3 5 0 0 0 (0 * 2 ^ 16), .vfcvt .e3m2 .f32 .rmode 3 5 (.vec 0) always),
     (lw 0x227 3 5 0 0 0 (0 * 2 ^ 16), .vfcvt .e2m3 .f32 .rmode 3 5 (.vec 0) always),
     (lw 0x228 3 5 0 0 0 (0 * 2 ^ 16), .vfcvt .e2m1 .f32 .rmode 3 5 (.vec 0) always),
     (lw 0x229 3 5 0 0 0 (0 * 2 ^ 16), .vfcvt .i32 .f32 .rmode 3 5 (.vec 0) always),
     (lw 0x22A 3 5 0 0 0 (0 * 2 ^ 16), .vfcvt .z32 .f32 .rmode 3 5 (.vec 0) always),
     (lw 0x234 3 5 0 0 0 (4 * 2 ^ 20 + 2 * 2 ^ 18 + 1 * 2 ^ 16), .vquant .e4m3 .l32 .e8m0 .rup 3 5 always),
     (lw 0x244 3 5 7 0 0 (2 * 2 ^ 18 + 1 * 2 ^ 16), .vdequant .e4m3 .l32 .e8m0 .rmode 3 5 (.vec 7) always),
     (lw 0x235 3 5 0 0 0 (4 * 2 ^ 20 + 3 * 2 ^ 18 + 2 * 2 ^ 16), .vquant .e5m2 .l64 .e4m3 .rup 3 5 always),
     (lw 0x245 3 5 7 0 0 (3 * 2 ^ 18 + 2 * 2 ^ 16), .vdequant .e5m2 .l64 .e4m3 .rmode 3 5 (.vec 7) always),
     (lw 0x236 3 5 0 0 0 (4 * 2 ^ 20 + 1 * 2 ^ 18 + 1 * 2 ^ 16), .vquant .e3m2 .l16 .e8m0 .rup 3 5 always),
     (lw 0x246 3 5 7 0 0 (1 * 2 ^ 18 + 1 * 2 ^ 16), .vdequant .e3m2 .l16 .e8m0 .rmode 3 5 (.vec 7) always),
     (lw 0x237 3 5 0 0 0 (4 * 2 ^ 20 + 2 * 2 ^ 18 + 2 * 2 ^ 16), .vquant .e2m3 .l32 .e4m3 .rup 3 5 always),
     (lw 0x247 3 5 7 0 0 (2 * 2 ^ 18 + 2 * 2 ^ 16), .vdequant .e2m3 .l32 .e4m3 .rmode 3 5 (.vec 7) always),
     (lw 0x238 3 5 0 0 0 (4 * 2 ^ 20 + 3 * 2 ^ 18 + 1 * 2 ^ 16), .vquant .e2m1 .l64 .e8m0 .rup 3 5 always),
     (lw 0x248 3 5 7 0 0 (3 * 2 ^ 18 + 1 * 2 ^ 16), .vdequant .e2m1 .l64 .e8m0 .rmode 3 5 (.vec 7) always),
     (lw 0x280 3 5 0 0 0 (0 * 2 ^ 20), .vrcp .f32 .rmode 3 5 always),
     (lw 0x289 3 5 0 0 0 (1 * 2 ^ 20), .vrsqrt .f16 .rne 3 5 always),
     (lw 0x292 3 5 0 0 0 (2 * 2 ^ 20), .vsqrt .bf16 .rtz 3 5 always),
     (lw 0x298 3 5 0 0 0 (3 * 2 ^ 20), .vexp2 .f32 .rdn 3 5 always),
     (lw 0x2A1 3 5 0 0 0 (4 * 2 ^ 20), .vlog2 .f16 .rup 3 5 always),
     (lw 0x2AA 3 5 0 0 0 (0 * 2 ^ 20), .vsin .bf16 .rmode 3 5 always),
     (lw 0x2B0 3 5 0 0 0 (1 * 2 ^ 20), .vcos .f32 .rne 3 5 always),
     (lw 0x2B9 3 5 0 0 0 (2 * 2 ^ 20), .vtanh .f16 .rtz 3 5 always)].all
      (fun p => decide (decodeTableWord 96 p.1 = some p.2)) = true := by decide +kernel
/-- Tables 3.6 and 3.8: guards, combine, stall count and yield. -/
theorem test_decode_lane_control :
    decodeTableWord 96 (0x301 * 2 ^ 86 + 3 * 2 ^ 45 + 0 * 2 ^ 44 + 5 * 2 ^ 38 + 2 ^ 37 + 2 ^ 36 + 9 * 2 ^ 29 + 2 ^ 28)
      = some (.vnop ⟨⟨3, false⟩, ⟨5, true⟩, true, 9, true⟩) := by decide +kernel

/-- The words of Table 3.5 and of the worked lane encoding, as the spec prints them. -/
theorem test_decode_worked_words :
    decodeTableWord 32 0x20102028 = some (.addi 2 1 40) ∧
    decodeTableWord 32 0x62085FFD = some (.bne 1 2 (-3)) ∧
    decodeTableWord 32 0xA0290000 = some (.tcopyIn 5 8) ∧
    decodeTableWord 32 0x5A488400 = some (.amoAdd 9 4 8 .relaxed .g) ∧
    decodeTableWord 32 0x5E48844F = some (.amoCas 9 4 8 .ar .s) ∧
    decodeTableWord 96 0x310081000007FFE008020011 = some (.vcmp .i32 .lt 1 1 (.imm 17) always) := by decide +kernel

/-- R33, R34: words that are not instructions. -/
theorem test_decode_scalar_refused :
    [sw 0 0 0 0 0, sw 0x05 0 0 0 0, sw 0x2B 0 0 0 0, sw 0x74 0 0 0 0, sw 0x01 1 2 3 0x09, sw 0x02 1 2 3 0x03,
     sw 0x04 1 2 3 0x00, sw 0x14 1 2 1 0, sw 0x2C 1 2 0 0x02, sw 0x2D 1 2 3 0x50,
     sw 0x42 8 1 2 0, sw 0x49 16 0 0 0, sw 0x4A 0 62 0 0, sw 0x50 0 7 0 0, sw 0x50 0 8 0 0x01, sw 0x50 0 8 0 0x20,
     sw 0x60 0 0 0 0x0C, sw 0x60 0 0 0 0x19, sw 0x64 0 0 0 0x00, sw 0x63 0 0 0 0x05, sw 0x63 0 0 0 0x38,
     sw 0x4F 0 0 0 0x49, sw 0x4F 0 0 0 0x51, sw 0x72 0 0 0 0x10, sw 0x40 0 0 32 0, sw 0x40 0 1 0 0].all
      (fun w => decide (decodeTableWord 32 w = none)) = true := by decide +kernel

/-- R36–R41: lane words that are not instructions. -/
theorem test_decode_lane_refused :
    [lw 0x000 0 0 0 0 0 0, lw 0x00F 0 0 0 0 0 0, lw 0x0C8 0 0 0 0 0 0, lw 0x021 0 0 0 0 0 0, lw 0x106 0 0 0 0 0 0,
     lw 0x3FF 0 0 0 0 0 0, lw 0x184 0 0 0 0 0 0, lw 0x2E3 0 0 0 0 0 0, lw 0x00C 0 0 0 0 0 (3 * 2 ^ 26),
     lw 0x00C 0 0 0 0 0 (2 * 2 ^ 24), lw 0x00C 0 0 0 0 0 (2 ^ 23), lw 0x00C 0 0 0 0 0 (2 ^ 20),
     lw 0x00C 0 0 0 0 0 (2 ^ 33), lw 0x00C 0 0 0 0 0 (2 ^ 16), lw 0x00C 0 0 0 0 0 1, lw 0x00C 0 0 64 0 0 (2 ^ 26),
     lw 0x0C4 64 0 0 0 0 0, lw 0x0C4 0 0 0 0 0 (6 * 2 ^ 16), lw 0x00E 1 0 0 0 0 0, lw 0x10C 0 0 0 0 0 0,
     lw 0x180 0 0 0 0 0 (5 * 2 ^ 20), lw 0x220 0 0 0 0 0 0, lw 0x229 0 0 0 0 0 (10 * 2 ^ 16),
     lw 0x234 0 0 0 0 0 (1 * 2 ^ 16), lw 0x2C4 0 8 0 0 0 0, lw 0x2C4 0 0 0 0 0 (4 * 2 ^ 33),
     lw 0x2C4 0 0 0 0 0 (5 * 2 ^ 16), lw 0x2C4 0 0 1 0 0 0, lw 0x2C4 0 0 0 1 0 0, lw 0x2D4 0 0 0 0 0 (2 ^ 33),
     lw 0x300 0 0 0 0 0 0, lw 0x300 0 0 1 0 0 (2 ^ 26), lw 0x2D6 2 0 9 0 0 (2 ^ 16), lw 0x2DE 0 0 9 0 12 (2 ^ 16)].all
      (fun w => decide (decodeTableWord 96 w = none)) = true := by decide +kernel

/-- R42: a clause header, and headers it refuses. -/
theorem test_decode_header :
    decodeHeader (0x3FF * 2 ^ 86 + 0x805 * 2 ^ 74 + 11 * 2 ^ 70 + 0 * 2 ^ 66 + 255 * 2 ^ 58) =
      .ok ⟨0x805, some 11, some 0, 255⟩ ∧
    decodeHeader (0x3FF * 2 ^ 86 + 15 * 2 ^ 70 + 15 * 2 ^ 66 + 1 * 2 ^ 58) = .ok ⟨0, none, none, 1⟩ ∧
    [0x3FF * 2 ^ 86 + 15 * 2 ^ 70 + 15 * 2 ^ 66, 0x3FF * 2 ^ 86 + 3 * 2 ^ 70 + 3 * 2 ^ 66 + 2 ^ 58,
     0x3FF * 2 ^ 86 + 12 * 2 ^ 70 + 15 * 2 ^ 66 + 2 ^ 58, 0x3FF * 2 ^ 86 + 15 * 2 ^ 70 + 15 * 2 ^ 66 + 2 ^ 58 + 1,
     0x3FE * 2 ^ 86 + 15 * 2 ^ 70 + 15 * 2 ^ 66 + 2 ^ 58].all
      (fun w => decide ((decodeHeader w).toOption = none)) = true := by decide +kernel

/-! ### Well-formedness -/

/-- One ill-formed term for each check of `Instr.wf`. -/
theorem test_ill_formed_terms :
    ([.vadd .i64 1 0 (.vec 0) always, .vadd .i64 0 1 (.vec 0) always, .vadd .i64 0 0 (.vec 1) always,
      .vmulhS .z8 0 0 (.vec 0) always, .vmad .i64 0 0 (.vec 0) (.vec 1) always, .vabs .i64 0 1 always,
      .vsel .i64 1 0 (.vec 0) 0 always, .vmov .i64 0 (.vec 1) always, .vcmp .i64 .eq 0 1 (.vec 0) always,
      .vxchg .i32 0 0 (.vec 0) always, .vperm .i64 0 0 1 always, .vred .add .i64 1 0 always,
      .vld .i64 1 0 ⟨none, none, 0⟩ .normal false always, .vst .i64 0 ⟨none, none, 0⟩ 1 .normal false always,
      .vlds .i64 2 ⟨some ⟨9, 0⟩, none, 0⟩ always, .vsts .i64 ⟨some ⟨9, 0⟩, none, 0⟩ 2 always,
      .vlds .i64 1 ⟨none, none, 0⟩ always, .vsts .i64 ⟨none, none, 0⟩ 1 always,
      .vamo .add .i16 0 0 ⟨none, none, 0⟩ 0 .normal false always,
      .vamo .add .i64 0 0 ⟨none, none, 0⟩ 1 .normal false always, .vrand 0 0 1 always,
      .vfcvt .f32 .f32 .rmode 0 0 (.vec 0) always, .vfcvt .i32 .z32 .rmode 0 0 (.vec 0) always,
      .vfcvt .bf16x2 .f16 .rmode 0 0 (.vec 0) always, .vfcvt .bf16x2 .f32 .rmode 0 0 (.imm 0) always,
      .vfcvt .f16 .bf16x2 .rmode 0 0 (.vec 0) always, .vfcvt .f16 .f32 .rmode 0 0 (.vec 1) always,
      .mma 0 62 0, .mmaq 0 0 62, .mld 0 62, .mst 0 62 .bf16, .mstQE8m0 0 0 .int8, .mstQE4m3 0 62 .e4m3,
      .tcopyIn 0 1, .tcopyInKey 0 4 0, .tgather 0 12 0, .hread 3 0 0, .ringFill 0 0 1, .publish 0 0 .g] : List Instr).all
      (fun i => !i.wf) = true := by decide +kernel

/-- Neighbours of those terms that are instructions. -/
theorem test_well_formed_neighbours :
    ([.vadd .i64 2 0 (.vec 126) always, .vadd .i32 1 3 (.vec 5) always, .vmulhS .i64 0 0 (.imm 1) always,
      .vmad .i64 0 0 (.sca 1) (.sca 1) always, .vxchg .i32 0 0 (.imm 1) always, .vrand 0 0 2 always,
      .vld .i64 2 0 ⟨some ⟨1, 0⟩, none, 0⟩ .normal false always, .vlds .i64 2 ⟨some ⟨8, 0⟩, none, 0⟩ always,
      .vamo .add .z32 1 0 ⟨none, none, 0⟩ 1 .normal false always, .vfcvt .bf16x2 .f32 .rmode 0 0 (.sca 1) always,
      .vfcvt .f32 .bf16x2 .rmode 0 0 (.vec 0) always, .vfcvt .i32 .f32 .rmode 0 0 (.vec 0) always,
      .mma 0 61 61, .mstQE8m0 0 61 .e2m1, .tcopyIn 0 56, .ringFill 0 1 8, .publish 0 0 .s] : List Instr).all
      (fun i => i.wf) = true := by decide +kernel

/-! ### Small states

One block of two groups on core 0 of plot 0, under a launch with trap-enable whose handler is 0x400 bytes after its entry;
one page of 2 MB at virtual address 0. The system core of the plot is beside it. -/

/-- The launch record: entry 0x1000, lane code at 0x2000, argument 7, spill area at 0x100000. -/
def launch1 : Launch :=
  { seq := 1
    record := [0x1000, 0x2000, 7, 0x100000, BitVec.ofNat 64 (2 * 2 ^ 8 + 64 * 2 ^ 16 + 4 * 2 ^ 24 + 65536 * 2 ^ 32 + 2 ^ 57),
      0x40000000000, 0, 0] }

def block1 : Block := { id := 1, launch := launch1, slot := 0, blockId := 0, x0 := 0, y0 := 0 }

/-- What the page gives an address. -/
def page (va : Nat) : Xlat := ⟨0x200000 + va, true, true, false, true, 2⟩

/-- The state in which a group, with this record, is the running agent. -/
def grp (x : Thread) : State :=
  let s := State.reset.placed []
  { s with
    cur := 0, laneCur := 0
    cores := fset s.cores 0 { s.core 0 with block := some block1 }
    threads := fset (fset s.threads 0 x) 1 { placeGroup with ctx := 1 } }

/-- The state in which the plot system core, with this record, is the running agent. -/
def sysc (x : Thread) : State := { State.reset.placed [] with cur := sysKey 0, threads := fset (State.reset.placed []).threads (sysKey 0) x }

/-- A group at 0x1000 with some registers. -/
def gt (regs : FMap Word) : Thread := { pc := 0x1000, nextId := 1, sregs := regs }

/-- A privileged system core with interrupts enabled. -/
def st (regs : FMap Word) : Thread := { pc := 0x1000, nextId := 1, sregs := regs, sys := { smode := 3, ivec := 0x3000 } }

/-- exec answers a next state that passes a check. -/
def after (i : Instr) (s : State) (p : State → Bool) : Bool :=
  match exec i s with
  | .next t => p t
  | .fault _ => false
  | .refused _ => false

theorem free_of {s : State} {w : Who} {names : List SReg}
    (h : (s.admits w names && s.th.canIssue names && !s.th.hold) = true) : s.Free w names := by
  simp only [Bool.and_eq_true, Bool.not_eq_true'] at h; exact ⟨⟨h.1.1, h.1.2⟩, h.2⟩

theorem ready_of {s : State} {w : Who} {names : List SReg} (h : (s.admits w names && s.th.canIssue names) = true) :
    s.Ready w names := by
  simp only [Bool.and_eq_true] at h; exact h

theorem privileged_of {s : State} {names : List SReg}
    (h : (isSysKey s.cur && s.th.sys.smode.getLsbD 0 && s.th.canIssue names && !s.th.hold) = true) : Privileged s names := by
  simp only [Bool.and_eq_true, Bool.not_eq_true'] at h; exact ⟨h.1.1.1, h.1.1.2, h.1.2, h.2⟩

theorem canEnter_of {s : State} {key : Nat} {b : Block} {x : Xlat}
    (h : (!isSysKey key && !isSproutKey key && decide (s.blockOf key = some b) && (s.launchOf key).trapEn &&
      decide ((s.thread key).status = .running) && decide ((s.thread key).spec = none) && decide (b.handler = none) &&
      !s.lowerTraps (coreOfKey key) (ctxOfKey key) &&
      decide (s.xlat key (b.area + 0x80000 + 0x800 * ctxOfKey key) = .ok x) && x.wr && decide (s.waiters = []) &&
      !s.refreshing x.pa) = true) : CanEnter s key b x := by
  simp only [Bool.and_eq_true, Bool.not_eq_true', decide_eq_true_eq] at h
  obtain ⟨⟨⟨⟨⟨⟨⟨⟨⟨⟨⟨a, b⟩, c⟩, d⟩, e⟩, r⟩, f⟩, l⟩, g⟩, i⟩, w⟩, v⟩ := h
  exact ⟨⟨a, b⟩, c, d, e, r, f, l, g, i, w, v⟩

theorem delivery_of {s : State}
    (h : (s.th.clausesDone && !(s.groupOps s.cur).any MatrixOp.raisesFlags && !s.th.openPoison &&
      decide (s.th.fpx &&& s.th.fptrap = 0)) = true) : DeliveryClear s := by
  simp only [Bool.and_eq_true, Bool.not_eq_true', decide_eq_true_eq] at h
  exact ⟨h.1.1.1, h.1.1.2, h.1.2, h.2⟩

theorem fence_of {s : State} {rel : Bool} {sc : Scope}
    (h : (s.th.clausesDone && !(s.groupOps s.cur).any MatrixOp.raisesFlags && !s.th.openPoison &&
      decide (s.th.fpx &&& s.th.fptrap = 0) && decide (s.th.win = []) && decide (s.th.returning = []) && decide (s.th.sq = []) &&
      (decide (sc ≠ .s) || decide (s.th.wait = .readbackDone))) = true) : FenceClear s rel sc := by
  simp only [Bool.and_eq_true, Bool.or_eq_true, Bool.not_eq_true', decide_eq_true_eq] at h
  exact ⟨⟨h.1.1.1.1.1.1.1, h.1.1.1.1.1.1.2, h.1.1.1.1.1.2, h.1.1.1.1.2⟩, ⟨h.1.1.1.2, h.1.1.2⟩, fun _ => h.1.2,
    fun e => h.2.elim (fun k => absurd e k) id⟩

/-- A property of every value of a map and of the default is one of whatever a key gives. -/
theorem fgetD_all {α : Type} {P : α → Prop} {m : FMap α} {d : α} (hd : P d) (hm : ∀ x ∈ m, P x.2) (k : Nat) : P (fgetD m k d) := by
  unfold fgetD
  induction m with
  | nil => exact hd
  | cons y m ih =>
    obtain ⟨j, w⟩ := y
    simp only [fget?]
    split
    · exact hm _ List.mem_cons_self
    · exact ih (fun x h => hm x (List.mem_cons_of_mem _ h))

/-- A change of plot 0. -/
def inPlot (s : State) (f : Plot → Plot) : State := { s with plots := fset s.plots 0 (f (s.plot 0)) }

/-! ### Scalar arithmetic -/

def arith : State := grp (gt [(1, 0x8000000000000000), (2, BitVec.allOnes 64), (3, 0x41)])

/-- AddLogicShift, IntegerOps, Immediates: a group that names s0, s1 and s2 issues. -/
theorem witness_arith : arith.Ready anyone [0, 1, 2] ∧ arith.Free anyone [0, 1, 2] ∧ arith.Ready anyone [1, 1, 1] :=
  ⟨ready_of (by decide +kernel), free_of (by decide +kernel), ready_of (by decide +kernel)⟩

/-- Table 4.6 on the corners: wrap, shift count modulo 64, division by 0 and of the most negative number by −1. -/
theorem test_arith_corners :
    ([(.add 0 1 1, 0), (.sub 0 3 2, 0x42), (.shl 0 2 3, 0xFFFFFFFFFFFFFFFE), (.shrZ 0 1 3, 0x4000000000000000),
      (.shrS 0 1 3, 0xC000000000000000), (.divS 0 1 2, 0x8000000000000000), (.remS 0 1 2, 0), (.divS 0 1 4, 0xFFFFFFFFFFFFFFFF),
      (.remZ 0 1 4, 0x8000000000000000), (.mulhS 0 1 2, 0), (.mulhZ 0 1 2, 0x7FFFFFFFFFFFFFFF), (.clz 0 3, 57),
      (.clz 0 4, 64), (.ctz 0 1, 63), (.popc 0 3, 2), (.bext 0 2 3, 3), (.sltS 0 1 2, 1), (.sltZ 0 1 2, 1),
      (.minS 0 3 2, 0xFFFFFFFFFFFFFFFF), (.maxZ 0 3 2, 0xFFFFFFFFFFFFFFFF)] : List (Instr × Word)).all
      (fun p => after p.1 arith (fun t => t.th.sreg 0 == p.2 && t.th.pc == 0x1004)) = true := by decide +kernel

/-- Table 4.7 on the corners: sign extension of the immediate, sections of a constant, fields that run past bit 63. -/
theorem test_immediate_corners :
    ([(.addi 0 3 0x1FFF, 0x40), (.andi 0 2 0x1000, 0xFFFFFFFFFFFFF000), (.sltiZ 0 3 0x1FFF, 1), (.sltiS 0 3 0x1FFF, 0),
      (.shriS 0 1 63, 0xFFFFFFFFFFFFFFFF), (.bexti 0 1 63 63, 1), (.lhi 0 3 0x1FFFF, 0xFFFFFFFFFFFFFFFF), (.lhi 0 0 1, 0x2000),
      (.lhi 2 1 1, 0x3FFFFFFF), (.lhi 2 2 1, 0x7FFFFFFFFFFF), (.pcadd 0 1, 0x2000), (.pcadd 0 0x7FFFF, 0)] : List (Instr × Word)).all
      (fun p => after p.1 arith (fun t => t.th.sreg (match p.1 with | .lhi d _ _ => d | _ => 0) == p.2)) = true := by decide +kernel

/-! ### Scalar memory -/

/-- The state that exec answers. -/
def next (i : Instr) (s : State) : State :=
  match exec i s with
  | .next t => t
  | .fault _ => s
  | .refused _ => s

/-- The state with a subject for a happening. -/
def on (s : State) (x : Subject) : State := { s with subj := x }

/-- s1 at the last 8 bytes of the page, s2 past it, s3 misaligned, s4 at 2^56. -/
def memory : State :=
  grp (gt [(1, 0x1FFFF8), (2, 0x200000), (3, 0x1001), (4, 0x100000000000000), (5, 0x1122334455667788)])

/-- MemoryIssues (LoadsIssue, StoresQueue), AtomicsQueue: the checks pass at both ends of the page. -/
theorem witness_memory_issues :
    memory.Free anyone [0, 1, 5] ∧ memory.logBusy memory.cur = false ∧ memory.th.queueFull = false ∧
    memory.checkAccess 0 .load (memory.th.sreg 1) 8 = .ok (page 0x1FFFF8) ∧
    memory.checkAccess 0 .load (memory.th.sreg 1 + 7) 1 = .ok (page 0x1FFFFF) ∧
    memory.checkAccess 0 .store (memory.th.sreg 1) 8 = .ok (page 0x1FFFF8) ∧
    memory.checkAccess 0 .atomic (memory.th.sreg 1) 8 = .ok (page 0x1FFFF8) ∧
    memory.checkAccess 0 .load 0 8 = .ok (page 0) ∧ memory.mem.isPoison (page 0x1FFFF8).pa = false :=
  ⟨free_of (by decide +kernel), by decide +kernel⟩

/-- MemoryTraps (ScalarCheckOrder, MemoryTrapsPrecise): an address in each clause, and the boundary of each. -/
theorem witness_memory_traps :
    CanEnter memory 0 block1 (page 0x180000) ∧ (memory.th.sreg 3).toNat % 2 ≠ 0 ∧
    memory.checkAccess 0 .load (memory.th.sreg 3) 2 = .trap 0x02 ∧ 2 ^ 56 ≤ (memory.th.sreg 4).toNat ∧
    memory.checkAccess 0 .store (memory.th.sreg 4) 8 = .trap 0x03 ∧ (memory.th.sreg 4 - 8).toNat < 2 ^ 56 ∧
    memory.xlat 0 (memory.th.sreg 4 - 8).toNat = .absent ∧ memory.checkAccess 0 .load (memory.th.sreg 4 - 8) 8 = .hold ∧
    memory.xlat (sysKey 0) (memory.th.sreg 2).toNat = .absent ∧
    memory.checkAccess (sysKey 0) .load (memory.th.sreg 2) 8 = .trap 0x0C ∧
    memory.xlat 0 0x1000 = .ok (page 0x1000) ∧ (page 0x1000).permits .load = true ∧
    memory.mem.escapesRun (memory.partyOf 0) false false (page 0x1000).pa 8 = false ∧
    memory.logBusy memory.cur = false ∧ memory.th.queueFull = false :=
  ⟨canEnter_of (by decide +kernel), by decide +kernel⟩

/-- R286: a misaligned load enters the handler with cause 0x02, its address and the mask in s60 to s63. -/
theorem test_misaligned_load :
    after (.ldI16 0 3 0) memory (fun t => t.th.status == .handler && t.th.pc == 0x1400 && t.th.sreg 60 == 2 &&
      t.th.sreg 61 == 0x1000 && t.th.sreg 62 == 0x180000 && t.th.sreg 63 == BitVec.allOnes 64 &&
      (t.thread 1).status == .halted) = true := by decide +kernel

/-- A store of s5 at the end of the page, in the queue; then a load of its second half; both still wait. -/
def stored : State := on (next (.st64 5 1 0) memory) { ag := 0 }
def loading : State := on (next (.ldI16 6 1 6) stored) { ag := 0, n := 2 }

/-- The load that a happening names. -/
def namedLoad (s : State) : Option LoadReq := (s.thread s.subj.ag).win.find? (fun x => x.id == s.subj.n)

/-- MemoryPerforms (LoadsBind, StoresDrain): a load that may bind from the queue, a queue that may drain, and a value that
returns. -/
theorem witness_memory_performs :
    (stored.thread 0).sq = [{ seq := 1, kind := .store, parts := [{ lane := 0, va := 0x1FFFF8, pa := 0x3FFFF8, data := leBytes 8 0x1122334455667788 }] }] ∧
    stored.queueOpen 0 = true ∧ stored.refreshing 0x3FFFF8 = false ∧ Memory.wf stored.mem.cells = true ∧ stored.waiters = [] ∧
    (namedLoad loading).any (fun l => decide (l.dest = .scalar 6 true) && !l.ref && decide (l.pa = 0x3FFFFE) &&
      (loading.thread 0).canBind l && decide (loading.portOf l.pa = none) && !loading.mem.isPoison l.pa) = true ∧
    ((next .loadBind (on loading { ag := 0, n := 2, flag := true })).thread 0).returning = [(6, 0x1122)] := by decide +kernel

/-- A load of a word of host memory, with a read of it that has left, and an answer to that. -/
def hostWord : LoadReq := { id := 2, dest := .scalar 6 false, va := 0x4000, pa := 0x2000000000100, size := 8, mark := 2 }
def hostAsk (answered : Bool) : Ask := { who := .load 0 2, gate := 0, plot := 0, pa := 0x2000000000100, answered := answered }
def hostLoading (asks : List Ask) : State :=
  let s := grp { gt [] with win := [hostWord], pendS := 0x40 }
  on { s with asks := asks, mem := { s.mem with cells := cellsSet s.mem.cells 0x2000000000100 (leBytes 8 0x1234) } } { ag := 0, n := 2 }

/-- MemoryPerforms (RemoteLoadsBind): a load of host memory before its read leaves, while it waits, and with its answer. -/
theorem witness_host_load :
    namedLoad (hostLoading []) = some hostWord ∧ ((hostLoading []).thread 0).canBind hostWord = true ∧
    (hostLoading []).portOf hostWord.pa = some 0 ∧ (fget? (hostLoading []).gates 0).isSome = true ∧
    ((hostLoading []).launchOf 0).copy = false ∧ (hostLoading []).askOf (.load 0 2) 0 hostWord.pa = none ∧
    (hostLoading [hostAsk false]).askOf (.load 0 2) 0 hostWord.pa = some (hostAsk false) ∧
    (hostLoading [hostAsk true]).askOf (.load 0 2) 0 hostWord.pa = some (hostAsk true) ∧
    (hostLoading [hostAsk true]).mem.isPoison hostWord.pa = false := by
  decide +kernel

/-- R24: the read leaves by gate 0, the load waits, and takes the bytes that its answer has brought. -/
theorem test_host_load :
    (after .loadBind (hostLoading []) (fun t =>
       (t.gate 0).outq.map (fun a => (a.kind, a.target)) == [(1, 0x2000000000100)] && t.th.isPending 6 && t.asks == [hostAsk false]) &&
     after .loadBind (hostLoading [hostAsk false]) (fun t => t == hostLoading [hostAsk false]) &&
     after .loadBind (hostLoading [hostAsk true]) (fun t => t.th.sreg 6 == 0x1234 && t.asks == [])) = true := by decide +kernel

/-- Lane 5 of a `vld.i16` to v3, and lane 5 of a `vamo.add.i32` on the same word. -/
def laneLoading : State :=
  let s := grp { gt [] with
    longOps := [{ id := 9, clause := 1, flag := none, left := 0x60, rows := [3] }]
    win := [{ id := 2, dest := .lane 3 5 .i16 9, va := 0x10, pa := 0x200010, size := 2, mark := 2 }] }
  on { s with mem := { s.mem with cells := cellsSet s.mem.cells 0x200010 [0xFE, 0xFF] } } { ag := 0, n := 2 }

def lanePart : Part := { lane := 5, va := 0x10, pa := 0x200010, data := leBytes 4 3 }
def laneAtomic : State :=
  let s := grp { gt [] with
    longOps := [{ id := 9, clause := 1, flag := none, left := 0x60, rows := [3] }]
    sq := [{ seq := 2, kind := .laneAtomic .add .i32 3 9, parts := [lanePart, { lanePart with lane := 6 }] }] }
  on { s with mem := { s.mem with cells := cellsSet s.mem.cells 0x200010 (leBytes 4 4) } } { ag := 0 }

/-- MemoryPerforms (LaneLoadsBind, StoresDrain), Atomics (LaneAtomicsPerform): a lane's load that may bind, an entry of a `vst`
with two lanes, and an atomic of two lanes at the head of its queue. -/
theorem witness_lanes_perform :
    (namedLoad laneLoading).any (fun l => decide (l.dest = .lane 3 5 .i16 9) && (laneLoading.thread 0).canBind l &&
      decide (laneLoading.portOf l.pa = none)) = true ∧ laneLoading.poisoned 0 9 = [] ∧
    (∀ k ∈ vregRows .i16 3, laneLoading.rowOk 0 k = true) ∧
    ((laneAtomic.thread 0).sq.head?.map (·.parts.length)) = some 2 ∧ laneAtomic.queueOpen 0 = true ∧
    laneAtomic.refreshing 0x200010 = false ∧ laneAtomic.waiters = [] ∧ laneAtomic.portOf 0x200010 = none ∧
    laneAtomic.mem.isPoison 0x200010 = false ∧ laneAtomic.blockOf 0 = some block1 ∧ (∃ g < 2, block1.gone.contains g = false) := by
  decide +kernel

/-- R94, R111, R162: the element is extended; one lane performs, and the other stays. -/
theorem test_lanes_perform :
    (after .loadBind laneLoading (fun t => (t.row 0 3).at 5 == 0xFFFFFFFE && (t.row 0 3).at 6 == 0 && t.th.win == [] &&
       t.th.longOps.all (fun o => o.left == 0x40)) &&
     after .atomicPerform laneAtomic (fun t => (t.row 0 3).at 5 == 4 && t.mem.num 0x200010 4 == 7 && t.th.sq.map (·.parts.length) == [1] &&
       t.th.longOps.all (fun o => o.left == 0x40))) = true := by decide +kernel

/-- MemoryTraps (LoadPoison): the line of a load errs before it binds. -/
def poisonedLoad : State := { loading with mem := { loading.mem with poison := [0x3FFF00] } }
theorem witness_load_poison :
    (namedLoad poisonedLoad).any (fun l => l.back.isSome && (poisonedLoad.thread 0).canBind l && decide (poisonedLoad.portOf l.pa = none) &&
      poisonedLoad.mem.isPoison l.pa) = true ∧ (poisonedLoad.thread 0).spec = none ∧ (poisonedLoad.thread 0).trap = none ∧
    isSysKey 0 = false ∧ isSproutKey 0 = false := by decide +kernel

/-- R88: the load traps at its own word, and its register is no longer pending. -/
theorem test_load_poison :
    after .loadBind poisonedLoad (fun t => t.th.trap.any (fun p => p.cause == 7 && p.pc == 0x1004) && t.th.pc == 0x1004 &&
      !t.th.isPending 6) = true := by decide +kernel

/-- R162: the load takes its bytes from the queue; R71: the drain stores the low bytes first. -/
theorem test_store_load :
    (after .loadBind loading (fun t => t.th.sreg 6 == 0x1122 && t.th.win == [] && t.mem.byte 0x3FFFF8 == 0) &&
    after .storeQueueDrain stored (fun t => t.mem.byte 0x3FFFF8 == 0x88 && t.mem.byte 0x3FFFFF == 0x11 && t.mem.byte 0x400000 == 0 &&
      t.mem.byte 0x3FFFF7 == 0 && t.th.sq == [])) = true := by decide +kernel

/-! ### Atomics and fences -/

/-- s0 the comparand, s1 the address, s5 the operand; memory there holds the most negative number. -/
def atomic : State :=
  let s := grp (gt [(0, 0x8000000000000000), (1, 0x1FFFF8), (5, 0x1122334455667788)])
  { s with mem := { s.mem with cells := cellsSet s.mem.cells 0x3FFFF8 (leBytes 8 0x8000000000000000) } }

def atomicPart : Part :=
  { lane := 0, va := 0x1FFFF8, pa := 0x3FFFF8, data := leBytes 8 0x1122334455667788, cmp := leBytes 8 0x8000000000000000 }

/-- Atomics (AtomicsQueue, AtomicsPerform): the queue with one atomic at its head, of a block with a group left. -/
theorem witness_atomics :
    atomic.Free anyone [0, 1, 5] ∧ FenceClear atomic true .d ∧
    ((next (.amoCas 0 1 5 .ar .d) atomic).thread 0).sq = [{ seq := 1, kind := .atomic .cas 0, parts := [atomicPart] }] ∧
    (next (.amoCas 0 1 5 .ar .d) atomic).queueOpen 0 = true ∧ (next (.amoCas 0 1 5 .ar .d) atomic).refreshing 0x3FFFF8 = false ∧
    (next (.amoCas 0 1 5 .ar .d) atomic).waiters = [] ∧ isSproutKey 0 = false ∧ atomic.portOf 0x3FFFF8 = none ∧
    atomic.logBusy atomic.cur = false ∧ atomic.th.queueFull = false ∧
    atomic.checkAccess atomic.cur .atomic (atomic.th.sreg 1) 8 = .ok (page 0x1FFFF8) ∧
    (∀ b, (next (.amoCas 0 1 5 .ar .d) atomic).blockOf 0 = some b → ∃ g < b.launch.groups, b.gone.contains g = false) :=
  ⟨free_of (by decide +kernel), fence_of (by decide +kernel), by decide +kernel, by decide +kernel, by decide +kernel,
    by decide +kernel, by decide +kernel, by decide +kernel, by decide +kernel, by decide +kernel, by decide +kernel, fun b h => by
      have e : (next (.amoCas 0 1 5 .ar .d) atomic).blockOf 0 = some block1 := by decide +kernel
      rw [e] at h; cases h; exact ⟨0, by decide +kernel⟩⟩

/-- Table 4.8 (R75): each operation on the most negative number; `cas` with an equal comparand swaps. -/
theorem test_atomic_values :
    ([(.amoAdd 0 1 5 .relaxed .g, 0x9122334455667788), (.amoAnd 0 1 5 .relaxed .g, 0), (.amoOr 0 1 5 .relaxed .g, 0x9122334455667788),
      (.amoXor 0 1 5 .relaxed .g, 0x9122334455667788), (.amoMinS 0 1 5 .relaxed .g, 0x8000000000000000),
      (.amoMinZ 0 1 5 .relaxed .g, 0x1122334455667788), (.amoMaxS 0 1 5 .relaxed .g, 0x1122334455667788),
      (.amoMaxZ 0 1 5 .relaxed .g, 0x8000000000000000), (.amoSwap 0 1 5 .relaxed .g, 0x1122334455667788),
      (.amoCas 0 1 5 .relaxed .g, 0x1122334455667788)] : List (Instr × Nat)).all
      (fun p => after .atomicPerform (on (next p.1 atomic) { ag := 0 }) (fun t =>
        t.mem.num 0x3FFFF8 8 == p.2 && t.th.returning == [(0, 0x8000000000000000)] && t.th.sq == [])) = true := by decide +kernel

/-- Fences: an idle group passes at every scope below s, at scope s once the read-back is done; with a store or a load
outstanding it waits. -/
theorem witness_fences :
    memory.Free anyone [] ∧ FenceClear memory false .g ∧ FenceClear memory true .p ∧
    FenceClear (grp { gt [] with wait := .readbackDone }) true .s ∧ memory.th.sq = [] ∧ memory.th.clausesDone = true ∧
    loading.Free anyone [] ∧ DeliveryClear loading ∧ loading.th.win ≠ [] ∧ loading.th.sq ≠ [] :=
  ⟨free_of (by decide +kernel), fence_of (by decide +kernel), fence_of (by decide +kernel), fence_of (by decide +kernel),
    by decide +kernel, by decide +kernel, free_of (by decide +kernel), delivery_of (by decide +kernel), by decide +kernel⟩

/-- R170, R167: a fence of scope s first notes its read-back and does not go on. -/
theorem test_fence_scope_s :
    (after (.fenceRel .s) memory (fun t => t.th.pc == 0x1000 && t.th.wait == .readback) &&
    after (.fenceAr .p) memory (fun t => t.th.pc == 0x1004)) = true := by decide +kernel

/-! ### References -/

/-- A tagged word at the end of the page. -/
def refs : State :=
  let s := grp (gt [(1, 0x1FFFF8), (2, 0x110)])
  { s with mem := { s.mem with tags := [0x3FFFF8], cells := cellsSet s.mem.cells 0x3FFFF8 (leBytes 8 0x110) } }

/-- Its load in the window; without the tag; and past an unresolved branch. -/
def loadingRef : State := on (next (.ldref 0 1 0) refs) { ag := 0, n := 1 }
def untag (s : State) : State := { s with mem := { s.mem with tags := [] } }
def specRef (s : State) : State :=
  s.modThread 0 (fun t => { t with spec := some { back := { t.point with mark := 0 }, instr := .beq 3 3 2, next := t.pc, retired := 0 } })

/-- References: `ldref` issues; its load binds with the word's tag set, and with it clear where the tag is not there;
`stref` of a value into a page without objects joins the queue. -/
theorem witness_references :
    refs.Free anyone [0, 1] ∧ refs.checkAccess 0 .load (refs.th.sreg 1 + (0 : BitVec 10).signExtend 64 * 8) 8 = .ok (page 0x1FFFF8) ∧
    refs.checkAccess 0 .store (refs.th.sreg 1) 8 = .ok (page 0x1FFFF8) ∧ refs.mem.container false 0x3FFFF8 = 4 ∧
    refs.wellFormedRef 0 (refs.th.sreg 0) = none ∧
    (namedLoad loadingRef).any (fun l => decide (l.dest = .scalar 0 false) && l.ref && !l.untagged && (loadingRef.thread 0).canBind l &&
      decide (loadingRef.portOf l.pa = none) && !loadingRef.mem.isPoison l.pa && loadingRef.loadTag 0 l &&
      !(untag loadingRef).loadTag 0 l && !(loadingRef.thread 0).isSpec l.id && ((specRef loadingRef).thread 0).isSpec l.id) = true ∧
    (loadingRef.thread 0).pc = (loadingRef.thread 0).refAt ∧ (loadingRef.thread 0).trap = none ∧
    CanEnter refs 0 block1 (page 0x180000) ∧ refs.refMoving 0 (refs.th.sreg 0) 4 = false ∧ refs.logBusy refs.cur = false ∧ refs.mem.isPoison 0x3FFFF8 = false :=
  ⟨free_of (by decide +kernel), by decide +kernel, by decide +kernel, by decide +kernel, by decide +kernel, by decide +kernel,
    by decide +kernel, by decide +kernel, canEnter_of (by decide +kernel), by decide +kernel⟩

/-- R74: `ldref` holds the group until it binds, then writes the reference and goes on. -/
theorem test_ldref :
    (after (.ldref 0 1 0) refs (fun t => t.th.pc == 0x1000 && t.th.hold) &&
     after .loadBind loadingRef (fun t => t.th.pc == 0x1004 && t.th.sreg 0 == 0x110) &&
     after .loadBind (untag loadingRef) (fun t => t.th.trap.any (fun p => p.cause == 5 && p.pc == 0x1000) && !t.th.isPending 0) &&
     after .loadBind (untag (specRef loadingRef)) (fun t => t.th.trap.isNone && t.th.pc == 0x1000)) = true := by decide +kernel

/-- The page holds objects: one of slot 0, not published, at 0x100; the last line of the page is published at scope d. -/
def objects (x : Thread) : State :=
  let s := grp x
  { s with mem := { s.mem with
      cells := cellsSet (cellsSet s.mem.cells (placeRoot + 0x3000) [0x3D]) 0x200100 [100]
      side := [(0x200100, 0), (0x3FFF00, formB 3 0)] } }

/-- References: the refused `stref`, of a reference that is not published into a published line. -/
theorem witness_stref_escapes :
    let s := objects (gt [(0, 0x110), (1, 0x1FFFF8)])
    s.Free anyone [0, 1] ∧ s.checkAccess 0 .store (s.th.sreg 1) 8 = .ok { page 0x1FFFF8 with obj := true } ∧
    s.mem.container true 0x3FFFF8 = 3 ∧ s.wellFormedRef 0 (s.th.sreg 0) = some 0x200100 ∧ s.mem.hdrState 0x200100 ≠ 2 ∧
    CanEnter s 0 block1 { page 0x180000 with obj := true } ∧ s.refMoving 0 (s.th.sreg 0) 3 = false :=
  ⟨free_of (by decide +kernel), by decide +kernel, by decide +kernel, by decide +kernel, by decide +kernel,
    canEnter_of (by decide +kernel), by decide +kernel⟩

/-- The leaf of the page that the reference names is moving (R320), and the store's page is the next one. -/
def movingRef : State :=
  let s := objects (gt [(0, 0x110), (1, 0x200008)])
  let second := leBytes 8 (s.mem.num (placeRoot + 0x3000) 8 + 0x200000)
  let cells := cellsSet (cellsSet s.mem.cells (placeRoot + 0x3000) [0x7D]) (placeRoot + 0x3008) second
  { inPlot s (fun p => { p with ranges := [(0, 0x800000)] }) with mem := { s.mem with cells := cells, side := [(0x400000, formB 3 0)] } }

/-- References: a reference into a moving page waits. -/
theorem witness_moving_reference :
    movingRef.Free anyone [0, 1] ∧
    (match movingRef.checkAccess 0 .store (movingRef.th.sreg 1) 8 with
      | .ok x => decide (1 ≤ movingRef.mem.container x.obj x.pa) && movingRef.refMoving 0 (movingRef.th.sreg 0) (movingRef.mem.container x.obj x.pa)
      | _ => false) = true ∧ after (.stref 0 1 0) movingRef (fun t => t == movingRef) = true :=
  ⟨free_of (by decide +kernel), by decide +kernel⟩

/-- R182: it raises escape at its word, and nothing is queued. -/
theorem test_stref_escape :
    after (.stref 0 1 0) (objects (gt [(0, 0x110), (1, 0x1FFFF8)])) (fun t =>
      t.th.status == .handler && t.th.tcause == 4 && t.th.tpc == 0x1000 && t.th.sq == []) = true := by decide +kernel

/-! ### Control flow -/

/-- s1 a code address, s2 misaligned, s3 at 2^56; predicate 3 in the low lane, predicate 4 in every lane. -/
def flow (stack : List MaskEntry) (spilled : Nat) (mask : BitVec 64) : State :=
  grp { gt [(1, 0x1800), (2, 0x1002), (3, 0x100000000000000)] with
    preds := [(3, 1), (4, BitVec.allOnes 64)], mstack := stack, mspilled := spilled, mask := mask }

def ifEntry : MaskEntry := ⟨.ifK, 0xFF, 0xF0, 0x1234⟩
def elseEntry : MaskEntry := ⟨.elseK, 0xFF, 0, 0x1234⟩
def loopEntry : MaskEntry := ⟨.loopK, 0xFF, 0, 0x1238⟩

/-- ConditionalBranches, JumpAndLink, PredicateBranches, Divergence: the group issues, with a target of each kind, a lane
under MASK that has the predicate and one that has not, and the stack empty, almost full, and with each kind on top. -/
theorem witness_control_flow :
    (flow [] 0 3).Ready anyone [1, 2] ∧ (flow [] 0 3).Free anyone [5, 1] ∧ (flow [] 0 3).Free computeOnly [] ∧
    (flow [] 0 3).predOk 3 = true ∧ (flow [] 0 3).th.clausesDone = true ∧
    ((flow [] 0 3).th.sreg 1).toNat % 4 = 0 ∧ ((flow [] 0 3).th.sreg 2).toNat % 4 ≠ 0 ∧ 2 ^ 56 ≤ ((flow [] 0 3).th.sreg 3).toNat ∧
    CanEnter (flow [] 0 3) 0 block1 (page 0x180000) ∧ (flow [] 0 3).th.depth < 1024 ∧
    (flow (List.replicate 31 loopEntry) 992 3).th.depth < 1024 ∧ (flow [ifEntry] 0 3).th.mstack = ifEntry :: [] ∧
    (flow [elseEntry] 0 3).th.mspilled = 0 ∧ (flow [loopEntry, ifEntry] 5 1).th.mask &&& ~~~((flow [loopEntry, ifEntry] 5 1).th.pred 3) = 0 ∧
    (flow [loopEntry] 0 3).th.mask &&& ~~~((flow [loopEntry] 0 3).th.pred 3) ≠ 0 ∧ (flow [loopEntry] 0 0).th.mask = 0 :=
  ⟨ready_of (by decide +kernel), free_of (by decide +kernel), free_of (by decide +kernel), by decide +kernel, by decide +kernel,
    by decide +kernel, by decide +kernel, by decide +kernel, canEnter_of (by decide +kernel), by decide +kernel⟩

/-- R77, R78: the target counts from the branch's own word; `jalr` that writes its own source jumps to the old value. -/
theorem test_branches :
    (after (.bne 1 2 0x1FFD) (flow [] 0 3) (fun t => t.th.pc == 0xFF4) && after (.beq 1 2 5) (flow [] 0 3) (fun t => t.th.pc == 0x1004) &&
     after (.jalr 1 1 0x1FFF) (flow [] 0 3) (fun t => t.th.pc == 0x17FC && t.th.sreg 1 == 0x1004) &&
     after (.jal 5 0x7FFFF) (flow [] 0 3) (fun t => t.th.pc == 0xFFC && t.th.sreg 5 == 0x1004) &&
     after (.bany 3 4) (flow [] 0 3) (fun t => t.th.pc == 0x1010) && after (.bany 3 4) (flow [] 0 2) (fun t => t.th.pc == 0x1004) &&
     after (.ball 3 4) (flow [] 0 3) (fun t => t.th.pc == 0x1004) && after (.ball 3 4) (flow [] 0 0) (fun t => t.th.pc == 0x1010)) = true := by
  decide +kernel

/-- R82, R83: a divergence on both ways, an else with lanes left, a join, a loop that breaks and one that goes round. -/
theorem test_divergence :
    (after (.divb 3 8) (flow [] 0 3) (fun t => t.th.mask == 1 && t.th.pc == 0x1004 && t.th.mstack == [⟨.ifK, 3, 2, 0x1000⟩]) &&
     after (.divb 3 8) (flow [] 0 2) (fun t => t.th.mask == 0 && t.th.pc == 0x1020 && t.th.mstack == [⟨.ifK, 2, 2, 0x1000⟩]) &&
     after (.delse 8) (flow [ifEntry] 0 3) (fun t => t.th.mask == 0xF0 && t.th.pc == 0x1004 && t.th.mstack == [elseEntry]) &&
     after .djoin (flow [elseEntry] 0 3) (fun t => t.th.mask == 0xFF && t.th.pc == 0x1004 && t.th.mstack == []) &&
     after (.dloop 8) (flow [] 0 3) (fun t => t.th.mask == 3 && t.th.pc == 0x1004 && t.th.mstack == [⟨.loopK, 3, 0, 0x1020⟩]) &&
     after (.dbrk 3) (flow [loopEntry] 0 1) (fun t => t.th.mask == 0xFF && t.th.pc == 0x1238 && t.th.mstack == []) &&
     after (.dbrk 3) (flow [loopEntry] 0 3) (fun t => t.th.mask == 2 && t.th.pc == 0x1004 && t.th.mstack == [loopEntry]) &&
     after (.dnext 0x7FFFE) (flow [loopEntry] 0 3) (fun t => t.th.mask == 3 && t.th.pc == 0xFF8)) = true := by decide +kernel

/-- Refusals (DivergenceIllegal): each wrong top, an empty stack, and a system core. -/
theorem witness_divergence_illegal :
    (flow [loopEntry] 0 3).Free computeOnly [] ∧ CanEnter (flow [loopEntry] 0 3) 0 block1 (page 0x180000) ∧
    (flow [loopEntry] 0 3).th.clausesDone = true ∧ (flow [ifEntry] 0 3).th.mstack = ifEntry :: [] ∧ (flow [] 0 3).th.mstack = [] ∧
    ((flow [] 0 3).th.mstack = [] → (flow [] 0 3).th.mspilled = 0) ∧
    isSysKey (sysc (st [])).cur = true ∧ (sysc (st [])).th.sys.smode ≠ 1 ∧ (sysc (st [])).th.spec = none :=
  ⟨free_of (by decide +kernel), canEnter_of (by decide +kernel), by decide +kernel⟩

/-- R84: the trap is precise and leaves the stack. -/
theorem test_divergence_illegal :
    (after .djoin (flow [loopEntry] 0 3) (fun t => t.th.tcause == 1 && t.th.pc == 0x1400 && t.th.mstack == [loopEntry]) &&
     after .djoin (sysc (st [])) (fun t => t.th.pc == 0x3000 && t.th.sys.icause == 1 && t.th.sys.ipc == 0x1000 && t.th.sys.smode == 1 &&
       t.th.sys.imode == 3)) = true := by decide +kernel

/-- MaskStackSpills (MaskStackPushes): a full hardware stack with entries in memory below depth 1024, and depth 1024. -/
theorem witness_mask_stack_pushes :
    let full := flow (List.replicate 31 loopEntry ++ [ifEntry]) 5 3
    full.Free computeOnly [] ∧ isSproutKey full.cur = false ∧ full.blockOf 0 = some block1 ∧ block1.launch.spill ≠ 0 ∧
    full.th.walkHold = none ∧ full.th.clausesDone = true ∧
    full.th.mstack.length = 32 ∧ full.th.mstack.getLast? = some ifEntry ∧ full.th.depth < 1024 ∧
    full.xlat 0 (block1.area + 0x8000 * ctxOfKey 0 + 32 * full.th.mspilled) = .ok (page 0x1000A0) ∧ (page 0x1000A0).wr = true ∧
    full.waiters = [] ∧ full.refreshing (page 0x1000A0).pa = false ∧
    CanEnter (flow (List.replicate 32 loopEntry) 992 3) 0 block1 (page 0x180000) ∧
    1024 ≤ (flow (List.replicate 32 loopEntry) 992 3).th.depth :=
  ⟨free_of (by decide +kernel), by decide +kernel, by decide +kernel, by decide +kernel, by decide +kernel, by decide +kernel,
    by decide +kernel, by decide +kernel, by decide +kernel, by decide +kernel, by decide +kernel, by decide +kernel,
    by decide +kernel, canEnter_of (by decide +kernel), by decide +kernel⟩

/-- One entry in hardware, or none, above one in memory, which is an IF. -/
def lowStack (stack : List MaskEntry) (mask : BitVec 64) : State :=
  let s := flow stack 1 mask
  { s with mem := { s.mem with cells := cellsSet s.mem.cells 0x300000 (leBytes 32 (maskEntryNum ifEntry)) } }

/-- MaskStackSpills (MaskStackPops): each pop that refills, and a stack whose hardware part is empty. -/
theorem witness_mask_stack_pops :
    (lowStack [elseEntry] 3).Free computeOnly [] ∧ (lowStack [] 3).Free computeOnly [] ∧ (lowStack [] 3).predOk 3 = true ∧
    (lowStack [] 3).blockOf 0 = some block1 ∧ (lowStack [] 3).th.walkHold = none ∧ (lowStack [] 3).th.clausesDone = true ∧
    0 < (lowStack [] 3).th.mspilled ∧
    (lowStack [] 3).xlat 0 (block1.area + 0x8000 * ctxOfKey 0 + 32 * ((lowStack [] 3).th.mspilled - 1)) = .ok (page 0x100000) ∧
    (page 0x100000).rd = true ∧ (lowStack [] 3).portOf (page 0x100000).pa = none ∧ elseEntry.kind ≠ .loopK ∧
    (lowStack [loopEntry] 1).th.mask &&& ~~~((lowStack [loopEntry] 1).th.pred 3) = 0 ∧ (lowStack [loopEntry] 0).th.mask = 0 ∧
    maskEntryOf ((lowStack [] 3).mem.num (page 0x100000).pa 32) = ifEntry :=
  ⟨free_of (by decide +kernel), free_of (by decide +kernel), by decide +kernel⟩

/-- R81, Table 4.10: the spilled entry's bytes, and the refill of one whose bytes stand in memory. -/
theorem test_spill_refill :
    (after (.dloop 8) (flow (List.replicate 31 loopEntry ++ [ifEntry]) 5 3) (fun t =>
       t.th.mspilled == 6 && t.th.mstack.length == 32 && maskEntryOf (t.mem.num 0x3000A0 32) == ifEntry && t.mem.num 0x3000B8 8 == 0xFF && t.mem.num 0x3000A0 8 == 1) &&
     after (.divb 3 8) (flow (List.replicate 31 loopEntry ++ [ifEntry]) 5 3) (fun t => t.th.mspilled == 6 && t.th.mask == 1) &&
     after .djoin (lowStack [elseEntry] 3) (fun t => t.th.mspilled == 0 && t.th.mstack == [ifEntry] && t.th.mask == 0xFF) &&
     after (.dbrk 3) (lowStack [loopEntry] 1) (fun t => t.th.mstack == [ifEntry] && t.th.pc == 0x1238) &&
     after (.dnext 8) (lowStack [loopEntry] 0) (fun t => t.th.mstack == [ifEntry] && t.th.pc == 0x1004) &&
     after (.delse 8) (lowStack [] 3) (fun t => t.th.mstack == [elseEntry] && t.th.mask == 0xF0 && t.th.mspilled == 0)) = true := by
  decide +kernel

/-! ### Traps, interrupts and special registers -/

def pending (cause : BitVec 8) : State := on (grp { gt [] with trap := some { cause := cause, pc := 0x1010 } }) { ag := 0 }

/-- TrapsEnter (SoftwareTrap, PendingTrapEnters). -/
theorem witness_traps_enter :
    (flow [] 0 3).Free anyone [] ∧ CanEnter (flow [] 0 3) 0 block1 (page 0x180000) ∧ (flow [] 0 3).mem.headers = [] ∧
    CanEnter (pending 0x06) 0 block1 (page 0x180000) ∧ ((pending 0x06).thread 0).trap = some { cause := 0x06, pc := 0x1010 } ∧
    ((pending 0x06).thread 0).frozen = false ∧ ((pending 0x06).thread 0).walkHold = none ∧
    ((pending 0x06).thread 0).win.any (·.ref) = false ∧ (0x06 : BitVec 8).getLsbD 7 = false :=
  ⟨free_of (by decide +kernel), canEnter_of (by decide +kernel), by decide +kernel, canEnter_of (by decide +kernel),
    by decide +kernel⟩

/-- R290: code 0x7FFFF is a breakpoint, every other a software trap. -/
theorem test_trap_causes :
    (after (.trap 0x7FFFF) (flow [] 0 3) (fun t => t.th.tcause == 9 && t.th.sreg 63 == 3 && t.th.mask == BitVec.allOnes 64) &&
     after (.trap 0x7FFFE) (flow [] 0 3) (fun t => t.th.tcause == 8 && t.th.tpc == 0x1000 && t.th.fptrap == 0) &&
     after .trapEntry (pending 0x06) (fun t => t.th.tcause == 6 && t.th.tpc == 0x1010 && t.th.trap == none)) = true := by decide +kernel

def user : Thread := { st [] with sys := { smode := 2, ivec := 0x3000, ipc := 0x2000, imode := 3 } }
def ready : Thread := { st [] with sys := { smode := 3, ivec := 0x3000, ipc := 0x2000, imode := 2, ien := 0x30, ipend := 0x22, vals := [(5, 9)] } }

/-- SystemCoreSysc, UserModeRefused, SystemClassOnGroup, InterruptsReturn: a system core in each mode, with an enabled cause
pending, and a group. -/
theorem witness_system_core :
    isSysKey (sysc user).cur = true ∧ (sysc user).th.canIssue [] = true ∧ (sysc user).th.hold = false ∧
    (sysc user).th.sys.smode.getLsbD 0 = false ∧ (sysc ready).th.sys.smode = 3 ∧ Privileged (sysc ready) [] ∧
    (sysc ready).th.sys.ipc.toNat % 4 = 0 ∧ (sysc ready).th.sys.ipend &&& (sysc ready).th.sys.ien ≠ 0 ∧
    CanEnter (flow [] 0 3) 0 block1 (page 0x180000) ∧
    (fget? (sysc ready).threads (sysKey 0)).isSome = true ∧ (sysc ready).th.sys.smode.getLsbD 1 = true ∧
    (sysc ready).th.wait = .none ∧ (sysc ready).th.status = .running ∧ (sysc ready).th.win.any (·.ref) = false ∧
    (sysc ready).th.spec = none ∧ (sysc user).th.spec = none ∧
    ((sysc ready).th.sys.ipend &&& (sysc ready).th.sys.ien).getLsbD 5 = true ∧
    (∀ j, j < 5 → ((sysc ready).th.sys.ipend &&& (sysc ready).th.sys.ien).getLsbD j = false) :=
  ⟨by decide +kernel, by decide +kernel, by decide +kernel, by decide +kernel, by decide +kernel, privileged_of (by decide +kernel),
    by decide +kernel, by decide +kernel, canEnter_of (by decide +kernel), by decide +kernel⟩

/-- R311, R333: `sysc` in user mode resumes after itself, an illegal instruction at itself; `iret`; the lowest enabled cause. -/
theorem test_interrupts :
    (after (.sysc 0x123) (sysc user) (fun t => t.th.pc == 0x3000 && t.th.sys.ipc == 0x1004 && t.th.sys.icause == 0x20 &&
       t.th.sys.ival == 0x123 && t.th.sys.smode == 1 && t.th.sys.imode == 2) &&
     after .iret (sysc user) (fun t => t.th.sys.icause == 1 && t.th.sys.ipc == 0x1000) &&
     after .iret (sysc ready) (fun t => t.th.pc == 0x2000 && t.th.sys.smode == 2) &&
     after .wfe (sysc ready) (fun t => t.th.pc == 0x1004) && after .wfe (sysc (st [])) (fun t => t.th.pc == 0x1000) &&
     after .interruptEntry (on (sysc ready) { ag := sysKey 0 }) (fun t => t.th.sys.icause == 0x35 && t.th.sys.ival == 9 &&
       t.th.sys.ipc == 0x1000 && t.th.pc == 0x3000) &&
     after (.tlbinv 1 2) (flow [] 0 3) (fun t => t.th.tcause == 1)) = true := by decide +kernel

def inHandler : Thread :=
  { gt [(61, 0x1804), (63, 0xF)] with status := .handler, tcause := 0x06, tpc := 0x1234, trecord := 0x180000, mask := BitVec.allOnes 64 }

/-- SpecialReads, SpecialWritten (SpecialWrites, PlotRegisterWrites): a group, one in its handler, and the plot's system core; a
register that may be read and one that may not, one that may be written and one that may not; a value of each kind. -/
theorem witness_special_registers :
    (flow [] 0 3).Free anyone [1] ∧ (grp inHandler).Free anyone [1] ∧ (sysc (st [(1, 0x1000)])).Free anyone [1] ∧
    CanEnter (flow [] 0 3) 0 block1 (page 0x180000) ∧ (flow [] 0 3).readable 0x001 = true ∧ (flow [] 0 3).readable 0xFFF = false ∧
    (flow [] 0 3).writable 0x000 = false ∧ (flow [] 0 3).blockOf 0 = some block1 ∧ (grp inHandler).th.status = .handler ∧
    (flow [] 0 3).th.status ≠ .handler ∧ (sysc (st [(1, 0x1000)])).atPlotCore = true ∧ (flow [] 0 3).th.sreg 1 ≠ 1 ∧
    (flow [] 0 3).th.sreg 1 ≠ 2 ∧ (sysc (st [(1, 2)])).th.sreg 1 = 2 ∧ (sysc (st [(1, 64)])).th.sreg 1 % 64 = 0 ∧
    ((sysc (st [(1, 1)])).plot 0).vfCount ≤ 1 ∧ 6 ≤ ((sysc (st [(1, 6)])).th.sreg 1).toNat % 16 ∧
    ((sysc (st [(1, 0x55)])).th.sreg 1).toNat / 16 % 16 < 6 :=
  ⟨free_of (by decide +kernel), free_of (by decide +kernel), free_of (by decide +kernel), canEnter_of (by decide +kernel),
    by decide +kernel⟩

/-- Tables 4.4 and 15.2: places read by a group, MASK and IPEND written, FTV refused. -/
theorem test_special_registers :
    (after (.sget 9 0x004) { flow [] 0 3 with cur := 1 } (fun t => (t.thread 1).sreg 9 == 1) &&
     after (.sget 9 0x000) { flow [] 0 3 with cur := 1 } (fun t => (t.thread 1).sreg 9 == 68) &&
     after (.sget 9 0x101) (grp inHandler) (fun t => t.th.sreg 9 == 0x1234) && after (.sget 9 0x101) (flow [] 0 3) (fun t => t.th.sreg 9 == 0) &&
     after (.sset 1 0x001) (flow [] 0 3) (fun t => t.th.mask == 0x1800 && t.th.pc == 0x1004) &&
     after (.sset 1 0x020) (flow [] 0 3) (fun t => t.th.tcause == 3) && after (.sset 1 0x000) (flow [] 0 3) (fun t => t.th.tcause == 1) &&
     after (.sset 1 0x407) (sysc { ready with sregs := [(1, 2)] }) (fun t => t.th.sys.ipend == 0x20) &&
     after (.sset 1 0x180) (sysc (st [(1, 77)])) (fun t => (t.plot 0).stopAt == 77 && t.th.pc == 0x1004) &&
     after (.sset 1 0x420) (sysc (st [(1, 77)])) (fun t => t.th.sys.icause == 3)) = true := by decide +kernel

/-- WriteEvents (RegisterWriteEvents, Slices): values on both sides of each check. -/
theorem witness_write_events :
    (on (sysc (st [])) { value := 2 }).atPlotCore = true ∧ (∀ c, ((sysc (st [])).core c).parked = []) ∧
    (sysc (st [])).hringOk 0 0x0 = true ∧ ((sysc (st [])).plot 0).areaOk 0 2048 = true ∧
    (fget? (sysc (st [])).plots 0).isSome = true ∧ ((sysc (st [])).plot 0).stopped = false ∧
    ((sysc (st [])).plot 0).sliceEnd ≤ (sysc (st [])).cycle ∧ (on (sysc (st [])) { ag := 0 }).nextVf 0 = some 0 :=
  ⟨by decide +kernel, fgetD_all (P := fun c : Core => c.parked = []) rfl (by decide +kernel),
    by decide +kernel⟩

/-- R326, R327: a quantum of 0 is refused in the function's status, and one below 30 takes effect as 30. -/
theorem test_quantum :
    (after .vfQuantumWrite (on (sysc (st [])) { value := 0 }) (fun t => (fgetD (t.plot 0).vfs 0 {}).status == 2) &&
     after .vfQuantumWrite (on (sysc (st [])) { value := 5 }) (fun t => (fgetD (t.plot 0).vfs 0 {}).effq == 30 && (fgetD (t.plot 0).vfs 0 {}).quantum == 5)) = true := by
  decide +kernel

/-- TrapReturns: a group in its handler, its record readable, its clauses done. -/
theorem witness_trap_returns :
    (grp inHandler).Free groupOnly [61, 63] ∧ (grp inHandler).blockOf 0 = some block1 ∧ (grp inHandler).th.clausesDone = true ∧
    (grp inHandler).th.walkHold = none ∧ ((grp inHandler).th.sreg 61).toNat % 4 = 0 ∧ ((grp inHandler).th.sreg 61).toNat < 2 ^ 56 ∧
    (grp inHandler).xlat 0 (block1.area + 0x80000 + 0x800 * ctxOfKey 0) = .ok (page 0x180000) :=
  ⟨free_of (by decide +kernel), by decide +kernel⟩

/-- The sibling, group 1, halted by the handler of group 0. -/
def halted (x : Thread) : State :=
  let s := grp x
  { s with threads := fset s.threads 1 { placeGroup with ctx := 1, status := .halted, haltedBy := some 0, sregs := [(5, 55)], mask := 0xAA } }

/-- R291: `tret` goes on at s61 under s63, and the sibling resumes. -/
theorem test_tret :
    after .tret (halted inHandler) (fun t => t.th.status == .running && t.th.pc == 0x1804 && t.th.mask == 0xF &&
      (t.thread 1).status == .running && (t.thread 1).haltedBy == none) = true := by decide +kernel

def control (a b : Word) : State := halted { inHandler with sregs := [(1, a), (2, b)] }

/-- GroupControl: a handler with a halted sibling; selectors at the ends of each class. -/
theorem witness_group_control :
    let s := control (1 + 1 * 2 ^ 32) (63 * 1)
    s.Free notSprout [0, 1, 2] ∧ s.th.status = .handler ∧ s.blockOf 0 = some block1 ∧ 1 < block1.launch.groups ∧
    groupKey (coreOfKey 0) 1 ≠ 0 ∧ (s.thread 1).haltedBy = some 0 ∧ (s.thread 1).status = .halted ∧ block1.gone.contains 1 = false ∧
    (s.th.sreg 1).toNat % 16 = 1 ∧ (s.th.sreg 1).toNat / 2 ^ 32 % 16 = 1 ∧ (s.th.sreg 2).toNat % 2 ^ 32 = 63 ∧
    block1.gone.contains (ctxOfKey 0) = false ∧
    ((control 1 (3 * 2 ^ 28 + 63 * 2 ^ 6)).th.sreg 2).toNat % 2 ^ 32 = 3 * 2 ^ 28 + 63 * 2 ^ 6 ∧
    ((control (2 ^ 32 + 2 ^ 28) 0x2000).th.sreg 2).toNat % 4 = 0 :=
  ⟨free_of (by decide +kernel), by decide +kernel⟩

/-- Table 13.8: a register, MASK and the status of the sibling; R293, R294: its register and PC are set, and it is resumed or
ended. -/
theorem test_group_control :
    (after (.ginspect 0 1 2) (control 1 5) (fun t => t.th.sreg 0 == 55) &&
     after (.ginspect 0 1 2) (control 1 0x10000001) (fun t => t.th.sreg 0 == 0xAA) &&
     after (.ginspect 0 1 2) (control 1 0x10000004) (fun t => t.th.sreg 0 == 1) &&
     after (.gmodify 1 2) (control 0x100000005 9) (fun t => (t.thread 1).sreg 5 == 9) &&
     after (.gmodify 1 2) (control 0x110000000 0x2000) (fun t => (t.thread 1).pc == 0x2000) &&
     after (.gresume 1) (control 1 0) (fun t => (t.thread 1).status == .running && t.th.pc == 0x1004) &&
     after (.gend 1) (control 1 0) (fun t => (t.thread 1).status == .ended && (t.blockOf 0).elim 0 (·.endedCount) == 1)) = true := by
  decide +kernel

/-- Refusals (HandlerOnly): a group that is not in a handler. -/
theorem witness_handler_only :
    (flow [] 0 3).Free notSprout [0, 1, 2, 61, 63] ∧ CanEnter (flow [] 0 3) 0 block1 (page 0x180000) :=
  ⟨free_of (by decide +kernel), canEnter_of (by decide +kernel)⟩

theorem test_handler_only :
    (after (.gresume 1) (flow [] 0 3) (fun t => t.th.tcause == 1) && after .tret (flow [] 0 3) (fun t => t.th.tcause == 1)) = true := by
  decide +kernel

/-! ### Calls, regions, barriers and publication -/

def ring8 (base : BitVec 56) : Ring := { base := base, cap := 8 }

/-- A group at the port of the call ring with call 5, the ring having room. -/
def called : State :=
  on (inPlot (grp { gt [] with wait := .syscPort }) (fun p => { p with sysc := ring8 0x300000, syscPort := [⟨1, 0, 5⟩] })) { ag := 0 }

/-- The plot's system core answers entry 3 of the ring, for which group 0 waits; the reply words are 11 and 12. -/
def answering : State :=
  let s := inPlot (grp { gt [] with wait := .syscSent 3 }) (fun p => { p with sysc := ring8 0x300000 })
  on { s with cur := sysKey 0, mem := { s.mem with cells := cellsSet (cellsSet s.mem.cells 0x3001D0 [11]) 0x3001D8 [12] } } { value := 3 }

/-- SystemCalls: at each stage of a call, and a fault that may be posted. -/
theorem witness_system_calls :
    (grp (gt [])).Free groupOnly [] ∧ FenceClear (grp (gt [])) true .p ∧
    (grp { gt [] with wait := .syscDone }).Free groupOnly [] ∧ FenceClear answering true .p ∧ (grp (gt [])).th.wait = .none ∧
    (called.plot 0).syscPort = ⟨1, 0, 5⟩ :: [] ∧ called.threadOf 1 0 = some { gt [] with wait := .syscPort } ∧
    called.blockById 1 = some block1 ∧ called.refreshing ((called.plot 0).sysc.at 128) = false ∧ called.waiters = [] ∧
    (called.plot 0).sysc.room = true ∧ 0 ≠ sysKey 0 ∧ called.mem.headers = [] ∧ answering.atPlotCore = true ∧
    (0, { gt [] with wait := .syscSent 3 }) ∈ answering.threads ∧ answering.thread 0 = { gt [] with wait := .syscSent 3 } ∧
    (answering.thread 0).plot = answering.th.plot ∧ 0 ≠ answering.cur ∧ answering.subj.value.toNat < 2 ^ 33 :=
  ⟨free_of (by decide +kernel), fence_of (by decide +kernel), free_of (by decide +kernel), fence_of (by decide +kernel),
    by decide +kernel⟩

/-- Table 15.10, R334: the entry's first word is the number; the reply words arrive in s0 and s1. -/
theorem test_system_call :
    (after .syscMessage called (fun t => t.mem.num 0x300000 4 == 5 && (t.plot 0).sysc.head == 1 && (t.thread 0).wait == .syscSent 0) &&
     after .syscPostWrite answering (fun t => (t.thread 0).sreg 0 == 11 && (t.thread 0).sreg 1 == 12 && (t.thread 0).wait == .syscDone)) = true := by
  decide +kernel

def opened : Region := ⟨0x1800, 0xF, 1, 1, 1, 1⟩
def replaying : State := on (grp { gt [(5, 9)] with mstack := [ifEntry, loopEntry], region := some opened }) { ag := 0 }
def moving : State := on (grp (gt [(5, 9)])) { ag := 0, n := 1, flag := true }

/-- BlocksReplayAndMove (IdempotentRegions, BlockMigrates). -/
theorem witness_replay_and_move :
    (∀ y, (0, y) ∈ moving.threads → y = gt [(5, 9)]) ∧ (grp (gt [])).Free notSprout [] ∧ CanEnter moving 0 block1 (page 0x180000) ∧
    (fget? replaying.threads 0).isSome = true ∧ (replaying.thread 0).trap = none ∧ (replaying.thread 0).status = .running ∧ (replaying.thread 0).win.any (·.ref) = false ∧ (replaying.thread 0).spec = none ∧
    (replaying.thread 0).region = some opened ∧ opened.depth ≤ (replaying.thread 0).depth ∧
    (moving.thread 0).region = none ∧ (moving.thread 0).frozen = false ∧ (moving.core 0).block = some block1 ∧ (moving.usable block1.launch.plot).contains (clusterOf 1) = true ∧
    (moving.core 1).block = none ∧ moving.coreDrained 0 = true ∧ (0, gt [(5, 9)]) ∈ moving.threads ∧
    moving.latencyOk block1.launch.plot block1.launch 1 = true ∧ moving.thread 0 = gt [(5, 9)] :=
  have only : ∀ p ∈ moving.threads, p.1 = 0 → p.2 = gt [(5, 9)] := by decide +kernel
  ⟨fun y h => only (0, y) h rfl, free_of (by decide +kernel), canEnter_of (by decide +kernel), by decide +kernel⟩

/-- R297, R189: replay from the region's start; a group on its new core. -/
theorem test_replay_and_move :
    (after .registerParityError replaying (fun t => t.th.pc == 0x1800 && t.th.mask == 0xF && t.th.mstack == [loopEntry] && t.th.sreg 5 == 9) &&
     after .registerParityError moving (fun t => t.th.trap.any (fun p => p.cause == 7 && p.pc == 0x1000) && t.th.pc == 0x1000) &&
     after .blockMigration moving (fun t => (t.core 0).block == none && (t.thread 32).sreg 5 == 9 && ((t.core 1).block.elim 9 (·.blockId)) == 0)) = true := by
  decide +kernel

/-- Both groups wait at the first `bsync`, or `rsync` of one core. -/
def meeting (w : TWait) : State :=
  let s := grp { gt [] with wait := w, bsyncs := 1, rsyncs := 1 }
  on { s with threads := fset s.threads 1 { placeGroup with ctx := 1, wait := w, bsyncs := 1, rsyncs := 1 } } { ag := 0 }

/-- Barriers (BarriersArrive, BarriersComplete). -/
theorem witness_barriers :
    (grp (gt [])).Free notSprout [] ∧ FenceClear (grp (gt [])) true .b ∧ block1.holdsRect 0 (2 ^ 0) (2 ^ 0) = true ∧
    (∀ k ∈ (grp (gt [])).launchKeys 0, (grp (gt [])).clashAt 0 1 1 1 k = false) ∧ block1.holdsRect 0 (2 ^ 1) (2 ^ 0) = false ∧
    CanEnter (grp (gt [])) 0 block1 (page 0x180000) ∧ FenceClear (sysc (st [])) true .p ∧ (sysc (st [])).Free notSprout [] ∧
    (∀ p, ((meeting .bsync).plot p).cksCtl = 0) ∧ 0 ∈ (meeting .bsync).groupKeys 0 ∧
    (∀ k ∈ (meeting .bsync).groupKeys 0, (meeting .bsync).isGone k = true ∨ 1 ≤ ((meeting .bsync).thread k).bsyncs) ∧
    0 ∈ ((meeting (.rsync 1 1)).rectCores 0 1 1).flatMap (meeting (.rsync 1 1)).groupKeys ∧
    (∀ k ∈ ((meeting (.rsync 1 1)).rectCores 0 1 1).flatMap (meeting (.rsync 1 1)).groupKeys,
      (meeting (.rsync 1 1)).isGone k = true ∨ 1 ≤ ((meeting (.rsync 1 1)).thread k).rsyncs) :=
  ⟨free_of (by decide +kernel), fence_of (by decide +kernel), by decide +kernel, by decide +kernel, by decide +kernel,
    canEnter_of (by decide +kernel), fence_of (by decide +kernel), free_of (by decide +kernel),
    fun p => fgetD_all (P := fun p : Plot => p.cksCtl = 0) (m := (meeting .bsync).plots) (d := { id := p }) rfl (by decide +kernel) p,
    by decide +kernel⟩

/-- The one group of a block waits at its first `bsync`, and its plot keeps checksums. -/
def summing : State :=
  let s := inPlot (State.reset.placed []) (fun p => { p with cksCtl := 1, cks := ring8 0x300000 })
  on { s with threads := fset s.threads 0 { placeGroup with wait := .bsync, bsyncs := 1 }, cycle := 77 } { ag := 0 }

/-- Barriers (BarrierChecksum). -/
theorem witness_barrier_checksum :
    (summing.thread 0).wait = .bsync ∧ summing.groupKeys (coreOfKey 0) = [0] ∧ (summing.plot (summing.plotOf 0)).cksCtl = 1 ∧
    (summing.plot (summing.plotOf 0)).cks.room = true ∧ summing.mem.headers = [] := by decide +kernel

/-- R364: the head counts the entry. -/
theorem test_barrier_checksum :
    after .barrierComplete summing (fun t => (t.plot 0).cks.head == 1 && t.th.wait == .bsyncDone) = true := by decide +kernel

/-- R173: both are released together, and not while one has still to arrive. -/
theorem test_barrier :
    (after .barrierComplete (meeting .bsync) (fun t => (t.thread 0).wait == .bsyncDone && (t.thread 1).wait == .bsyncDone) &&
     after .barrierComplete (on (next .bsync (grp (gt []))) { ag := 0 }) (fun t => (t.thread 0).wait == .bsync) &&
     after (.rsync 1 0) (grp (gt [])) (fun t => t.th.tcause == 3)) = true := by decide +kernel

def publishing : State := objects (gt [(1, 0x110)])
/-- The object is published already, at scope c. -/
def published : State :=
  { publishing with mem := { publishing.mem with cells := cellsSet publishing.mem.cells 0x200108 [0x42], headers := [0x200100] } }

def pub (r : Publication) : State := on (inPlot publishing (fun p => { p with pubs := [r] })) { ag := 0, n := 1 }
def marking : Publication :=
  { id := 1, core := 0, block := 1, slot := 0, tag := 2, scope := 3, space := 0, marked := [0x200100], queue := [⟨0x200110, 0x200100, none⟩] }

/-- PublicationRuns: a root to mark, one published at a scope as wide, a queue with an object, an object to set, and the end. -/
theorem witness_publication :
    publishing.Free notSprout [1] ∧ publishing.th.wait = .none ∧ publishing.logBusy 0 = false ∧ FenceClear publishing true .b ∧
    (publishing.th.sreg 1).toNat % 256 = 16 ∧ publishing.xlat 0 ((publishing.th.sreg 1).toNat - 16) = .ok { page 0x100 with obj := true } ∧
    publishing.wellFormedRef 0 (publishing.th.sreg 1) = some 0x200100 ∧ publishing.portOf 0x200100 = none ∧
    publishing.blockOf 0 = some block1 ∧ publishing.mem.publishable block1.slot 0x200100 = true ∧
    (publishing.tag 0 2).ready = true ∧ publishing.mem.hdrState 0x200100 ≠ 2 ∧ published.mem.hdrState 0x200100 = 2 ∧
    Scope.code .c ≤ published.mem.hdrScope 0x200100 ∧ published.wellFormedRef 0 (published.th.sreg 1) = some 0x200100 ∧
    ((pub marking).plot 0).pubs.find? (fun q => q.id == 1) = some marking ∧ (pub marking).mem.taggedValues 0x200100 = [] ∧
    marking.hold = none ∧ (pub marking).refreshing 0x200100 = false ∧ (pub marking).waiters = [] ∧
    (∀ l ∈ (pub marking).mem.objLines 0x200100, (pub marking).portOf l = none) ∧ marking.scope < 6 ∧
    ((pub { marking with queue := [], setting := true, left := [0x200100] }).plot 0).pubs.find? (fun q => q.id == 1) =
      some { marking with queue := [], setting := true, left := [0x200100] } ∧
    ((pub { marking with queue := [], setting := true, left := [0x200100] }).core 0).block = some block1 ∧ block1.id = marking.block :=
  ⟨free_of (by decide +kernel), by decide +kernel, by decide +kernel, fence_of (by decide +kernel), by decide +kernel⟩

/-- The object at 0x100 refers to one at 0x200, which an earlier publication of the block has marked. -/
def meetingPubs : State :=
  let s := objects (gt [])
  let cells := cellsSet (cellsSet s.mem.cells 0x200200 [8]) 0x200110 (leBytes 8 0x210)
  let t := { s with mem := { s.mem with cells := cells, tags := [0x200110], side := [(0x200100, 0)] } }
  on (inPlot t (fun p => { p with pubs := [{ marking with marked := [0x200200], queue := [] }, { marking with id := 2 }] })) { ag := 0, n := 2 }

/-- PublicationRuns: what an earlier publication has marked is waited for. -/
theorem witness_publication_waits :
    let r : Publication := { marking with id := 2 }
    let e : MarkEntry := ⟨0x200110, 0x200100, none⟩
    let u := meetingPubs.rakeMarked 0 r e []
    let x : Xlat := { page 0x200 with obj := true }
    (meetingPubs.plot 0).pubs.find? (fun q => q.id == 2) = some r ∧ meetingPubs.refreshing 0x200100 = false ∧
    r.hold = none ∧ r.setting = false ∧ meetingPubs.waiters = [] ∧
    (∀ l ∈ meetingPubs.mem.objLines 0x200100, meetingPubs.portOf l = none) ∧ r.fatal.contains 0 = false ∧
    meetingPubs.mem.taggedValues 0x200100 = [0x210] ∧ meetingPubs.rakeXlat 0 0 0x200 = .ok x ∧ u.rakeXlat 0 0 0x200 = .ok x ∧
    0x200 / 2 ^ pageBits x.size = (0x210 + u.mem.hdrLength x.pa - 1) / 2 ^ pageBits x.size ∧ u.mem.hdrState x.pa ≠ 2 ∧
    r.marked.contains x.pa = false ∧ u.mem.sideOf x.pa = 0x7FF ∧
    (u.plot 0).pubs.filter (fun q => q.id != 2 && q.marked.contains x.pa) = [{ marking with marked := [0x200200], queue := [] }] ∧
    (after .rakeMark meetingPubs (fun t => (t.plot 0).pubs.map (·.waits) == [[], [1]])) = true := by decide +kernel

/-- R183–R185: the tag is busy while the publication runs; the header reads marked, then published at its scope. -/
theorem test_publication :
    (after (.publish 2 1 .d) publishing (fun t => !(t.tag 0 2).ready && (t.plot 0).pubs.length == 1 && t.th.pc == 0x1004) &&
     after (.publish 2 1 .c) published (fun t => (t.tag 0 2).ready && (t.plot 0).pubs.length == 0 && t.th.pc == 0x1004) &&
     after .rakeMark (pub marking) (fun t => t.mem.hdrState 0x200100 == 1) &&
     after .rakeSet (pub { marking with queue := [], setting := true, left := [0x200100] }) (fun t =>
       t.mem.hdrState 0x200100 == 2 && t.mem.hdrScope 0x200100 == 3) &&
     after .rakeSet (pub { marking with queue := [], setting := true }) (fun t => (t.tag 0 2).ready && (t.plot 0).pubs == [])) = true := by
  decide +kernel

/-! ### Launches -/

def wordsAt (s : State) (a : Nat) (ws : List Word) : State :=
  { s with mem := { s.mem with cells := ws.zipIdx.foldl (fun m x => cellsSet m (a + 8 * x.2) (leBytes 8 x.1.toNat)) s.mem.cells } }

/-- A group whose s1 names a record at 0x4000, here the block's own. -/
def launching (r : List Word) : State := wordsAt (grp (gt [(1, 0x4000), (2, 0x5000)])) 0x204000 r

/-- The record with copy tag 3 as its completion target. -/
def taggedRecord : List Word := launch1.record.set 7 (BitVec.ofNat 64 (2 ^ 61 + 3))
/-- The plot's system core launches; every entry of the launch's level is taken, with an overflow area of some records. -/
def sysLaunching : State := wordsAt (sysc (st [(1, 0x4000)])) 0x204000 launch1.record
def crowded (cap : Nat) : State :=
  inPlot (launching launch1.record) (fun p =>
    { p with waiting := List.replicate 64 launch1, lovfBase := 0x400000, lovfCap := BitVec.ofNat 16 cap })

/-- The queue of plot 0, with one launch of the running function, at cycle 2^20. -/
def queueing (l : Launch) : State := on { inPlot (grp (gt [])) (fun p => { p with waiting := [l] }) with cycle := 2 ^ 20 } { ag := 0 }
def spilling (l : Launch) : State := on (inPlot (grp (gt [])) (fun p => { p with spilled := [l] })) { ag := 0, n := 0 }

/-- LaunchStarts (LaunchAccepted, LaunchPlacement): a record that Table 13.2 accepts, one that it rejects, and a launch with a
free core. -/
theorem witness_launch_starts :
    (launching launch1.record).Free notSprout [0, 1] ∧ (launching launch1.record).logBusy 0 = false ∧
    (launching launch1.record).checkAccess 0 .load ((launching launch1.record).th.sreg 1) 64 = .ok (page 0x4000) ∧
    ((launching launch1.record).launchAt 0x204000).compKind ≠ 1 ∧ (launching launch1.record).mem.isPoison 0x204000 = false ∧
    (launching launch1.record).portOf 0x204000 = none ∧ FenceClear (launching launch1.record) true .p ∧
    (launching launch1.record).rejectReason 0 ((launching launch1.record).launchAt 0x204000) (some (launching launch1.record).alloc) = 0 ∧
    (launching []).rejectReason 0 ((launching []).launchAt 0x204000) (some (launching []).alloc) ≠ 0 ∧
    ((launching launch1.record).plot 0).levelCount 0 0 < 64 ∧ ((launching launch1.record).plot 0).spilled = [] ∧
    ((queueing launch1).plot 0).stopped = false ∧ ((queueing launch1).plot 0).pair = none ∧
    launch1.origins.find? (fun o => (queueing launch1).qualifies 0 launch1 o) = some (1, 0) ∧ launch1.head = false ∧
    (launch1.tilesAt (1, 0)).Nodup ∧
    (∀ c ∈ launch1.tilesAt (1, 0), ((queueing launch1).core c).block = none ∧ ((queueing launch1).core c).parked = []) :=
  ⟨free_of (by decide +kernel), by decide +kernel, by decide +kernel, by decide +kernel, by decide +kernel, by decide +kernel,
    fence_of (by decide +kernel), by decide +kernel⟩

/-- LaunchAccepted: a copy tag that is ready, and one that another group has taken; a launch from the system core; a full level
with a record's room in the overflow area, and with none. -/
theorem witness_launch_forms :
    ((launching taggedRecord).launchAt 0x204000).compKind = 1 ∧ ((launching taggedRecord).launchAt 0x204000).compVal % 64 = 3 ∧
    ((launching taggedRecord).tag 0 3).ready = true ∧ ((launching taggedRecord).core 0).block.isSome = true ∧
    (launching taggedRecord).rejectReason 0 ((launching taggedRecord).launchAt 0x204000) (some (launching taggedRecord).alloc) = 0 ∧
    (((launching taggedRecord).setTag 0 3 { ready := false, taker := some 1 }).tag 0 3).taker ≠ some (ctxOfKey 0) ∧
    sysLaunching.Free notSprout [0, 1] ∧ FenceClear sysLaunching true .p ∧
    sysLaunching.checkAccess (sysKey 0) .load 0x4000 64 = .ok (page 0x4000) ∧ sysLaunching.portOf 0x204000 = none ∧
    sysLaunching.rejectReason 0 (sysLaunching.launchAt 0x204000) none = 0 ∧
    (crowded 4).Free notSprout [0, 1] ∧ FenceClear (crowded 4) true .p ∧ (crowded 0).Free notSprout [0, 1] ∧
    FenceClear (crowded 0) true .p ∧
    ((crowded 4).plot 0).levelCount 0 ((crowded 4).launchAt 0x204000).prio = 64 ∧ ((crowded 4).plot 0).ovfRoom 0 = true ∧
    ((crowded 4).plot 0).owed = [] ∧ (crowded 4).waiters = [] ∧ (crowded 4).refreshing 0x400000 = false ∧
    ((crowded 4).plot 0).ovfAt 0 0 = 0x400000 ∧ ((crowded 0).plot 0).ovfRoom 0 = false ∧
    (crowded 4).rejectReason 0 ((crowded 4).launchAt 0x204000) (some (crowded 4).alloc) = 0 :=
  ⟨by decide +kernel, by decide +kernel, by decide +kernel, by decide +kernel, by decide +kernel, by decide +kernel,
    free_of (by decide +kernel), fence_of (by decide +kernel), by decide +kernel, by decide +kernel, by decide +kernel,
    free_of (by decide +kernel), fence_of (by decide +kernel), free_of (by decide +kernel), fence_of (by decide +kernel),
    by decide +kernel⟩

/-- R271, R272, R277: the tag is taken; a spilled launch; no room at all. -/
theorem test_launch_forms :
    (after (.launch 0 1) (launching taggedRecord) (fun t => t.th.sreg 0 == 0 && !(t.tag 0 3).ready) &&
     after (.launch 0 1) sysLaunching (fun t => t.th.sreg 0 == 0 && ((t.plot 0).waiting.map (·.launcher)) == [some (sysKey 0)]) &&
     after (.launch 0 1) (crowded 4) (fun t => t.th.sreg 0 == 1 && t.mem.word 0x400000 == 0x1000 && (t.plot 0).spilled.length == 1) &&
     after (.launch 0 1) (crowded 0) (fun t => t.th.sreg 0 == 3 && (t.plot 0).seq == 0)) = true := by decide +kernel

/-- The candidate of a queue of one launch. -/
theorem witness_candidate :
    ((queueing launch1).plot 0).candidates.find? ((queueing launch1).plot 0).eligible = some launch1 := by
  have e : ((queueing launch1).plot 0).waiting.filter (fun l => l.vf == ((queueing launch1).plot 0).vfCur) = [launch1] := by decide +kernel
  have f : ((queueing launch1).plot 0).eligible launch1 = true := by decide +kernel
  unfold Plot.candidates
  rw [e]
  simp [f]

/-- Table 13.2: the status of a rejected record, and the sequence number of an accepted one. -/
theorem test_launch :
    (after (.launch 0 1) (launching launch1.record) (fun t => t.th.sreg 0 == 0 && (t.plot 0).waiting.length == 1 && (t.plot 0).seq == 1) &&
     after (.launch 0 1) (launching []) (fun t => t.th.sreg 0 % 256 == 2 && (t.plot 0).waiting == [])) = true := by decide +kernel

def finished (k : Nat) (who : Option Nat) : Launch :=
  { launch1 with seq := 5, launcher := who, launcherBlock := 1, record := [0x1000, 0, 0, 0, 0x400100, 0, 0, BitVec.ofNat 64 (k * 2 ^ 61 + 3)] }
def finishing (k : Nat) (who : Option Nat) : State :=
  on (inPlot (grp (gt [])) (fun p => { p with running := [launch1, finished k who] })) { ag := 0, n := 5 }

/-- LaunchProceeds (LaunchQueues, LaunchCompletion): a launch that is due, a record to refill, and each completion. -/
theorem witness_launch_proceeds :
    (∃ l ∈ ((queueing launch1).plot 0).waiting ++ ((queueing launch1).plot 0).spilled, l.level < 7 ∧ l.since + 2 ^ 20 ≤ (queueing launch1).cycle) ∧
    ((spilling launch1).plot 0).owed = [] ∧ launch1.level = 0 ∧ (spilling launch1).subj.n = 0 ∧ ((spilling launch1).plot 0).levelCount 0 0 < 64 ∧ ((spilling launch1).plot 0).spilled = [launch1] ∧ launch1.vf = ((spilling launch1).plot 0).vfCur ∧
    ((finishing 0 none).plot 0).running.find? (fun l => l.seq.toNat == 5 && l.copy == false) = some (finished 0 none) ∧
    (finishing 0 none).launchLive (finished 0 none) = false ∧ (finished 0 none).compKind = 0 ∧ (finished 1 none).compKind = 1 ∧
    (finished 1 (some 0)).launcher = some 0 ∧ (finishing 1 (some 0)).launchLive (finished 1 (some 0)) = false ∧
    ((finishing 1 (some 0)).core (0 / 32)).block = some block1 ∧ block1.id = (finished 1 (some 0)).launcherBlock :=
  ⟨⟨launch1, by decide +kernel⟩, by decide +kernel⟩

/-- R273, R277: up a level; bit 3 of LCOMP; copy tag 3. -/
theorem test_launch_proceeds :
    (after .launchAging (queueing launch1) (fun t => (t.plot 0).waiting.map (·.level) == [1]) &&
     after .overflowRefill (spilling launch1) (fun t => (t.plot 0).waiting.length == 1 && (t.plot 0).spilled == []) &&
     after .launchCompletion (finishing 1 none) (fun t => (t.plot 0).lcomp == 8 && (t.plot 0).running == [launch1] && (t.thread (sysKey 0)).sys.ipend == 4) &&
     after .launchCompletion (finishing 1 (some 0)) (fun t => (t.tag 0 3).ready && !(t.tag 0 3).err && (t.tag 0 3).status == 0)) = true := by decide +kernel

/-- The last group of the block. -/
def last : State := let s := grp (gt []); { s with cores := fset s.cores 0 { s.core 0 with block := some { block1 with gone := [1] } } }

/-- ExitYieldPhase. -/
theorem witness_exit_yield_phase :
    (grp (gt [])).Free anyone [] ∧ DeliveryClear (grp (gt [])) ∧
    (∃ g, g < block1.launch.groups ∧ g ≠ ctxOfKey 0 ∧ block1.gone.contains g = false) ∧ last.Free anyone [] ∧ DeliveryClear last ∧
    (grp (gt [(1, 2)])).Free notSprout [1] ∧ FenceClear (grp (gt [(1, 2)])) false .p ∧ (grp (gt [])).th.sq = [] ∧
    (grp (gt [])).opsDone 0 = true ∧ (grp (gt [])).th.status = .running ∧ last.opsDone 0 = true ∧
    last.blockOf 0 = some { block1 with gone := [1] } ∧ (last.thread 1).sq = [] ∧ (last.core 0).eops = [] ∧
    (last.core 0).mops = [] ∧ (last.core 0).hreads = [] ∧ (sysc user).th.sys.smode.getLsbD 0 = false ∧
    (∀ l ∈ ((grp (gt [(1, 2)])).plot 0).detLaunches, 2 ≤ l.phase) :=
  ⟨free_of (by decide +kernel), delivery_of (by decide +kernel), ⟨1, by decide +kernel⟩, free_of (by decide +kernel),
    delivery_of (by decide +kernel), free_of (by decide +kernel), fence_of (by decide +kernel), by decide +kernel⟩

/-- R28: the last group's `exit` frees the core. -/
theorem test_exit :
    (after .exit (grp (gt [])) (fun t => t.th.status == .exited && (t.core 0).block.isSome) &&
     after .exit last (fun t => (t.core 0).block == none) &&
     after .exit (sysc user) (fun t => t.th.sys.icause == 0x21 && t.th.sys.ipc == 0x1004) &&
     after .yield (grp (gt [])) (fun t => t.th.pc == 0x1004) && after (.phase 1) (grp (gt [(1, 2)])) (fun t => t.th.pc == 0x1004)) = true := by
  decide +kernel

/-! ### The system class -/

/-- A TLB entry of the page, and an invalidation of its first 4 KB that core 0 has still to apply. -/
def shot : Invalidation := ⟨0, 0x1000, some 0, [0], [], []⟩
/-- One that every TLB has applied, and that waits for nothing more. -/
def applied : Invalidation := ⟨0, 0x1000, some 0, [], [(1, 0, 9)], [(0, 5)]⟩
def shooting : State :=
  let s := inPlot (grp { gt [] with bts := [(1, { vbase := 0, frame := 0x200000, limit := 0x2000, rd := true, wr := true })] }) (fun p => { p with invs := [shot] })
  on { s with cores := fset s.cores 0 { s.core 0 with tlb := [tlbEntryOf 0 0 (page 0)] } } { ag := 0, n := 0 }

/-- Shootdown: an aligned range of one space and of all, a misaligned one, an empty queue, and one to apply. -/
theorem witness_shootdown :
    Privileged (sysc (st [(1, 0x1000), (2, 0x2000)])) [1, 2] ∧ (0x2000 : Word).toNat / 2 ^ 48 < ((sysc (st [])).plot 0).vfCount ∧
    (0xFFFF000000002000 : Word).toNat / 2 ^ 48 = 0xFFFF ∧ (0x1001 : Word).toNat % 4096 ≠ 0 ∧ ((sysc (st [])).plot 0).invs = [] ∧
    FenceClear (sysc (st [])) true .p ∧ (sysc (st [])).th.wait = .none ∧ (shooting.plot 0).invs = shot :: [] ∧ shot.cores.contains 0 = true ∧
    ∀ i ∈ ((inPlot (sysc (st [])) (fun p => { p with invs := [applied] })).plot 0).invs, i.cores = [] ∧
      (∀ x ∈ i.await, (sysc (st [])).stillQueued x = false) ∧ ∀ x ∈ i.fills, (sysc (st [])).stillFills x = false :=
  ⟨privileged_of (by decide +kernel), by decide +kernel, by decide +kernel, by decide +kernel, by decide +kernel,
    fence_of (by decide +kernel), by decide +kernel⟩

/-- R315, R316: queued; applied; fenced; misaligned. -/
theorem test_shootdown :
    (after (.tlbinv 1 2) (sysc (st [(1, 0x1000), (2, 0x2000)])) (fun t => (t.plot 0).invs.length == 1 && t.th.pc == 0x1004) &&
     after .tlbInvalidationApply shooting (fun t => (t.core 0).tlb == [] && (t.thread 0).bt 1 != (shooting.thread 0).bt 1 &&
       (t.plot 0).invs.map (·.cores) == [[]]) &&
     after .tlbfence (sysc (st [])) (fun t => t.th.pc == 0x1004) &&
     after (.tlbinv 1 2) (sysc (st [(1, 0x1001), (2, 0x2000)])) (fun t => t.th.sys.icause == 2)) = true := by decide +kernel

/-- A plot with four pages and their bitmap in the first of them: page 1 is clean. -/
def pool (r : Thread) : State :=
  let s := inPlot (sysc r) (fun p => { p with ranges := [(0x400000, 0x404000)], poolBase := 0x400000 })
  { s with mem := { s.mem with cells := cellsSet s.mem.cells 0x400000 [2] } }
/-- Page 3, with a byte in it, is to be scrubbed. -/
def scrubbing : State :=
  let s := inPlot (pool (st [])) (fun p => { p with scrub := [⟨0x403000, 0⟩] })
  on { s with mem := { s.mem with cells := cellsSet s.mem.cells 0x403123 [9] } } { ag := 0, n := s.scrubDie ⟨0x403000, 0⟩ }

/-- FreedMemory. -/
theorem witness_freed_memory :
    let v := (0x402000 : Word).toNat
    let s := pool (st [(1, 0x402000), (2, 0x7FF00)])
    Privileged s [1] ∧ Privileged s [2] ∧ s.th.wait = .none ∧ FenceClear s true .p ∧ v % 4096 = v % 8 ∧ v / 4096 * 4096 % 2 ^ pageBits 0 = 0 ∧
    (s.plot 0).owns 0x402000 (2 ^ pageBits 0) = true ∧ (s.plot 0).inScrub 0x402000 (2 ^ pageBits 0) = false ∧
    s.cleanPages (s.plot 0) = [0x401000] ∧ framesIn (s.plot 0) (s.cleanPages (s.plot 0)) 0 = [0x401000] ∧
    (0x7FF00 : Word).toNat < 2 ^ 19 ∧ (0x7FF00 : Word).toNat / 256 = 0x7FF ∧
    (sysc (st [(2, 0)])).cleanPages ((sysc (st [(2, 0)])).plot 0) = [] ∧
    framesIn ((sysc (st [])).plot 0) (((sysc (st [])).plot 0).scrub.flatMap (fun q => pagesOf q.frame q.size)) 0 = [] ∧
    framesIn (scrubbing.plot 0) ((scrubbing.plot 0).scrub.flatMap (fun q => pagesOf q.frame q.size)) 0 = [0x403000] ∧ 0x403000 % 256 = 0 ∧
    (scrubbing.plot 0).scrub = ⟨0x403000, 0⟩ :: [] ∧ scrubbing.scrubDie ⟨0x403000, 0⟩ = scrubbing.subj.n ∧
    (scrubbing.plot 0).poolBase.toNat + ((scrubbing.plot 0).poolBits / 8 + 1) ≤ 0x403000 :=
  ⟨privileged_of (by decide +kernel), privileged_of (by decide +kernel), by decide +kernel, fence_of (by decide +kernel), by decide +kernel⟩

/-- R322–R324: queued, taken, zeroed and clean again. -/
theorem test_freed_memory :
    (after (.pgfree 1) (pool (st [(1, 0x402000)])) (fun t => (t.plot 0).scrub == [⟨0x402000, 0⟩] && t.th.pc == 0x1004) &&
     after (.pgalloc 2) (pool (st [(2, 0x7FF00)])) (fun t => t.th.sreg 2 == 0x401000 && t.mem.byte 0x400000 == 0) &&
     after (.pgalloc 2) (sysc (st [(2, 0)])) (fun t => t.th.sreg 2 == 1) &&
     after .scrubFrame scrubbing (fun t => t.mem.byte 0x403123 == 0 && t.mem.byte 0x400000 == 0xA && (t.plot 0).scrub == [])) = true := by
  decide +kernel

/-- Plot 0 with a second, idle cluster, and plot 1 with the cluster beside it; plot 0 may lend to plot 1. -/
def lending (r : Thread) (ls : List Lent) : State :=
  let s := inPlot (sysc r) (fun p => { p with clusters := [0, 1], lends := ls })
  { s with
    plots := fset s.plots 1 { id := 1, clusters := [2], borrowed := ls.map (·.cluster) }, board := { s.board with lendOk := [(0, 1)] }
    threads := fset s.threads (sysKey 1) { plot := 1 } }
def lender : Thread := st [(1, 1), (2, 0x1000000000001)]
def overdue : State :=
  on { inPlot (grp { gt [] with sq := [{ seq := 1, kind := .store, parts := [] }] }) (fun p => { p with lends := [⟨0, 1, 65536, some 100, false⟩] }) with cycle := 100 } { ag := 0 }

/-- Lending (LendingAndRecall, RecallDeadlines). -/
theorem witness_lending :
    Privileged (lending lender []) [1, 2] ∧ ((lending lender []).plot 0).clusters.contains 1 = true ∧ (lending lender []).clusterIdle 1 = true ∧
    ((lending lender []).plot 1).clusters.any (clusterEdge 1) = true ∧ (lending lender []).board.lendOk.contains (0, 1) = true ∧
    65536 ≤ (0x1000000000001 : Word).toNat / 2 ^ 32 ∧ (0x1000000000001 : Word).toNat / 64 % 2 ^ 26 = 0 ∧
    (lending lender [⟨1, 1, 65536, none, false⟩]).th.spec = none ∧ (lending lender [⟨1, 1, 65536, none, false⟩]).th.sys.smode = 3 ∧
    (lending lender [⟨1, 1, 65536, some 9, false⟩]).launchesOn 1 = [] ∧ (lending lender [⟨1, 1, 65536, some 9, false⟩]).clusterIdle 1 = true ∧
    ((lending lender [⟨1, 1, 65536, some 9, false⟩]).plot 0).lends = [⟨1, 1, 65536, some 9, false⟩] ∧
    ((lending lender [⟨1, 1, 65536, some 9, true⟩]).plot 0).lends = [⟨1, 1, 65536, some 9, true⟩] ∧
    (overdue.plot 0).lends.find? (fun l => !l.back && l.recalling.elim false (fun t => decide (t ≤ overdue.cycle))) =
      some ⟨0, 1, 65536, some 100, false⟩ ∧
    (clusterTiles 0).filter (fun c => !overdue.coreDrained c && (overdue.core c).block.elim false Block.lives) = [0] ∧
    (∀ k ∈ clusterTiles 0, (overdue.core k).parked = []) ∧ (overdue.core 0).block = some block1 :=
  ⟨privileged_of (by decide +kernel), by decide +kernel⟩

/-- R328, R329: lent; first told, then taken back; past the deadline ended. -/
theorem test_lending :
    (after (.lend 1 2) (lending lender []) (fun t => (t.plot 1).borrowed == [1] && t.th.pc == 0x1004) &&
     after (.recall 1) (lending lender [⟨1, 1, 65536, none, false⟩]) (fun t => (t.thread (sysKey 1)).sys.ipend == 0x100) &&
     (recallProgressStep (on (lending lender [⟨1, 1, 65536, some 9, false⟩]) { ag := 0 })).any (fun t =>
       (t.plot 0).lends == [⟨1, 1, 65536, some 9, true⟩] && (t.plot 1).borrowed == []) &&
     after (.recall 1) (lending lender [⟨1, 1, 65536, some 9, true⟩]) (fun t => (t.plot 0).lends == [] && t.th.pc == 0x1004) &&
     after (.recall 1) (lending lender []) (fun t => t.th.sys.icause == 3)) = true := by decide +kernel

/-- ModelKeys: a slot to empty, a record that is readable and writable, and a live session. -/
theorem witness_model_keys :
    Privileged (sysc (st [(1, 15), (2, 0x4000)])) [1, 2] ∧ ((sysc (st [(1, 15)])).th.sreg 1).toNat < 16 ∧ (sysc (st [(1, 15)])).th.sreg 2 = 0 ∧
    (sysc (st [(1, 15), (2, 0x4000)])).checkAccess (sysKey 0) .load 0x4000 64 = .ok (page 0x4000) ∧
    (sysc (st [(1, 15), (2, 0x4000)])).th.sq = [] ∧ (sysc (st [])).mem.isPoison 0x204000 = false ∧ (page 0x4000).wr = true ∧
    (sysc (st [])).portOf 0x204000 = none ∧ (sysc (st [])).waiters = [] ∧ (sysc (st [])).refreshing 0x204000 = false ∧
    (on { sysc (st []) with mgr := { sessions := [7] } } { n := 7 }).mgr.sessions.contains 7 = true :=
  ⟨privileged_of (by decide +kernel), by decide +kernel⟩

/-- R331: an emptied slot; the end of a session. -/
theorem test_model_keys :
    (after (.keyload 1 2) (inPlot (sysc (st [(1, 15)])) (fun p => { p with keys := [(15, ⟨[], 7⟩)] })) (fun t => (t.plot 0).keys == [] && t.th.pc == 0x1004) &&
     after .sessionEnd (on { inPlot (sysc (st [])) (fun p => { p with keys := [(3, ⟨[], 7⟩), (4, ⟨[], 8⟩)] }) with mgr := { sessions := [7, 8] } } { n := 7 }) (fun t =>
       t.mgr.sessions == [8] && (t.plot 0).keys == [(4, ⟨[], 8⟩)])) = true := by decide +kernel

/-! ### Lane work -/

/-- A running clause of group 0 with this instruction behind it. -/
def clauseOf (is : List Instr) (mask : BitVec 64) : Clause :=
  { id := 1, addr := 0x2000, hdr := ⟨4, some 2, none, 2⟩, instrs := is, next := 1, started := true, mask := mask, rmode := 0, ftv := 1 }

/-- Rows 0 to 3 of group 0 hold these elements in every lane; predicate 3 is set in lane 0; the clause captured this mask. -/
def lanes (r : List Elem) (mask : BitVec 64) : State :=
  let s := grp { gt [(9, 0x80000001), (10, 5), (11, 7)] with
    preds := [(3, 1)], queue := [clauseOf [.nop, .nop] mask], laneClause := 1, nextId := 2
    bts := [(1, { vbase := 0, frame := 0x200000, limit := 0x2000, rd := true, wr := true, cacheable := true })] }
  on { s with cores := fset s.cores 0 { s.core 0 with rows := r.zipIdx.map (fun x => (x.2, List.replicate 64 x.1)) } } { ag := 0 }

/-- Lane 0 of a row after an instruction. -/
def lane0 (i : Instr) (s : State) (row : Nat) : Elem := ((next i s).row 0 row).at 0

/-- LaneInteger, LanePredicates, LaneMovement, LaneFloat, LaneScalesAndFunctions: rows in the group's allocation, at its end too. -/
theorem witness_lane_rows :
    (lanes [1, 2] 3).CanWrite (vregRows .i32 63) ∧ (lanes [1, 2] 3).CanWrite (vregRows .i64 62) ∧ (lanes [1, 2] 3).CanWrite [62 + 1] := by
  refine ⟨?_, ?_, ?_⟩ <;> (unfold State.CanWrite; decide +kernel)

/-- Table 5.4 on the corners. -/
theorem test_lane_integer :
    ([(.vadd .i8 5 0 (.vec 1) always, 0xFFFFFF80), (.vadd .z8 5 0 (.vec 1) always, 0x80), (.vsub .z16 5 2 (.vec 1) always, 0xFFFF),
      (.vmul .i32 5 0 (.vec 0) always, 0x3F01), (.vmulhS .i32 5 3 (.vec 3) always, 0x40000000), (.vmulhZ .i32 5 3 (.imm 0xFFFF) always, 0x7FFFFFFF),
      (.vshl .i32 5 1 (.imm 31) always, 0x80000000), (.vshl .i32 5 1 (.imm 32) always, 0), (.vshrS .i32 5 3 (.imm 40) always, 0xFFFFFFFF),
      (.vshrZ .i32 5 3 (.imm 31) always, 1), (.vminS .i32 5 3 (.vec 1) always, 0x80000000), (.vminZ .i32 5 3 (.vec 1) always, 1),
      (.vabs .i32 5 3 always, 0x80000000), (.vclz .i8 5 1 always, 7), (.vclz .i32 5 2 always, 32), (.vpopc .i8 5 0 always, 7),
      (.vsel .i32 5 0 (.vec 1) 3 always, 0x7F), (.vmov .i32 5 (.sca 9) always, 0x80000001), (.vmov .z8 5 (.imm 0xFFFF) always, 0xFF),
      (.vbext .i32 5 0 (.imm 0x0C4) always, 7), (.vandn .i16 5 0 (.imm 0xF) always, 0x70)] : List (Instr × Elem)).all
      (fun p => lane0 p.1 (lanes [0x7F, 1, 0, 0x80000000] 1) 5 == p.2) = true := by decide +kernel

/-- R91, R37: lanes outside the mask or the guard keep their elements; `vcmp` writes its bit of the lanes that take part. -/
theorem test_lane_guards :
    (((next (.vmov .i32 0 (.imm 9) ⟨⟨3, true⟩, ⟨63, true⟩, false, 0, false⟩) (lanes [7] 3)).row 0 0 == [7, 9] ++ List.replicate 62 7) &&
     ((next (.vcmp .z32 .gt 3 0 (.imm 0) always) (lanes [7] 2)).th.pred 3 == 3) &&
     ((next (.vcmp .i32 .lt 4 0 (.imm 8) always) (lanes [7] 5)).th.pred 4 == 5) &&
     ((next (.pxor 5 3 (.imm true) always) (lanes [7] 0xF)).th.pred 5 == 0xE)) = true := by decide +kernel

/-- R100, R101: neighbours, a shift that runs out, a broadcast, a sum and a prefix over the lanes that take part. -/
theorem test_lane_movement :
    let s : State := let s := lanes [] 0xF; { s with cores := fset s.cores 0 { s.core 0 with rows := [(0, (List.range 64).map (BitVec.ofNat 32))] } }
    (((next (.vxchg .i32 1 0 (.imm 0) always) s).row 0 1).take 5 == [1, 0, 3, 2, 0]) &&
     (((next (.vshift .i32 1 0 (.imm 0xFFFF) always) s).row 0 1).take 5 == [0, 0, 1, 2, 0]) &&
     (((next (.vbcast .i32 1 0 (.imm 63) always) s).row 0 1).take 5 == [63, 63, 63, 63, 0]) &&
     (((next (.vred .add .i32 1 0 always) s).row 0 1).take 5 == [6, 6, 6, 6, 0]) &&
     (((next (.vscan .maxS .i32 1 0 always) s).row 0 1).take 5 == [0, 1, 2, 3, 0]) = true := by decide +kernel

/-- R140, R142: 1 + 2 in FP32; a tie to even in bf16; a division of the halves; conversion to an integer. -/
theorem test_lane_float :
    ([(.vfadd .f32 .rmode 5 0 (.vec 1) always, 0x40400000), (.vfmul .bf16 .rmode 5 2 (.vec 2) always, 0x4010),
      (.vfma .f32 .rmode 5 1 (.vec 1) (.vec 0) always, 0x40A00000), (.vfmin .f32 .rmode 5 0 (.imm 0x8000) always, 0x80000000),
      (.vfcvt .i32 .f32 .rtz 5 3 (.vec 0) always, 0xFFFFFFFE), (.vfcvt .f16 .f32 .rmode 5 1 (.vec 0) always, 0x4000),
      (.vfsub .f32 .rmode 5 0 (.vec 0) always, 0)] : List (Instr × Elem)).all
      (fun p => lane0 p.1 (lanes [0x3F800000, 0x40000000, 0x3FC0, 0xC0200000] 1) 5 == p.2) = true := by decide +kernel

/-- R143, R144: a block of ones has elements of one code and a power of two as scale, and comes back as ones. -/
theorem test_lane_quant :
    (let t := next (.vquant .e4m3 .l16 .e8m0 .rmode 5 0 always) (lanes [0x3F800000] 1)
     lane0 (.vdequant .e4m3 .l16 .e8m0 .rmode 7 5 (.vec 6) always) t 7) = 0x3F800000 := by decide +kernel

def clauseBytes (is : List Nat) : List Byte :=
  leBytes 12 (0x3FF * 2 ^ 86 + 15 * 2 ^ 70 + 15 * 2 ^ 66 + is.length * 2 ^ 58) ++ is.flatMap (leBytes 12)
/-- Lane code of one instruction at the launch's lane base. -/
def lanecode (w : Nat) : State :=
  let s := grp (gt [(1, 0x1000), (2, 0x800), (3, 0x100000000000000)])
  { s with mem := { s.mem with cells := cellsSet s.mem.cells 0x202000 (clauseBytes [w]) } }
def vnopWord : Nat := lw 0x301 0 0 0 0 0 0

/-- ClausesEnqueued: a page with access and a span inside it, an address past 2^56, a span of 0; a clause of one `vnop`, and one
whose instruction is not one; clauses done. -/
theorem witness_clauses_enqueued :
    let s := lanecode vnopWord
    s.Free computeOnly [1, 2] ∧ s.xlat 0 (s.th.sreg 1).toNat = .ok (page 0x1000) ∧ (s.th.sreg 2).toNat ≤ 2 ^ pageBits 2 - (s.th.sreg 1).toNat % 2 ^ pageBits 2 ∧
    2 ^ 56 ≤ (s.th.sreg 3).toNat ∧ s.th.clausesDone = true ∧ s.rowOk 0 63 = true ∧ 63 ∉ s.th.pendingRows ∧ s.predOk 3 = true ∧
    s.Free computeOnly [] ∧
    (match s.readClause 0 0x2000 with | .ok u h is => decide (u.logBusy 0 = false ∧ h.length = 1 ∧ is = [.vnop always]) | _ => false) = true ∧
    (match (lanecode 0).readClause 0 0x2000 with | .illegal i => i == 1 | _ => false) = true ∧ CanEnter (lanecode 0) 0 block1 (page 0x180000) :=
  ⟨free_of (by decide +kernel), by decide +kernel, by decide +kernel, by decide +kernel, by decide +kernel, by decide +kernel,
    by decide +kernel, by decide +kernel, free_of (by decide +kernel), by decide +kernel, by decide +kernel, canEnter_of (by decide +kernel)⟩

/-- R61, R43: a translation register; a clause in the queue; the index of a bad instruction. -/
theorem test_clauses_enqueued :
    (after (.tbind 1 1 2) (lanecode vnopWord) (fun t => (t.th.bt 1).frame == 0x201000 && (t.th.bt 1).limit == 0x800 && (t.th.bt 1).vbase == 0x1000) &&
     after (.tbind 1 3 2) (lanecode vnopWord) (fun t => (t.th.bt 1).limit == 0) &&
     after (.lrun 0) (lanecode vnopWord) (fun t => t.th.queue.map (·.instrs) == [[.vnop always]] && t.th.pc == 0x1004) &&
     after (.lrun 0) (lanecode 0) (fun t => t.th.tcause == 1 && t.th.tindex == 1 && t.th.tclause == 0x2000)) = true := by decide +kernel

def flagged : LongOp := { id := 9, clause := 7, flag := some 2, left := 1, rows := [4] }
/-- A clause that waits for flag 2, not started; and a started one, beside an operation that holds flag 2 and row 4. -/
def queued (started : Bool) (i : Instr) (ops : List LongOp) : State :=
  on (grp { gt [] with queue := [{ clauseOf [i] 1 with next := 0, started := started }], longOps := ops }) { ag := 0 }

/-- ClausesRun: each side of the flag, of the pending rows, and of an operation's completion. -/
theorem witness_clauses_run :
    ((queued false .nop []).thread 0).laneLive = true ∧ ((queued false .nop []).thread 0).headClause = some { clauseOf [.nop] 1 with next := 0, started := false } ∧
    (clauseOf [.nop] 1).hdr.waitMask &&& ((queued false .nop []).thread 0).flags = 0 ∧
    (clauseOf [.nop] 1).hdr.waitMask &&& ((queued false .nop [flagged]).thread 0).flags ≠ 0 ∧
    (∀ r ∈ (laneNames (.vmov .i32 4 (.vec 5) always)).rows, r ∉ ((queued true .nop []).thread 0).pendingRows) ∧
    (∃ r ∈ (laneNames (.vmov .i32 4 (.vec 5) always)).rows, r ∈ ((queued true .nop [flagged]).thread 0).pendingRows) ∧
    ((queued true .nop [{ flagged with left := 0 }]).thread 0).longOps.find? (fun o => decide (o.left = 0)) = some { flagged with left := 0 } ∧
    (∀ o ∈ ((queued true .nop [flagged]).thread 0).longOps, o.left ≠ 0) :=
  ⟨by decide +kernel, by decide +kernel, by decide +kernel, by decide +kernel, by decide +kernel, ⟨4, by decide +kernel⟩, by decide +kernel⟩

/-- A load of the lane, and a store, with a full store queue. -/
def laneLoadBehind : State :=
  let s := lanes [0] 1
  let c := { clauseOf [.vld .i32 5 1 ⟨none, none, 0⟩ .normal false always] 1 with next := 0 }
  { s with threads := fset s.threads 0 { s.thread 0 with queue := [c], sq := (List.range 32).map (fun i => { seq := i, kind := .store, parts := [] }) } }
def laneStoreBehind : State :=
  let s := laneLoadBehind
  let c := { clauseOf [.vst .i32 1 ⟨none, none, 0⟩ 5 .normal false always] 1 with next := 0 }
  { s with threads := fset s.threads 0 { s.thread 0 with queue := [c] } }

/-- ClausesRun: an instruction that nothing keeps at issue, and a store with the queue full. -/
theorem witness_clause_waits :
    (laneLoadBehind.laneNext 0).map (·.2) = some (.vld .i32 5 1 ⟨none, none, 0⟩ .normal false always) ∧
    (laneLoadBehind.laneNext 0).any (fun u => !u.1.laneWaits u.2) = true ∧
    (laneStoreBehind.laneNext 0).map (·.2) = some (.vst .i32 1 ⟨none, none, 0⟩ 5 .normal false always) ∧
    (laneStoreBehind.laneNext 0).any (fun u => u.1.laneWaits u.2) = true := by decide +kernel

/-- R89, R90, R93: starts when the flag is clear; issues when the row is not pending. -/
theorem test_clauses_run :
    (after .clauseStart (queued false .nop []) (fun t => t.th.queue.map (·.started) == [true]) &&
     after .clauseStart (queued false .nop [flagged]) (fun t => t.th.queue.map (·.started) == [false]) &&
     after .laneIssue (queued true (.vmov .i32 4 (.vec 5) always) []) (fun t => t.agenda == [.exec (.vmov .i32 4 (.vec 5) always) {}]) &&
     after .laneIssue (queued true (.vmov .i32 4 (.vec 5) always) [flagged]) (fun t => t.agenda == []) &&
     after .longLatencyComplete (queued true .nop [{ flagged with left := 0 }]) (fun t => t.th.longOps == [])) = true := by decide +kernel

def plainAddr : LaneAddr := ⟨none, none, 0⟩
/-- An index in lane 0: 0x1FFC is the last element of the register's limit; a negative one is out of range. -/
def gather (x : Elem) : State := lanes [x, 0x55] 1
def indexed : LaneAddr := ⟨some ⟨0, 0⟩, none, 0⟩

/-- LaneAccesses (LaneMemory, LaneScratchpad): a lane at each end of the limit, one out of range, and lanes inside the allocation. -/
theorem witness_lane_accesses :
    (gather 0).lanes always ≠ 0 ∧ ((gather 0).thread 0).queueFull = false ∧
    ((gather 0).laneCheck 0 (((gather 0).thread 0).bt 1) .load ((gather 0).laneOffset 0 indexed 4 0) 4).2 = .ok { page 0 with size := 0 } ∧
    ((gather 0x1FFC).laneCheck 0 (((gather 0x1FFC).thread 0).bt 1) .store ((gather 0x1FFC).laneOffset 0 indexed 4 0) 4).2 = .ok { page 0x1FFC with size := 0 } ∧
    ((gather 0x1FFC).laneCheck 0 (((gather 0x1FFC).thread 0).bt 1) .atomic ((gather 0x1FFC).laneOffset 0 indexed 4 0) 4).2 = .ok { page 0x1FFC with size := 0 } ∧
    ((gather 0x80000000).laneCheck 0 (((gather 0x80000000).thread 0).bt 1) .load ((gather 0x80000000).laneOffset 0 indexed 4 0) 4).2 = .trap 0x03 ∧
    ((gather 0x1FFE).laneCheck 0 (((gather 0x1FFE).thread 0).bt 1) .load ((gather 0x1FFE).laneOffset 0 indexed 4 0) 4).2 = .trap 0x02 ∧
    (∀ j, ((gather 0x80000000).lanes always).getLsbD j = true → j = 0) ∧
    (∀ i, ((lanes [0xFFFC] 1).lanes always).getLsbD i = true → (lanes [0xFFFC] 1).laneOffset 0 indexed 4 i % 4 = 0 ∧ 0 ≤ (lanes [0xFFFC] 1).laneOffset 0 indexed 4 i ∧
      (lanes [0xFFFC] 1).laneOffset 0 indexed 4 i + 4 ≤ (((lanes [0xFFFC] 1).launchOf 0).scratch : Int)) ∧
    ((lanes [0xFFFC] 1).core 0).padBad = [] :=
  have e : (gather 0x80000000).lanes always = 1 := by decide +kernel
  have f : (lanes [0xFFFC] 1).lanes always = 1 := by decide +kernel
  have one : ∀ j, (1 : BitVec 64).getLsbD j = true → j = 0 := fun j h => by
    by_contra k; simp [BitVec.getLsbD_one, k] at h
  ⟨by decide +kernel, by decide +kernel, by decide +kernel, by decide +kernel, by decide +kernel, by decide +kernel, by decide +kernel,
    fun j h => one j (e ▸ h), fun i h => by have k := one i (f ▸ h); subst k; decide +kernel, by decide +kernel⟩

/-- R110, R105, R108: a load in the window, a store in the queue, a fault in lane 0, and the last word of scratchpad. -/
theorem test_lane_accesses :
    (after (.vld .i32 5 1 indexed .normal false always) (gather 0x1FFC) (fun t => t.th.win.map (fun l => (l.va, l.pa, l.size)) == [(0x1FFC, 0x201FFC, 4)] &&
       t.th.longOps.map (fun o => (o.flag, o.rows)) == [(some 2, [5])]) &&
     after (.vst .i32 1 indexed 1 .normal true always) (gather 0x1FFC) (fun t => t.th.sq.map (·.parts.map (·.data)) == [[[0x55, 0, 0, 0]]]) &&
     after (.vld .i32 5 1 indexed .normal false always) (gather 0x80000000) (fun t => t.th.laneStop && t.th.trap.map (·.cause) == some 0x83 && t.th.win == []) &&
     after (.vsts .i32 indexed 1 always) (lanes [0xFFFC, 0x55] 1) (fun t => ((next (.vlds .i32 5 indexed always) t).row 0 5).at 0 == 0x55)) = true := by
  decide +kernel

/-! ### Matrix work -/

/-- A group with a format block and operands whose triples are 0: offset 0 of its own core, full edges. -/
def matrix (fmt : Word) (ops : List MatrixOp) : State :=
  let s := grp { gt [(6, 0x100), (7, 3)] with fmtBlock := fmt, batch := 3 }
  on { s with cores := fset s.cores 0 { s.core 0 with mops := ops } } { ag := 0 }

def mmaOp : MatrixOp := { id := 1, group := 0, kind := 1, tile := 0, batch := 4 }

/-- MatrixIssues: formats that Table 11.2 takes for each of the three multiplications and for a quantising store; a tile of
the launch and one past its last; a batch number with work left, and one without. -/
theorem witness_matrix_issues :
    (matrix 0 []).Free groupOnly [0, 1, 2, 3, 4, 5] ∧ CanEnter (matrix 0 []) 0 block1 (page 0x180000) ∧
    (3 : TileReg).val < ((matrix 0 []).launchOf 0).tiles ∧ ((matrix 0 []).core 0).mops.length < 16 ∧ captureOk 1 0x22 = true ∧
    captureOk 2 0xC80 = true ∧ captureOk 3 0x10000000000077 = true ∧
    (matrix 0 []).operandOk ((matrix 0 []).th.triple 0) (matK 2) (matBits 2) = true ∧
    (matrix 0 []).scalesOk ((matrix 0 []).th.triple 0) 0x22 (fmtScaleA 0x22) (matK 2) = true ∧
    (matrix 0 []).operandOk ((matrix 0 []).th.triple 0) 32 (matBits 8) = true ∧
    (matrix 0 []).operandOk ((matrix 0 []).th.triple 0) 32 (matBits 0) = true ∧
    0 ≤ (tripleLayout ((matrix 0 []).th.triple 0)).stride2 ∧ (matrix 0 []).runFits (fmtScaleB 0xC80) 256 = true ∧
    ((matrix 0 []).th.sreg 6).toNat % 4 = 0 ∧ (matrix 0 []).runFits ((matrix 0 []).th.sreg 6).toNat 256 = true ∧
    (matrix 0 []).operandOk ((matrix 0 []).th.triple 0) 64 48 = true ∧
    (matrix 0 []).operandOk ((matrix 0 []).th.triple 0) 64 (outBits .fp32) = true ∧ fmtBlockCode 0x100 ≠ 0 ∧
    (matrix 0x100 []).runFits (fmtScaleA 0x100) (64 * (64 / blockLen (fmtBlockCode 0x100))) = true ∧ fmtWordOk 0x88 = true ∧
    ((matrix 0 []).th.batch - 3).toNat < 2 ^ 31 ∧ (∀ o ∈ (matrix 0 [mmaOp]).groupOps 0, 2 ^ 31 ≤ (3 - o.batch).toNat) ∧
    (∃ o ∈ (matrix 0 [{ mmaOp with batch := 3 }]).groupOps 0, (3 - o.batch).toNat < 2 ^ 31) ∧
    ((matrix 0 []).launchOf 0).tiles ≤ (4 : TileReg).val :=
  ⟨free_of (by decide +kernel), canEnter_of (by decide +kernel), by decide +kernel⟩

/-- R241, R257: an operation joins the unit; a tile out of the launch is illegal; a batch closes; a wait stands while it runs. -/
theorem test_matrix_issues :
    (after (.mma 3 0 3) (matrix 0x22 []) (fun t => (t.core 0).mops.map (fun o => (o.kind, o.tile, o.batch)) == [(1, 3, 4)] && t.th.pc == 0x1004) &&
     after (.mzero 4) (matrix 0 []) (fun t => t.th.tcause == 1) &&
     after (.mbatch 5) (matrix 0 []) (fun t => t.th.sreg 5 == 4 && t.th.batch == 4) &&
     after (.mwait 7) (matrix 0 [{ mmaOp with batch := 3 }]) (fun t => t.th.pc == 0x1000) &&
     after (.mwait 7) (matrix 0 [mmaOp]) (fun t => t.th.pc == 0x1004)) = true := by decide +kernel

/-- MatrixPerforms: an operation at the head, not started, started, and started with an element in error. -/
theorem witness_matrix_performs :
    ((matrix 0 [mmaOp]).core 0).mops = mmaOp :: [] ∧ (matrix 0 [mmaOp]).unitRuns 0 = true ∧
    (∀ k, ((matrix 0 [mmaOp]).core k).padBad = []) ∧ ((matrix 0 [mmaOp]).core 0).accBad = [] ∧
    ((on { matrix 0 [{ mmaOp with started := true }] with cores := [(0, { accBad := [5], mops := [{ mmaOp with started := true }] })] } {}).core 0).accBad = [5] ∧
    4096 * 0 ≤ 5 ∧ 5 < 4096 * 0 + 4096 :=
  ⟨by decide +kernel, by decide +kernel, fgetD_all (P := fun c : Core => c.padBad = []) rfl (by decide +kernel), by decide +kernel⟩

/-- R258, R246: an operation that meets an error leaves its batch in poison. -/
theorem test_matrix_performs :
    (after .matrixOpStart (matrix 0 [mmaOp]) (fun t => (t.core 0).mops.map (·.started) == [true]) &&
     rnsDecode (rnsAdd (rnsAdd 0 (-5)) 3) == -2) = true := by decide +kernel

/-- A triple: offset 0 of a core of the cluster, rows of 256 bytes, of which 2 rows of 4 elements are there. -/
def edged (core : Nat) : List Word :=
  let n := core * 2 ^ 20 + 256 * 2 ^ 27 + 0x204 * 2 ^ 50
  [BitVec.ofNat 64 (n % 2 ^ 32), BitVec.ofNat 64 (n / 2 ^ 32 % 2 ^ 32), BitVec.ofNat 64 (n / 2 ^ 64)]
/-- A store of tile 0 to core 0 or 1, whose first element is 1.0; its scales lie from 0x8000. -/
def storeOp (kind core : Nat) (f : MstFmt) : MatrixOp :=
  { mmaOp with kind := kind, a := edged core, out := some f, fmt := 0x8000100, started := true }
def storingTile (o : MatrixOp) : State :=
  let s := matrix 0 [o]
  { s with cores := fset (fset s.cores 0 { s.core 0 with acc := [(accKey 0 0 0, 0x3F800000)] }) 1 { block := some block1 } }

/-- MatrixPerforms (MatrixStores): a plain store and a quantising one, to the issuing core and to another. -/
theorem witness_matrix_stores :
    ((storingTile (storeOp 8 0 .bf16)).core 0).mops = storeOp 8 0 .bf16 :: [] ∧ (storingTile (storeOp 8 0 .bf16)).unitRuns 0 = true ∧
    (∀ k, ((storingTile (storeOp 8 0 .bf16)).core k).padBad = []) ∧ ((storingTile (storeOp 8 0 .bf16)).core 0).accBad = [] ∧
    (storingTile (storeOp 8 0 .bf16)).namedCore 0 (tripleLayout (edged 0)) = some 0 ∧
    (storingTile (storeOp 9 1 .e4m3)).namedCore 0 (tripleLayout (edged 1)) = some 1 ∧
    (tripleLayout (edged 0)).edgeOk 64 = true ∧ (tripleLayout (edged 0)).rowsValid = 2 ∧ (tripleLayout (edged 0)).lenValid 64 = 4 ∧
    ((List.range 2).flatMap (fun i => (List.range 8).map (fun b => padPlace 0 ((tripleLayout (edged 0)).rowAt i + b)))).Nodup ∧
    blockLen (fmtBlockCode 0x8000100) = 16 ∧ fmtScaleA 0x8000100 = 0x8000 ∧
    (∀ i < 2, 0x8000 + 4 * i ∉ (List.range 2).flatMap (fun i => (List.range 8).map (fun b => padPlace 0 ((tripleLayout (edged 0)).rowAt i + b)))) :=
  ⟨by decide +kernel, by decide +kernel, fgetD_all (P := fun c : Core => c.padBad = []) rfl (by decide +kernel), by decide +kernel⟩

/-- R252, R254: 1.0 as BF16 at offset 0; 1.0 in the form e4m3 with the scale of its block in the issuing core. -/
theorem test_matrix_stores :
    (after .matrixOpComplete (storingTile (storeOp 8 0 .bf16)) (fun t => (t.core 0).padNum 0 2 == 0x3F80 && (t.core 0).mops == []) &&
     after .matrixOpComplete (storingTile (storeOp 9 1 .e4m3)) (fun t =>
       (e4m3.value ((t.core 1).padNum 0 1)).mul (.fin false 1 ((((t.core 0).padNum 0x8000 1 : Nat) : Int) - 127)) |>.1 |>.cmp (.fin false 1 0) |> (· == 0))) = true := by
  decide +kernel

/-- MatrixPerforms (MatrixTiles): each kind of operation at the head, started. -/
theorem witness_matrix_kinds :
    ∀ k < 8, ((matrix 0 [{ mmaOp with kind := k, started := true }]).core 0).mops = [{ mmaOp with kind := k, started := true }] ∧
      (matrix 0 [{ mmaOp with kind := k, started := true }]).unitRuns 0 = true ∧
      ((matrix 0 [{ mmaOp with kind := k, started := true }]).core 0).accBad = [] ∧
      (matrix 0 [{ mmaOp with kind := k, started := true }]).cores.all (fun c => c.2.padBad == []) = true := by decide +kernel

/-! ### Engines -/

/-- The octet at s8: one row of 8 bytes at an address, to offset 0 of the group's own core. -/
def octet (a : Word) : FMap Word := [(8, a), (9, 8), (10, 0x100000008), (11, 0x100000008), (12, 0), (13, 0), (14, 0), (15, 0)]
def copies (regs : FMap Word) (ops : List EngineOp) (tags : FMap CopyTag) : State :=
  let s := grp (gt regs)
  on { s with cores := fset s.cores 0 { s.core 0 with eops := ops, block := some { block1 with tags := tags }, pad := [(0, 0x55)] } } { ag := 0, n := 1 }
def oct8 : List Word := [0x4000, 8, 0x100000008, 0x100000008, 0, 0, 0, 0]
def copyIn : CopySpec := { kind := 0, tag := 5, oct := oct8 }

/-- EnginesIssue: a copy of each kind, a sealed one, a gather, a bin, a fill and a bulk read whose checks pass; a free tag; a sprout
with room in its queue. -/
theorem witness_engines_issue :
    let s := copies (octet 0x4000) [] []
    let t : State := { s with cur := 16, threads := fset s.threads 16 (gt (octet 0x4000)) }
    s.Free groupOnly [8, 9, 10, 11, 12, 13, 14, 15] ∧ t.Free computeOnly [8, 9, 10, 11, 12, 13, 14, 15] ∧ (s.tag 0 5).ready = true ∧
    (s.core 0).engineFull 0 = false ∧ (s.core 0).engineFull 1 = false ∧
    (s.core 0).engineFull 2 = false ∧ copyIn.misaligned = false ∧ s.copyInRange copyIn = true ∧ s.copyInRange { copyIn with key := some 15 } = true ∧
    s.copyInRange { copyIn with kind := 1 } = true ∧ s.copyInRange { copyIn with kind := 2, oct := [0, 0, 0x100000008, 0x100000008, 0, 0, 0, 0] } = true ∧
    s.copyInRange { copyIn with kind := 3, base := 0x40 } = true ∧ s.copyInRange { copyIn with kind := 4, base := 0x6000 } = true ∧
    s.th.clausesDone = true ∧ s.binRowOk 63 = true ∧ s.hreadCheck { id := 1, tag := 5, group := 0, handler := 0, oct := oct8, after := 1, ftv := 1, rmode := 0, fptrap := 0, toRead := [] } = none ∧
    (s.core 0).hreads.length < 4 ∧
    isSproutKey t.cur = true ∧ t.th.queueFull = false :=
  ⟨free_of (by decide +kernel), free_of (by decide +kernel), by decide +kernel⟩

/-- R209, R220: the tag is busy and the operation queued; an address of 2^56 is out of range. -/
theorem test_engines_issue :
    (after (.tcopyIn 5 8) (copies (octet 0x4000) [] []) (fun t => !(t.tag 0 5).ready && (t.core 0).eops.map (·.spec) == [copyIn] && t.th.pc == 0x1004) &&
     after (.tcopyOut 5 8) (copies (octet 0x100000000000000) [] []) (fun t => t.th.tcause == 3) &&
     after (.tcopyIn 5 8) (copies (octet 0x4000) [] [(5, { ready := false })]) (fun t => t.th.pc == 0x1000)) = true := by decide +kernel

def tagged (st : BitVec 32) : State := copies [(1, 0x24), (2, 0)] [] [(2, { ready := false }), (5, { status := st, err := decide (st ≠ 0) })]

/-- CopyWaits (TagWaits, ByteBarriers): a mask with a ready tag and a busy one, all ready, none ready, an empty mask, a cause that
traps; barriers at both ends of the allocation, in each phase. -/
theorem witness_copy_waits :
    (tagged 0).Free groupOnly [0, 1, 2] ∧ ((tagged 0).th.sreg 1).getLsbD 5 = true ∧ ((tagged 0).tag 0 5).ready = true ∧ ((tagged 0).tag 0 2).ready = false ∧
    waitCause (((tagged 0).tag 0 5).status.toNat / 2 ^ 28) = none ∧ waitCause (((tagged 0x10000000).tag 0 5).status.toNat / 2 ^ 28) = some 0x04 ∧
    (tagged 0).th.sreg 2 = 0 ∧ CanEnter (copies [] [] []) 0 { block1 with tags := [] } (page 0x180000) ∧
    (0 : Nat) % 16 = 0 ∧ 0xFFF0 + 16 ≤ ((tagged 0).launchOf 0).scratch ∧ DeliveryClear (tagged 0) ∧
    (((copies [] [] []).core 0).barrier 16).pending = 0 ∧ ((copies [] [] []).core 0).barrier 16 = ⟨0, 0, 0, 0, 0⟩ :=
  ⟨free_of (by decide +kernel), by decide +kernel, by decide +kernel, by decide +kernel, by decide +kernel, by decide +kernel, by decide +kernel,
    canEnter_of (by decide +kernel), by decide +kernel, by decide +kernel, delivery_of (by decide +kernel), by decide +kernel⟩

/-- R213: the lowest ready tag; all of a mask; a wait. -/
theorem test_tag_waits :
    (after (.twaitAny 0 1) (tagged 0) (fun t => t.th.sreg 0 == 5) && after (.tfirst 0 2) (tagged 0) (fun t => t.th.sreg 0 == 64) &&
     after (.twaitAll 0 1) (tagged 0) (fun t => t.th.pc == 0x1000) && after (.twaitAny 0 2) (tagged 0) (fun t => t.th.sreg 0 == 64) &&
     after (.twaitAny 0 1) (tagged 0x10000000) (fun t => t.th.tcause == 4)) = true := by decide +kernel

/-- R206–R208: a barrier of one arrival and 8 bytes flips when both have come. -/
theorem test_byte_barrier :
    let s := copies [(1, 16), (2, 0x100000000), (3, 8)] [] []
    let t := next (.barExpect 1 3) (next (.barInit 1 2) s)
    (after (.barTest 0 1 4) t (fun u => u.th.sreg 0 == 0) && after (.barTest 0 1 4) (next (.barArrive 1 3) t) (fun u => u.th.sreg 0 == 1) &&
     after (.barWait 1 4) t (fun u => u.th.pc == 0x1008) && after (.barWait 1 4) (next (.barArrive 1 3) t) (fun u => u.th.pc == 0x1010)) = true := by
  decide +kernel

/-- A ring of 4 slots of 8 bytes at 0x6000, its first slot at 0x7000. -/
def ringed (wi ri : Word) (x : Thread) (ops : List EngineOp) : State :=
  let s := wordsAt (grp x) 0x206000 [0x7000, 0x400000008, wi, ri]
  on { s with cores := fset s.cores 0 { s.core 0 with eops := ops } } { ag := 0, n := 1 }
def ringPart (d : List Byte) : Part := { lane := 0, va := 0x6010, pa := 0x206010, data := d }
def rt : Thread := gt [(1, 0x6000), (2, 3)]

/-- RingsWork: a well-formed ring, empty, with a full slot, and the entries that perform on it. -/
theorem witness_rings :
    (ringed 0 0 rt []).logBusy 0 = false ∧ ((ringed 0 0 rt []).ringAt 0x206000).ok 0x206000 = true ∧ (ringed 0 0 rt []).Free groupOnly [0, 1, 2] ∧
    (ringed 0 0 rt []).checkAccess 0 .atomic ((ringed 0 0 rt []).th.sreg 1) 32 = .ok (page 0x6000) ∧
    (ringed 0 0 rt []).checkAccess 0 .load ((ringed 0 0 rt []).th.sreg 1) 32 = .ok (page 0x6000) ∧ (ringed 0 0 rt []).th.touchesRing 0x6000 0x206000 = false ∧
    ((ringed 5 4 rt []).ringAt 0x206000).ri < ((ringed 5 4 rt []).ringAt 0x206000).wi ∧ FenceClear (ringed 0 0 rt []) true .p ∧
    (ringed 0 0 { rt with wait := .ringRelDone } []).Free groupOnly [1] ∧
    ((next (.ringRelease 1) (ringed 5 4 rt [])).thread 0).sq = [{ seq := 1, kind := .ringRelease, parts := [ringPart (leBytes 16 0)] }] ∧
    (next (.ringRelease 1) (ringed 5 4 rt [])).refreshing 0x206010 = false ∧
    (next (.ringRelease 1) (ringed 5 4 rt [])).waiters = [] ∧ (ringed 0 0 rt []).mem.isPoison 0x206000 = false ∧ (next (.ringRelease 1) (ringed 5 4 rt [])).mem.headers = [] ∧
    (∃ g < block1.launch.groups, block1.gone.contains g = false) :=
  ⟨by decide +kernel, by decide +kernel, free_of (by decide +kernel), by decide +kernel, by decide +kernel, by decide +kernel, by decide +kernel,
    fence_of (by decide +kernel), free_of (by decide +kernel), by decide +kernel, by decide +kernel, by decide +kernel, by decide +kernel,
    by decide +kernel, ⟨0, by decide +kernel⟩⟩

/-- R217: the oldest full slot; a release moves the read index; an empty ring waits. -/
theorem test_rings :
    (after (.ringAwait 0 1) (ringed 5 4 rt []) (fun t => t.th.sreg 0 == 0x7000 && t.th.pc == 0x1004) &&
     after (.ringAwait 0 1) (ringed 4 4 rt []) (fun t => t.th.pc == 0x1000) &&
     after .atomicPerform (on (next (.ringRelease 1) (ringed 5 4 rt [])) { ag := 0 }) (fun t => t.mem.word 0x206018 == 5 && t.th.wait == .ringRelDone) &&
     after .atomicPerform (on (next (.ringInit 1 2) (ringed 5 4 rt [])) { ag := 0 }) (fun t => t.mem.word 0x206010 == 3 && t.mem.word 0x206018 == 3)) = true := by
  decide +kernel

def copyOp : EngineOp := { id := 1, spec := copyIn, group := 0, after := 1 }

theorem runs_of {s : State} {o : EngineOp}
    (h : (decide (s.subj.n = o.id) && decide ((s.core s.subj.ag).op? o.id = some o) && !isSysKey (groupKey s.subj.ag o.group) &&
      s.unitRuns s.subj.ag && !s.subj.flag && !o.finished && (decide (o.spec.kind = 5) || decide (o.spec.size ≠ 0))) = true) :
    Runs s o := by
  simp only [Bool.and_eq_true, Bool.or_eq_true, Bool.not_eq_true', decide_eq_true_eq] at h
  exact ⟨h.1.1.1.1.1.1, h.1.1.1.1.1.2, h.1.1.1.1.2, h.1.1.1.2, h.1.1.2, h.1.2, h.2⟩

theorem reach_of {r : Reach} {x : Xlat}
    (h : (match r with
      | .ok y => decide (y = x)
      | .fail _ | .poison _ | .wait | .later _ | .held _ _ => false) = true) : r = .ok x := by
  cases r <;> simp at h ⊢
  exact h

/-- An operation alone on its core. -/
def engine (o : EngineOp) : State := copies [] [o] [(5, { ready := false })]
def reads : EngineOp := { copyOp with started := true }
def gathers : EngineOp := { copyOp with spec := { copyIn with kind := 3 } }
def sealed : EngineOp := { reads with spec := { copyIn with key := some 1 }, key := some (List.replicate 32 0) }

/-- EnginesRun (OperationsStart, CopiesRead): operations that may start, and one behind a store; a run of bytes, of a row, of an
index's row and of a sealed blob, and a clipped one. -/
theorem witness_copies_read :
    Runs (engine copyOp) copyOp ∧ Runs (engine gathers) gathers ∧ Runs (engine reads) reads ∧ Runs (engine sealed) sealed ∧
    Runs (engine { gathers with started := true, idx := [0] }) { gathers with started := true, idx := [0] } ∧
    (engine reads).engineReach 0 (copyIn.globalAt 0 0) 8 .load none [] = .ok (page 0x4000) ∧
    (engine sealed).engineReach 0 0x4000 40 .load none [] = .ok (page 0x4000) ∧
    ((engine copyOp).core 0).mayStart copyOp = true ∧ ((engine gathers).core 0).mayStart gathers = true ∧
    ((engine gathers).core 0).padBad = [] ∧ (engine copyOp).queuedBefore 0 1 = false ∧
    (let s : State := { engine copyOp with threads := [(0, { gt [] with sq := [{ seq := 0, kind := .store, parts := [] }] })] }
     s.queuedBefore (groupKey 0 copyOp.group) copyOp.after) = true ∧
    reads.run = (0, 0, 8, false) ∧ ({ gathers with started := true, idx := [0] } : EngineOp).run = (0, 0, 8, false) ∧
    ({ reads with spec := { copyIn with oct := oct8.set 3 0 } } : EngineOp).run = (0, 0, 8, true) ∧
    (engine reads).portOf 0x204000 = none ∧ sealed.done < sealed.spec.size + 32 :=
  ⟨runs_of (by decide +kernel), runs_of (by decide +kernel), runs_of (by decide +kernel), runs_of (by decide +kernel),
    runs_of (by decide +kernel), reach_of (by decide +kernel), reach_of (by decide +kernel), by decide +kernel⟩

/-- R204, R210, R209, R211: an operation starts; a list is captured; bytes come in, zeros where clipped; a blob of 40 bytes. -/
theorem test_copies_read :
    (let s (o : EngineOp) : State := wordsAt (engine o) 0x204000 [0x0807060504030201, 9, 9, 9, 0xAA00000000000000]
     after .engineAccess (s copyOp) (fun t => (t.core 0).eops.map (·.started) == [true]) &&
     after .engineAccess (s gathers) (fun t => (t.core 0).eops.map (fun o => (o.started, o.idx)) == [(true, [0x55])]) &&
     after .engineAccess (s reads) (fun t => (t.core 0).eops.map (fun o => (o.done, o.blob)) == [(8, [1, 2, 3, 4, 5, 6, 7, 8])]) &&
     after .engineAccess (s { gathers with started := true, idx := [0] }) (fun t => (t.core 0).eops.map (·.done) == [8]) &&
     after .engineAccess (s { gathers with started := true, idx := [1] }) (fun t =>
       (t.core 0).eops.map (·.blob) == [List.replicate 8 0]) &&
     after .engineAccess (s sealed) (fun t => (t.core 0).eops.map (fun o => (o.done, o.blob.getD 39 0)) == [(40, 0xAA)])) = true := by
  decide +kernel

/-- A tile of 8 bytes that has been read, and one for the cores 0 and 1 of a launch. -/
def whole (ks : Option (List Nat)) : EngineOp :=
  { reads with done := 8, blob := [9, 8, 7, 6, 5, 4, 3, 2], todo := ks }
def castOp (ks : Option (List Nat)) : EngineOp := { whole ks with spec := { copyIn with oct := oct8.set 7 0x81100020 } }
def casting (o : EngineOp) : State :=
  let s := engine o
  { s with cores := fset s.cores 1 { block := some block1 } }
/-- A sealed blob has been read, of which nothing but its length is said. -/
def opens (blob : List Byte) : EngineOp := { sealed with done := 40, blob := blob, todo := some [0] }

theorem bytes_back {l : List Nat} (h : AllBytes l) : (l.map (BitVec.ofNat 8)).map (·.toNat) = l := by
  induction l with
  | nil => rfl
  | cons x l ih => simp [ih (fun y hy => h y (List.mem_cons_of_mem _ hy)), Nat.mod_eq_of_lt (h x List.mem_cons_self)]

theorem runs_engine {o : EngineOp} (i : o.id = 1) (g : o.group = 0) (f : o.finished = false) (z : o.spec.size ≠ 0) :
    Runs (engine o) o := by
  refine ⟨i.symm, ?_, ?_, rfl, rfl, f, .inr z⟩
  · simp [engine, copies, on, Core.op?, State.core, fgetD, i]
  · rw [g]; rfl

/-- EnginesRun (CopiesWrite): the receivers to name, of a copy and of a multicast; a core to write, first and last; a blob whose tag
verifies, in a slot with a key, with and without a cause; and an empty slot. -/
theorem witness_copies_write :
    Runs (engine (whole none)) (whole none) ∧ Runs (casting (castOp none)) (castOp none) ∧ Runs (engine (whole (some [0]))) (whole (some [0])) ∧
    Runs (casting (castOp (some [1, 0]))) (castOp (some [1, 0])) ∧ (castOp none).spec.multicast = true ∧ copyIn.multicast = false ∧
    ((casting (castOp none)).receivers 0 (castOp none).spec) = [0, 1] ∧ (engine (whole none)).queuedBefore 0 1 = false ∧
    (copyIn.cells.map (fun z => copyIn.layout.place z.1 z.2)).Nodup ∧ (whole none).blob.length = copyIn.size ∧
    copyIn.size ≤ (whole none).done ∧
    Runs (engine { opens [] with key := none }) { opens [] with key := none } ∧
    ∃ blob : List Byte, Runs (engine (opens blob)) (opens blob) ∧ Runs (engine { opens blob with cause := 2 }) { opens blob with cause := 2 } ∧
      ∃ p, gcmOpen ((List.replicate 32 (0 : Byte)).map (·.toNat)) ((blob.take 12).map (·.toNat)) ((leBytes 8 copyIn.size).map (·.toNat))
        (((blob.drop 16).take copyIn.size).map (·.toNat)) ((blob.drop (16 + copyIn.size)).map (·.toNat)) = some p ∧
        p.length = copyIn.size := by
  refine ⟨runs_of (by decide +kernel), runs_of (by decide +kernel), runs_of (by decide +kernel), runs_of (by decide +kernel),
    by decide +kernel, by decide +kernel, by decide +kernel, by decide +kernel, by decide +kernel, by decide +kernel,
    by decide +kernel, runs_of (by decide +kernel), ?_⟩
  have z : AllBytes (List.replicate 32 0) := by unfold AllBytes; decide
  have n : AllBytes (List.replicate 12 0) := by unfold AllBytes; decide
  obtain ⟨tag, hb, -, ho⟩ := gcmOpen_some z n ((leBytes 8 copyIn.size).map (·.toNat)) (List.replicate 8 0)
  have size : copyIn.size = 8 := by decide
  refine ⟨List.replicate 24 0 ++ tag.map (BitVec.ofNat 8), ?_, ?_,
    (gcmCtr (List.replicate 32 0) (List.replicate 12 0) 2 (blocks16 (List.replicate 8 0))).take 8, ?_, ?_⟩
  · exact runs_engine rfl rfl rfl (show sealed.spec.size ≠ 0 by decide)
  · exact runs_engine rfl rfl rfl (show sealed.spec.size ≠ 0 by decide)
  · rw [size] at ho ⊢
    simpa [bytes_back hb, List.take_append_of_le_length, List.drop_append_of_le_length] using ho
  · rw [size]
    decide +kernel

/-- R205, R209, R212, R207: the tile is placed; each receiver its own; the issuing core last; the tag, and then the bytes. -/
theorem test_copies_write :
    (after .engineAccess (engine (whole none)) (fun t => (t.core 0).eops.map (·.todo) == [some [0]]) &&
     after .engineAccess (casting (castOp none)) (fun t => (t.core 0).eops.map (·.todo) == [some [1, 0]]) &&
     after .engineAccess (engine (whole (some [0]))) (fun t =>
       (t.core 0).padBytes 0 8 == [9, 8, 7, 6, 5, 4, 3, 2] && (t.core 0).eops.map (·.finished) == [true]) &&
     after .engineAccess (casting (castOp (some [1, 0]))) (fun t => (t.core 1).padBytes 0 8 == [9, 8, 7, 6, 5, 4, 3, 2] &&
       (t.core 0).padBytes 0 1 == [0x55] && (t.core 0).eops.map (fun o => (o.todo, o.finished)) == [(some [0], false)]) &&
     after .engineAccess (engine { opens [] with key := none }) (fun t => (t.core 0).padBytes 0 1 == [0] && (t.core 0).eops.map (·.cause) == [5]) &&
     after .engineOperationComplete (casting { castOp (some []) with finished := true }) (fun t =>
       (t.tag 0 5).ready && (t.core 0).eops == [] && ((t.core 0).barrier 32).arrived == 8 && ((t.core 1).barrier 32).arrived == 8)) = true := by
  decide +kernel

def outOp : EngineOp := { reads with spec := { copyIn with kind := 1 } }
def takenOut : EngineOp := { outOp with phase := 1, blob := [9, 8, 7, 6, 5, 4, 3, 2] }
def aside : EngineOp := { reads with spec := { copyIn with kind := 2, oct := [0x40, 0, 0x100000008, 0x100000008, 0, 0, 0, 0] } }
/-- A bin at 0x6000 with its base and row stride, its room, count, drops and overflow entry. -/
def binned (cap count ovf : Nat) (o : EngineOp) : State :=
  wordsAt (engine o) 0x206000 [0x7000, BitVec.ofNat 64 (256 + cap * 2 ^ 32), BitVec.ofNat 64 count, BitVec.ofNat 64 ovf]
def binOp : EngineOp := { reads with spec := { kind := 5, tag := 5, oct := [], base := 0x6000, bin := 0, row := List.replicate 256 7 } }

/-- EnginesRun (CopiesOut, BinsRun, OperationsComplete): a tile to take and a run to write, clipped and not; a tile to move; each
phase of a row; and an operation that has finished, with a barrier and without. -/
theorem witness_copies_out :
    Runs (engine outOp) outOp ∧ Runs (engine takenOut) takenOut ∧ Runs (engine aside) aside ∧ Runs (binned 4 1 1 binOp) binOp ∧
    Runs (binned 4 1 1 { binOp with phase := 1, slot := 0 }) { binOp with phase := 1, slot := 0 } ∧
    Runs (binned 4 1 1 { binOp with phase := 2 }) { binOp with phase := 2 } ∧
    Runs (binned 4 1 1 { binOp with phase := 3, windex := 0x7000 }) { binOp with phase := 3, windex := 0x7000 } ∧
    (engine takenOut).engineReach 0 (takenOut.spec.globalAt 0 0) 8 .store none [] = .ok (page 0x4000) ∧
    (binned 4 1 1 binOp).engineReach 0 (binOp.spec.binAt 0) 32 .atomic none [] = .ok (page 0x6000) ∧
    (binned 4 1 1 { binOp with phase := 3, windex := 0x7000 }).engineReach 0 0x7000 256 .store none [] = .ok (page 0x7000) ∧
    (∀ k, ((engine outOp).core k).padBad = []) ∧ (engine outOp).waiters = [] ∧ (engine outOp).refreshing 0x204000 = false ∧
    takenOut.run = (0, 0, 8, false) ∧ ({ takenOut with spec := { outOp.spec with oct := oct8.set 3 0 } } : EngineOp).run = (0, 0, 8, true) ∧
    (aside.spec.cells.map (fun z => aside.spec.ssDest.place z.1 z.2)).Nodup ∧ (binned 4 1 1 binOp).portOf 0x206000 = none ∧
    (binned 4 1 1 binOp).refreshing 0x206000 = false ∧ (binned 4 1 1 binOp).mem.headers = [] ∧
    (binned 4 1 1 binOp).mem.num 0x206010 4 < (binned 4 1 1 binOp).mem.num 0x20600C 4 ∧
    (binned 4 4 1 binOp).mem.num 0x20600C 4 ≤ (binned 4 4 1 binOp).mem.num 0x206010 4 ∧ (binned 4 4 1 binOp).mem.num 0x206018 4 = 1 ∧
    (binned 4 4 0 binOp).mem.num 0x206018 4 = binOp.spec.bin ∧
    ({ whole (some []) with finished := true } : EngineOp).group < 16 ∧ (castOp none).spec.barrierOn = true ∧ copyIn.barrierOn = false ∧
    ((casting (castOp none)).receivers 0 (castOp none).spec).Nodup :=
  ⟨runs_of (by decide +kernel), runs_of (by decide +kernel), runs_of (by decide +kernel), runs_of (by decide +kernel),
    runs_of (by decide +kernel), runs_of (by decide +kernel), runs_of (by decide +kernel), reach_of (by decide +kernel),
    reach_of (by decide +kernel), reach_of (by decide +kernel),
    fgetD_all (P := fun c : Core => c.padBad = []) rfl (by decide +kernel), by decide +kernel⟩

/-- R209, R215: a tile taken, and written; one moved; a row's bin, its overflow bin, and a row dropped. -/
theorem test_copies_out :
    (after .engineAccess (engine outOp) (fun t => (t.core 0).eops.map (fun o => (o.phase, o.blob)) == [(1, [0x55, 0, 0, 0, 0, 0, 0, 0])]) &&
     after .engineAccess (engine takenOut) (fun t => t.mem.byte 0x204000 == 9 && t.mem.byte 0x204007 == 2) &&
     after .engineAccess (engine aside) (fun t => (t.core 0).padBytes 0x40 2 == [0x55, 0] && (t.core 0).eops.map (·.finished) == [true]) &&
     after .engineAccess (binned 4 1 1 binOp) (fun t => t.mem.num 0x206010 4 == 2 &&
       (t.core 0).eops.map (fun o => (o.phase, o.outcome, o.slot, o.windex)) == [(3, 0, 1, 0x7100)]) &&
     after .engineAccess (binned 4 4 1 binOp) (fun t => (t.core 0).eops.map (fun o => (o.phase, o.slot)) == [(1, 1)]) &&
     after .engineAccess (binned 4 4 0 binOp) (fun t => (t.core 0).eops.map (·.phase) == [2]) &&
     after .engineAccess (binned 4 1 1 { binOp with phase := 1, slot := 0 }) (fun t => (t.core 0).eops.map (fun o => (o.phase, o.outcome)) == [(3, 1)]) &&
     after .engineAccess (binned 4 1 1 { binOp with phase := 2 }) (fun t => t.mem.num 0x206014 4 == 1 && (t.core 0).eops.map (·.finished) == [true]) &&
     after .engineAccess (binned 4 1 1 { binOp with phase := 3, windex := 0x7000 }) (fun t =>
       t.mem.byte 0x207000 == 7 && t.mem.byte 0x2070FF == 7 && (t.core 0).eops.map (·.done) == [256])) = true := by decide +kernel

def fillOp : EngineOp := { id := 1, spec := { copyIn with kind := 4, base := 0x6000 }, group := 0, after := 1, started := true, ring := 0x206000 }
/-- A bulk read of one burst, and the burst delivered. -/
def bulk : HreadReq :=
  { id := 1, tag := 5, group := 0, handler := 0x1800, oct := [0x4000, 0, 0x100000008, 0x100000008, 44, 45, 46, 47], after := 1, ftv := 2, rmode := 1, fptrap := 0, toRead := [] }
def bulked (r : HreadReq) (bs : List Burst) (x : Option Thread) : State :=
  let s := grp (gt [])
  on { s with
    cores := fset s.cores 0 { s.core 0 with hreads := [r], bursts := bs }
    threads := x.elim s.threads (fun t => fset s.threads 16 t) } { ag := 0, n := 1 }
def sprouting (c : Nat) : State :=
  { on (bulked { bulk with live := [0] } [] (some { gt [] with req := 1, burst := 0 })) { ag := 16 } with cycle := c }

/-- BulkReadsRun: a fill at a ring with a free slot, with slots too small, and full; a burst and a free place; a sprout on both sides of its
limit; a request with nothing left, and with a sprout left. -/
theorem witness_bulk_reads :
    ((ringed 4 4 rt [fillOp]).core 0).op? 1 = some fillOp ∧ (ringed 4 4 rt [fillOp]).firstAtRing 0 fillOp = true ∧
    ((ringed 4 4 rt [fillOp]).ringAt 0x206000).wi < ((ringed 4 4 rt [fillOp]).ringAt 0x206000).ri + ((ringed 4 4 rt [fillOp]).ringAt 0x206000).slots ∧
    fillOp.spec.size ≤ ((ringed 4 4 rt [fillOp]).ringAt 0x206000).slotBytes ∧
    ((ringed 4 4 rt [fillOp]).ringAt 0x206000).slotBytes < ({ copyIn with oct := oct8.set 2 0x200000008 } : CopySpec).size ∧
    ((ringed 8 4 rt [fillOp]).ringAt 0x206000).ri + ((ringed 8 4 rt [fillOp]).ringAt 0x206000).slots ≤ ((ringed 8 4 rt [fillOp]).ringAt 0x206000).wi ∧
    (bulked bulk [⟨1, 0, [9]⟩] none).burstsRun 0 = true ∧ ((bulked bulk [⟨1, 0, [9]⟩] none).core 0).req? 1 = some bulk ∧
    ((bulked bulk [⟨1, 0, [9]⟩] none).core 0).bursts.find? (fun x => x.req == 1) = some ⟨1, 0, [9]⟩ ∧ fget? (bulked bulk [] none).threads 16 = none ∧
    isSproutKey 16 = true ∧ (fget? (sprouting 65536).threads 16).isSome = true ∧ ((sprouting 65536).thread 16).released = false ∧
    ((sprouting 65536).thread 16).startCycle + 65536 + ((sprouting 65536).thread 16).heldCycles ≤ 65536 ∧
    bulk.barrierOn = false ∧ bulk.toRead = [] ∧ bulk.live = [] ∧ (bulked bulk [] none).subj.n = bulk.id := by decide +kernel

/-- R221, R223, R224: the sprout's registers; its time limit; the tag when every sprout is done. -/
theorem test_bulk_reads :
    (after .burstDelivery (bulked bulk [⟨1, 0, [9]⟩] none) (fun t => (t.thread 16).pc == 0x1800 && (t.thread 16).sreg 1 == 0x4000 && (t.thread 16).sreg 4 == 44 &&
       (t.thread 16).sreg 7 == 47 && (t.thread 16).ftv == 2 && (fgetD (t.thread 16).ownRows 0 []).getD 0 0 == 9) &&
     after .sproutTimeLimit (sprouting 65536) (fun t => (t.core 0).hreads.map (·.abandoned) == [[(0, 0x0D, 4)]]) &&
     after .lastBurstEvent (bulked bulk [] none) (fun t => (t.core 0).hreads == [] && (t.tag 0 5).ready)) = true := by decide +kernel

/-! ### Walks, faults and poison -/

/-- A walk of group 0 at a level and a table. -/
def walking (level table : Nat) : State :=
  on (inPlot (grp (gt [])) (fun p => { p with walks := [⟨3, 0, 0, 0x1000, level, table, false, false⟩] })) { ag := 0, n := 3, value := 0x1000 }
def served (f : Bool) : State :=
  on (grp { gt [] with
    win := [{ id := 1, dest := .scalar 5 false, va := 0x4000, pa := 0, size := 8, mark := 1, held := true }], pendS := 0x20
    log := [{ id := 2, target := .load 1, access := 0, pc := 0x1234, msgs := [⟨0x4000, 9, some f⟩] }] }) { ag := 0 }
def servedStore : State :=
  on (grp { gt [] with
    sq := [{ seq := 1, kind := .store, parts := [{ lane := 0, va := 0x4000, pa := 0, data := [1, 2] }], held := true }]
    log := [{ id := 2, target := .queue 1, access := 1, pc := 0x1234, msgs := [⟨0x4000, 9, some false⟩] }] }) { ag := 0 }

/-- A group with an `ld.64` from 0x4000 at its PC, and no translation in its TLBs. -/
def needing (va : Word) : State :=
  let s := grp (gt [(1, 0x4000)])
  on { s with mem := { s.mem with cells := cellsSet s.mem.cells 0x201000 (leBytes 4 (sw 0x26 5 1 0 0)) } } { ag := 0, value := va }

/-- A fence of scope s before its read leaves, behind a store to host memory, and with the completion that has entered. -/
def reading (w : TWait) : State := on (grp { gt [] with wait := w }) { ag := 0 }
def readingBehind : State :=
  on (grp { gt [] with wait := .readback, sq := [{ seq := 0, kind := .store, parts := [{ lane := 0, va := 0, pa := 2 ^ 49, data := [1] }] }] }) { ag := 0 }
def readBack : State := { reading .readbackSent with entered := [(0, { kind := 2 })] }

/-- FaultsAndPoison (WalksAndReplays): an access that needs its translation, and a page that none needs. -/
theorem witness_walk_begins :
    isUnitAgent 0 = false ∧ (needing 0x4000).needs 0 ((needing 0x4000).spaceOf 0) 0x4000 = true ∧
    (needing 0x9000).needs 0 ((needing 0x9000).spaceOf 0) 0x9000 = false ∧
    (∀ w ∈ ((needing 0x4000).plot 0).walks, w.of 0 ((needing 0x4000).spaceOf 0) 0x4000 = false) ∧
    (walking 4 0x10000).portOf 0x10000 = none ∧ (walking 4 0x20000).portOf 0x20000 = none ∧ (walking 1 0x13000).portOf 0x13008 = none ∧
    ((reading .readback).launchOf 0).copy = false ∧ ((reading .readback).launchOf 0).paired = false ∧
    (reading .readback).hostDrained 0 = true ∧ readingBehind.hostDrained 0 = false ∧ (served true).th.trap = none ∧
    (served true).th.frozen = false := by decide +kernel

/-- R161, R104: a walk begins for the one, and for no other; a read-back waits for the host store. -/
theorem test_walk_begins :
    (after .pageWalk (needing 0x4000) (fun t => (t.plot 0).walks.map (fun w => (w.va, w.level)) == [(0x4000, 4)]) &&
     after .pageWalk (needing 0x9000) (fun t => (t.plot 0).walks == []) &&
     after .hostReadback readingBehind (fun t => t.th.wait == .readback)) = true := by decide +kernel

/-- FaultsAndPoison (WalksAndReplays): a miss; a table, a leaf and an absent word read; a read-back that may end; entries served for a load
and a store, fatal and not; an entry replayed. -/
theorem witness_walks_and_replays :
    CanEnter (served true) 0 block1 (page 0x180000) ∧
    (∀ k ∈ (on (grp (gt [])) { value := 0x1000 }).tlbPath 0, tlbFind ((grp (gt [])).core k).tlb 0 0x1000 = none) ∧
    (0x1000 : Word).toNat < 2 ^ 56 ∧
    ((walking 4 0x10000).plot 0).walks.find? (fun x => x.id == 3 && !x.waits && !x.missed) = some ⟨3, 0, 0, 0x1000, 4, 0x10000, false, false⟩ ∧
    fget? (walking 4 0x10000).mem.hist (0x10000 + 8 * walkIndex 4 0x1000) = none ∧
    walkWord (walking 4 0x10000).mem ((walking 4 0x10000).plot 0) 0 0x1000 4 ((walking 4 0x10000).mem.word 0x10000) = .table 0x11000 ∧
    walkWord (walking 1 0x13000).mem ((walking 1 0x13000).plot 0) 0 0x1000 1 ((walking 1 0x13000).mem.word 0x13000) = .done (.ok (page 0x1000)) ∧
    walkWord (walking 4 0x20000).mem ((walking 4 0x20000).plot 0) 0 0x1000 4 ((walking 4 0x20000).mem.word 0x20000) = .done .absent ∧
    walkWord (walking 1 0x13000).mem ((walking 1 0x13000).plot 0) 0 0x1000 1 ((walking 1 0x13000).mem.word 0x13000 ||| 0x40) = .done .moving ∧
    (reading .readback).enteredBy (readbackFor 0) = none ∧ (fget? (reading .readback).gates 0).isSome = true ∧
    (readBack).enteredBy (readbackFor 0) = some (0, { kind := 2 }) ∧ (served false).mem.isPoison 0x204000 = false ∧
    ((served false).thread 0).log.find? ((served false).canResend 0) = none ∧
    (((served false).thread 0).log.find? LogEntry.served).map (·.target) = some (.load 1) ∧
    (((served true).thread 0).log.find? LogEntry.served).map (·.isFatal) = some true ∧
    (served false).checkAccess 0 .load (BitVec.ofNat 64 0x4000) 8 = .ok (page 0x4000) ∧
    servedStore.checkAccess 0 (accessOf 1) (BitVec.ofNat 64 0x4000) 2 = .ok (page 0x4000) ∧
    (((next .faultReplay (served false)).thread 0).log.find? (·.replayed)).isSome = true :=
  ⟨canEnter_of (by decide +kernel), by decide +kernel⟩

/-- R104, R319, R320: down a level; into the TLB; made again; fatal. -/
theorem test_walks_and_replays :
    (after .pageWalk (walking 4 0x10000) (fun t => (t.plot 0).walks.map (fun w => (w.level, w.table)) == [(3, 0x11000)]) &&
     after .pageWalk (walking 1 0x13000) (fun t => (t.plot 0).walks == [] && (t.core 0).tlb.length == 1) &&
     after .pageWalk (walking 4 0x20000) (fun t => (t.plot 0).walks.map (·.missed) == [true]) &&
     after .hostReadback (reading .readback) (fun t => t.th.wait == .readbackSent && (t.gate 0).outq.map (·.kind) == [1]) &&
     after .hostReadback readBack (fun t => t.th.wait == .readbackDone && t.entered == []) &&
     after .faultReplay (served false) (fun t => t.th.win.map (fun l => (l.pa, l.held)) == [(0x204000, false)] && t.th.tcause == 0) &&
     after .faultReplay (served true) (fun t => t.th.trap.any (fun p => p.cause == 0x0C && p.pc == 0x1234)) &&
     after .operandLogEntryFree (on (next .faultReplay servedStore) { ag := 0 }) (fun t => t.th.log == [] && t.th.sq.map (·.held) == [false])) = true := by decide +kernel

/-- A shared page whose one leaf is a level-0 word, with an error in it. -/
def sharedPage (moving flag : Bool) : State :=
  let s := inPlot (sysc (st [])) (fun p => { p with shared := [(0x200000, 0x201000)] })
  let w := 2 ^ 63 + 0x200000 + 0x2D + (if moving then 0x40 else 0)
  on { wordsAt s 0x13000 [0x15001] with
    mem := { (wordsAt s 0x13000 [0x15001]).mem with cells := cellsSet (wordsAt s 0x13000 [0x15001]).mem.cells 0x15000 (leBytes 8 w), poison := [0x200100] } }
    { n := 0x200123, flag := flag }

/-- FaultsAndPoison (SharedPagePoison): before the leaf is marked and after, with no source recorded. -/
theorem witness_shared_page :
    (let s := sharedPage false false
     ((s.plots.filter (fun p => inRanges p.2.shared 0x200000 4096)).map (·.2)).flatMap (fun p => s.plotLeaves p 0x200000) = [(0x15000, 12)] ∧ (∃ l ∈ s.mem.poison, 0x200000 ≤ l ∧ l < 0x201000) ∧ s.mem.headers = []) ∧
    ((sharedPage true true).mem.word 0x15000).getLsbD 6 = true ∧ fget? (sharedPage true true).board.restorable 0x200000 = none :=
  ⟨⟨by decide +kernel, ⟨0x200100, by decide +kernel⟩, by decide +kernel⟩, by decide +kernel⟩

/-- R321: the leaf is marked moving; then it is not present. -/
theorem test_shared_page :
    (after .sharedPagePoison (sharedPage false false) (fun t => t.mem.word 0x15000 == 0x800000000020006D) &&
     after .sharedPagePoison (sharedPage true true) (fun t => t.mem.word 0x15000 == 0x800000000020002C)) = true := by decide +kernel

/-! ### Debug and the package -/

def record : TileRec := { label := 0x77, opened := 0, group := 0 }
def tracing (recs : FMap TileRec) (trig : FMap Word) : State :=
  let s := inPlot (grp (gt [(1, 0x77)])) (fun p => { p with trec := ring8 0x300000, trig := trig })
  { s with cores := fset s.cores 0 { s.core 0 with block := some { block1 with recs := recs } } }
def sampling (state : BitVec 2) : State :=
  on { inPlot (sysc (st [])) (fun p => { p with trcState := state, smpPeriod := 9 }) with cycle := 1536 } { ag := 0 }

/-- An operation on tile 3 that had issued, in the core's unit. -/
def closing (w : TWait) : State :=
  let s := matrix 0 [{ mmaOp with tile := 3 }]
  { s with cores := fset s.cores 0 { s.core 0 with nextOp := 2 }, threads := fset s.threads 0 { s.th with wait := w } }
/-- The sampled context of core 0 is there, and the ring has room. -/
def sampled : State :=
  let s := inPlot (sampling 1) (fun p => { p with trc := ring8 0x300000 })
  { s with threads := fset s.threads 3 { gt [] with pc := 0x1230 } }

/-- DebugAndImages (TileRecords): a system core; a tile with a record and one without; an operation to wait for, at the first issue and at
a later one. -/
theorem witness_tile_records :
    (sysc (st [])).Free notSprout [1] ∧ isSysKey (sysc (st [])).cur = true ∧
    (tracing [] []).Free groupOnly [1] ∧ (tracing [] []).blockOf 0 = some { block1 with recs := [] } ∧ (3 : TileReg).val < block1.launch.tiles ∧
    fget? [(3, record)] 3 = some record ∧ ((tracing [(3, record)] []).plot 0).trec.room = true ∧ ((tracing [] []).core 0).mops = [] ∧
    (closing .none).Free groupOnly [1] ∧ (closing (.closing 2)).Free groupOnly [1] ∧
    (∃ o ∈ ((closing .none).core 0).mops, o.tile = 3 ∧ o.id < ((closing .none).core 0).nextOp) ∧
    (∃ o ∈ ((closing (.closing 2)).core 0).mops, o.tile = 3 ∧ o.id < 2) ∧ (tracing [] []).mem.headers = [] :=
  ⟨free_of (by decide +kernel), by decide +kernel, free_of (by decide +kernel), by decide +kernel, by decide +kernel, by decide +kernel,
    by decide +kernel, by decide +kernel, free_of (by decide +kernel), free_of (by decide +kernel),
    ⟨{ mmaOp with tile := 3 }, by decide +kernel⟩, ⟨{ mmaOp with tile := 3 }, by decide +kernel⟩, by decide +kernel⟩

/-- DebugAndImages (TriggersAndCounters): a trigger of software and one of another kind; counters of each range, of a group and of a
system core; a tick that is due, with no context and with one, and no capture. -/
theorem witness_triggers_and_counters :
    (tracing [] []).Free notSprout [] ∧ isSproutKey (tracing [] []).cur = false ∧
    (fgetD ((tracing [] []).plot 0).vfs ((tracing [] []).launchOf 0).vf {}).missing = [] ∧ (sysc (st [])).Free anyone [1] ∧
    (fgetD ((sysc (st [])).plot 0).vfs ((sysc (st [])).plot 0).vfCur {}).missing = [] ∧ (tracing [] []).blockOf 0 = some { block1 with recs := [] } ∧
    5 ∈ (fgetD (inPlot (grp (gt [])) (fun p => { p with vfs := fset p.vfs 0 { missing := [5] } })).plots 0 {id := 0}).vfs.flatMap (·.2.missing) ∧
    (fgetD [(15, (0x11 : Word))] 15 0).toNat % 16 = 1 ∧ (fgetD [(15, (0x11 : Word))] 15 0).getLsbD 8 = false ∧
    (tracing [] []).Free anyone [1] ∧ (0x42 : BitVec 12).toNat = 0x42 ∧ (0x38 : BitVec 12).toNat ≤ 0x38 ∧
    ((sampling 1).plot 0).trcState = 1 ∧ ((sampling 1).plot 0).smpLast ≠ (sampling 1).cycle ∧ (sampling 1).cycle % 2 ^ 9 = 0 ∧
    (∀ c ∈ ((sampling 1).usable 0).flatMap clusterTiles, fget? (sampling 1).threads (groupKey c ((sampling 1).cycle / 2 ^ 9 % 32)) = none) ∧
    ((sampled.usable 0).flatMap clusterTiles).filter (fun c => (fget? sampled.threads (groupKey c (sampled.cycle / 2 ^ 9 % 32))).isSome) = [0] ∧
    (sampled.plot 0).trc.room = true ∧ ((sampling 0).plot 0).trcState ≠ 1 :=
  ⟨free_of (by decide +kernel), by decide +kernel, by decide +kernel, free_of (by decide +kernel), by decide +kernel, by decide +kernel,
    by decide +kernel, by decide +kernel, by decide +kernel, free_of (by decide +kernel), by decide +kernel⟩

/-- R372, R373, Table 11.9: a record opens, closes into the ring, a trigger of action 2 stops the trace, a missing counter reads 2^63. -/
theorem test_debug_records :
    (after (.tileOpen 3 1) (tracing [] []) (fun t => (t.blockOf 0).elim [] (·.recs) == [(3, record)]) &&
     after (.tileClose 3) (closing .none) (fun t => t.th.wait == .closing 2 && t.th.pc == 0x1000) &&
     after .samplerTick sampled (fun t => (t.plot 0).trc.head == 1 && (t.plot 0).smpLast == 1536) &&
     after (.tileClose 3) (tracing [(3, record)] []) (fun t => t.mem.num 0x300000 8 == 0x77 && (t.plot 0).trec.head == 1 && t.th.pc == 0x1004) &&
     after (.trig 15) (tracing [] [(15, 0x11)]) (fun t => (t.plot 0).trig == [(15, 0x211)] && (t.plot 0).fired == [(15, 0x11)] && t.th.pc == 0x1004) &&
     after (.trig 15) (tracing [] [(15, 0x10)]) (fun t => (t.plot 0).trig == [(15, 0x10)]) &&
     after (.cnt 2 0x42) (tracing [] []) (fun t => t.th.sreg 2 == 0x8000000000000000) && after (.cnt 2 0) (tracing [] []) (fun t => t.th.sreg 2 == 0)) = true := by
  decide +kernel

/-- Triggers 2 and 5 have fired in one cycle: one freezes the capture, the other asks for a stop 3 cycles on. -/
def fired : Plot := { id := 0, trcState := 1, fired := [(2, 0x3040), (5, 0x30)] }

/-- R370: both act, in ascending number. -/
theorem test_fired : ((fired.actFired 7).stopAt == 10 && (fired.actFired 7).trcState == 2 && (fired.actFired 7).fired == []) = true := by
  decide +kernel

def stopping (at' : Word) : State := on (inPlot (grp (gt [])) (fun p => { p with stopAt := at' })) { ag := 0 }
def pkg (stopped : Bool) (at' : BitVec 64) : State := on { grp (gt []) with stopped := stopped, pkgStopAt := at', cycle := 99 } { ag := 0 }
def imaged (d : List Byte) : State :=
  let s := pkg false (BitVec.allOnes 64)
  { s with image := some { cycle := 5, digest := d, mach := { s.toMach with cycle := 5 } } }
/-- Its keys came from another boot nonce; or it holds a line. -/
def imagedWith (f : Image → Image) : State := { imaged [] with image := (imaged []).image.map f }

/-- DebugAndImages (StopsAndImages): each side of both stop cycles; a stopped package; an image of this configuration and of another. -/
theorem witness_stops_and_images :
    (fget? (stopping 0).plots 0).isSome = true ∧ ((stopping 0).plot 0).stopAt.toNat ≤ (stopping 0).cycle ∧
    (stopping 1).cycle < ((stopping 1).plot 0).stopAt.toNat ∧ ((stopping 1).plot 0).stopNow = false ∧ (pkg false 99).stopped = false ∧
    (pkg false 99).pkgStopAt.toNat ≤ (pkg false 99).cycle ∧ (pkg false 99).board.imageBase = none ∧ (pkg false 99).safeAfterStop = none ∧
    (pkg false 100).cycle < (pkg false 100).pkgStopAt.toNat ∧ (pkg false 100).stopReq = none ∧ (pkg true 0).stopped = true ∧ (pkg true 0).boot ≠ .safe ∧
    (imaged []).boot = .ready ∧ (imaged []).image.map (·.nonce) = some (imaged []).mgr.bootNonce ∧ (imaged []).image.map (·.lines) = some [] ∧
    (imagedWith (fun i => { i with nonce := [1] })).image.map (·.nonce) ≠ some (imaged []).mgr.bootNonce ∧
    (imagedWith (fun i => { i with lines := [(0x200100, [9])] })).image.map (·.lines) = some [(0x200100, [9])] ∧
    (imaged []).image.map (·.digest) = some (imaged []).mgr.cfgDigest ∧ (imaged [1]).image.map (·.digest) ≠ some (imaged [1]).mgr.cfgDigest := by
  decide +kernel

/-- R357–R361. -/
theorem test_stops_and_images :
    (after .plotStop (stopping 0) (fun t => (t.plot 0).stopped && (t.thread 0).frozen && (t.thread (sysKey 0)).sys.ipend == 0x400) &&
     after .packageStop (pkg false 99) (fun t => t.stopped && (t.image.map (·.cycle)) == some 99) &&
     after .packageRelease (pkg true 0) (fun t => !t.stopped && t.cycle == 100) &&
     after .imageRestore (imaged []) (fun t => t.cycle == 6) &&
     after .imageRestore (imagedWith (fun i => { i with lines := [(0x200100, [9])] })) (fun t => t.mem.byte 0x200100 == 9) && after .imageRestore (imaged [1]) (fun t => t.boot == .safe && t.diag.state == 3)) = true := by
  decide +kernel

def board (x : Subject) (f : State → State) : State := on (f { State.reset with boot := .ready, cycle := 6000 }) x

/-- A fatal error with a buffer for any dump. -/
def dumping : State := board {} (fun s => { s with diag := { s.diag with dumpBuf := 0x1000, dumpBytes := 0x100000000 } })

/-- A follower of the exchange, all of whose times are there but the release; and the leader, after a request. -/
def following (release : Option Nat) : State := board { flag := true } (fun s =>
  { s with boot := .step 6, board := { peers := true }
           mgr := { exchange := { syncSent := some 1, syncGot := some 3, delaySent := some 5, delayGot := some 5, release := release } } })
def leading : State := board { flag := true } (fun s =>
  { s with boot := .step 6, board := { peers := true, leader := true }, mgr := { exchange := { begun := true, answers := 1 } } })

/-- PackageEvents: each clause. -/
theorem witness_package_events :
    (dumping.dump).length ≤ dumping.diag.dumpBytes.toNat ∧
    (fget? (board {} id).gates 20).isSome = true ∧ (fgetD (board {} id).gates 20 {}).mode ≠ 2 ∧
    (board {} (fun s => { s with refLost := some 5103 })).refLost = some 5103 ∧ 5103 + 896 < (board {} id).cycle ∧
    (board { ag := 159, n := 5 } id).deterministic 159 = false ∧ (∀ c ∈ clusterTiles 159, ((board {} id).core c).block = none) ∧
    ({ board {} id with cycle := 5460 + 341 * 15 } : State).cycle = 5460 * 1 + 341 * (15 % 16) ∧ fgetD (board {} id).refresh 15 0 ≤ 6000 ∧
    isDram 0x100 = true ∧ (board {} id).mem.isPoison 0x100 = false ∧ 0 < (board {} (fun s => { s with mgr := { alerts := 1 } })).mgr.alerts ∧
    6 < fgetD (board {} id).ratios 0 7 ∧ (board {} id).boot ≠ .off ∧ (board {} id).diag.dumpBuf = 0 ∧
    dumping.diag.dumpBuf ≠ 0 ∧ dumping.mem.headers = [] ∧
    (following none).board.peers = true ∧ (following none).board.leader = false ∧ (following none).boot = .step 6 ∧
    (following none).mgr.exchange.residual = none ∧ (following (some 0)).mgr.exchange.residual = some (-1) ∧
    leading.board.leader = true ∧ leading.mgr.exchange.begun = true ∧ leading.mgr.exchange.answers ≠ 0 ∧
    (board {} (fun s => { s with boot := .step 8, board := { plots := [({ id := 4 }, 0x40)] } })).board.plots = [({ id := 4 }, 0x40)] ∧
    (fgetD (board {} (fun s => { s with gates := [(20, { mode := 2 })] })).gates 20 {}).mode = 2 :=
  ⟨by
      have n : dumping.diag.dumpBytes.toNat = 2 ^ 32 := by decide +kernel
      rw [n]; unfold State.dump; simp only [List.length_map, List.length_range]; exact Nat.le_of_lt (BitVec.isLt _),
    by decide +kernel⟩

/-- A cluster of a deterministic plot. -/
theorem witness_deterministic : (board { ag := 0, n := 5 } (fun s => { s with plots := [(0, { id := 0, clusters := [0], det := true })] })).deterministic 0 = true := by
  decide +kernel

/-- R346–R348, R415, R414: the loss at gate 20; a stop at a multiple of 14; a ratio; a refresh; an error; a step of bring-up. -/
theorem test_package_events :
    (after .referenceLoss (board {} id) (fun t => (fgetD t.gates 20 {}).port.map (fun a => (a.kind, a.source)) == [(8, 1)]) &&
     after .referenceHoldoverTimeout (board {} (fun s => { s with refLost := some 5000 })) (fun t => t.stopReq == some 5908) &&
     after .clusterRatioChange (board { ag := 3, n := 5 } id) (fun t => fgetD t.ratios 3 7 == 5) &&
     after .dramRefresh { board { ag := 15 } id with cycle := 5460 + 341 * 15 } (fun t => fgetD t.refresh 15 0 == 5460 + 341 * 15 + 490) &&
     after .softError (board { ag := 1, n := 2 } id) (fun t => (t.core 1).padBad == [2]) &&
     after .uncorrectableLineError (board { n := 0x100 } id) (fun t => t.mem.isPoison 0x1FF && !t.mem.isPoison 0x200) &&
     after .fatalDump (board {} id) (fun t => t.boot == .safe && t.diag.dumpStatus == 3) &&
     after .alignmentExchange (following (some 0)) (fun t => t.boot == .step 7 && t.mgr.alignOfs == 0xFFFFFFFF) &&
     after .alignmentExchange (following none) (fun t => t.boot == .step 6) &&
     after .alignmentExchange leading (fun t => t.boot == .step 7 && t.mgr.alignOfs == 0) &&
     after .powerUp (board { flag := true } (fun s => { s with boot := .off })) (fun t => t.boot == .step 1) &&
     after .powerUp (board {} (fun s => { s with boot := .step 7 })) (fun t => t.boot == .step 8 && t.cycle == 0)) = true := by decide +kernel

/-! ### Gates, the host, the step -/

def gateAt (x : Subject) (g : Gate) : State := on { grp (gt []) with gates := fset State.reset.gates 3 g, cycle := 50 } x
def logGate : Gate := { mode := 1, logBase := 0x300000, logCap := 4, outBase := 0x301000, outCap := 4, port := [{ kind := 9, payload := [1, 2] }], outq := [{ kind := 0, target := 0x77 }] }
def replayGate (n : Word) (once : Bool) (last : Nat) : State :=
  wordsAt (gateAt { ag := 3 } { mode := 2, logBase := 0x300000, logCap := 4, logTail := 1, replaying := true, admittedOnce := once, lastCycle := last }) 0x300000 [n]

/-- Gates: an arrival in each mode, room in the log and the outbound ring, a write of each kind, an entry to skip, one that stops the replay, one
not due and one due. -/
theorem witness_gates :
    fget? (gateAt { ag := 3 } logGate).gates 3 = some logGate ∧ (gateAt { ag := 3 } logGate).stopped = false ∧ logGate.admittedOnce = false ∧
    (gateAt { ag := 3 } logGate).scanPort 3 logGate.port 0 [] = some (0, { kind := 9, payload := [1, 2] }) ∧
    (logGate.logHead - logGate.logTail).toNat < logGate.logCap.toNat ∧ (logGate.outHead - logGate.outTail).toNat < logGate.outCap.toNat ∧
    (gateAt { ag := 3, n := 0, value := 2 } logGate).subj.value.toNat ≤ 2 ∧ (0x1000 : Word).toNat % 4096 = 0 ∧
    ((replayGate 10 false 20).entryAt 3).1 < 20 ∧ (replayGate 10 false 20).brokenAt 3 = none ∧
    ((replayGate 10 true 10).entryAt 3).1 ≤ 10 ∧ (1 : BitVec 32) = 0 + 1 ∧
    (replayGate 51 true 10).cycle ≠ ((replayGate 51 true 10).entryAt 3).1 ∧ (replayGate 51 true 10).brokenAt 3 = none ∧
    ((replayGate 50 true 10).entryAt 3).1 = (replayGate 50 true 10).cycle ∧ (replayGate 50 true 10).brokenAt 3 = none ∧
    ((replayGate 50 true 10).entryAt 3).2.kind ≠ 2 := by decide +kernel

/-- R349–R355: admitted and logged; a refused write; sent; skipped; stopped. -/
theorem test_gates :
    (after .gateAdmission (gateAt { ag := 3 } logGate) (fun t => (t.gate 3).logHead == 1 && (t.gate 3).port == [] && t.mem.num 0x300000 6 == 50 && t.mem.byte 0x300006 == 9) &&
     after .gateControlWrite (gateAt { ag := 3, n := 8, value := 0x1001 } logGate) (fun t => t.gate 3 == logGate) &&
     after .gateControlWrite (gateAt { ag := 3, n := 0, value := 2 } logGate) (fun t => t.gate 3 == logGate) &&
     after .outboundTransaction (gateAt { ag := 3 } logGate) (fun t => (t.gate 3).outq == [] && (t.gate 3).outHead == 1 && t.mem.num 0x301010 8 == 0x77) &&
     after .replayInject (replayGate 10 false 20) (fun t => (t.gate 3).readAt == 1 && t.stopReq == none) &&
     after .replayInject (replayGate 10 true 10) (fun t => t.stopReq == some 9)) = true := by decide +kernel

/-- Gate 0 with one arrival, and reads that have left; and gate 20 with a migration image of function 0. -/
def gateZero (a : Arrival) (qs : List Ask) : State :=
  on { grp (gt []) with gates := fset State.reset.gates 0 { port := [a] }, asks := qs, cycle := 50 } { ag := 0 }
def fromBoard (a : Arrival) : State := on { grp (gt []) with gates := fset State.reset.gates 20 { port := [a] }, cycle := 50 } { ag := 20 }
def brings : Arrival := { kind := 2, target := 0x2000000000100, payload := [7, 8] }
def asked : Ask := { who := .load 0 1, gate := 0, plot := 0, pa := 0x2000000000100 }
def counts : Arrival := { kind := 8, source := 5, target := 0, payload := numbersPayload [0, 0, 2, 0x40, 7, 0x41, 9] }

/-- Gates: a request of another endpoint, bytes that have been asked for, a migration image; a second arrival of a cycle; gates that
send in each mode. -/
theorem witness_gate_forms :
    (gateZero { kind := 0, source := 5 } []).scanPort 0 [{ kind := 0, source := 5 }] 0 [] = some (0, { kind := 0, source := 5 }) ∧
    ({ kind := 0, source := 5 } : Arrival).fromPeer = true ∧ (gateZero brings [asked]).scanPort 0 [brings] 0 [] = some (0, brings) ∧
    (gateZero brings [asked]).answersFor 0 brings = some asked ∧ ((gateZero brings [asked]).plot 0).pair = none ∧
    (fromBoard counts).scanPort 20 [counts] 0 [] = some (0, counts) ∧ (fget? (fromBoard counts).plots 0).isSome = true ∧
    (fget? ((fromBoard counts).plot 0).vfs 0).isSome = true ∧
    (let g : Gate := { logGate with admittedOnce := true, lastAdmit := 50 }
     (gateAt { ag := 3 } g).cycle = g.lastAdmit ∧ (gateAt { ag := 3 } g).boot.running = true ∧ g.mode = 1) ∧
    ({ logGate with mode := 0 } : Gate).outq = [{ kind := 0, target := 0x77 }] ∧
    (gateAt { ag := 3 } { logGate with mode := 2 }).stopped = false ∧ (gateAt { ag := 3, n := 0, value := 2 } logGate).boot.running = true ∧
    (replayGate 10 true 10).stopped = false ∧ ((replayGate 10 true 10).gate 3).broken = none ∧
    ((replayGate 10 true 10).gate 3).logTail = ((replayGate 10 true 10).gate 3).readAt + 1 := by decide +kernel

/-- R403, R407, R368, R354. -/
theorem test_gate_forms :
    (after .gateAdmission (gateZero { kind := 0, source := 5 } []) (fun t => (t.gate 0).outq.map (fun a => (a.kind, a.status)) == [(2, 1)]) &&
     after .gateAdmission (gateZero brings [asked]) (fun t => t.mem.byte 0x2000000000100 == 7 && t.asks == [{ asked with answered := true }]) &&
     after .gateAdmission (fromBoard counts) (fun t => (fgetD (t.plot 0).vfs 0 {}).served == 7 && (fgetD (t.plot 0).vfs 0 {}).faults == 9) &&
     after .outboundTransaction (gateAt { ag := 3 } { logGate with mode := 0 }) (fun t => (t.gate 3).outq == []) &&
     after .outboundTransaction (gateAt { ag := 3 } { logGate with mode := 2 }) (fun t => (t.gate 3).mismatch.getLsbD 63)) = true := by
  decide +kernel

def hosted (w : Bool) : State :=
  on { inPlot (grp (gt [])) (fun p => { p with vfs := fset p.vfs 0 { fgetD p.vfs 0 {} with winVa := 0x4000 } }) with
    hostReqs := [{ plot := 0, vf := 0, write := w, offset := 8, data := if w then [1, 2] else [], size := if w then 2 else 8192 }]
    mgr := { sessions := [7] } } { ag := 0, n := 0, m := 7 }
def locked (d : Tdisp) : State := inPlot (hosted true) (fun p => { p with vfs := fset p.vfs 0 { fgetD p.vfs 0 {} with tdisp := d } })

/-- Function 1 is bound to function 0 of plot 0 and enabled; a message or request has entered at a gate. -/
def entering (gate : Nat) (a : Arrival) (d : Tdisp) : State :=
  { locked d with functions := [(0, { plot := 0, vf := 0, enable := true })], entered := [(gate, a)] }
def message (code n : Nat) : Arrival := { kind := 4, target := 4096, payload := leBytes 1 code ++ leBytes 4 n }
def config (bus : Nat) : Arrival := { kind := 3, target := 4096 + 0x18, payload := leBytes 8 bus }
/-- A flit at gate 4, a Brixvex port. -/
def flying (a : Arrival) : State :=
  let s := hosted true
  on { s with gates := [(4, { flits := [a] })], board := { s.board with serdes := fset s.board.serdes 0 .brixvex } } { ag := 4 }
/-- The storage engine of plot 0 with its first queue pair. -/
def storing (done : List (List Byte × Nat)) : State :=
  { hosted true with nvme := [(nvmeKey 0 0, { id := 0, size := 8, cqBase := 0x5000, done := done })] }

/-- HostAndPeers: each request and each interface state. -/
theorem witness_host_and_peers :
    ((hosted true).hostReqs.find? (fun r => r.plot == 0)).map (·.hold) = some none ∧
    (match (hosted true).unitReach 0 0 (0x4000 + 8) 5 0x7FE .store none [portTlb 0] with | .ok y => decide (y = page 0x4008) | _ => false) = true ∧
    (hosted true).mem.escapesRun portParty false true 0x204008 2 = false ∧ (hosted true).refreshing 0x204008 = false ∧ (hosted true).waiters = [] ∧
    (hosted true).ringsMoving 0 = false ∧ (hosted false).portOf 0x204008 = none ∧ (linesOf 0x204008 8).find? (hosted false).mem.isPoison = none ∧ (0 + 4088 : Nat) < 8192 ∧
    (let s := entering 0 (message mLock 7) .unlocked
     s.enteredBy (messageOf mLock) = some (0, message mLock 7) ∧ s.fnOf (message mLock 7) = some { plot := 0, vf := 0, enable := true } ∧
     (s.plot 0).pair = none ∧ s.mgr.sessions.contains (message mLock 7).number = true ∧ s.mgr.sessions.contains (message mLock 8).number = false) ∧
    (entering 0 (message mStart 0) .locked).enteredBy (messageOf mStart) = some (0, message mStart 0) ∧
    (fgetD ((entering 0 (message mStart 0) .locked).plot 0).vfs 0 {}).tdisp = .locked ∧
    (entering 0 (message mStop 0) .run).enteredBy (messageOf mStop) = some (0, message mStop 0) ∧
    (entering 0 (config 0x4000000) .run).enteredBy (fun gate a => gate == 0 && a.kind == 3) = some (0, config 0x4000000) ∧
    (config 0x4000000).target % 4096 = 0x18 ∧ (hosted true).boot = .ready ∧
    leNat (config 0x4000000).payload / 2 ^ 26 * 2 ^ 26 ≠ (fgetD ((locked .run).plot 0).vfs 0 {}).bus ∧
    leNat (config 0x123).payload / 2 ^ 26 * 2 ^ 26 = (fgetD ((locked .run).plot 0).vfs 0 {}).bus ∧
    ({ entering 0 (config 0) .run with boot := .step 6 } : State).linkUp = false ∧
    (message (mSpdm + 1) 7).code = mSpdm + 1 ∧ (message mSpdm 0x10).code = mSpdm ∧ (fget? (hosted true).gates 0).isSome = true ∧
    isCxl 0x1000000000100 = true ∧ (∀ q ∈ (hosted true).plots, q.2.pair = none) ∧
    (let a : Arrival := { kind := 5, target := 0x1000000000100, payload := List.replicate 257 0 }
     let q : Ask := { who := .load 0 1, gate := 1, plot := 0, pa := 0x1000000000100 }
     ({ entering 1 a .run with asks := [q] } : State).answersFor 1 a = some q) ∧
    ({ entering 0 (message mLock 7) .unlocked with boot := .safe } : State).enteredBy (messageOf mLock) = some (0, message mLock 7) ∧
    (let s : State := { flying { kind := 6 } with gates := [(4, { mode := 2, flits := [{ kind := 6 }] })] }
     (s.gate 4).mode = 2 ∧ (s.gate 4).flits = [{ kind := 6 }]) ∧
    fget? (storing [([3, 0], 0)]).nvme (nvmeKey 0 0) = some { id := 0, size := 8, cqBase := 0x5000, done := [([3, 0], 0)] } ∧
    (storing []).netMode 0 ≠ .brixvex ∧ (storing []).subj.m < 8 ∧
    (match (storing []).unitReach 0 64 0x5000 5 0x7FE .store none [portTlb 0] with | .ok y => decide (y.pa = 0x205000) | _ => false) = true ∧
    (storing []).mem.escapes portParty false true 0x205000 = false ∧ (storing []).refreshing 0x205000 = false := by decide +kernel

/-- The key of gate 4's link. -/
def link4 : List Nat := deriveKey 2 [68] 32

/-- A block encrypted under the link's key has 16 bytes. -/
theorem link_block (blk : List Nat) : (aesEncrypt link4 blk).length = 16 := by
  have h : ((aesKeys link4).map List.length) = List.replicate 15 16 := by decide +kernel
  unfold aesEncrypt
  rcases e : aesKeys link4 with _ | ⟨k, ks⟩
  · rw [e] at h; simp at h
  · rw [e] at h
    have n : (ks.getD 13 []).length = 16 := by
      have m : (ks.map List.length).getD 13 0 = 16 := by rw [(List.cons.inj h).2]; rfl
      rw [List.getD_eq_getElem?_getD, List.getElem?_map] at m
      rw [List.getD_eq_getElem?_getD]
      rcases f : ks[13]? with _ | y <;> rw [f] at m
      · simp at m
      · simpa using m
    simp [xorBytes, aesShift, n, -List.getD_eq_getElem?_getD]

/-- A flit of 240 zeros and a tag opens where the tag is that of the zeros under the link's key. -/
def flitOf (tag : List Byte) : Arrival := { kind := 6, payload := List.replicate 240 0 ++ tag }

theorem flit_of_tag (tag : List Byte) (h : tag.length = 16) :
    (flying (flitOf tag)).openFlit 4 (flitOf tag) =
      (gcmOpen link4 (beBytes 12 0) [] (List.replicate 240 0) (tag.map (·.toNat))).map (fun pt =>
        let ws := pt.map (fun b => BitVec.ofNat 8 b)
        ((ws.getD 0 0).toNat, { kind := 6, source := leNat ((ws.drop 2).take 4), target := leNat ((ws.drop 6).take 8)
                                payload := (ws.drop 14).take (ws.getD 1 0).toNat })) := by
  have k : (flying (flitOf tag)).linkKey (64 + 4) = link4 := rfl
  have q : ((flying (flitOf tag)).gate 4).flitSeq = 0 := rfl
  have g : (flying (flitOf tag)).brixvexGates.contains 4 = true := rfl
  have p : (flitOf tag).payload.map (·.toNat) = List.replicate 240 0 ++ tag.map (·.toNat) := by
    unfold flitOf; rw [List.map_append, List.map_replicate]; rfl
  have n : ((flitOf tag).payload.map (·.toNat)).length = 256 := by rw [p, List.length_append, List.length_replicate, List.length_map, h]
  have c : ((flitOf tag).payload.map (·.toNat)).take 240 = List.replicate 240 0 := by
    rw [p]; exact List.take_left' (List.length_replicate ..)
  have d : ((flitOf tag).payload.map (·.toNat)).drop 240 = tag.map (·.toNat) := by
    rw [p]; exact List.drop_left' (List.length_replicate ..)
  simp only [State.openFlit, n, g, c, d, k, q]
  rfl

/-- HostAndPeers: a flit that its link's key opens, and one that it does not. -/
theorem witness_flits :
    (∃ a y b, (flying a).openFlit 4 a = some (y, b)) ∧ (∃ a, (flying a).openFlit 4 a = none) := by
  obtain ⟨tag, hb, hl, ho⟩ := gcmOpen_some (key := link4) (nonce := beBytes 12 0) (shake256_all _ _) (beBytes_all _ _) []
    (List.replicate 240 0)
  have l : tag.length = 16 := by rw [hl, link_block]; rfl
  refine ⟨⟨flitOf (tag.map (BitVec.ofNat 8)), ?_⟩, ⟨{ kind := 6 }, rfl⟩⟩
  rw [flit_of_tag _ (by simpa using l), bytes_back hb, ho, Option.map_some]
  exact ⟨_, _, rfl⟩

/-- R405, R406, R413: bytes in the window; locked, started, moved to ERROR; a completion and a doorbell. -/
theorem test_host_and_peers :
    (after .hostWindowRequest (hosted true) (fun t => t.mem.byte 0x204008 == 1 && t.mem.byte 0x204009 == 2 && t.hostReqs == []) &&
     after .hostWindowRequest (hosted false) (fun t => t.hostReqs.map (·.done) == [4088]) &&
     after .lockInterface (entering 0 (message mLock 7) .unlocked) (fun t => (fgetD (t.plot 0).vfs 0 {}).tdisp == .locked && t.entered == []) &&
     after .lockInterface (entering 0 (message mLock 8) .unlocked) (fun t => (fgetD (t.plot 0).vfs 0 {}).tdisp == .unlocked && t.entered == []) &&
     after .startInterface (entering 0 (message mStart 0) .locked) (fun t => (fgetD (t.plot 0).vfs 0 {}).tdisp == .run) &&
     after .configurationRequest (entering 0 (config 0x4000000) .run) (fun t => (fgetD (t.plot 0).vfs 0 {}).tdisp == .error && (fgetD (t.plot 0).vfs 0 {}).bus == 0x4000000) &&
     after .cxlResponse (entering 1 { kind := 5, target := 0x1000000000100, payload := [1] } .run) (fun t => t.mem.isPoison 0x1000000000100) &&
     after .nvmeCompletion (storing [([3, 0], 0)]) (fun t => t.mem.byte 0x20500C == 3 && t.mem.byte 0x20500E == 1) &&
     after .nvmeDoorbell (storing []) (fun t => (t.nvme.map (·.2.tail)) == [7])) = true := by decide +kernel

/-! ### Forms that complete -/

/-- FormsComplete, the instructions: a state that meets each clause's conditions. -/
theorem witness_instructions_perform :
    (grp (gt [])).Free notSprout [] ∧ isSysKey (grp (gt [])).cur = false ∧ (grp (gt [])).th.wait = .none ∧ FenceClear (grp (gt [])) true .b ∧
    (grp { gt [] with wait := .bsyncDone }).Free notSprout [] ∧ (grp { gt [] with wait := .rsyncDone }).Free notSprout [] ∧
    FenceClear (grp (gt [])) true .p ∧ Privileged (pool (st [(1, 0x402000)])) [1] ∧ FenceClear (pool (st [(1, 0x402000)])) true .p ∧
    Privileged (pool (st [(2, 0x7FF00)])) [2] ∧ Privileged (lending lender []) [1, 2] ∧ Privileged (lending lender [⟨1, 1, 65536, some 9, true⟩]) [1, 2] ∧
    Privileged (sysc ready) [] ∧ (tracing [] []).Free groupOnly [1] ∧ (tracing [(3, record)] []).Free groupOnly [1] ∧
    (tracing [] []).Free notSprout [] ∧ (tracing [] [(15, 0x11)]).Free notSprout [] ∧ (sysc (st [])).Free anyone [1] ∧
    ((grp (gt [])).core 0).block = some block1 ∧ block1.holdsRect 0 (2 ^ 0) (2 ^ 0) = true ∧
    (∀ k ∈ (grp (gt [])).launchKeys 0, (grp (gt [])).clashAt 0 1 (2 ^ 0) (2 ^ 0) k = false) ∧
    ((pool (st [])).plot 0).owns 0x402000 4096 = true ∧ ((pool (st [])).plot 0).inScrub 0x402000 4096 = false ∧
    (∀ f ∈ (pool (st [])).cleanPages ((pool (st [])).plot 0), f < 0x402000 ∨ 0x402000 + 4096 ≤ f) ∧
    (framesIn ((pool (st [])).plot 0) ((pool (st [])).cleanPages ((pool (st [])).plot 0)) 0).min? = some 0x401000 ∧
    (framesIn ((pool (st [])).plot 0) ((pool (st [])).cleanPages ((pool (st [])).plot 0)) 0).filter (fun q => homeOf (pool (st [])).mem.cxlSize q == 0x7FF) = [] ∧
    (0x1000000000001 : Word).toNat % 64 ≠ 0 ∧ (∀ l ∈ ((lending lender []).plot 0).lends, l.cluster ≠ 1) ∧
    ((lending lender [⟨1, 1, 65536, some 9, true⟩]).plot 0).lends = [⟨1, 1, 65536, some 9, true⟩] ∧
    fgetD ((tracing [] []).plot 0).trig 15 0 = 0 ∧ fgetD ((tracing [] [(15, 0x11)]).plot 0).trig 15 0 = 0x11 :=
  ⟨free_of (by decide +kernel), by decide +kernel, by decide +kernel, fence_of (by decide +kernel), free_of (by decide +kernel),
    free_of (by decide +kernel), fence_of (by decide +kernel), privileged_of (by decide +kernel), fence_of (by decide +kernel),
    privileged_of (by decide +kernel), privileged_of (by decide +kernel), privileged_of (by decide +kernel), privileged_of (by decide +kernel),
    free_of (by decide +kernel), free_of (by decide +kernel), free_of (by decide +kernel), free_of (by decide +kernel), free_of (by decide +kernel),
    by decide +kernel⟩

/-- A launch all of whose blocks are done. -/
def doneLaunch : State := on (inPlot (grp (gt [])) (fun p => { p with running := [finished 0 none] })) { ag := 0, n := 5 }
/-- A system core with cause 0 pending and enabled. -/
def interruptible : State := on (sysc { ready with sys := { ready.sys with ien := 0x31, ipend := 0x23 } }) { ag := sysKey 0 }

/-- FormsComplete, the happenings of agents: a state for each clause. -/
theorem witness_agents_perform :
    (∀ q, ((meeting .bsync).plot q).cksCtl = 0) ∧ 0 ∈ (meeting .bsync).groupKeys 0 ∧ ((meeting .bsync).thread 0).wait = .bsync ∧
    (∀ j ∈ (meeting .bsync).groupKeys 0, (meeting .bsync).isGone j = true ∨ 1 ≤ ((meeting .bsync).thread j).bsyncs) ∧
    (fget? replaying.threads 0).isSome = true ∧ (replaying.thread 0).trap = none ∧ (replaying.thread 0).status = .running ∧
    (replaying.thread 0).win.any (·.ref) = false ∧ (replaying.thread 0).spec = none ∧ (replaying.thread 0).region = some opened ∧
    (moving.usable block1.launch.plot).contains (clusterOf 1) = true ∧ moving.latencyOk block1.launch.plot block1.launch 1 = true ∧
    (moving.core 1).block = none ∧ moving.coreDrained 0 = true ∧ (scrubbing.plot 0).scrub = ⟨0x403000, 0⟩ :: [] ∧
    scrubbing.scrubDie ⟨0x403000, 0⟩ = scrubbing.subj.n ∧
    (overdue.plot 0).lends.find? (fun l => !l.back && l.recalling.elim false (fun t => decide (t ≤ overdue.cycle))) =
      some ⟨0, 1, 65536, some 100, false⟩ ∧
    (clusterTiles 0).filter (fun c => !overdue.coreDrained c && (overdue.core c).block.elim false Block.lives) = [0] ∧
    (∀ k ∈ clusterTiles 0, (overdue.core k).parked = []) ∧ (overdue.core 0).block = some block1 ∧
    (fget? interruptible.threads (sysKey 0)).isSome = true ∧ interruptible.th.sys.smode = 3 ∧ interruptible.th.wait = .none ∧
    interruptible.th.win.any (·.ref) = false ∧ interruptible.th.spec = none ∧
    (interruptible.th.sys.ipend &&& interruptible.th.sys.ien).getLsbD 0 = true ∧
    ((queueing launch1).plot 0).waiting = [launch1] ∧ ((queueing launch1).plot 0).spilled = [] ∧ launch1.level < 7 ∧
    launch1.since + 2 ^ 20 ≤ (queueing launch1).cycle ∧ ((spilling launch1).plot 0).levelCount ((spilling launch1).plot 0).vfCur 0 < 64 ∧
    launch1.vf = ((spilling launch1).plot 0).vfCur ∧ launch1.level = 0 ∧ launch1.tilesAt (1, 0) = [1] ∧ ((queueing launch1).core 1).block = none ∧
    ((queueing launch1).core 1).parked = [] ∧ (doneLaunch.plot 0).running = [finished 0 none] ∧
    (finished 0 none).seq.toNat = doneLaunch.subj.n ∧ (finished 0 none).copy = false ∧ doneLaunch.launchLive (finished 0 none) = false ∧
    (finished 0 none).compKind = 0 :=
  ⟨fun p => fgetD_all (P := fun p : Plot => p.cksCtl = 0) (m := (meeting .bsync).plots) (d := { id := p }) rfl (by decide +kernel) p,
    by decide +kernel⟩

/-- Gate 3 admits, sends and replays. -/
def admitting : Gate := { port := [{ kind := 9 }], outq := [{ kind := 0, target := 0x77 }] }

/-- FormsComplete, the happenings of the package: a state for each clause. -/
theorem witness_package_performs :
    ((sampling 1).plot 0).trcState = 1 ∧ ((sampling 1).plot 0).smpPeriod.toNat = 9 ∧ ((sampling 1).plot 0).smpLast ≠ (sampling 1).cycle ∧ (sampling 1).cycle % 2 ^ 9 = 0 ∧
    (∀ c ∈ ((sampling 1).usable 0).flatMap clusterTiles, fget? (sampling 1).threads (groupKey c ((sampling 1).cycle / 2 ^ 9 % 32)) = none) ∧
    (fget? (stopping 0).plots 0).isSome = true ∧ ((stopping 0).plot 0).stopAt.toNat ≤ (stopping 0).cycle ∧ (pkg false 99).pkgStopAt.toNat ≤ (pkg false 99).cycle ∧
    (pkg true 0).stopped = true ∧ (pkg true 0).boot ≠ .safe ∧ (imaged []).image.map (·.digest) = some (imaged []).mgr.cfgDigest ∧
    (imaged []).image.map (·.nonce) = some (imaged []).mgr.bootNonce ∧ (imaged []).boot = .ready ∧
    (fget? (board {} id).gates 20).isSome = true ∧ (fgetD (board {} id).gates 20 {}).mode ≠ 2 ∧
    (board {} (fun s => { s with refLost := some 5103 })).refLost = some 5103 ∧ 5103 + 896 < (board {} id).cycle ∧
    (board { ag := 159, n := 5 } id).deterministic 159 = false ∧ (∀ c ∈ clusterTiles 159, ((board {} id).core c).block = none) ∧
    ({ board {} id with cycle := 5460 + 341 * 15 } : State).cycle = 5460 * 1 + 341 * (15 % 16) ∧ isDram 0x100 = true ∧
    (board {} id).mem.isPoison 0x100 = false ∧ (board {} id).subj.flag = false ∧
    0 < (board {} (fun s => { s with mgr := { alerts := 1 } })).mgr.alerts ∧ 6 < fgetD (board {} id).ratios 0 7 ∧
    (board {} id).diag.dumpBuf = 0 ∧ (board {} id).boot ≠ .off ∧
    (board { flag := true } (fun s => { s with boot := .step 6, board := { peers := true } })).boot = .step 6 ∧
    (board { flag := true } (fun s => { s with boot := .off })).boot = .off ∧
    fget? (gateAt { ag := 3 } admitting).gates 3 = some admitting ∧ admitting.mode = 0 ∧ admitting.admittedOnce = false ∧
    (gateAt { ag := 3 } admitting).scanPort 3 admitting.port 0 [] = some (0, { kind := 9 }) ∧ (gateAt { ag := 3, n := 0x18 } admitting).subj.n = 0x18 ∧
    ((replayGate 50 true 10).gate 3).replaying = true ∧ ((replayGate 50 true 10).gate 3).readAt ≠ ((replayGate 50 true 10).gate 3).logTail ∧
    ((replayGate 50 true 10).gate 3).broken = none ∧ (replayGate 50 true 10).brokenAt 3 = none ∧
    ((replayGate 50 true 10).entryAt 3).1 = (replayGate 50 true 10).cycle := by decide +kernel

/-- The group with an `addi s2, s2, 40` at its PC. -/
def running : State :=
  let s := grp (gt [(2, 1)])
  { s with mem := { s.mem with cells := cellsSet s.mem.cells 0x201000 (leBytes 4 0x20104028) } }

/-- A branch whose source is pending. -/
def waiting' : State := grp { gt [] with pendS := 4 }

/-- StepRunsDecoded: the word is in memory and its line in no code cache; and where the line is resident. -/
theorem witness_step :
    running.agenda = [] ∧ running.fetches running.cur = true ∧ running.brkHits running.cur = [] ∧ running.th.spec = none ∧ running.fetchesPast (.addi 2 2 40) = false ∧ running.portOf 0x201000 = none ∧
    (waiting').fetchesPast (.beq 2 2 0) = true ∧ 0x201000 % 4 = 0 ∧ running.th.pc.toNat % 4 = 0 ∧
    running.xlat running.cur running.th.pc.toNat = .ok (page 0x1000) ∧ fget? (running.core (tlbPlace running.cur)).icache (0x201000 - 0x201000 % 256) = none ∧
    decodeScalarBytes (running.mem.bytes 0x201000 4) = .ok (.addi 2 2 40) ∧
    (fget? ((match step running with | .next t => t | _ => running).core 0).icache 0x201000).isSome = true := by decide +kernel

/-- One step runs it. -/
theorem test_step :
    (match step running with
      | .next t => (t.thread 0).sreg 2 == 41 && (t.thread 0).pc == 0x1004 && t.mem.cells == running.mem.cells
      | _ => false) = true := by decide +kernel

/-- What moves first: an instruction in the agenda, or a happening. -/
theorem witness_agenda :
    ({ running with agenda := [.exec .nop {}] } : State).agenda = .exec .nop {} :: [] ∧
    ({ running with agenda := [.happen (.core 0)] } : State).agenda = .happen (.core 0) :: [] := by
  decide +kernel

/-- RoundTrip: a well-formed instruction of each width, and a header. -/
theorem witness_round_trip :
    (Instr.addi 2 1 40).wf = true ∧ encode (.addi 2 1 40) = some [0x28, 0x20, 0x10, 0x20] ∧ (Instr.vnop always).wf = true ∧
    encode (.vnop always) = some (leBytes 12 vnopWord) ∧ decodeScalarBytes [0x28, 0x20, 0x10, 0x20] = .ok (.addi 2 1 40) ∧
    decodeLaneBytes (leBytes 12 vnopWord) = .ok (.vnop always) ∧ (⟨0, none, none, 1⟩ : ClauseHeader).wf = true := by decide +kernel

/-- StepKeepsMemory: a state whose memory is in form, and a step of it. -/
theorem witness_memory_form : running.MemoryCanonical ∧ (∃ t, step running = .next t) := by
  refine ⟨by unfold State.MemoryCanonical; decide +kernel, ?_⟩
  have h : (match step running with | .next _ => true | _ => false) = true := by decide +kernel
  revert h
  generalize step running = o
  intro h
  cases o with
  | next t => exact ⟨t, rfl⟩
  | fault _ => simp at h
  | refused _ => simp at h

/-- R370, log entry 5: without power nothing moves. -/
theorem test_no_power : step { State.reset with boot := .off } = .fault .noPower := by rfl

end Sys2Proof.Tests
end

/-! ### What an instruction's own effect leaves unchanged -/

namespace Sys2Proof.Machine

open Sys2Proof

theorem OnlyRunning.refl (s : State) : OnlyRunning s s := ⟨fun _ _ => rfl, SameElse.refl s, fun _ => rfl⟩

/-- A further change of the running agent's record keeps the frame. -/
theorem OnlyRunning.modThread {s t : State} (h : OnlyRunning s t) (f : Thread → Thread) :
    OnlyRunning s (t.modThread s.cur f) where
  others k hk := by rw [State.thread_modThread_ne _ _ hk, h.others k hk]
  rest := h.rest.trans (t.sameElse_modThread _ f)
  memory := h.memory

theorem State.agentOnly_modThread (s : State) (f : Thread → Thread) : AgentOnly s (s.modThread s.cur f) s.cur (f s.th) where
  agent := s.thread_modThread_self _ f
  others _ hk := s.thread_modThread_ne f hk
  rest := s.sameElse_modThread _ f

theorem mem_insNat {l : List Nat} {k x : Nat} : x ∈ insNat l k ↔ x = k ∨ x ∈ l := by
  induction l with
  | nil => simp [insNat]
  | cons j l ih =>
    unfold insNat
    split
    · simp
    · split
      · subst_vars; simp
      · simp only [List.mem_cons, ih]; exact or_left_comm

/-! ### Delivery points and fences (R129, R170) -/

/-- A delivery point whose waits are over and at which nothing is raised goes on to the instruction's own effect. -/
theorem State.delivery_clear {s : State} (h : DeliveryClear s) (body : State → State) : s.delivery body = body s := by
  have due : s.th.fpDue = false := by simp [Thread.fpDue, h.flags]
  simp [State.delivery, h.clauses, h.unit, h.poison, due]

/-- A fence whose waits are over goes on with no wait noted. -/
theorem State.fenceWaits_clear {s : State} {rel : Bool} {sc : Scope} (h : FenceClear s rel sc) (body : State → State) :
    s.fenceWaits rel sc body = body (s.modThread s.cur (fun t => { t with wait := .none })) := by
  obtain ⟨delivery, ⟨win, returning⟩, stores, host⟩ := h
  have drained : (rel && !s.th.drainedAll) = false := by
    cases rel with
    | false => rfl
    | true => simp [Thread.drainedAll, stores rfl]
  have readback : ¬(sc = .s ∧ s.th.wait ≠ .readbackDone) := fun ⟨e, ne⟩ => ne (host e)
  unfold State.fenceWaits
  rw [State.delivery_clear delivery, drained, if_neg readback]
  simp [Thread.loadsBound, win, returning]

theorem State.advance_passed (s : State) : Passed s (s.modThread s.cur (fun t => { t with wait := .none })).advance where
  agent := s.modThread_modThread s.cur _ Thread.advance
  only := ((OnlyRunning.refl s).modThread _).modThread Thread.advance

/-! ### Interrupt entry of a system core (R311) -/

/-- Firing triggers changes the records of plots alone. -/
theorem State.fireWhere_rest (s : State) (plot : Nat) (test : Nat → Word → Bool) :
    s.fireWhere plot test = { s with plots := (s.fireWhere plot test).plots } := by
  refine List.foldlRecOn (motive := fun t : State => t = { s with plots := t.plots }) _ _ rfl ?_
  intro t ht n _
  split
  · rw [ht]; rfl
  · exact ht

@[simp] theorem State.thread_fireEntry (s : State) (plot : Nat) (cause : BitVec 8) (val : Word) (k : Nat) :
    (s.fireEntry plot cause val).thread k = s.thread k := by
  unfold State.fireEntry; rw [State.fireWhere_rest]; rfl

@[simp] theorem State.fireEntry_mem (s : State) (plot : Nat) (cause : BitVec 8) (val : Word) :
    (s.fireEntry plot cause val).mem = s.mem := by
  unfold State.fireEntry; rw [State.fireWhere_rest]

theorem State.forgetMissed_rest (s : State) (plot : Nat) (keep : Walk → Bool) :
    s.forgetMissed plot keep = { s with plots := (s.forgetMissed plot keep).plots } := by
  unfold State.forgetMissed
  split <;> rfl

theorem State.enterInterrupt_interrupted (s : State) (key : Nat) (resume : BitVec 56) (cause : BitVec 8) (val : Word) :
    Interrupted s (s.enterInterrupt key resume cause val) key resume cause val := by
  have agent : (s.enterInterrupt key resume cause val).thread key = { s.thread key with
      pc := (s.thread key).sys.ivec
      sys := { (s.thread key).sys with
        ipc := resume, imode := (s.thread key).sys.smode, smode := 1, icause := cause, ival := val } } := by
    simp [State.enterInterrupt]
  constructor
  case others => intro k hk; simp [State.enterInterrupt, State.thread_modThread_ne _ _ hk]
  case memory => intro a; simp [State.enterInterrupt]
  all_goals rw [agent]
  intro r
  rfl

/-- A synchronous cause is entered by a system core in any mode but that of a handler (privileged, interrupts disabled). -/
theorem State.syncInterrupt_interrupted {s : State} {key : Nat} (h : (s.thread key).sys.smode ≠ 1) (resume : BitVec 56)
    (cause : BitVec 8) (val : Word) : Interrupted s (s.syncInterrupt key resume cause val) key resume cause val := by
  unfold State.syncInterrupt
  rw [if_neg h, State.forgetMissed_rest]
  obtain ⟨next, smode, imode, ipc, icause, ival, sregs, others, memory⟩ :=
    State.enterInterrupt_interrupted
      { s with plots := (s.forgetMissed (s.plotOf key) (fun w => w.agent != key)).plots } key resume cause val
  exact ⟨next, smode, imode, ipc, icause, ival, sregs, others, memory⟩

/-! ### Blocks that end (R277) -/

theorem State.blockDone_iff {s : State} {c : Nat} {b : Block} (h : (s.core c).block = some b) :
    s.blockDone c = true ↔
      (∀ g, g < b.launch.groups → b.gone.contains g = true ∧ (s.thread (groupKey c g)).sq = []) ∧
        (s.core c).eops = [] ∧ (s.core c).mops = [] ∧ (s.core c).hreads = [] := by
  simp [State.blockDone, h, and_assoc]

/-- A block of which a group still runs stays. -/
theorem State.reapBlock_of_running {s : State} {c : Nat} (h : s.blockDone c = false) : s.reapBlock c = s := by
  unfold State.reapBlock
  split
  · rfl
  · rw [h]; rfl

/-- A block that is done frees its core. -/
theorem State.block_reapBlock_of_done {s : State} {c : Nat} (h : s.blockDone c = true) :
    ((s.reapBlock c).core c).block = none := by
  unfold State.reapBlock
  split
  · assumption
  · rw [h]; simp

@[simp] theorem State.reapBlock_mem (s : State) (c : Nat) : (s.reapBlock c).mem = s.mem := by
  unfold State.reapBlock
  split
  · rfl
  · split <;> rfl

/-! ### The exit of a group (R28) -/

/-- The running group has exited: its record says so, and its block counts it as gone. -/
def State.groupExited (s : State) : State :=
  (s.modThread s.cur (fun t => { t.advance with status := .exited, region := none, lastPc := t.pc })).modBlock (coreOfKey s.cur)
    (fun b => { b with gone := insNat b.gone (ctxOfKey s.cur) })

@[simp] theorem State.groupExited_mem (s : State) : s.groupExited.mem = s.mem := rfl

@[simp] theorem State.thread_groupExited_self (s : State) : s.groupExited.thread s.cur =
    { s.th.advance with status := .exited, region := none, lastPc := s.th.pc } := by
  rw [State.groupExited, State.modBlock, State.thread_modCore, State.thread_modThread_self]; rfl

theorem State.thread_groupExited_ne (s : State) {k : Nat} (h : k ≠ s.cur) : s.groupExited.thread k = s.thread k := by
  rw [State.groupExited, State.modBlock, State.thread_modCore, State.thread_modThread_ne _ _ h]

/-- No exit changes a store queue. -/
theorem State.sq_groupExited (s : State) (k : Nat) : (s.groupExited.thread k).sq = (s.thread k).sq := by
  by_cases h : k = s.cur
  · subst h; rw [State.thread_groupExited_self]; rfl
  · rw [s.thread_groupExited_ne h]

theorem State.core_groupExited (s : State) : s.groupExited.core (coreOfKey s.cur) =
    { s.core (coreOfKey s.cur) with
      block := (s.blockOf s.cur).map (fun b => { b with gone := insNat b.gone (ctxOfKey s.cur) }) } := by
  simp [State.groupExited, State.modBlock, State.blockOf]

theorem State.block_groupExited {s : State} {b : Block} (h : s.blockOf s.cur = some b) :
    (s.groupExited.core (coreOfKey s.cur)).block = some { b with gone := insNat b.gone (ctxOfKey s.cur) } := by
  rw [State.core_groupExited, h]; rfl

/-- An exit whose waits are over, outside a handler: the group has exited, and its block ends where it was the last. -/
theorem execExit_group {s : State} (free : s.Free anyone []) (notSys : isSysKey s.cur = false)
    (notSprout : isSproutKey s.cur = false) (clear : DeliveryClear s) (stores : s.th.sq = []) (ops : s.opsDone s.cur = true)
    (runs : s.th.status = .running) : execExit s = .next (s.groupExited.reapBlock (coreOfKey s.cur)) := by
  unfold execExit
  rw [notSys, if_neg Bool.false_ne_true, State.issue_free free, State.delivery_clear clear]
  simp [notSprout, Thread.drainedAll, stores, ops, runs, State.groupExited]

/-- While a sibling has not gone, an exit leaves the block on its core. -/
theorem State.blockDone_groupExited_of_sibling {s : State} {b : Block} {g : Nat} (h : s.blockOf s.cur = some b)
    (hg : g < b.launch.groups) (ne : g ≠ ctxOfKey s.cur) (stays : b.gone.contains g = false) :
    s.groupExited.blockDone (coreOfKey s.cur) = false := by
  rw [Bool.eq_false_iff]
  intro done
  obtain ⟨gone, _⟩ := (State.blockDone_iff (State.block_groupExited h)).mp done
  have mem := (gone g hg).1
  rw [List.contains_iff_mem, mem_insNat] at mem
  rcases mem with e | m
  · exact ne e
  · simp [m] at stays

/-- The exit of the last group makes its block done, where the stores of the groups and the core's units are empty. -/
theorem State.blockDone_groupExited_of_last {s : State} {b : Block} (h : s.blockOf s.cur = some b) (stores : s.th.sq = [])
    (last : ∀ g, g < b.launch.groups → g ≠ ctxOfKey s.cur →
      b.gone.contains g = true ∧ (s.thread (groupKey (coreOfKey s.cur) g)).sq = [])
    (eops : (s.core (coreOfKey s.cur)).eops = []) (mops : (s.core (coreOfKey s.cur)).mops = [])
    (hreads : (s.core (coreOfKey s.cur)).hreads = []) : s.groupExited.blockDone (coreOfKey s.cur) = true := by
  rw [State.blockDone_iff (State.block_groupExited h), State.core_groupExited]
  refine ⟨fun g hg => ?_, eops, mops, hreads⟩
  rw [State.sq_groupExited, List.contains_iff_mem, mem_insNat]
  by_cases e : g = ctxOfKey s.cur
  · subst e
    rw [groupKey_of_key]
    exact ⟨.inl rfl, stores⟩
  · obtain ⟨gone, empty⟩ := last g hg e
    exact ⟨.inr (by simpa using gone), empty⟩

/-- On a system core in user mode `exit` raises cause 0x21 (R310). -/
theorem execExit_user {s : State} (sys : isSysKey s.cur = true) (issues : s.th.canIssue [] = true) (hold : s.th.hold = false)
    (user : s.th.sys.smode.getLsbD 0 = false) : execExit s = .next (s.syncInterrupt s.cur (s.th.pc + 4) 0x21 0) := by
  have free : s.Free anyone [] := ⟨⟨by simp [State.admits, sys, anyone], issues⟩, hold⟩
  have notPrivileged : s.th.privileged = false := by
    rw [BitVec.getLsbD, Nat.testBit_zero] at user
    simpa [Thread.privileged] using user
  unfold execExit
  rw [State.issue_free free, sys, notPrivileged]
  rfl

/-! ### phase (R282) -/

/-- A `phase` whose waits are over and that no deterministic launch of a lower phase holds back goes on. -/
theorem execPhase_passes {s : State} {a : SReg} (free : s.Free notSprout [a]) (clear : FenceClear s false .p)
    (own : isSysKey s.cur = false → (s.launchOf s.cur).det = true →
      (s.th.sreg a).toNat % 2 ^ 32 ≤ (s.launchOf s.cur).phase)
    (others : ∀ l ∈ (s.plot s.th.plot).detLaunches, (s.th.sreg a).toNat % 2 ^ 32 ≤ l.phase) :
    execPhase a s = .next (s.modThread s.cur (fun t => { t with wait := .none })).advance := by
  have inRange : (!isSysKey s.cur && (s.launchOf s.cur).det &&
      decide ((s.launchOf s.cur).phase < (s.th.sreg a).toNat % 2 ^ 32)) = false := by
    rw [Bool.eq_false_iff]
    simp only [ne_eq, Bool.and_eq_true, Bool.not_eq_true', decide_eq_true_eq]
    rintro ⟨⟨group, det⟩, above⟩
    exact absurd (own group det) (Nat.not_le.mpr above)
  have noneLower : (s.plot (s.plotOf s.cur)).detLaunches.any
      (fun l => decide (l.phase < (s.th.sreg a).toNat % 2 ^ 32)) = false := by
    rw [List.any_eq_false]
    intro l hl
    simpa using others l hl
  unfold execPhase
  rw [State.issue_free free]
  simp only [inRange, State.delivery_clear clear.delivery, noneLower, State.fenceWaits_clear clear, Bool.false_eq_true, if_false]

/-! ### exit, yield and phase -/

/-- Settles O29, from what `exit`, `yield` and `phase` do once their waits are over. -/
theorem exitYieldPhase : Obligations.ExitYieldPhase := by
  refine ⟨?exit, ?user, ?yield, ?phase⟩
  case exit =>
    intro s b free notSys notSprout clear stores ops runs block
    have run : exec .exit s = .next (s.groupExited.reapBlock (coreOfKey s.cur)) :=
      execExit_group free notSys notSprout clear stores ops runs
    constructor
    · rintro ⟨g, hg, ne, stays⟩
      rw [State.reapBlock_of_running (State.blockDone_groupExited_of_sibling block hg ne stays)] at run
      exact ⟨_, run, s.thread_groupExited_self,
        ⟨_, State.block_groupExited block, List.contains_iff_mem.mpr (mem_insNat.mpr (.inl rfl))⟩,
        fun _ hk => s.thread_groupExited_ne hk, fun _ => rfl⟩
    · intro last eops mops hreads
      have done := State.blockDone_groupExited_of_last block stores last eops mops hreads
      exact ⟨_, run, State.block_reapBlock_of_done done, fun a => by simp⟩
  case user =>
    intro s sys issues hold user
    have smode : s.th.sys.smode ≠ 1 := fun e => by simp [e] at user
    exact ⟨_, execExit_user sys issues hold user, State.syncInterrupt_interrupted smode _ _ _⟩
  case yield =>
    intro s free
    exact ⟨_, congrArg Host.Outcome.next (State.issue_free free _), s.agentOnly_modThread _⟩
  case phase =>
    intro s a free clear n own others
    exact ⟨_, execPhase_passes free clear own others, s.advance_passed⟩

/-! ### The state after reset (R27) -/

theorem fget?_eq_none {α : Type} {m : FMap α} {k : Nat} (h : ∀ p ∈ m, p.1 ≠ k) : fget? m k = none := by
  induction m with
  | nil => rfl
  | cons p m ih =>
    rw [fget?, if_neg (h p List.mem_cons_self)]
    exact ih (fun q hq => h q (List.mem_cons_of_mem _ hq))

/-- After reset only the manager cores have a record: the contexts of compute cores read as the defaults. -/
theorem State.thread_reset {key : Nat} (h : isSysKey key = false) : State.reset.thread key = {} := by
  have low : key < 40960 := by simpa [isSysKey] using h
  have absent : fget? State.reset.threads key = none := by
    refine fget?_eq_none fun p hp => ?_
    obtain ⟨d, _, rfl⟩ := List.mem_map.mp hp
    show 41008 + d ≠ key
    omega
  simp [State.thread, fgetD, absent]

/-- After reset every lane of every row reads 0 (log entry 2). -/
theorem State.row_reset (key k i : Nat) : (State.reset.row key k).at i = 0 := by
  unfold State.row
  split
  case isTrue sprout =>
    have compute : isSysKey key = false := by
      rw [isSproutKey, Bool.and_eq_true, Bool.not_eq_true'] at sprout
      exact sprout.1
    rw [State.thread_reset compute]
    rfl
  case isFalse => split <;> rfl

/-- After reset every gate stamps only (Table 17.1). -/
theorem State.gate_reset_mode : ∀ g, g < 21 → (State.reset.gate g).mode = 0 := by decide

/-- Settles O60: every map of the state after reset but the gates' and the manager cores' is empty, so what is read through
one is its default, the tables' value. -/
theorem resetState : Obligations.ResetState := by
  refine ⟨rfl, rfl, rfl, rfl, fun _ => rfl, fun _ => ⟨rfl, rfl, rfl, rfl⟩, State.gate_reset_mode, fun _ => rfl, fun _ => rfl,
    fun _ => rfl, State.row_reset, rfl, rfl, rfl, rfl, rfl, rfl, rfl, rfl, rfl, rfl, rfl, rfl, rfl, rfl, rfl, rfl, rfl, rfl, rfl,
    rfl, rfl, rfl, rfl, rfl, rfl, fun _ => ⟨rfl, rfl, rfl, rfl, rfl⟩⟩

end Sys2Proof.Machine

/-! ### Words and their bytes (R29) -/

namespace Sys2Proof

theorem length_leBytes (n w : Nat) : (leBytes n w).length = n := by
  induction n generalizing w with
  | zero => rfl
  | succ n ih => rw [leBytes, List.length_cons, ih]

theorem leNat_leBytes (n w : Nat) : leNat (leBytes n w) = w % 256 ^ n := by
  induction n generalizing w with
  | zero => simp [leBytes, leNat, Nat.mod_one]
  | succ n ih => rw [leBytes, leNat, ih, BitVec.toNat_ofNat, show 256 ^ (n + 1) = 256 * 256 ^ n from Nat.pow_succ', Nat.mod_mul]

theorem leNat_leBytes_of_lt {n w : Nat} (h : w < 256 ^ n) : leNat (leBytes n w) = w := by
  rw [leNat_leBytes, Nat.mod_eq_of_lt h]

theorem leBytes_leNat (bs : List Byte) : leBytes bs.length (leNat bs) = bs := by
  induction bs with
  | nil => rfl
  | cons b bs ih =>
    have low : BitVec.ofNat 8 (b.toNat + 256 * leNat bs) = b := by
      apply BitVec.eq_of_toNat_eq
      rw [BitVec.toNat_ofNat]
      omega
    have high : (b.toNat + 256 * leNat bs) / 256 = leNat bs := by omega
    rw [List.length_cons, leNat, leBytes, low, high, ih]

theorem leNat_lt (bs : List Byte) : leNat bs < 256 ^ bs.length := by
  induction bs with
  | nil => simp [leNat]
  | cons b bs ih => rw [leNat, List.length_cons, Nat.pow_succ']; omega

/-! ### Words and their fields (Tables 3.1 and 3.6) -/

theorem ofNat_mul_add_val {n : Nat} [NeZero n] (a : Nat) (x : Fin n) : Fin.ofNat n (a * n + x.val) = x := by
  rw [Fin.ext_iff, Fin.val_ofNat, Nat.mul_add_mod_self_right, Nat.mod_eq_of_lt x.isLt]

theorem mul_add_val_div {n : Nat} (a : Nat) (x : Fin n) : (a * n + x.val) / n = a := by
  rw [Nat.mul_comm, Nat.mul_add_div x.pos, Nat.div_eq_of_lt x.isLt, Nat.add_zero]

/-- A number held in a field at least as wide is read back. -/
theorem ofNat_val_ofNat {m n : Nat} [NeZero m] [NeZero n] (h : n ≤ m) (x : Fin n) : Fin.ofNat n (Fin.ofNat m x.val).val = x := by
  rw [Fin.val_ofNat, Nat.mod_eq_of_lt (Nat.lt_of_lt_of_le x.isLt h), Fin.ofNat_val_eq_self]

theorem val_of_eq_ofNat {n k : Nat} [NeZero n] {x : Fin n} (e : x = Fin.ofNat n k) (h : k < n) : x.val = k := by
  rw [e, Fin.val_ofNat, Nat.mod_eq_of_lt h]

theorem ScalarRaw.unpack_pack (r : ScalarRaw) : ScalarRaw.unpack r.pack = r := by
  simp only [unpack, pack, ofNat_mul_add_val, mul_add_val_div, Fin.ofNat_val_eq_self]

theorem ScalarRaw.pack_lt (r : ScalarRaw) : r.pack < 256 ^ 4 := by
  unfold pack
  omega

theorem ScalarRaw.pack_unpack {w : Nat} (h : w < 256 ^ 4) : (ScalarRaw.unpack w).pack = w := by
  simp only [unpack, pack, Fin.val_ofNat]
  omega

theorem LaneRaw.unpack_pack (r : LaneRaw) : LaneRaw.unpack r.pack = r := by
  simp only [unpack, pack, ofNat_mul_add_val, mul_add_val_div, Fin.ofNat_val_eq_self]

theorem LaneRaw.pack_lt (r : LaneRaw) : r.pack < 256 ^ 12 := by
  simp only [pack]
  omega

theorem LaneRaw.pack_unpack {w : Nat} (h : w < 256 ^ 12) : (LaneRaw.unpack w).pack = w := by
  simp only [unpack, pack, Fin.val_ofNat]
  omega

/-! ### Operand fields of scalar words (Table 3.3) -/

theorem ScalarRaw.imm13_mk (op : Fin 128) (x y : Fin 64) (i : BitVec 13) :
    ScalarRaw.imm13 ⟨op, x, y, hi13 i, lo13 i⟩ = i := by
  apply BitVec.eq_of_toNat_eq
  simp only [imm13, hi13, lo13, BitVec.toNat_ofNat, Fin.val_ofNat]
  omega

theorem ScalarRaw.imm13_mk12 (op : Fin 128) (x y : Fin 64) (i : BitVec 12) :
    BitVec.ofNat 12 (ScalarRaw.imm13 ⟨op, x, y, hi12 i, lo12 i⟩).toNat = i := by
  apply BitVec.eq_of_toNat_eq
  simp only [imm13, hi12, lo12, BitVec.toNat_ofNat, Fin.val_ofNat]
  omega

theorem ScalarRaw.imm19_suRaw (op : Fin 128) (d : SReg) (i : BitVec 19) : (suRaw op d i).imm19 = i := by
  apply BitVec.eq_of_toNat_eq
  simp only [imm19, suRaw, BitVec.toNat_ofNat, Fin.val_ofNat]
  omega

/-- A shift amount is imm13[5:0]. -/
theorem ScalarRaw.imm13_mk_shift (op : Fin 128) (x y n : Fin 64) :
    Fin.ofNat 64 (ScalarRaw.imm13 ⟨op, x, y, 0, Fin.ofNat 128 n.val⟩).toNat = n := by
  simp only [Fin.ext_iff, imm13, BitVec.toNat_ofNat, Fin.val_ofNat, Fin.val_zero]
  omega

/-- Of two fields in imm13 (`bexti`, `sfromv`) the high one begins at bit 6, -/
theorem ScalarRaw.imm13_mk_high {n : Nat} [NeZero n] (op : Fin 128) (x y p : Fin 64) (w : Fin n) (h : n ≤ 128) :
    Fin.ofNat n
      ((ScalarRaw.imm13 ⟨op, x, y, Fin.ofNat 64 (w.val / 2), Fin.ofNat 128 (w.val % 2 * 64 + p.val)⟩).toNat / 64) = w := by
  have field :
      (ScalarRaw.imm13 ⟨op, x, y, Fin.ofNat 64 (w.val / 2), Fin.ofNat 128 (w.val % 2 * 64 + p.val)⟩).toNat / 64 = w.val := by
    simp only [imm13, BitVec.toNat_ofNat, Fin.val_ofNat]
    omega
  rw [field, Fin.ofNat_val_eq_self]

/-- and the low one is func[5:0]. -/
theorem ofNat_val_low (p : Fin 64) (w : Nat) : Fin.ofNat 64 (Fin.ofNat 128 (w % 2 * 64 + p.val)).val = p := by
  simp only [Fin.ext_iff, Fin.val_ofNat]
  omega

/-- The offset of a reference is imm13[12:3]. -/
theorem ScalarRaw.imm13_mk_ref (op : Fin 128) (x y : Fin 64) (o : BitVec 10) {k : Nat} (h : k < 8) :
    BitVec.ofNat 10
      ((ScalarRaw.imm13 ⟨op, x, y, Fin.ofNat 64 (o.toNat / 16), Fin.ofNat 128 (o.toNat % 16 * 8 + k)⟩).toNat / 8) = o := by
  apply BitVec.eq_of_toNat_eq
  simp only [imm13, BitVec.toNat_ofNat, Fin.val_ofNat]
  omega

theorem ScalarRaw.imm19_lhi (op : Fin 128) (d : SReg) (k : Fin 4) (v : BitVec 17) :
    let imm := (suRaw op d (BitVec.ofNat 19 (k.val * 131072 + v.toNat))).imm19
    Fin.ofNat 4 (imm.toNat / 131072) = k ∧ BitVec.ofNat 17 imm.toNat = v := by
  simp only [imm19_suRaw, Fin.ext_iff, Fin.val_ofNat, ← BitVec.toNat_inj, BitVec.toNat_ofNat]
  omega

theorem amoRaw_scope (k : Nat) (d a b : SReg) (o : AmoOrd) (sc : Scope) :
    Scope.ofCode (2 * ((amoRaw k d a b o sc).op.val - 0x2D) + (amoRaw k d a b o sc).fn.val % 2) = some sc := by
  have field : 2 * ((amoRaw k d a b o sc).op.val - 0x2D) + (amoRaw k d a b o sc).fn.val % 2 = sc.code := by
    have lt : sc.code < 6 := by cases sc <;> decide
    simp only [amoRaw, Fin.val_ofNat]
    omega
  rw [field]
  cases sc <;> rfl

theorem amoRaw_ord (k : Nat) (d a b : SReg) (o : AmoOrd) (sc : Scope) :
    AmoOrd.ofCode ((amoRaw k d a b o sc).fn.val / 2 % 4) = o := by
  have field : (amoRaw k d a b o sc).fn.val / 2 % 4 = o.code := by
    have lt : o.code < 4 := by cases o <;> decide
    simp only [amoRaw, Fin.val_ofNat]
    omega
  rw [field]
  cases o <;> rfl

theorem amoRaw_kind {k : Nat} (d a b : SReg) (o : AmoOrd) (sc : Scope) (h : k < 16) :
    (amoRaw k d a b o sc).fn.val / 8 = k := by
  have lt : o.code < 4 := by cases o <;> decide
  simp only [amoRaw, Fin.val_ofNat]
  omega

theorem Scope.ofCode_field (sc : Scope) : Scope.ofCode ((Fin.ofNat 128 (sc.code * 4)).val / 4) = some sc := by
  cases sc <;> rfl

/-! ### The instruction that a scalar word names (Table 3.2)

Where the form does not follow from op and func as literals, the row has a lemma of its own. -/

theorem scalarCand_amoRaw (k : Nat) (d a b : SReg) (o : AmoOrd) (sc : Scope) :
    scalarCand (amoRaw k d a b o sc) = amoCand (amoRaw k d a b o sc) := by
  cases sc <;> rfl

/-- The two references by func[2:0]. -/
theorem scalarCand_ref (x y z : Fin 64) (fn : Fin 128) :
    let off := BitVec.ofNat 10 ((ScalarRaw.imm13 ⟨0x2C, x, y, z, fn⟩).toNat / 8)
    (fn.val % 8 = 0 → scalarCand ⟨0x2C, x, y, z, fn⟩ = .ok (.ldref x y off)) ∧
      (fn.val % 8 = 1 → scalarCand ⟨0x2C, x, y, z, fn⟩ = .ok (.stref x y off)) := by
  intro off
  have form : ∀ k, fn.val % 8 = k → scalarCand ⟨0x2C, x, y, z, fn⟩ =
      match k with
      | 0 => .ok (.ldref x y off)
      | 1 => .ok (.stref x y off)
      | _ => .error .unallocatedFunc := by
    rintro k rfl
    rfl
  exact ⟨form 0, form 1⟩

theorem scalarCand_publish (x y : Fin 64) {fn : Fin 128} {sc : Scope} (scope : Scope.ofCode (fn.val / 4) = some sc) :
    scalarCand ⟨0x64, x, y, 0, fn⟩ = .ok (.publish x y sc) := by
  have form : ∀ o, Scope.ofCode (fn.val / 4) = o → scalarCand ⟨0x64, x, y, 0, fn⟩ =
      match o with
      | some sc => .ok (.publish x y sc)
      | none => .error .unallocatedFunc := by
    rintro o rfl
    rfl
  exact form _ scope

theorem scalarCand_mst (x y : Fin 64) {fn : Fin 128} (h : fn ≠ 0) :
    scalarCand ⟨0x4F, x, y, 0, fn⟩ = mstCand fn.val (Fin.ofNat 16 x.val) y := by
  obtain ⟨n, lt⟩ := fn
  cases n with
  | zero => exact absurd rfl h
  | succ n => rfl

theorem mstCand_mst (t : TileReg) (a : SReg) (f : MstFmt) :
    mstCand (Fin.ofNat 128 (64 + f.code)).val t a = .ok (.mst t a f) := by cases f <;> rfl

theorem mstCand_mstQE8m0 (t : TileReg) (a : SReg) (f : MstFmt) :
    mstCand (Fin.ofNat 128 (80 + f.code)).val t a = .ok (.mstQE8m0 t a f) := by cases f <;> rfl

theorem mstCand_mstQE4m3 (t : TileReg) (a : SReg) (f : MstFmt) :
    mstCand (Fin.ofNat 128 (96 + f.code)).val t a = .ok (.mstQE4m3 t a f) := by cases f <;> rfl

theorem scalarCand_tcopyInKey (t a : Fin 64) (k : Fin 16) :
    scalarCand ⟨0x50, t, a, 0, Fin.ofNat 128 (16 + k.val)⟩ = .ok (.tcopyInKey t a k) := by
  have keyed : ¬ (Fin.ofNat 128 (16 + k.val)).val < 16 := by rw [Fin.val_ofNat]; omega
  have key : Fin.ofNat 16 (Fin.ofNat 128 (16 + k.val)).val = k := by
    rw [Fin.ext_iff, Fin.val_ofNat, Fin.val_ofNat]
    omega
  refine (if_neg keyed).trans ?_
  rw [key]

theorem scalarCand_rsync (w : Fin 7) (h : Fin 5) :
    scalarCand ⟨0x63, 0, 0, 0, Fin.ofNat 128 (w.val * 8 + h.val)⟩ = .ok (.rsync w h) := by
  have field : (Fin.ofNat 128 (w.val * 8 + h.val)).val = w.val * 8 + h.val := by rw [Fin.val_ofNat]; omega
  have width : (w.val * 8 + h.val) / 8 = w.val := by omega
  have height : (w.val * 8 + h.val) % 8 = h.val := by omega
  have sides : (Fin.ofNat 128 (w.val * 8 + h.val)).val / 8 < 7 ∧ (Fin.ofNat 128 (w.val * 8 + h.val)).val % 8 < 5 := by
    rw [field, width, height]
    exact ⟨w.isLt, h.isLt⟩
  refine (if_pos sides).trans ?_
  rw [field, width, height, Fin.ofNat_val_eq_self, Fin.ofNat_val_eq_self]

/-- The fields of a scalar instruction name it: the rows grouped by what their operand fields hold. -/
theorem scalarCand_of_encodeScalarRaw {i : Instr} {r : ScalarRaw} (h : encodeScalarRaw i = some r) :
    scalarCand r = .ok i := by
  cases i <;> cases h
  case addi | andi | ori | xori | sltiS | sltiZ | ldI8 | ldZ8 | ldI16 | ldZ16 | ldI32 | ldZ32 | ld64 | st8 | st16 | st32
      | st64 | beq | bne | bltS | bgeS | bltZ | bgeZ | jalr | bany | ball | divb | hread =>
    change Except.ok _ = _
    rw [ScalarRaw.imm13_mk]
  case sget | sset | cnt =>
    change Except.ok _ = _
    rw [ScalarRaw.imm13_mk12]
  case delse | dloop | dnext | lrun | trap | sysc =>
    change Except.ok _ = _
    rw [ScalarRaw.imm19_suRaw]
  case pcadd d i => exact congrArg (fun i => Except.ok (Instr.pcadd d i)) (ScalarRaw.imm19_suRaw _ d i)
  case jal d i => exact congrArg (fun i => Except.ok (Instr.jal d i)) (ScalarRaw.imm19_suRaw _ d i)
  case lhi d k v =>
    obtain ⟨half, value⟩ := ScalarRaw.imm19_lhi 0x1A d k v
    exact congrArg₂ (fun k v => Except.ok (Instr.lhi d k v)) half value
  case shli | shriZ | shriS =>
    change Except.ok _ = _
    rw [ScalarRaw.imm13_mk_shift]
  case bexti | sfromv =>
    change Except.ok _ = _
    rw [ScalarRaw.imm13_mk_high _ _ _ _ _ (by decide), ofNat_val_low]
  case ldref d a o =>
    have form : (Fin.ofNat 128 (o.toNat % 16 * 8 + 0)).val % 8 = 0 := by rw [Fin.val_ofNat]; omega
    rw [(scalarCand_ref d a _ _).1 form, ScalarRaw.imm13_mk_ref _ _ _ _ (by decide)]
  case stref d a o =>
    have form : (Fin.ofNat 128 (o.toNat % 16 * 8 + 1)).val % 8 = 1 := by rw [Fin.val_ofNat]; omega
    rw [(scalarCand_ref d a _ _).2 form, ScalarRaw.imm13_mk_ref _ _ _ _ (by decide)]
  case amoAdd | amoAnd | amoOr | amoXor | amoMinS | amoMinZ | amoMaxS | amoMaxZ | amoSwap | amoCas =>
    rw [scalarCand_amoRaw, amoCand, amoRaw_scope, amoRaw_ord, amoRaw_kind _ _ _ _ _ (by decide)]
    rfl
  case tbind | mzero | mma | mmaq | mmaRn | mresolveI32 | mresolveTile | mresolveRow | mld | tileOpen | tileClose | trig =>
    change Except.ok _ = _
    rw [ofNat_val_ofNat (by decide)]
  case mst t a f => rw [scalarCand_mst _ _ (by cases f <;> decide), mstCand_mst, ofNat_val_ofNat (by decide)]
  case mstQE8m0 t a f => rw [scalarCand_mst _ _ (by cases f <;> decide), mstCand_mstQE8m0, ofNat_val_ofNat (by decide)]
  case mstQE4m3 t a f => rw [scalarCand_mst _ _ (by cases f <;> decide), mstCand_mstQE4m3, ofNat_val_ofNat (by decide)]
  case fenceAcq sc | fenceRel sc | fenceAr sc | tfence sc => cases sc <;> rfl
  case publish t a sc => exact scalarCand_publish t a sc.ofCode_field
  case tcopyInKey t a k => exact scalarCand_tcopyInKey t a k
  case rsync w h => exact scalarCand_rsync w h
  all_goals rfl

/-! ### Operand fields of lane words (Tables 3.6 to 3.11) -/

theorem IType.code_lt (t : IType) : t.code < 7 := by cases t <;> decide
theorem FType.code_lt (t : FType) : t.code < 4 := by cases t <;> decide
theorem SType.code_lt (t : SType) : t.code < 3 := by cases t <;> decide
theorem CvtType.code_lt (t : CvtType) : t.code < 11 := by cases t <;> decide
theorem QType.code_lt (t : QType) : t.code < 9 := by cases t <;> decide

@[simp] theorem IType.ofCode_code (t : IType) : IType.ofCode t.code = some t := by cases t <;> rfl
@[simp] theorem FType.ofCode_code (t : FType) : FType.ofCode t.code = some t := by cases t <;> rfl
@[simp] theorem SType.ofCode_code (t : SType) : SType.ofCode t.code = some t := by cases t <;> rfl
@[simp] theorem CvtType.ofCode_code (t : CvtType) : CvtType.ofCode t.code = some t := by cases t <;> rfl
@[simp] theorem QType.ofCode_code (t : QType) : QType.ofCode t.code = some t := by cases t <;> rfl

@[simp] theorem RndOv.ofCode_field (x : RndOv) : RndOv.ofCode (Fin.ofNat 8 x.code).val = some x := by cases x <;> rfl
@[simp] theorem Hint.ofCode_field (x : Hint) : Hint.ofCode (Fin.ofNat 8 x.code).val = some x := by cases x <;> rfl
@[simp] theorem Cmp.ofCode_field (x : Cmp) : Cmp.ofCode (Fin.ofNat 16 x.code).val = some x := by cases x <;> rfl
@[simp] theorem FCmp.ofCode_field (x : FCmp) : FCmp.ofCode (Fin.ofNat 16 x.code).val = some x := by cases x <;> rfl
@[simp] theorem RedOp.ofCode_field (x : RedOp) : RedOp.ofCode (Fin.ofNat 16 x.code).val = some x := by cases x <;> rfl
@[simp] theorem AmoOp.ofCode_field (x : AmoOp) : AmoOp.ofCode (Fin.ofNat 16 x.code).val = some x := by cases x <;> rfl
@[simp] theorem CvtType.ofCode_field (x : CvtType) : CvtType.ofCode (Fin.ofNat 16 x.code).val = some x := by cases x <;> rfl
@[simp] theorem BlockLen.ofCode_field (x : BlockLen) (y : ScaleFmt) :
    BlockLen.ofCode ((Fin.ofNat 16 (x.code * 4 + y.code)).val / 4) = some x := by cases x <;> cases y <;> rfl
@[simp] theorem ScaleFmt.ofCode_field (x : BlockLen) (y : ScaleFmt) :
    ScaleFmt.ofCode ((Fin.ofNat 16 (x.code * 4 + y.code)).val % 4) = some y := by cases x <;> cases y <;> rfl

@[simp] theorem ofNat_predField (p : PReg) : Fin.ofNat 64 (predField p).val = p := ofNat_val_ofNat (by decide) p

theorem boolFin_eq_one (x : Bool) : (boolFin x == 1) = x := by cases x <;> rfl

/-- The guards, stall count and yield bit are read back from a word with those of `laneBase`, whatever its other fields hold. -/
theorem LaneRaw.ctl_mk (op d a b x e hint kb kc fs ro md imm) (c : LaneCtl) :
    (LaneRaw.mk op d a b x e c.g1.p (boolFin c.g1.neg) c.g2.p (boolFin c.g2.neg) (boolFin c.orGuards) hint c.stall
      (boolFin c.yld) kb kc fs ro md imm).ctl = c := by
  simp only [ctl, boolFin_eq_one]

theorem LaneRaw.imm16_eq {q : LaneRaw} {x : BitVec 16} (h : q.imm = Fin.ofNat 65536 x.toNat) : q.imm16 = x := by
  apply BitVec.eq_of_toNat_eq
  rw [imm16, h, BitVec.toNat_ofNat, Fin.val_ofNat]
  omega

/-- A second source is set in three fields, and read back from them. -/
theorem LaneRaw.withB_eq (r : LaneRaw) (b : BSrc) :
    ∃ x kb imm, r.withB b = { r with b := x, kb := kb, imm := imm } ∧
      ∀ q : LaneRaw, q.b = x → q.kb = kb → q.imm = imm → q.bsrc = .ok b := by
  cases b with
  | vec v => exact ⟨v, 0, r.imm, rfl, fun q hb hk _ => by simp [bsrc, hb, hk]⟩
  | sca s =>
    refine ⟨Fin.ofNat 128 s.val, 1, r.imm, rfl, fun q hb hk _ => ?_⟩
    simp only [bsrc, hk, hb, ofNat_val_ofNat (show 64 ≤ 128 by decide) s]
    rfl
  | imm x =>
    refine ⟨r.b, 2, Fin.ofNat 65536 x.toNat, rfl, fun q _ hk hi => ?_⟩
    simp only [bsrc, hk, imm16_eq hi]
    rfl

theorem LaneRaw.withC_eq (r : LaneRaw) (y : CSrc) :
    ∃ x kc, r.withC y = { r with c := x, kc := kc } ∧ ∀ q : LaneRaw, q.c = x → q.kc = kc → q.csrc = .ok y := by
  cases y with
  | vec v => exact ⟨v, 0, rfl, fun q hc hk => by simp [csrc, hc, hk]⟩
  | sca s =>
    refine ⟨Fin.ofNat 128 s.val, 1, rfl, fun q hc hk => ?_⟩
    simp only [csrc, hk, hc, ofNat_val_ofNat (show 64 ≤ 128 by decide) s]
    rfl

theorem LaneRaw.withP_eq (r : LaneRaw) (b : PSrc) :
    ∃ x kb imm, r.withP b = { r with b := x, kb := kb, imm := imm } ∧
      ∀ q : LaneRaw, q.b = x → q.kb = kb → q.imm = imm → q.psrc = .ok b := by
  cases b with
  | pred p =>
    refine ⟨predField p, 0, r.imm, rfl, fun q hb hk _ => ?_⟩
    simp only [psrc, hk, hb, ofNat_predField]
    rfl
  | imm x =>
    refine ⟨r.b, 2, if x then 1 else 0, rfl, fun q _ hk hi => ?_⟩
    simp only [psrc, hk, hi]
    cases x <;> rfl

theorem addrMode_le (m : LaneAddr) : addrMode m ≤ 4 := by
  unfold addrMode
  split <;> omega

theorem val_addrMode {n : Nat} [NeZero n] (h : 4 < n) (m : LaneAddr) : (Fin.ofNat n (addrMode m)).val = addrMode m :=
  val_of_eq_ofNat rfl (Nat.lt_of_le_of_lt (addrMode_le m) h)

/-- The addressing mode gives the index back (Table 3.11). -/
theorem addrMode_index (m : LaneAddr) (x : VReg) (h : ∀ i, m.index = some i → x = i.v) :
    (if addrMode m = 0 then none else some (⟨x, Fin.ofNat 4 (addrMode m - 1)⟩ : LaneIndex)) = m.index := by
  unfold addrMode
  cases e : m.index with
  | none => rfl
  | some i => rw [h i e, if_neg (Nat.succ_ne_zero _), Nat.add_sub_cancel, Fin.ofNat_val_eq_self]

theorem LaneRaw.withAddr_eq (r : LaneRaw) (m : LaneAddr) :
    ∃ x y kc imm, r.withAddr m = { r with b := x, c := y, kc := kc, imm := imm } ∧
      ∀ q : LaneRaw, q.b = x → q.c = y → q.kc = kc → q.imm = imm → q.addr (addrMode m) = .ok m := by
  refine ⟨_, _, _, _, rfl, fun q hb hc hk hi => ?_⟩
  have index := addrMode_index m q.b (fun i e => by rw [hb, e])
  obtain ⟨ix, addend, off⟩ := m
  unfold LaneRaw.addr
  rw [if_pos (addrMode_le _), index, imm16_eq hi, hk, hc]
  cases addend with
  | none => rfl
  | some u => exact congrArg (fun u => Except.ok (⟨ix, some u, off⟩ : LaneAddr)) (ofNat_val_ofNat (by decide) u)

/-! ### The row of Table 3.9 that an op names -/

theorem laneCand_int {r : LaneRaw} {n : Nat} (hn : n < 24) (t : IType) (op : r.op = Fin.ofNat 1024 (8 + 8 * n + t.code)) :
    laneCand r = laneIntCand r n t.code := by
  have lt := t.code_lt
  have val := val_of_eq_ofNat op (by omega)
  have row : (r.op.val - 8) / 8 = n := by omega
  have type : r.op.val % 8 = t.code := by omega
  simp only [laneCand]
  repeat rw [if_neg (by omega)]
  rw [if_pos (by omega), row, type]

theorem laneCand_pred {r : LaneRaw} {n : Nat} (hn : n < 6) (op : r.op = Fin.ofNat 1024 (0x100 + n)) :
    laneCand r = lanePredCand r n := by
  have val := val_of_eq_ofNat op (by omega)
  have row : r.op.val - 0x100 = n := by omega
  simp only [laneCand]
  repeat rw [if_neg (by omega)]
  rw [if_pos (by omega), row]

theorem laneCand_cross {r : LaneRaw} {n : Nat} (hn : n < 6) (t : IType)
    (op : r.op = Fin.ofNat 1024 (0x108 + 8 * n + t.code)) : laneCand r = laneCrossCand r n t.code := by
  have lt := t.code_lt
  have val := val_of_eq_ofNat op (by omega)
  have row : (r.op.val - 0x108) / 8 = n := by omega
  have type : r.op.val % 8 = t.code := by omega
  simp only [laneCand]
  repeat rw [if_neg (by omega)]
  rw [if_pos (by omega), row, type]

theorem laneCand_float {r : LaneRaw} {n : Nat} (hn : n < 10) (t : FType)
    (op : r.op = Fin.ofNat 1024 (0x180 + 16 * n + t.code)) : laneCand r = laneFloatCand r n t.code := by
  have lt := t.code_lt
  have val := val_of_eq_ofNat op (by omega)
  have row : (r.op.val - 0x180) / 16 = n := by omega
  have type : r.op.val % 16 = t.code := by omega
  simp only [laneCand]
  repeat rw [if_neg (by omega)]
  rw [if_pos (by omega), row, type]

theorem laneCand_cvt {r : LaneRaw} (t : CvtType) (op : r.op = Fin.ofNat 1024 (0x220 + t.code)) :
    laneCand r = laneCvtCand r t.code := by
  have lt := t.code_lt
  have val := val_of_eq_ofNat op (by omega)
  have type : r.op.val % 16 = t.code := by omega
  simp only [laneCand]
  repeat rw [if_neg (by omega)]
  rw [if_pos (by omega), type]

/-- The quantiser and its inverse. -/
theorem laneCand_quant {r : LaneRaw} (deq : Bool) (t : QType)
    (op : r.op = Fin.ofNat 1024 ((if deq then 0x240 else 0x230) + t.code)) : laneCand r = laneQuantCand r deq t.code := by
  have lt := t.code_lt
  have val := val_of_eq_ofNat op (by split <;> omega)
  cases deq <;>
  · simp only [Bool.false_eq_true, if_false, if_true] at val
    have type : r.op.val % 16 = t.code := by omega
    simp only [laneCand]
    repeat rw [if_neg (by omega)]
    rw [if_pos (by omega), type]

theorem laneCand_special {r : LaneRaw} {n : Nat} (hn : n < 8) (t : SType)
    (op : r.op = Fin.ofNat 1024 (0x280 + 8 * n + t.code)) : laneCand r = laneSpecialCand r n t.code := by
  have lt := t.code_lt
  have val := val_of_eq_ofNat op (by omega)
  have row : (r.op.val - 0x280) / 8 = n := by omega
  have type : r.op.val % 8 = t.code := by omega
  simp only [laneCand]
  repeat rw [if_neg (by omega)]
  rw [if_pos (by omega), row, type]

theorem laneCand_mem {r : LaneRaw} {n : Nat} (hn : n < 5) (t : IType)
    (op : r.op = Fin.ofNat 1024 (0x2C0 + 8 * n + t.code)) : laneCand r = laneMemCand r n t.code := by
  have lt := t.code_lt
  have val := val_of_eq_ofNat op (by omega)
  have row : (r.op.val - 0x2C0) / 8 = n := by omega
  have type : r.op.val % 8 = t.code := by omega
  simp only [laneCand]
  repeat rw [if_neg (by omega)]
  rw [if_pos (by omega), row, type]

/-! ### Shapes of operands that rows share

Each takes what the row of the op reads from the fields of any word, and gives the instruction that its own word names. -/

theorem laneCand_dab {k : Nat} {K : VReg → VReg → BSrc → LaneCtl → Instr}
    (row : ∀ r : LaneRaw, r.op = Fin.ofNat 1024 k → laneCand r = r.bsrc >>= fun b => .ok (K r.d r.a b r.ctl))
    (d a : VReg) (b : BSrc) (c : LaneCtl) : laneCand ((laneBase k c).withD d |>.withA a |>.withB b) = .ok (K d a b c) := by
  obtain ⟨_, _, _, e, src⟩ := LaneRaw.withB_eq ((laneBase k c).withD d |>.withA a) b
  rw [e]
  dsimp only [laneBase, LaneRaw.withD, LaneRaw.withA]
  rw [row _ rfl, src _ rfl rfl rfl, LaneRaw.ctl_mk]
  rfl

theorem laneCand_dabo {k : Nat} {K : RndOv → VReg → VReg → BSrc → LaneCtl → Instr}
    (row : ∀ r : LaneRaw, r.op = Fin.ofNat 1024 k →
      laneCand r = optErr .badOverride (RndOv.ofCode r.ro.val) >>= fun o => r.bsrc >>= fun b => .ok (K o r.d r.a b r.ctl))
    (o : RndOv) (d a : VReg) (b : BSrc) (c : LaneCtl) :
    laneCand ((laneBase k c).withD d |>.withA a |>.withB b |>.withRo o.code) = .ok (K o d a b c) := by
  obtain ⟨_, _, _, e, src⟩ := LaneRaw.withB_eq ((laneBase k c).withD d |>.withA a) b
  rw [e]
  dsimp only [laneBase, LaneRaw.withD, LaneRaw.withA, LaneRaw.withRo]
  rw [row _ rfl, src _ rfl rfl rfl, RndOv.ofCode_field, LaneRaw.ctl_mk]
  rfl

theorem laneCand_da {k : Nat} {K : VReg → VReg → LaneCtl → Instr}
    (row : ∀ r : LaneRaw, r.op = Fin.ofNat 1024 k → laneCand r = .ok (K r.d r.a r.ctl))
    (d a : VReg) (c : LaneCtl) : laneCand ((laneBase k c).withD d |>.withA a) = .ok (K d a c) := by
  dsimp only [laneBase, LaneRaw.withD, LaneRaw.withA]
  rw [row _ rfl, LaneRaw.ctl_mk]

theorem laneCand_dao {k : Nat} {K : RndOv → VReg → VReg → LaneCtl → Instr}
    (row : ∀ r : LaneRaw, r.op = Fin.ofNat 1024 k →
      laneCand r = optErr .badOverride (RndOv.ofCode r.ro.val) >>= fun o => .ok (K o r.d r.a r.ctl))
    (o : RndOv) (d a : VReg) (c : LaneCtl) :
    laneCand ((laneBase k c).withD d |>.withA a |>.withRo o.code) = .ok (K o d a c) := by
  dsimp only [laneBase, LaneRaw.withD, LaneRaw.withA, LaneRaw.withRo]
  rw [row _ rfl, RndOv.ofCode_field, LaneRaw.ctl_mk]
  rfl

theorem laneCand_logic {k : Nat} {K : PReg → PReg → PSrc → LaneCtl → Instr}
    (row : ∀ r : LaneRaw, r.op = Fin.ofNat 1024 k →
      laneCand r = r.psrc >>= fun b => .ok (K (Fin.ofNat 64 r.d.val) (Fin.ofNat 64 r.a.val) b r.ctl))
    (d a : PReg) (b : PSrc) (c : LaneCtl) :
    laneCand ((laneBase k c).withD (predField d) |>.withA (predField a) |>.withP b) = .ok (K d a b c) := by
  obtain ⟨_, _, _, e, src⟩ := LaneRaw.withP_eq ((laneBase k c).withD (predField d) |>.withA (predField a)) b
  rw [e]
  dsimp only [laneBase, LaneRaw.withD, LaneRaw.withA]
  rw [row _ rfl, src _ rfl rfl rfl, ofNat_predField, ofNat_predField, LaneRaw.ctl_mk]
  rfl

theorem laneCand_red {k : Nat} {K : RedOp → VReg → VReg → LaneCtl → Instr}
    (row : ∀ r : LaneRaw, r.op = Fin.ofNat 1024 k →
      laneCand r = optErr .badModifier (RedOp.ofCode r.md.val) >>= fun op => .ok (K op r.d r.a r.ctl))
    (op : RedOp) (d a : VReg) (c : LaneCtl) :
    laneCand ((laneBase k c).withD d |>.withA a |>.withMod op.code) = .ok (K op d a c) := by
  dsimp only [laneBase, LaneRaw.withD, LaneRaw.withA, LaneRaw.withMod]
  rw [row _ rfl, RedOp.ofCode_field, LaneRaw.ctl_mk]
  rfl

/-! ### Rows with a shape of their own -/

theorem laneCand_vmad (t : IType) (d a : VReg) (b : BSrc) (x : CSrc) (c : LaneCtl) :
    laneCand ((laneBase (8 + 8 * 5 + t.code) c).withD d |>.withA a |>.withB b |>.withC x) = .ok (.vmad t d a b x c) := by
  obtain ⟨_, _, _, e, src⟩ := LaneRaw.withB_eq ((laneBase (8 + 8 * 5 + t.code) c).withD d |>.withA a) b
  rw [e]
  obtain ⟨_, _, e, src'⟩ := LaneRaw.withC_eq _ x
  rw [e]
  dsimp only [laneBase, LaneRaw.withD, LaneRaw.withA]
  rw [laneCand_int (n := 5) (by decide) t rfl, laneIntCand, IType.ofCode_code, src _ rfl rfl rfl, src' _ rfl rfl,
    LaneRaw.ctl_mk]
  rfl

theorem laneCand_vsel (t : IType) (d a : VReg) (b : BSrc) (p : PReg) (c : LaneCtl) :
    laneCand ((laneBase (8 + 8 * 18 + t.code) c).withD d |>.withA a |>.withB b |>.withE (predField p)) =
      .ok (.vsel t d a b p c) := by
  obtain ⟨_, _, _, e, src⟩ := LaneRaw.withB_eq ((laneBase (8 + 8 * 18 + t.code) c).withD d |>.withA a) b
  rw [e]
  dsimp only [laneBase, LaneRaw.withD, LaneRaw.withA, LaneRaw.withE]
  rw [laneCand_int (n := 18) (by decide) t rfl, laneIntCand, IType.ofCode_code, src _ rfl rfl rfl, ofNat_predField,
    LaneRaw.ctl_mk]
  rfl

theorem laneCand_vmov (t : IType) (d : VReg) (b : BSrc) (c : LaneCtl) :
    laneCand ((laneBase (8 + 8 * 19 + t.code) c).withD d |>.withB b) = .ok (.vmov t d b c) := by
  obtain ⟨_, _, _, e, src⟩ := LaneRaw.withB_eq ((laneBase (8 + 8 * 19 + t.code) c).withD d) b
  rw [e]
  dsimp only [laneBase, LaneRaw.withD]
  rw [laneCand_int (n := 19) (by decide) t rfl, laneIntCand, IType.ofCode_code, src _ rfl rfl rfl, LaneRaw.ctl_mk]
  rfl

theorem laneCand_vcmp (t : IType) (cc : Cmp) (d : PReg) (a : VReg) (b : BSrc) (c : LaneCtl) :
    laneCand ((laneBase (8 + 8 * 23 + t.code) c).withD (predField d) |>.withA a |>.withB b |>.withMod cc.code) =
      .ok (.vcmp t cc d a b c) := by
  obtain ⟨_, _, _, e, src⟩ := LaneRaw.withB_eq ((laneBase (8 + 8 * 23 + t.code) c).withD (predField d) |>.withA a) b
  rw [e]
  dsimp only [laneBase, LaneRaw.withD, LaneRaw.withA, LaneRaw.withMod]
  rw [laneCand_int (n := 23) (by decide) t rfl, laneIntCand, IType.ofCode_code, src _ rfl rfl rfl, Cmp.ofCode_field,
    ofNat_predField, LaneRaw.ctl_mk]
  rfl

theorem laneCand_pset (d : PReg) (b : BSrc) (c : LaneCtl) :
    laneCand ((laneBase 0x104 c).withD (predField d) |>.withB b) = .ok (.pset d b c) := by
  obtain ⟨_, _, _, e, src⟩ := LaneRaw.withB_eq ((laneBase 0x104 c).withD (predField d)) b
  rw [e]
  dsimp only [laneBase, LaneRaw.withD]
  rw [laneCand_pred (n := 4) (by decide) rfl, lanePredCand, src _ rfl rfl rfl, ofNat_predField, LaneRaw.ctl_mk]
  rfl

theorem laneCand_pget (d : VReg) (a : PReg) (c : LaneCtl) :
    laneCand ((laneBase 0x105 c).withD d |>.withA (predField a)) = .ok (.pget d a c) := by
  dsimp only [laneBase, LaneRaw.withD, LaneRaw.withA]
  rw [laneCand_pred (n := 5) (by decide) rfl, lanePredCand, ofNat_predField, LaneRaw.ctl_mk]

theorem laneCand_vperm (t : IType) (d a b : VReg) (c : LaneCtl) :
    laneCand ((laneBase (0x108 + 8 * 2 + t.code) c).withD d |>.withA a |>.withB (.vec b)) = .ok (.vperm t d a b c) := by
  dsimp only [laneBase, LaneRaw.withD, LaneRaw.withA, LaneRaw.withB]
  rw [laneCand_cross (n := 2) (by decide) t rfl, laneCrossCand, IType.ofCode_code, LaneRaw.ctl_mk]
  rfl

theorem laneCand_vfma (t : FType) (o : RndOv) (d a : VReg) (b : BSrc) (x : CSrc) (c : LaneCtl) :
    laneCand ((laneBase (0x180 + 16 * 3 + t.code) c).withD d |>.withA a |>.withB b |>.withC x |>.withRo o.code) =
      .ok (.vfma t o d a b x c) := by
  obtain ⟨_, _, _, e, src⟩ := LaneRaw.withB_eq ((laneBase (0x180 + 16 * 3 + t.code) c).withD d |>.withA a) b
  rw [e]
  obtain ⟨_, _, e, src'⟩ := LaneRaw.withC_eq _ x
  rw [e]
  dsimp only [laneBase, LaneRaw.withD, LaneRaw.withA, LaneRaw.withRo]
  rw [laneCand_float (n := 3) (by decide) t rfl, laneFloatCand, FType.ofCode_code, RndOv.ofCode_field, src _ rfl rfl rfl,
    src' _ rfl rfl, LaneRaw.ctl_mk]
  rfl

theorem laneCand_vfcmp (t : FType) (cc : FCmp) (o : RndOv) (d : PReg) (a : VReg) (b : BSrc) (c : LaneCtl) :
    laneCand ((laneBase (0x180 + 16 * 7 + t.code) c).withD (predField d) |>.withA a |>.withB b |>.withMod cc.code
      |>.withRo o.code) = .ok (.vfcmp t cc o d a b c) := by
  obtain ⟨_, _, _, e, src⟩ := LaneRaw.withB_eq ((laneBase (0x180 + 16 * 7 + t.code) c).withD (predField d) |>.withA a) b
  rw [e]
  dsimp only [laneBase, LaneRaw.withD, LaneRaw.withA, LaneRaw.withMod, LaneRaw.withRo]
  rw [laneCand_float (n := 7) (by decide) t rfl, laneFloatCand, FType.ofCode_code, RndOv.ofCode_field, src _ rfl rfl rfl,
    FCmp.ofCode_field, ofNat_predField, LaneRaw.ctl_mk]
  rfl

theorem laneCand_vfcvt (td ts : CvtType) (o : RndOv) (d a : VReg) (b : BSrc) (c : LaneCtl) :
    laneCand ((laneBase (0x220 + td.code) c).withD d |>.withA a |>.withB b |>.withMod ts.code |>.withRo o.code) =
      .ok (.vfcvt td ts o d a b c) := by
  obtain ⟨_, _, _, e, src⟩ := LaneRaw.withB_eq ((laneBase (0x220 + td.code) c).withD d |>.withA a) b
  rw [e]
  dsimp only [laneBase, LaneRaw.withD, LaneRaw.withA, LaneRaw.withMod, LaneRaw.withRo]
  rw [laneCand_cvt td rfl, laneCvtCand, CvtType.ofCode_code, RndOv.ofCode_field, CvtType.ofCode_field, src _ rfl rfl rfl,
    LaneRaw.ctl_mk]
  rfl

theorem laneCand_vquant (t : QType) (l : BlockLen) (sf : ScaleFmt) (o : RndOv) (d a : VReg) (c : LaneCtl) :
    laneCand ((laneBase (0x230 + t.code) c).withD d |>.withA a |>.withMod (l.code * 4 + sf.code) |>.withRo o.code) =
      .ok (.vquant t l sf o d a c) := by
  dsimp only [laneBase, LaneRaw.withD, LaneRaw.withA, LaneRaw.withMod, LaneRaw.withRo]
  rw [laneCand_quant false t rfl, laneQuantCand, QType.ofCode_code, RndOv.ofCode_field, BlockLen.ofCode_field,
    ScaleFmt.ofCode_field, LaneRaw.ctl_mk]
  rfl

theorem laneCand_vdequant (t : QType) (l : BlockLen) (sf : ScaleFmt) (o : RndOv) (d a : VReg) (b : BSrc) (c : LaneCtl) :
    laneCand ((laneBase (0x240 + t.code) c).withD d |>.withA a |>.withB b |>.withMod (l.code * 4 + sf.code)
      |>.withRo o.code) = .ok (.vdequant t l sf o d a b c) := by
  obtain ⟨_, _, _, e, src⟩ := LaneRaw.withB_eq ((laneBase (0x240 + t.code) c).withD d |>.withA a) b
  rw [e]
  dsimp only [laneBase, LaneRaw.withD, LaneRaw.withA, LaneRaw.withMod, LaneRaw.withRo]
  rw [laneCand_quant true t rfl, laneQuantCand, QType.ofCode_code, RndOv.ofCode_field, BlockLen.ofCode_field,
    ScaleFmt.ofCode_field, src _ rfl rfl rfl, LaneRaw.ctl_mk]
  rfl

theorem laneCand_vld (t : IType) (d : VReg) (bt : BtReg) (m : LaneAddr) (h : Hint) (fb : Bool) (c : LaneCtl) :
    laneCand ((laneBase (0x2C0 + t.code) c).withD d |>.withBt bt |>.withAddr m |>.withMod (addrMode m) |>.withHint h fb) =
      .ok (.vld t d bt m h fb c) := by
  obtain ⟨_, _, _, _, e, addr⟩ := LaneRaw.withAddr_eq ((laneBase (0x2C0 + t.code) c).withD d |>.withBt bt) m
  rw [e]
  dsimp only [laneBase, LaneRaw.withD, LaneRaw.withBt, LaneRaw.withMod, LaneRaw.withHint]
  rw [laneCand_mem (n := 0) (by decide) t rfl, laneMemCand, IType.ofCode_code, LaneRaw.hintOf, Hint.ofCode_field,
    val_addrMode (by decide), addr _ rfl rfl rfl rfl, LaneRaw.fsb, boolFin_eq_one, ofNat_val_ofNat (by decide), LaneRaw.ctl_mk]
  rfl

theorem laneCand_vst (t : IType) (bt : BtReg) (m : LaneAddr) (e : VReg) (h : Hint) (fb : Bool) (c : LaneCtl) :
    laneCand ((laneBase (0x2C8 + t.code) c).withBt bt |>.withAddr m |>.withMod (addrMode m) |>.withE e |>.withHint h fb) =
      .ok (.vst t bt m e h fb c) := by
  obtain ⟨_, _, _, _, fields, addr⟩ := LaneRaw.withAddr_eq ((laneBase (0x2C8 + t.code) c).withBt bt) m
  rw [fields]
  dsimp only [laneBase, LaneRaw.withE, LaneRaw.withBt, LaneRaw.withMod, LaneRaw.withHint]
  rw [laneCand_mem (n := 1) (by decide) t rfl, laneMemCand, IType.ofCode_code, LaneRaw.hintOf, Hint.ofCode_field,
    val_addrMode (by decide), addr _ rfl rfl rfl rfl, LaneRaw.fsb, boolFin_eq_one, ofNat_val_ofNat (by decide), LaneRaw.ctl_mk]
  rfl

theorem laneCand_vlds (t : IType) (d : VReg) (m : LaneAddr) (c : LaneCtl) :
    laneCand ((laneBase (0x2D0 + t.code) c).withD d |>.withAddr m |>.withMod (addrMode m)) = .ok (.vlds t d m c) := by
  obtain ⟨_, _, _, _, e, addr⟩ := LaneRaw.withAddr_eq ((laneBase (0x2D0 + t.code) c).withD d) m
  rw [e]
  dsimp only [laneBase, LaneRaw.withD, LaneRaw.withMod]
  rw [laneCand_mem (n := 2) (by decide) t rfl, laneMemCand, IType.ofCode_code, val_addrMode (by decide),
    addr _ rfl rfl rfl rfl, LaneRaw.ctl_mk]
  rfl

theorem laneCand_vsts (t : IType) (m : LaneAddr) (e : VReg) (c : LaneCtl) :
    laneCand ((laneBase (0x2D8 + t.code) c).withAddr m |>.withMod (addrMode m) |>.withE e) = .ok (.vsts t m e c) := by
  obtain ⟨_, _, _, _, fields, addr⟩ := LaneRaw.withAddr_eq (laneBase (0x2D8 + t.code) c) m
  rw [fields]
  dsimp only [laneBase, LaneRaw.withE, LaneRaw.withMod]
  rw [laneCand_mem (n := 3) (by decide) t rfl, laneMemCand, IType.ofCode_code, val_addrMode (by decide),
    addr _ rfl rfl rfl rfl, LaneRaw.ctl_mk]
  rfl

theorem laneCand_vamo (op : AmoOp) (t : IType) (d : VReg) (bt : BtReg) (m : LaneAddr) (e : VReg) (h : Hint) (fb : Bool)
    (c : LaneCtl) :
    laneCand ((laneBase (0x2E0 + t.code) c).withD d |>.withBt bt |>.withAddr m |>.withRo (addrMode m) |>.withMod op.code
      |>.withE e |>.withHint h fb) = .ok (.vamo op t d bt m e h fb c) := by
  obtain ⟨_, _, _, _, fields, addr⟩ := LaneRaw.withAddr_eq ((laneBase (0x2E0 + t.code) c).withD d |>.withBt bt) m
  rw [fields]
  dsimp only [laneBase, LaneRaw.withD, LaneRaw.withE, LaneRaw.withBt, LaneRaw.withMod, LaneRaw.withRo, LaneRaw.withHint]
  rw [laneCand_mem (n := 4) (by decide) t rfl, laneMemCand, IType.ofCode_code, LaneRaw.hintOf, Hint.ofCode_field,
    AmoOp.ofCode_field, val_addrMode (by decide), addr _ rfl rfl rfl rfl, LaneRaw.fsb, boolFin_eq_one,
    ofNat_val_ofNat (by decide), LaneRaw.ctl_mk]
  rfl

theorem laneCand_vrand (d a : VReg) (k : SReg) (c : LaneCtl) :
    laneCand ((laneBase 0x300 c).withD d |>.withA a |>.withB (.sca k)) = .ok (.vrand d a k c) := by
  obtain ⟨_, _, _, e, src⟩ := LaneRaw.withB_eq ((laneBase 0x300 c).withD d |>.withA a) (.sca k)
  rw [e]
  dsimp only [laneBase, LaneRaw.withD, LaneRaw.withA]
  change (LaneRaw.bsrc _ >>= fun b => _) = _
  rw [src _ rfl rfl rfl, LaneRaw.ctl_mk]
  rfl

theorem laneCand_vnop (c : LaneCtl) : laneCand (laneBase 0x301 c) = .ok (.vnop c) :=
  congrArg (fun c => Except.ok (Instr.vnop c)) (LaneRaw.ctl_mk _ _ _ _ _ _ _ _ _ _ _ _ _ c)

/-! ### The instruction that a lane word names -/

/-- The fields of a lane instruction name it: the rows grouped by the shape of their operands. -/
theorem laneCand_of_encodeLaneRaw {i : Instr} {r : LaneRaw} (h : encodeLaneRaw i = some r) : laneCand r = .ok i := by
  cases i <;> cases h
  case vadd t d a b c | vsub t d a b c | vmul t d a b c | vmulhS t d a b c | vmulhZ t d a b c | vand t d a b c | vor t d a b c
      | vxor t d a b c | vandn t d a b c | vshl t d a b c | vshrZ t d a b c | vshrS t d a b c | vminS t d a b c
      | vminZ t d a b c | vmaxS t d a b c | vmaxZ t d a b c | vbext t d a b c =>
    refine laneCand_dab (fun r op => ?_) d a b c
    rw [laneCand_int (by decide) t op, laneIntCand, IType.ofCode_code]
    rfl
  case vabs t d a c | vclz t d a c | vpopc t d a c =>
    refine laneCand_da (fun r op => ?_) d a c
    rw [laneCand_int (by decide) t op, laneIntCand, IType.ofCode_code]
    rfl
  case vxchg t d a b c | vshift t d a b c | vbcast t d a b c =>
    refine laneCand_dab (fun r op => ?_) d a b c
    rw [laneCand_cross (by decide) t op, laneCrossCand, IType.ofCode_code]
    rfl
  case vred op t d a c =>
    refine laneCand_red (K := (Instr.vred · t)) (fun r code => ?_) op d a c
    rw [laneCand_cross (by decide) t code, laneCrossCand, IType.ofCode_code]
    rfl
  case vscan op t d a c =>
    refine laneCand_red (K := (Instr.vscan · t)) (fun r code => ?_) op d a c
    rw [laneCand_cross (by decide) t code, laneCrossCand, IType.ofCode_code]
    rfl
  case vfadd t o d a b c | vfsub t o d a b c | vfmul t o d a b c | vfmin t o d a b c | vfmax t o d a b c | vfsgn t o d a b c =>
    refine laneCand_dabo (fun r op => ?_) o d a b c
    rw [laneCand_float (by decide) t op, laneFloatCand, FType.ofCode_code]
    rfl
  case vfcls t o d a c | vfrnd t o d a c =>
    refine laneCand_dao (fun r op => ?_) o d a c
    rw [laneCand_float (by decide) t op, laneFloatCand, FType.ofCode_code]
    rfl
  case vrcp t o d a c | vrsqrt t o d a c | vsqrt t o d a c | vexp2 t o d a c | vlog2 t o d a c | vsin t o d a c
      | vcos t o d a c | vtanh t o d a c =>
    refine laneCand_dao (fun r op => ?_) o d a c
    rw [laneCand_special (by decide) t op, laneSpecialCand, SType.ofCode_code]
    rfl
  case pand d a b c | por d a b c | pxor d a b c | pandn d a b c =>
    refine laneCand_logic (fun r op => ?_) d a b c
    rw [laneCand_pred (by decide) op]
    rfl
  case vmad t d a b x c => exact laneCand_vmad t d a b x c
  case vsel t d a b p c => exact laneCand_vsel t d a b p c
  case vmov t d b c => exact laneCand_vmov t d b c
  case vcmp t cc d a b c => exact laneCand_vcmp t cc d a b c
  case pset d b c => exact laneCand_pset d b c
  case pget d a c => exact laneCand_pget d a c
  case vperm t d a b c => exact laneCand_vperm t d a b c
  case vfma t o d a b x c => exact laneCand_vfma t o d a b x c
  case vfcmp t cc o d a b c => exact laneCand_vfcmp t cc o d a b c
  case vfcvt td ts o d a b c => exact laneCand_vfcvt td ts o d a b c
  case vquant t l sf o d a c => exact laneCand_vquant t l sf o d a c
  case vdequant t l sf o d a b c => exact laneCand_vdequant t l sf o d a b c
  case vld t d bt m h fb c => exact laneCand_vld t d bt m h fb c
  case vst t bt m e h fb c => exact laneCand_vst t bt m e h fb c
  case vlds t d m c => exact laneCand_vlds t d m c
  case vsts t m e c => exact laneCand_vsts t m e c
  case vamo op t d bt m e h fb c => exact laneCand_vamo op t d bt m e h fb c
  case vrand d a k c => exact laneCand_vrand d a k c
  case vnop c => exact laneCand_vnop c

/-! ### Decoding and encoding agree (R29 to R41) -/

theorem decodeScalarRaw_of_encode {i : Instr} {r : ScalarRaw} (wf : i.wf = true) (h : encodeScalarRaw i = some r) :
    decodeScalarRaw r = .ok i := by
  unfold decodeScalarRaw
  rw [scalarCand_of_encodeScalarRaw h]
  simp [h, wf]

theorem decodeLaneRaw_of_encode {i : Instr} {r : LaneRaw} (wf : i.wf = true) (h : encodeLaneRaw i = some r) :
    decodeLaneRaw r = .ok i := by
  unfold decodeLaneRaw
  rw [laneCand_of_encodeLaneRaw h]
  simp [h, wf]

theorem encode_of_decodeScalarRaw {i : Instr} {r : ScalarRaw} (h : decodeScalarRaw r = .ok i) :
    i.wf = true ∧ encodeScalarRaw i = some r := by
  unfold decodeScalarRaw at h
  split at h
  · cases h
  · split_ifs at h with enc wf
    cases h
    exact ⟨wf, enc⟩

theorem encode_of_decodeLaneRaw {i : Instr} {r : LaneRaw} (h : decodeLaneRaw r = .ok i) :
    i.wf = true ∧ encodeLaneRaw i = some r := by
  unfold decodeLaneRaw at h
  split at h
  · cases h
  · split_ifs at h with enc wf
    cases h
    exact ⟨wf, enc⟩

theorem decodeScalarBytes_eq {bs : List Byte} (h : bs.length = 4) :
    decodeScalarBytes bs = decodeScalarRaw (ScalarRaw.unpack (leNat bs)) := by
  rw [decodeScalarBytes, if_neg (by omega), List.take_of_length_le (by omega)]

theorem decodeLaneBytes_eq {bs : List Byte} (h : bs.length = 12) :
    decodeLaneBytes bs = decodeLaneRaw (LaneRaw.unpack (leNat bs)) := by
  rw [decodeLaneBytes, if_neg (by omega), List.take_of_length_le (by omega)]

theorem decodeHeaderBytes_eq {bs : List Byte} (h : bs.length = 12) : decodeHeaderBytes bs = decodeHeader (leNat bs) := by
  rw [decodeHeaderBytes, if_neg (by omega), List.take_of_length_le (by omega)]

theorem encodeScalarRaw_of_lane {i : Instr} {r : LaneRaw} (h : encodeLaneRaw i = some r) : encodeScalarRaw i = none := by
  cases i <;> cases h <;> rfl

/-- The word of a well-formed instruction decodes to it. -/
theorem decode_encode {i : Instr} {bs : List Byte} (wf : i.wf = true) (h : encode i = some bs) :
    (bs.length = 4 ∧ decodeScalarBytes bs = .ok i) ∨ (bs.length = 12 ∧ decodeLaneBytes bs = .ok i) := by
  unfold encode at h
  split at h
  case h_1 r enc =>
    cases h
    refine .inl ⟨length_leBytes 4 _, ?_⟩
    rw [decodeScalarBytes_eq (length_leBytes 4 _), leNat_leBytes_of_lt r.pack_lt, ScalarRaw.unpack_pack]
    exact decodeScalarRaw_of_encode wf enc
  case h_2 =>
    obtain ⟨r, enc, rfl⟩ := Option.map_eq_some_iff.mp h
    refine .inr ⟨length_leBytes 12 _, ?_⟩
    rw [decodeLaneBytes_eq (length_leBytes 12 _), leNat_leBytes_of_lt r.pack_lt, LaneRaw.unpack_pack]
    exact decodeLaneRaw_of_encode wf enc

/-- A scalar word that decodes is the word of the instruction it decodes to. -/
theorem encode_decodeScalarBytes {i : Instr} {bs : List Byte} (len : bs.length = 4) (h : decodeScalarBytes bs = .ok i) :
    i.wf = true ∧ encode i = some bs := by
  rw [decodeScalarBytes_eq len] at h
  obtain ⟨wf, enc⟩ := encode_of_decodeScalarRaw h
  have word := leBytes_leNat bs
  have lt := leNat_lt bs
  rw [len] at word lt
  refine ⟨wf, ?_⟩
  simp only [encode, enc, ScalarRaw.pack_unpack lt, word]

/-- A lane word that decodes is the word of the instruction it decodes to. -/
theorem encode_decodeLaneBytes {i : Instr} {bs : List Byte} (len : bs.length = 12) (h : decodeLaneBytes bs = .ok i) :
    i.wf = true ∧ encode i = some bs := by
  rw [decodeLaneBytes_eq len] at h
  obtain ⟨wf, enc⟩ := encode_of_decodeLaneRaw h
  have word := leBytes_leNat bs
  have lt := leNat_lt bs
  rw [len] at word lt
  refine ⟨wf, ?_⟩
  simp only [encode, encodeScalarRaw_of_lane enc, enc, Option.map_some, LaneRaw.pack_unpack lt, word]

/-! ### Clause headers (R42, Table 3.12) -/

theorem setCode_lt (a : Option (Fin 12)) : setCode a < 16 := by
  unfold setCode
  split <;> omega

theorem setOfCode_eq_some {k : Nat} {a : Option (Fin 12)} : setOfCode k = some a ↔ k = setCode a := by
  unfold setOfCode
  constructor
  · intro h
    split_ifs at h with flag unset
    · cases h; rfl
    · cases h; exact unset
  · rintro rfl
    cases a with
    | none => rfl
    | some j => exact dif_pos j.isLt

/-- A word has the fields of a header. -/
structure HeaderFields (h : ClauseHeader) (w : Nat) : Prop where
  low : w % 2 ^ 58 = 0
  mark : w / 2 ^ 58 / 256 / 16 / 16 / 4096 % 1024 = 0x3FF
  mask : w / 2 ^ 58 / 256 / 16 / 16 % 4096 = h.waitMask.toNat
  setA : w / 2 ^ 58 / 256 / 16 % 16 = setCode h.setA
  setB : w / 2 ^ 58 / 256 % 16 = setCode h.setB
  length : w / 2 ^ 58 % 256 = h.length.val

/-- The word of a header has its fields, -/
theorem encodeHeader_fields (h : ClauseHeader) : HeaderFields h (encodeHeader h) ∧ encodeHeader h < 256 ^ 12 := by
  have a := setCode_lt h.setA
  have b := setCode_lt h.setB
  have m := h.waitMask.isLt
  have l := h.length.isLt
  unfold encodeHeader
  exact ⟨by constructor <;> omega, by omega⟩

/-- and no other word of 96 bits has. -/
theorem HeaderFields.eq_encodeHeader {h : ClauseHeader} {w : Nat} (f : HeaderFields h w) (lt : w < 256 ^ 12) :
    w = encodeHeader h := by
  obtain ⟨low, mark, mask, setA, setB, length⟩ := f
  unfold encodeHeader
  omega

/-- What decodes to a header is what has its fields, where it is one that `lrun` admits. -/
theorem decodeHeader_eq_ok {h : ClauseHeader} {w : Nat} : decodeHeader w = .ok h ↔ HeaderFields h w ∧ h.wf = true := by
  constructor
  · intro d
    unfold decodeHeader at d
    simp only at d
    split_ifs at d with low mark
    split at d
    case h_1 a b setA setB =>
      split_ifs at d with wf
      cases d
      refine ⟨⟨by omega, by omega, by simp, setOfCode_eq_some.mp setA, setOfCode_eq_some.mp setB, by simp⟩, wf⟩
    case h_2 => cases d
  · rintro ⟨⟨low, mark, mask, setA, setB, length⟩, wf⟩
    have waits : BitVec.ofNat 12 (w / 2 ^ 58 / 256 / 16 / 16) = h.waitMask :=
      BitVec.eq_of_toNat_eq ((BitVec.toNat_ofNat _ _).trans mask)
    have words : Fin.ofNat 256 (w / 2 ^ 58) = h.length := Fin.ext length
    unfold decodeHeader
    simp only [low, mark, setOfCode_eq_some.mpr setA, setOfCode_eq_some.mpr setB, waits, words, wf]
    rfl

/-- Settles O58: a candidate decodes exactly where it is well formed and its encoding is the word, every instruction with an
encoding is the candidate of its own fields, and fields, numbers and bytes determine each other. -/
theorem roundTrip : Obligations.RoundTrip := by
  refine ⟨fun i bs => decode_encode, fun i bs => encode_decodeScalarBytes, fun i bs => encode_decodeLaneBytes,
    fun h wf => ?_, fun h bs len d => ?_⟩
  · obtain ⟨fields, lt⟩ := encodeHeader_fields h
    rw [decodeHeaderBytes_eq (length_leBytes 12 _), leNat_leBytes_of_lt lt]
    exact decodeHeader_eq_ok.mpr ⟨fields, wf⟩
  · rw [decodeHeaderBytes_eq len] at d
    obtain ⟨fields, wf⟩ := decodeHeader_eq_ok.mp d
    have word := leBytes_leNat bs
    have lt := leNat_lt bs
    rw [len] at word lt
    rw [← fields.eq_encodeHeader lt]
    exact ⟨wf, word.symm⟩

/-- Settles O57: each of the words, written out, decodes as the tables say. -/
theorem decodedWords : Obligations.DecodedWords :=
  ⟨rfl, rfl, rfl, rfl, rfl, rfl, rfl, rfl, rfl, rfl, rfl, rfl, rfl, rfl, rfl, rfl⟩

end Sys2Proof


namespace Sys2Proof.Machine

open Sys2Proof

/-! ### Predicates of lane words (R37, R97, R98, R113) -/

theorem State.lanes_getLsbD (s : State) (c : LaneCtl) {i : Nat} (h : i < 64) :
    (s.lanes c).getLsbD i = (s.laneCtx.mask.getLsbD i && guardHolds (fun p => (s.thread s.laneCur).pred p.val) c i) :=
  participants_getLsbD _ _ c h

/-- A guard is true on predicate 63 negated, and follows its predicate elsewhere (R37). -/
theorem guardHolds_eq (pred : PReg → BitVec 64) (c : LaneCtl) (i : Nat) :
    guardHolds pred c i =
      let g (x : Guard) : Bool := (x.p.val == 63 && x.neg) || ((pred x.p).getLsbD i != x.neg)
      if c.orGuards then g c.g1 || g c.g2 else g c.g1 && g c.g2 := by
  have guard (x : Guard) : (if x.p = 63 ∧ x.neg then true else ((pred x.p).getLsbD i) != x.neg) =
      ((x.p.val == 63 && x.neg) || ((pred x.p).getLsbD i != x.neg)) := by
    by_cases always : x.p = 63 ∧ x.neg
    · simp [always]
    · have named : (x.p.val == 63 && x.neg) = false := by
        rw [Bool.eq_false_iff]
        simpa [Fin.ext_iff] using always
      rw [if_neg always, named, Bool.false_or]
  simp only [guardHolds, guard]

theorem intCmp_eq (cc : Cmp) (a b : Int) :
    intCmp cc a b =
      match cc with
      | .eq => decide (a = b)
      | .ne => decide (a ≠ b)
      | .lt => decide (a < b)
      | .le => decide (a ≤ b)
      | .gt => decide (b < a)
      | .ge => decide (b ≤ a) := by
  cases cc
  case ne => exact (decide_not (p := a = b)).symm
  all_goals rfl

/-- An instruction that counts its lanes and does nothing else writes no row (R113). -/
theorem State.countLane_wrote (s : State) (m : BitVec 64) (y : Nat → Nat → Elem) : LaneWrote s (s.countLane m) m [] y 0 := by
  simpa [State.raiseFp, State.blendRows] using s.laneWrote m y [] 0 (fun _ h => absurd h List.not_mem_nil)

/-- Settles O35, from the masked writes of a predicate and of rows. -/
theorem lanePredicates : Obligations.LanePredicates := by
  intro s t cc p q a d b ps c bit guard A B Q gives
  have logic (f : Bool → Bool → Bool) :
      LanePred s (s.predLogic p q ps c f) (s.lanes c) p (fun i => f (bit q i) (Q i)) 0 := by
    have second : s.predQ ps = Q := by cases ps <;> rfl
    rw [← second]
    exact s.writePred_wrote p (s.lanes c) _
  refine ⟨fun i hi => ?lanes, ?vcmp, ⟨_, rfl, logic _⟩, ⟨_, rfl, logic _⟩, ⟨_, rfl, logic _⟩, ⟨_, rfl, logic _⟩, ?pset,
    fun ok => ?pget, ⟨_, rfl, s.countLane_wrote _ _⟩⟩
  case lanes => rw [s.lanes_getLsbD c hi, guardHolds_eq]
  case vcmp =>
    have relation : (fun i => intCmp cc (A i) (B i)) = _ := funext fun i => intCmp_eq cc (A i) (B i)
    exact ⟨_, rfl, (congrArg (LanePred s _ (s.lanes c) p · 0) relation).mp (s.writePred_wrote p (s.lanes c) _)⟩
  case pset => exact ⟨_, rfl, by cases b <;> exact s.writePred_wrote p (s.lanes c) _⟩
  case pget =>
    have bits := s.writeLanes_wrote .z32 d (s.lanes c) (fun i => if bit q i then 1 else 0) ok
    have elems (k i : Nat) : writtenElem .z32 d.val k (if bit q i then 1 else 0) = if bit q i then 1 else 0 := by
      cases bit q i <;> rfl
    simp only [elems] at bits
    exact ⟨_, rfl, bits⟩

/-! ### tbind (R61) -/

theorem State.bindOf_off {s : State} {key : Nat} {va span : Word}
    (h : 2 ^ 56 ≤ va.toNat ∨ span = 0 ∨ s.xlat key va.toNat = .absent) :
    s.bindOf key va span = some { vbase := va.setWidth 56 } := by
  unfold State.bindOf
  by_cases off : 2 ^ 56 ≤ va.toNat ∨ span = 0
  · rw [if_pos off]
  · have absent : s.xlat key va.toNat = .absent := (or_assoc.mpr h).resolve_left off
    rw [if_neg off, absent]

/-- A page that may be neither read nor written gives no run. -/
theorem State.bindOf_denied {s : State} {key : Nat} {va span : Word} {x : Xlat} (on : ¬ (2 ^ 56 ≤ va.toNat ∨ span = 0))
    (page : s.xlat key va.toNat = .ok x) (rd : x.rd = false) (wr : x.wr = false) :
    s.bindOf key va span = some { vbase := va.setWidth 56 } := by
  unfold State.bindOf
  rw [if_neg on, page]
  simp [rd, wr]

/-- A span within its first page is bound in full. -/
theorem State.bindOf_page {s : State} {key : Nat} {va span : Word} {x : Xlat} (on : ¬ (2 ^ 56 ≤ va.toNat ∨ span = 0))
    (page : s.xlat key va.toNat = .ok x) (access : x.rd = true ∨ x.wr = true)
    (fits : span.toNat ≤ 2 ^ pageBits x.size - va.toNat % 2 ^ pageBits x.size) (short : span.toNat < 2 ^ 48) :
    s.bindOf key va span = some { vbase := va.setWidth 56, frame := BitVec.ofNat 52 x.pa, limit := span.setWidth 48
                                  rd := x.rd, wr := x.wr, obj := x.obj, cacheable := x.cacheable } := by
  have granted : (!x.rd && !x.wr) = false := by rcases access with h | h <;> simp [h]
  have limit : BitVec.ofNat 48 (min (min span.toNat (2 ^ pageBits x.size - va.toNat % 2 ^ pageBits x.size)) (2 ^ 48 - 1)) =
      span.setWidth 48 := by
    rw [Nat.min_eq_left fits, Nat.min_eq_left (Nat.le_sub_one_of_lt short)]
    rfl
  unfold State.bindOf
  rw [if_neg on, page]
  simp only [granted, State.bindRun, if_pos fits, Option.map_some, limit]
  rfl

/-- `tbind` sets its register to the translation that its address and span give, and learns the first page. -/
theorem execTbind_sets {s : State} {b : BtReg} {a c : SReg} {r : Translation} (free : s.Free computeOnly [a, c])
    (h : s.bindOf s.cur (s.th.sreg a) (s.th.sreg c) = some r) :
    Completes (.tbind b a c) s (fun t =>
      (t.thread s.cur).bt b.val = r ∧ (∀ q, q ≠ b.val → (t.thread s.cur).bt q = s.th.bt q) ∧
      t.thread s.cur = { s.th with
        bts := (t.thread s.cur).bts, pc := s.th.pc + 4, counters := bumpMap s.th.counters 0 1 } ∧ KeepsAround s t) := by
  refine ⟨_, congrArg Host.Outcome.next (State.issue_free free _), ?_⟩
  rw [h]
  refine ⟨?_, fun q hq => ?_, ?_, s.keepsAround _ _ _⟩ <;> rw [State.thread_fill, State.thread_modThread_self]
  · exact fgetD_fset_self _ _ _ _
  · exact fgetD_fset_ne _ _ _ hq
  · rfl

/-! ### Traps that enter at once (R286) -/

theorem State.thread_enterTrap (s : State) (key : Nat) (pt : PendingTrap) (va : Nat) (x : Xlat) :
    (s.enterTrap key pt va x).thread key = (s.thread key).unspec.enterHandler pt va (s.launchOf key).handlerPc := by
  obtain ⟨halted, _, _⟩ := s.haltSiblings_spec (coreOfKey key) (ctxOfKey key)
  rw [groupKey_of_key] at halted
  simp only [State.enterTrap, State.thread_fill, State.thread_modThread_self]
  rw [State.thread, State.put_threads]
  exact congrArg (fun t : Thread => t.unspec.enterHandler pt va (s.launchOf key).handlerPc) halted

theorem State.takeTrap_enters {s : State} {key : Nat} {b : Block} {x : Xlat} (h : CanEnter s key b x) (pt : PendingTrap) :
    s.takeTrap key pt = s.enterTrap key pt (b.recordVa (ctxOfKey key)) x := by
  have running : ¬ (s.thread key).status = .handler := by rw [h.runs]; decide
  have admitted : s.admitWrite (.area key) x.pa = (s, true) := by
    unfold State.admitWrite
    rw [State.blocks_of_none h.taken.1, h.taken.2, State.leave_of_none h.taken.1]
    rfl
  unfold State.takeTrap
  simp [h.trapEn, running, h.block, h.noHandler, h.first, Block.recordVa, h.page, h.writable, admitted]

/-- The whole record of a group that enters its handler at once. -/
theorem State.thread_raise {s : State} {key : Nat} {b : Block} {x : Xlat} (h : CanEnter s key b x) (pt : PendingTrap) :
    (s.raise key pt).thread key =
      (s.thread key).unspec.enterHandler pt (b.recordVa (ctxOfKey key)) (s.launchOf key).handlerPc := by
  unfold State.raise
  rw [h.isGroup.1, h.isGroup.2, if_neg Bool.false_ne_true, if_neg Bool.false_ne_true, State.takeTrap_enters h,
    State.thread_enterTrap]

/-! ### lrun (R43, R85) -/

/-- The clauses of an agent's lane queue that have not finished. -/
def Thread.unfinished (t : Thread) : List Clause := t.queue.filter (fun c => !t.finished c)

/-- The state in which `lrun` reads its clause: the finished clauses have left the lane queue. -/
def State.swept (s : State) : State := s.modThread s.cur (fun t => { t with queue := t.unfinished })

/-- The address of the clause that an `lrun` of the running agent names (log entry 80). -/
def State.clauseVa (s : State) (n : BitVec 19) : Nat := ((s.launchOf s.cur).laneBase + 12 * n.toNat) % 2 ^ 56

theorem State.swept_th (s : State) : s.swept.th = { s.th with queue := s.th.unfinished } := s.th_modThread _

/-- Where every clause has finished, so has every clause that stays. -/
theorem State.clausesDone_swept {s : State} (h : s.th.clausesDone = true) : s.swept.th.clausesDone = true := by
  rw [State.swept_th]
  simp only [Thread.clausesDone, Bool.and_eq_true, List.all_eq_true] at h ⊢
  exact ⟨fun c hc => h.1 c (List.mem_of_mem_filter hc), h.2⟩

theorem State.swept_room {s : State} (room : s.th.unfinished.length < laneQueueMax s.cur) :
    ¬ laneQueueMax s.cur ≤ s.swept.th.queue.length := by
  rw [State.swept_th]
  exact Nat.not_le.mpr room

theorem execLrun_enqueues {s u : State} {n : BitVec 19} {h : ClauseHeader} {is : List Instr} (free : s.Free computeOnly [])
    (room : s.th.unfinished.length < laneQueueMax s.cur) (read : s.swept.readClause s.cur (s.clauseVa n) = .ok u h is)
    (log : u.logBusy s.cur = false) :
    execLrun n s = .next (u.modThread s.cur (fun t =>
      { t with
        pc := t.pc + 4
        counters := bumpMap t.counters 0 1
        queue := t.queue ++ [{ id := t.nextId, addr := BitVec.ofNat 56 (s.clauseVa n), hdr := h, instrs := is
                               mask := t.mask, rmode := t.rmode, ftv := t.ftv }]
        nextId := t.nextId + 1
        region := if is.any isVamo then none else t.region })) := by
  have clear : ¬ (is.any isLaneGlobal && u.logBusy s.cur) = true := by simp [log]
  unfold execLrun
  rw [State.issue_free free]
  change Host.Outcome.next (if laneQueueMax s.cur ≤ s.swept.th.queue.length then _ else _) = _
  rw [if_neg (State.swept_room room)]
  generalize outcome : State.readClause _ _ _ = r
  obtain rfl : r = .ok u h is := outcome.symm.trans read
  exact congrArg Host.Outcome.next (if_neg clear)

theorem execLrun_illegal {s : State} {n : BitVec 19} {i : Nat} (free : s.Free computeOnly [])
    (room : s.th.unfinished.length < laneQueueMax s.cur) (read : s.swept.readClause s.cur (s.clauseVa n) = .illegal i)
    (done : s.th.clausesDone = true) :
    execLrun n s = .next (s.swept.raise s.cur
      { cause := cIllegal, pc := s.th.pc, clause := BitVec.ofNat 56 (s.clauseVa n), index := BitVec.ofNat 8 i }) := by
  have pc : s.swept.th.pc = s.th.pc := by rw [State.swept_th]
  unfold execLrun
  rw [State.issue_free free, ← pc]
  change Host.Outcome.next (if laneQueueMax s.cur ≤ s.swept.th.queue.length then _ else _) = _
  rw [if_neg (State.swept_room room)]
  generalize outcome : State.readClause _ _ _ = r
  obtain rfl : r = .illegal i := outcome.symm.trans read
  exact congrArg Host.Outcome.next (if_pos (State.clausesDone_swept done))

/-! ### Reads of lane state (R86, R87) -/

theorem State.issueLaneRead_done {s : State} {names : List SReg} (free : s.Free computeOnly names)
    (done : s.th.clausesDone = true) (body : State → State) : s.issueLaneRead names body = body s :=
  (State.issue_free free _).trans (if_pos done)

theorem State.finish_wrote {s : State} (free : s.th.hold = false) (d : SReg) (v : Word) : Wrote s (s.finish d v) d v := by
  have wrote := s.finish_issued d v
  rwa [s.issued_of_free free] at wrote

theorem State.goto_wentTo {s : State} (free : s.th.hold = false) (pc : BitVec 56) : WentTo s (s.goto pc) pc := by
  have went := s.goto_issued pc
  rwa [s.issued_of_free free] at went

/-! ### Lane dispatch -/

/-- Settles O39, from the translation that an address gives, what reading a clause gives, and the end of the waits. -/
theorem clausesEnqueued : Obligations.ClausesEnqueued := by
  refine ⟨?tbind, ?lrun, ?reads⟩
  case tbind =>
    intro s b a c free va span set
    refine ⟨fun off => execTbind_sets free (State.bindOf_off off), fun x low nonzero page => ?_⟩
    have on : ¬ (2 ^ 56 ≤ va.toNat ∨ span = 0) := not_or.mpr ⟨Nat.not_le.mpr low, nonzero⟩
    exact ⟨fun rd wr => execTbind_sets free (State.bindOf_denied on page rd wr),
      fun access fits short => execTbind_sets free (State.bindOf_page on page access fits short)⟩
  case lrun =>
    intro s n free va kept s' room
    refine ⟨fun u h is read log => ?enqueues, fun i b x read done enter => ?illegal⟩
    case enqueues =>
      refine ⟨_, execLrun_enqueues free room read log, ?_, ?_, rfl⟩ <;> rw [State.thread_modThread_self]
      exact ⟨_, rfl, rfl, rfl, rfl, rfl, rfl, rfl, rfl, rfl⟩
    case illegal =>
      have record := State.thread_raise enter
        { cause := cIllegal, pc := s.th.pc, clause := BitVec.ofNat 56 va, index := BitVec.ofNat 8 i }
      exact ⟨_, execLrun_illegal free room read done, State.raise_inHandler enter _, congrArg Thread.tclause record,
        congrArg Thread.tindex record⟩
  case reads =>
    intro s d v p lane done
    refine ⟨fun free => ?lsync, fun free row clear => ?sfromv, fun free ok => ?sfromp⟩
    case lsync => exact ⟨_, congrArg Host.Outcome.next (State.issueLaneRead_done free done _), State.goto_wentTo free.2 _⟩
    case sfromv =>
      refine ⟨_, congrArg Host.Outcome.next (State.issueLaneRead_done free done _), ?_⟩
      simpa [row, clear] using State.finish_wrote free.2 d (((s.row s.cur v.val).at lane.val).setWidth 64)
    case sfromp =>
      exact ⟨_, congrArg Host.Outcome.next ((if_pos ok).trans (State.issueLaneRead_done free done _)),
        State.finish_wrote free.2 d _⟩

end Sys2Proof.Machine

namespace Sys2Proof.Machine

open Sys2Proof

/-! ### The functions of Table 4.6 (R63) -/

theorem amount_eq (y : Word) : (y % 64).toNat = amount y := BitVec.toNat_umod

/-- The high half of a signed product is bits 64 to 127 of the product of the sign-extended words. -/
theorem mulHighS_eq (x y : Word) :
    mulHighS x y = ((x.signExtend 128 * y.signExtend 128) >>> 64).setWidth 64 := by
  have product : x.signExtend 128 * y.signExtend 128 = BitVec.ofInt 128 (x.toInt * y.toInt) :=
    (BitVec.ofInt_mul _ _).symm
  rw [product, mulHighS]
  generalize x.toInt * y.toInt = p
  apply BitVec.eq_of_toNat_eq
  rw [BitVec.toNat_setWidth, BitVec.toNat_ushiftRight, BitVec.toNat_ofInt, BitVec.toNat_ofInt, Nat.shiftRight_eq_div_pow]
  omega

theorem mulHighZ_eq (x y : Word) :
    mulHighZ x y = ((x.setWidth 128 * y.setWidth 128) >>> 64).setWidth 64 := by
  apply BitVec.eq_of_toNat_eq
  have wide (z : Word) : (z.setWidth 128).toNat = z.toNat := by simp only [BitVec.toNat_setWidth]; omega
  rw [mulHighZ, BitVec.toNat_setWidth, BitVec.toNat_ushiftRight, BitVec.toNat_mul, wide, wide, BitVec.toNat_ofNat,
    Nat.shiftRight_eq_div_pow]
  omega

/-- The quotient truncated toward zero is the signed quotient of the words; −2^63 / −1 wraps. -/
theorem ofInt_tdiv (x y : Word) : BitVec.ofInt 64 (x.toInt.tdiv y.toInt) = x.sdiv y :=
  BitVec.eq_of_toInt_eq (by rw [BitVec.toInt_ofInt, BitVec.toInt_sdiv])

theorem ofNat_div (x y : Word) : BitVec.ofNat 64 (x.toNat / y.toNat) = x / y := by
  rw [← BitVec.toNat_udiv, BitVec.ofNat_toNat, BitVec.setWidth_eq]

theorem ofInt_tmod (x y : Word) : BitVec.ofInt 64 (x.toInt.tmod y.toInt) = x - y * x.sdiv y := by
  rw [Int.tmod_def, Int.sub_eq_add_neg, BitVec.ofInt_add, BitVec.ofInt_neg, BitVec.ofInt_mul, ofInt_tdiv,
    BitVec.ofInt_toInt, BitVec.ofInt_toInt, BitVec.sub_eq_add_neg]

theorem ofNat_mod (x y : Word) : BitVec.ofNat 64 (x.toNat % y.toNat) = x - y * (x / y) := by
  have parts : y * (x / y) + BitVec.ofNat 64 (x.toNat % y.toNat) = x := by
    calc y * (x / y) + BitVec.ofNat 64 (x.toNat % y.toNat)
        = BitVec.ofNat 64 (y.toNat * (x.toNat / y.toNat) + x.toNat % y.toNat) := by
          rw [BitVec.ofNat_add, BitVec.ofNat_mul, ofNat_div, BitVec.ofNat_toNat, BitVec.setWidth_eq]
      _ = x := by rw [Nat.div_add_mod, BitVec.ofNat_toNat, BitVec.setWidth_eq]
  exact eq_sub_of_add_eq' parts

theorem divSigned_eq (x y : Word) : divSigned x y = if y = 0 then BitVec.allOnes 64 else x.sdiv y := by
  rw [divSigned, ofInt_tdiv]

theorem divUnsigned_eq (x y : Word) : divUnsigned x y = if y = 0 then BitVec.allOnes 64 else x / y := by
  rw [divUnsigned, ofNat_div]

theorem remSigned_eq (x y : Word) : remSigned x y = if y = 0 then x else x - y * x.sdiv y := by
  rw [remSigned, ofInt_tmod]

theorem remUnsigned_eq (x y : Word) : remUnsigned x y = if y = 0 then x else x - y * (x / y) := by
  rw [remUnsigned, ofNat_mod]

theorem boolWord_decide (p : Prop) [Decidable p] : boolWord (decide p) = if p then 1 else 0 := by
  by_cases h : p <;> simp [boolWord, h]

/-- Where the operands are equal, both choices of a minimum or maximum are the same word. -/
theorem ite_slt_eq_ite_le {x y : Word} {a b : Word} (same : x = y → a = b) :
    (if x.slt y then a else b) = if x.toInt ≤ y.toInt then a else b := by
  rw [BitVec.slt_eq_decide]
  rcases Int.lt_trichotomy x.toInt y.toInt with lt | eq | gt
  · simp [lt, Int.le_of_lt lt]
  · simp [eq, same (BitVec.eq_of_toInt_eq eq)]
  · simp [Int.not_lt.mpr (Int.le_of_lt gt), Int.not_le.mpr gt]

theorem ite_ult_eq_ite_le {x y : Word} {a b : Word} (same : x = y → a = b) :
    (if x.ult y then a else b) = if x.toNat ≤ y.toNat then a else b := by
  rw [BitVec.ult]
  rcases Nat.lt_trichotomy x.toNat y.toNat with lt | eq | gt
  · simp [lt, Nat.le_of_lt lt]
  · simp [eq, same (BitVec.eq_of_toNat_eq eq)]
  · simp [Nat.not_lt.mpr (Nat.le_of_lt gt), Nat.not_le.mpr gt]

/-! ### Counts and fields -/

theorem leadingZeros_spec (x : Word) :
    leadingZeros 64 x.toNat ≤ 64 ∧ x.toNat < 2 ^ (64 - leadingZeros 64 x.toNat) ∧
      (leadingZeros 64 x.toNat < 64 → 2 ^ (63 - leadingZeros 64 x.toNat) ≤ x.toNat) := by
  unfold leadingZeros
  by_cases zero : x.toNat = 0
  · simp [zero]
  · have top : x.toNat.log2 < 64 := (Nat.log2_lt zero).mpr x.isLt
    rw [if_neg zero, show 64 - (64 - 1 - x.toNat.log2) = x.toNat.log2 + 1 by omega,
      show 63 - (64 - 1 - x.toNat.log2) = x.toNat.log2 by omega]
    exact ⟨by omega, Nat.lt_log2_self, fun _ => Nat.log2_self_le zero⟩

theorem trailingZeros_spec (x n : Nat) :
    trailingZeros x n ≤ n ∧ x % 2 ^ trailingZeros x n = 0 ∧
      (trailingZeros x n < n → x.testBit (trailingZeros x n) = true) := by
  induction n generalizing x with
  | zero => exact ⟨Nat.le_refl 0, Nat.mod_one x, fun h => absurd h (Nat.lt_irrefl 0)⟩
  | succ n ih =>
    unfold trailingZeros
    by_cases odd : x % 2 = 1
    · rw [if_pos odd]
      exact ⟨Nat.zero_le _, Nat.mod_one x, fun _ => by simp [Nat.testBit_zero, odd]⟩
    · obtain ⟨le, low, bit⟩ := ih (x / 2)
      rw [if_neg odd, Nat.add_comm 1]
      refine ⟨Nat.succ_le_succ le, ?_, fun h => ?_⟩
      · rw [Nat.pow_succ', Nat.mod_mul, low]; omega
      · rw [Nat.testBit_succ]; exact bit (Nat.lt_of_succ_lt_succ h)

theorem popCount_eq (x n : Nat) : popCount x n = ((List.range n).filter x.testBit).length := by
  induction n generalizing x with
  | zero => rfl
  | succ n ih =>
    have low : x % 2 = if x.testBit 0 then 1 else 0 := by
      rw [Nat.testBit_zero]
      rcases Nat.mod_two_eq_zero_or_one x with h | h <;> simp [h]
    have shifted : x.testBit ∘ Nat.succ = (x / 2).testBit := funext fun i => Nat.testBit_succ x i
    rw [popCount, ih, low, List.range_succ_eq_map, List.filter_cons, List.filter_map, shifted]
    cases x.testBit 0 <;> simp [Nat.add_comm]

/-- A field of at most 64 bits holds the bits of the word from its position up, and zeros above its width. -/
theorem fieldOf_getLsbD (x : Word) (pos : Nat) {wid : Nat} (h : wid ≤ 64) (i : Nat) :
    (BitVec.ofNat 64 (fieldOf x.toNat pos wid)).getLsbD i = (decide (i < wid) && x.getLsbD (pos + i)) := by
  have inside : (decide (i < 64) && decide (i < wid)) = decide (i < wid) := by
    rw [← Bool.decide_and, decide_eq_decide]; omega
  rw [BitVec.getLsbD_ofNat, fieldOf, Nat.testBit_mod_two_pow, Nat.testBit_div_two_pow, ← Bool.and_assoc, inside,
    Nat.add_comm, BitVec.getLsbD]

theorem lhiValue_eq (old : Word) (k : Fin 4) (v : BitVec 17) :
    lhiValue old k v =
      match k.val with
      | 0 => v.signExtend 64 <<< 13
      | 1 => old + (v.signExtend 64 <<< 30)
      | 2 => old + (v.signExtend 64 <<< 47)
      | _ => v.signExtend 64 := by
  match k with
  | 0 => rfl
  | 1 => rfl
  | 2 => rfl
  | 3 => rfl

/-! ### Scalar arithmetic -/

/-- An instruction of the two-operand form completes with the value of its function (R63). -/
theorem completes_alu2 {i : Instr} {s : State} {d a b : SReg} {f : Word → Word → Word} {v : Word}
    (ready : s.Ready anyone [d, a, b]) (run : exec i s = .next (s.alu2 d a b f))
    (value : f (s.th.sreg a) (s.th.sreg b) = v) : Completes i s (Wrote s · d v) :=
  ⟨_, run, value ▸ State.alu2_wrote ready f⟩

/-- The same of the one-operand form (R63, R64). -/
theorem completes_alu1 {i : Instr} {s : State} {d a : SReg} {f : Word → Word} {v : Word}
    (ready : s.Ready anyone [d, a]) (run : exec i s = .next (s.alu1 d a f))
    (value : f (s.th.sreg a) = v) : Completes i s (Wrote s · d v) :=
  ⟨_, run, value ▸ State.alu1_wrote ready f⟩

/-- What issues with some register names issues with fewer. -/
theorem State.Ready.mono {s : State} {w : Who} {names fewer : List SReg} (h : s.Ready w names) (sub : ∀ r ∈ fewer, r ∈ names) :
    s.Ready w fewer := by
  obtain ⟨admits, issues⟩ := h
  refine ⟨?_, ?_⟩
  · unfold State.admits at admits ⊢
    split
    · next sys => rwa [if_pos sys] at admits
    · next group =>
      rw [if_neg group] at admits
      split
      · next sprout =>
        rw [if_pos sprout, Bool.and_eq_true, List.all_eq_true] at admits
        rw [Bool.and_eq_true, List.all_eq_true]
        exact ⟨admits.1, fun r hr => admits.2 r (sub r hr)⟩
      · next full => rwa [if_neg full] at admits
  · simp only [Thread.canIssue, Bool.and_eq_true, Bool.not_eq_true', List.any_eq_false] at issues ⊢
    exact ⟨issues.1, fun r hr => issues.2 r (sub r hr)⟩

/-- Settles O1: each is the two-operand form of its function. -/
theorem addLogicShift : Obligations.AddLogicShift := by
  intro s d a b ready x y
  have shift : (y % 64).toNat = amount y := amount_eq y
  refine ⟨completes_alu2 ready rfl rfl, completes_alu2 ready rfl rfl, completes_alu2 ready rfl rfl,
    completes_alu2 ready rfl rfl, completes_alu2 ready rfl rfl, completes_alu2 ready rfl rfl,
    completes_alu2 ready rfl ?_, completes_alu2 ready rfl ?_, completes_alu2 ready rfl ?_⟩
  · exact congrArg (x <<< ·) shift.symm
  · exact congrArg (x >>> ·) shift.symm
  · exact congrArg x.sshiftRight shift.symm

theorem multiplyDivide : Claims.MultiplyDivide := by
  intro s d a b ready x y
  exact ⟨completes_alu2 ready rfl rfl, completes_alu2 ready rfl (mulHighS_eq x y), completes_alu2 ready rfl (mulHighZ_eq x y),
    completes_alu2 ready rfl (divSigned_eq x y), completes_alu2 ready rfl (divUnsigned_eq x y),
    completes_alu2 ready rfl (remSigned_eq x y), completes_alu2 ready rfl (remUnsigned_eq x y)⟩

theorem compareCount : Claims.CompareCount := by
  intro s d a b ready x y
  have one : s.Ready anyone [d, a] := ready.mono (by simp)
  refine ⟨completes_alu2 ready rfl (ite_slt_eq_ite_le id), completes_alu2 ready rfl (ite_ult_eq_ite_le id),
    completes_alu2 ready rfl (ite_slt_eq_ite_le Eq.symm), completes_alu2 ready rfl (ite_ult_eq_ite_le Eq.symm),
    completes_alu2 ready rfl (boolWord_decide _), completes_alu2 ready rfl (boolWord_decide _),
    completes_alu2 ready rfl ?seq, ?clz, ?ctz, completes_alu1 one rfl ?popc, ?bext⟩
  case seq => exact boolWord_decide (x = y)
  case clz =>
    obtain ⟨le, lt, bit⟩ := leadingZeros_spec x
    exact ⟨_, rfl, _, le, State.alu1_wrote one _, lt, bit⟩
  case ctz =>
    obtain ⟨le, low, bit⟩ := trailingZeros_spec x.toNat 64
    exact ⟨_, rfl, _, le, State.alu1_wrote one _, low, bit⟩
  case popc => rw [popCount_eq]; rfl
  case bext =>
    exact ⟨_, rfl, _, State.alu2_wrote ready _, fieldOf_getLsbD x _ (by omega)⟩

/-- Settles O2, from the functions of Table 4.6. -/
theorem integerOps : Obligations.IntegerOps := ⟨multiplyDivide, compareCount⟩

/-- Settles O3: the forms of one operand, with the immediate for the other. -/
theorem immediates : Obligations.Immediates := by
  intro s d a imm n w k v imm19 ready x i
  have own : s.Ready anyone [d] := ready.mono (by simp)
  have none : s.Ready anyone [] := ready.mono (by simp)
  refine ⟨completes_alu1 ready rfl rfl, completes_alu1 ready rfl rfl, completes_alu1 ready rfl rfl,
    completes_alu1 ready rfl rfl, completes_alu1 ready rfl rfl, completes_alu1 ready rfl rfl, completes_alu1 ready rfl rfl,
    completes_alu1 ready rfl (boolWord_decide _), completes_alu1 ready rfl (boolWord_decide _), ?bexti, ?lhi, ?pcadd, ?nop⟩
  case bexti => exact ⟨_, rfl, _, State.alu1_wrote ready _, fieldOf_getLsbD x _ (by omega)⟩
  case lhi => exact completes_alu1 (ready.mono (by simp)) rfl (lhiValue_eq _ k v)
  case pcadd =>
    refine ⟨_, congrArg Host.Outcome.next (State.issue_ready own _), ?_⟩
    have pc : s.issued.th.pc = s.th.pc := by rw [State.issued_th]
    rw [pc]
    exact s.finish_issued d _
  case nop =>
    refine ⟨_, congrArg Host.Outcome.next (State.issue_ready none _), ?_⟩
    have pc : s.issued.th.pc = s.th.pc := by rw [State.issued_th]
    have advance : s.issued.advance = s.issued.goto (s.th.pc + 4) := by
      simp only [State.advance, State.goto, State.modThread, Thread.advance]
      rw [← pc]; rfl
    rw [advance]
    exact s.goto_issued _

end Sys2Proof.Machine

namespace Sys2Proof.Machine

open Sys2Proof

/-! ### Chains of changes of one record -/

theorem fset_fset {α : Type} (m : FMap α) (k : Nat) (v w : α) : fset (fset m k v) k w = fset m k w := by
  induction m with
  | nil => simp [fset]
  | cons p m ih =>
    obtain ⟨j, u⟩ := p
    rcases Nat.lt_trichotomy k j with lt | rfl | gt
    · simp [fset, lt]
    · simp [fset]
    · simp [fset, Nat.lt_asymm gt, Nat.ne_of_gt gt, ih]

/-- Two changes of one agent's record are one. -/
theorem State.modThread_comp (s : State) (k : Nat) (f g : Thread → Thread) :
    (s.modThread k f).modThread k g = s.modThread k (fun t => g (f t)) := by
  simp [State.modThread, State.setThread, State.thread, fset_fset]

theorem State.onlyRunning_modThread (s : State) (f : Thread → Thread) : OnlyRunning s (s.modThread s.cur f) :=
  (OnlyRunning.refl s).modThread f

/-! ### Targets (R32) -/

/-- The words of an offset from an address, as its sign extension. -/
theorem ofInt_mul_toInt {w v : Nat} (k : Int) (x : BitVec w) : BitVec.ofInt v (k * x.toInt) = x.signExtend v * BitVec.ofInt v k := by
  rw [BitVec.ofInt_mul, BitVec.mul_comm]; rfl

theorem wordTarget_eq {w : Nat} (pc : BitVec 56) (off : BitVec w) : wordTarget pc off.toInt = pc + off.signExtend 56 * 4 :=
  congrArg (pc + ·) (ofInt_mul_toInt 4 off)

/-! ### Conditional branches (R52, R77) -/

/-- An issue changes no more of the state than the records of agents. -/
theorem State.issued_threads (s : State) : s.issued = { s with threads := s.issued.threads } := s.issued_rest

theorem State.groupNo_issued (s : State) : s.issued.groupNo s.cur = s.groupNo s.cur := by
  have req : (s.issued.thread s.cur).req = (s.thread s.cur).req := by
    have th : s.issued.thread s.cur = s.issued.th := by rw [State.th, State.issued_cur]
    rw [th, State.issued_th]; rfl
  have core (c : Nat) : s.issued.core c = s.core c := by rw [State.issued_threads]; rfl
  simp only [State.groupNo, State.countKey, req, core]

/-- A core whose predictor has learned what a branch did, in one counter (R52). -/
def Core.trained (c : Core) (i : Nat) (taken : Bool) : Core :=
  { c with predictor := fset c.predictor i (count2 (fgetD c.predictor i 1) taken) }

/-- A branch that issues trains one counter of its core and goes on. -/
theorem State.branched_train_goto (s : State) (taken : Bool) (target : BitVec 56) :
    Branched s ((s.issued.train taken).goto (if taken then target else s.th.pc + 4)) taken target := by
  have went := s.goto_issued (if taken then target else s.th.pc + 4)
  have pc : s.issued.th.pc = s.th.pc := by rw [State.issued_th]
  have trained : s.issued.train taken =
      s.issued.modCore (tlbPlace s.cur) (·.trained (predictorIndex s.th.pc (s.groupNo s.cur)) taken) := by
    rw [State.train, State.issued_cur, pc, State.groupNo_issued]; rfl
  have core (c : Nat) : (s.issued.modCore (tlbPlace s.cur)
      (·.trained (predictorIndex s.th.pc (s.groupNo s.cur)) taken)).core c =
        if c = tlbPlace s.cur then (s.core c).trained (predictorIndex s.th.pc (s.groupNo s.cur)) taken else s.core c := by
    have before : s.issued.core c = s.core c := by rw [State.issued_threads]; rfl
    by_cases here : c = tlbPlace s.cur
    · subst here; rw [State.core_modCore_self, before, if_pos rfl]
    · rw [State.core_modCore_ne _ _ here, before, if_neg here]
  rw [trained]
  refine ⟨went.agent, went.only.others, s.issued_mem, fun c i => ?counter, fun c => ?cores, ?rest⟩
  case rest => rw [State.issued_threads]; rfl
  case counter =>
    rw [State.goto, State.core_modThread, core, apply_ite (fun x : Core => fgetD x.predictor i 1), Core.trained, fgetD_fset,
      ite_and]
    by_cases own : i = predictorIndex s.th.pc (s.groupNo s.cur)
    · subst own; rfl
    · simp only [if_neg own]
  case cores =>
    rw [State.goto, State.core_modThread, core]
    split <;> rfl

/-- A conditional branch completes with its test as the branch's outcome (R77). -/
theorem completes_branchIf {i : Instr} {s : State} {a b : SReg} {off : BitVec 13} {test : Word → Word → Bool} {taken : Bool}
    (ready : s.Ready anyone [a, b]) (run : exec i s = .next (s.branchIf a b off test))
    (outcome : test (s.th.sreg a) (s.th.sreg b) = taken) :
    Completes i s (Branched s · taken (s.th.pc + off.signExtend 56 * 4)) := by
  have pc : s.issued.th.pc = s.th.pc := by rw [State.issued_th]
  refine ⟨_, run, ?_⟩
  rw [State.branchIf, State.issue_ready ready]
  simp only [State.issued_sreg, outcome, pc, wordTarget_eq]
  exact s.branched_train_goto taken _

/-- Settles O6: the test of each instruction is its comparison. -/
theorem conditionalBranches : Obligations.ConditionalBranches := by
  intro s a b off ready x y target
  have notLess (p q : Prop) [Decidable p] [Decidable q] (h : ¬ p ↔ q) : (!decide p) = decide q := by
    rw [← decide_not, decide_eq_decide]; exact h
  refine ⟨completes_branchIf ready rfl ?beq, completes_branchIf ready rfl ?bne, completes_branchIf ready rfl rfl,
    completes_branchIf ready rfl ?bgeS, completes_branchIf ready rfl rfl, completes_branchIf ready rfl ?bgeZ⟩
  case beq => exact beq_eq_decide x y
  case bne => rw [bne, beq_eq_decide, decide_not]
  case bgeS => exact notLess _ _ Int.not_lt
  case bgeZ => exact notLess _ _ Nat.not_lt

/-! ### Jumps (R78) -/

/-- The record of an agent that has linked to sd and jumped. -/
def Thread.linked (t : Thread) (d : SReg) (stack : List (BitVec 56)) (pc : BitVec 56) : Thread :=
  ({ t.setSreg d ((t.pc + 4).setWidth 64) with retStack := stack } : Thread).goto pc

/-- What a link and a jump leave, whatever becomes of the return stack. -/
theorem State.linked_spec (s : State) (d : SReg) (stack : List (BitVec 56)) (pc : BitVec 56) :
    let t := s.modThread s.cur (fun t => t.linked d stack pc)
    (t.thread s.cur).sreg d = (s.th.pc + 4).setWidth 64 ∧ (∀ r, r ≠ d → (t.thread s.cur).sreg r = s.th.sreg r) ∧
      t.thread s.cur = { s.th with
        sregs := (t.thread s.cur).sregs, pc := pc, retStack := stack, counters := bumpMap s.th.counters 0 1 } ∧
      OnlyRunning s t := by
  intro t
  have agent : t.thread s.cur = s.th.linked d stack pc := s.thread_modThread_self _ _
  rw [agent]
  exact ⟨s.th.sreg_setSreg_self d _, fun r ne => s.th.sreg_setSreg_ne _ ne, rfl, s.onlyRunning_modThread _⟩

/-- Settles O7: `jal` and `jalr` link and jump, and a bad target of `jalr` traps before anything is written. -/
theorem jumpAndLink : Obligations.JumpAndLink := by
  refine ⟨fun s d off free => ?jal, fun s d a off free => ?jalr⟩
  case jal =>
    rw [← wordTarget_eq]
    exact ⟨_, congrArg Host.Outcome.next (State.issue_free free _), s.linked_spec d _ _⟩
  intro target
  refine ⟨fun aligned low => ?jump, fun b x enter => ⟨fun bad => ?misaligned, fun aligned high => ?range⟩⟩
  all_goals
    have formed : s.th.sreg a + BitVec.ofInt 64 (4 * off.toInt) = target := congrArg (s.th.sreg a + ·) (ofInt_mul_toInt 4 off)
    refine ⟨_, congrArg Host.Outcome.next (State.issue_free free _), ?_⟩
    simp only [formed]
  case jump =>
    rw [if_neg (not_not_intro aligned), if_neg (Nat.not_le.mpr low), BitVec.ofNat_toNat]
    exact s.linked_spec d _ _
  case misaligned =>
    rw [if_pos bad]
    exact State.trapVa_inHandler enter (by decide) _
  case range =>
    rw [if_neg (not_not_intro aligned), if_pos high]
    exact State.trapVa_inHandler enter (by decide) _

/-! ### Branches on a predicate (R79) -/

theorem State.issuePred_done {s : State} {p : PReg} (free : s.Free computeOnly []) (own : s.predOk p = true)
    (done : s.th.clausesDone = true) (body : State → State) : s.issuePred p [] body = body s :=
  (if_pos own).trans (State.issueLaneRead_done free done body)

/-- A branch on a predicate goes to its target where its test holds, and to the next word otherwise. -/
theorem completes_branchPred {i : Instr} {s : State} {p : PReg} {off : BitVec 13} {test : BitVec 64 → BitVec 64 → Bool}
    (free : s.Free computeOnly []) (own : s.predOk p = true) (done : s.th.clausesDone = true)
    (run : exec i s = .next (s.branchPred p off test)) :
    Completes i s (WentTo s · (if test s.th.mask (s.th.mask &&& s.th.pred p.val) then s.th.pc + off.signExtend 56 * 4
      else s.th.pc + 4)) := by
  refine ⟨_, run, ?_⟩
  rw [State.branchPred, State.issuePred_done free own done, ← wordTarget_eq]
  exact State.goto_wentTo free.2 _

/-- Some lane of a mask has a bit where their conjunction is not empty. -/
theorem and_ne_zero_iff {m q : BitVec 64} :
    (m &&& q != 0) = true ↔ ∃ i, i < 64 ∧ m.getLsbD i = true ∧ q.getLsbD i = true := by
  rw [bne_iff_ne]
  constructor
  · intro ne
    by_contra none
    push Not at none
    refine ne (BitVec.eq_of_getLsbD_eq fun i hi => ?_)
    cases hm : m.getLsbD i
    · simp [hm]
    · simpa [hm] using none i hi hm
  · rintro ⟨i, -, hm, hq⟩ e
    have bit := congrArg (BitVec.getLsbD · i) e
    simp [hm, hq] at bit

theorem and_eq_self_iff {m q : BitVec 64} :
    (m &&& q == m) = true ↔ ∀ i, i < 64 → m.getLsbD i = true → q.getLsbD i = true := by
  rw [beq_iff_eq]
  constructor
  · intro e i _ hm
    have bit := congrArg (BitVec.getLsbD · i) e
    simpa [hm] using bit
  · intro all
    refine BitVec.eq_of_getLsbD_eq fun i hi => ?_
    rw [BitVec.getLsbD_and]
    cases hm : m.getLsbD i
    · rfl
    · exact all i hi hm

/-- Settles O8: the tests of `bany` and `ball` are those of some and of every lane under MASK. -/
theorem predicateBranches : Obligations.PredicateBranches := by
  intro s p off free own done target some' all'
  have bany := completes_branchPred (i := .bany p off) free own done rfl
  have ball := completes_branchPred (i := .ball p off) free own done rfl
  refine ⟨fun h => ?_, fun h => ?_, fun h => ?_, fun h => ?_⟩
  · rwa [if_pos (and_ne_zero_iff.mpr h)] at bany
  · rwa [if_neg (fun e => h (and_ne_zero_iff.mp e))] at bany
  · rwa [if_pos (and_eq_self_iff.mpr h)] at ball
  · rwa [if_neg (fun e => h (and_eq_self_iff.mp e))] at ball

/-! ### Divergence (R80–R83) -/

theorem AgentOnly.refl (s : State) (k : Nat) : AgentOnly s s k (s.thread k) := ⟨rfl, fun _ _ => rfl, SameElse.refl s⟩

theorem SameElse.cur {s t : State} (h : SameElse s t) : t.cur = s.cur := by rw [h]

theorem SameElse.mem {s t : State} (h : SameElse s t) : t.mem = s.mem := by rw [h]

/-- A further change of the one record that differs. -/
theorem AgentOnly.modThread {s t : State} {k : Nat} {x : Thread} (h : AgentOnly s t k x) (f : Thread → Thread) :
    AgentOnly s (t.modThread k f) k (f x) where
  agent := by rw [State.thread_modThread_self, h.agent]
  others j hj := by rw [State.thread_modThread_ne _ _ hj, h.others j hj]
  rest := h.rest.trans (t.sameElse_modThread _ f)

section
variable {s t : State} {x : Thread}

theorem AgentOnly.setMask (h : AgentOnly s t s.cur x) (m : BitVec 64) : AgentOnly s (t.setMask m) s.cur { x with mask := m } := by
  rw [State.setMask, h.rest.cur]; exact h.modThread _

theorem AgentOnly.advance (h : AgentOnly s t s.cur x) : AgentOnly s t.advance s.cur x.advance := by
  rw [State.advance, h.rest.cur]; exact h.modThread _

theorem AgentOnly.goto (h : AgentOnly s t s.cur x) (pc : BitVec 56) : AgentOnly s (t.goto pc) s.cur (x.goto pc) := by
  rw [State.goto, h.rest.cur]; exact h.modThread _

theorem AgentOnly.onlyRunning (h : AgentOnly s t s.cur x) : OnlyRunning s t :=
  ⟨h.others, h.rest, fun a => by rw [h.rest.mem]⟩

theorem AgentOnly.diverged (h : AgentOnly s t s.cur x) {mask : BitVec 64} {stack : List MaskEntry} {region : Option Region}
    {pc : BitVec 56}
    (e : x = { s.th with mask := mask, mstack := stack, region := region, pc := pc, counters := bumpMap s.th.counters 0 1 }) :
    Diverged s t mask stack region pc := ⟨h.agent.trans e, h.onlyRunning⟩

end

/-- A push with room in hardware. -/
theorem State.pushMask_room {s : State} (shallow : s.th.depth < 1024) (room : s.th.mstack.length < 32) (e : MaskEntry)
    (body : State → State) :
    s.pushMask e body = body (s.modThread s.cur (fun t => { t with mstack := e :: t.mstack })) :=
  (if_neg (Nat.not_le.mpr shallow)).trans (if_pos room)

theorem State.withTop_hardware {s : State} {e : MaskEntry} {rest : List MaskEntry} (top : s.th.mstack = e :: rest)
    (body : State → State) : s.withTop body = body s := by
  rw [State.withTop, top]; rfl

/-- A pop that leaves an entry in hardware, or none in memory. -/
theorem State.popMask_hardware {s : State} {e : MaskEntry} {rest : List MaskEntry} (top : s.th.mstack = e :: rest)
    (last : rest = [] → s.th.mspilled = 0) (body : State → State) :
    s.popMask body = body (s.modThread s.cur (fun t => { t with region := t.regionAfterPop, mstack := t.mstack.drop 1 })) := by
  have stays : ¬ ((s.modThread s.cur (fun t => { t with region := t.regionAfterPop })).th.mstack.length = 1 ∧
      0 < (s.modThread s.cur (fun t => { t with region := t.regionAfterPop })).th.mspilled) := by
    rw [State.th_modThread]
    rintro ⟨one, spilled⟩
    have empty : rest = [] := by simpa [top] using one
    exact absurd (last empty) (Nat.ne_of_gt spilled)
  exact (if_neg stays).trans (congrArg body (State.modThread_comp _ _ _ _))

/-- Settles O9: each is one change of the running agent's record, with the stack held in hardware. -/
theorem divergence : Obligations.Divergence := by
  intro s p off far free own done m q pc st
  have issue (body : State → State) : s.issue computeOnly [] body = body s := State.issue_free free body
  have issuePred (body : State → State) : s.issuePred p [] body = body s := State.issuePred_done free own done body

  refine ⟨fun shallow room => ⟨?divb, ?dloop⟩, fun e rest top => ?popping⟩
  case divb =>
    refine ⟨_, congrArg Host.Outcome.next ((issuePred _).trans (State.pushMask_room shallow room _ _)), ?_⟩
    dsimp only
    by_cases none : m &&& q = 0
    · rw [if_neg (not_not_intro none), if_pos none, none, ← wordTarget_eq]
      exact (((AgentOnly.refl s s.cur).modThread _).setMask 0).goto _ |>.diverged rfl
    · rw [if_pos none, if_neg none]
      exact (((AgentOnly.refl s s.cur).modThread _).setMask _).advance.diverged rfl
  case dloop =>
    refine ⟨_, congrArg Host.Outcome.next ((issue _).trans (State.pushMask_room shallow room _ _)), ?_⟩
    rw [← wordTarget_eq]
    exact ((AgentOnly.refl s s.cur).modThread _).advance.diverged rfl
  have onTop (body : State → State) : s.withTop body = body s := State.withTop_hardware top body
  replace top : s.th.mstack = e :: rest := top
  have popped (last : rest = [] → s.th.mspilled = 0) (body : State → State) : s.popMask body = _ :=
    State.popMask_hardware top last body
  have same : AgentOnly s s s.cur s.th := AgentOnly.refl s s.cur
  refine ⟨fun ifK => ?delse, fun last => ⟨fun notLoop => ?djoin, fun loop leaves => ?leave, fun loop empty => ?last⟩,
    fun loop stay => ?dbrk, fun loop some' => ?dnext⟩
  case delse =>
    refine ⟨_, congrArg Host.Outcome.next ((issue _).trans (onTop _)), ?_⟩
    simp only [top, ifK, if_true]
    by_cases none : e.pending = 0
    · rw [if_neg (not_not_intro none), if_pos none, if_pos none, ← wordTarget_eq]
      exact ((same.modThread _).goto _).diverged rfl
    · rw [if_pos none, if_neg none, if_neg none]
      exact ((same.modThread _).setMask _).advance.diverged rfl
  case djoin =>
    refine ⟨_, congrArg Host.Outcome.next ((issue _).trans (onTop _)), ?_⟩
    simp only [top, notLoop, if_false, popped last]
    exact ((same.modThread _).setMask _).advance.diverged (by rw [top]; rfl)
  case leave =>
    refine ⟨_, congrArg Host.Outcome.next ((issuePred _).trans (onTop _)), ?_⟩
    simp only [top, loop, if_true, popped last]
    rw [if_pos leaves]
    exact (((same.modThread _).setMask _).goto _).diverged (by rw [top]; rfl)
  case last =>
    refine ⟨_, congrArg Host.Outcome.next ((issue _).trans (onTop _)), ?_⟩
    simp only [top, loop, if_true, popped last]
    rw [if_neg (not_not_intro empty)]
    exact ((same.modThread _).setMask _).advance.diverged (by rw [top]; rfl)
  case dbrk =>
    refine ⟨_, congrArg Host.Outcome.next ((issuePred _).trans (onTop _)), ?_⟩
    simp only [top, loop, if_true]
    rw [if_neg stay]
    exact (same.setMask _).advance.diverged rfl
  case dnext =>
    refine ⟨_, congrArg Host.Outcome.next ((issue _).trans (onTop _)), ?_⟩
    simp only [top, loop, if_true]
    rw [if_pos some', ← wordTarget_eq]
    exact (same.goto _).diverged rfl

end Sys2Proof.Machine

namespace Sys2Proof.Machine

open Sys2Proof

/-! ### Translation does not depend on what an agent computes -/

/-- A translation reads of an agent's record its core and its plot alone. -/
theorem State.xlat_congr {s t : State} {key : Nat} (rest : SameElse s t) (core : (t.thread key).core = (s.thread key).core)
    (plot : (t.thread key).plot = (s.thread key).plot) (va : Nat) : t.xlat key va = s.xlat key va := by
  have path : t.tlbPath key = s.tlbPath key := by unfold State.tlbPath State.plotOf; rw [core, plot]
  have own : t.plotOf key = s.plotOf key := plot
  unfold State.xlat State.walkFor
  rw [path, own, rest]
  rfl

theorem AgentOnly.xlat {s t : State} {key : Nat} {x : Thread} (h : AgentOnly s t key x) (core : x.core = (s.thread key).core)
    (plot : x.plot = (s.thread key).plot) (va : Nat) : t.xlat key va = s.xlat key va :=
  State.xlat_congr h.rest ((congrArg Thread.core h.agent).trans core) ((congrArg Thread.plot h.agent).trans plot) va

/-! ### Numbers that are written and read back -/

theorem Store.bytes_write {m : Store} (h : m.headers = []) (a : Nat) (bs : List Byte) : (m.write a bs).bytes a bs.length = bs := by
  refine List.ext_getElem (Store.bytes_length _ _ _) fun i _ hi => ?_
  have byte := Store.byte_write_inside m a bs i hi (by simp [h])
  rw [← Store.bytes_getD _ a _ i hi] at byte
  simpa [List.getD, hi] using byte

theorem Store.num_write {m : Store} (h : m.headers = []) (a : Nat) (bs : List Byte) :
    (m.write a bs).num a bs.length = leNat bs := by rw [Store.num, Store.bytes_write h]

/-- What is stored of a mask-stack entry gives it back (Table 4.10). -/
theorem maskEntryOf_maskEntryNum (e : MaskEntry) : maskEntryOf (maskEntryNum e) = e := by
  obtain ⟨kind, outer, pending, target⟩ := e
  have field {w n : Nat} {x : BitVec w} (h : n % 2 ^ w = x.toNat) : BitVec.ofNat w n = x :=
    BitVec.eq_of_toNat_eq ((BitVec.toNat_ofNat _ _).trans h)
  have code : maskKindCode kind < 4 := by cases kind <;> decide
  have low : maskEntryNum ⟨kind, outer, pending, target⟩ % 4 = maskKindCode kind := by simp only [maskEntryNum]; omega
  have ho := outer.isLt
  have hp := pending.isLt
  have ht := target.isLt
  unfold maskEntryOf
  rw [low]
  congr 1
  · cases kind <;> rfl
  all_goals
    apply field
    simp only [maskEntryNum]
    omega

theorem maskEntryNum_lt (e : MaskEntry) : maskEntryNum e < 256 ^ 32 := by
  have code : maskKindCode e.kind < 4 := by cases e.kind <;> decide
  have ho := e.outer.isLt
  have hp := e.pending.isLt
  have ht := e.target.isLt
  simp only [maskEntryNum]
  omega

/-! ### The block area (R81, R270) -/

theorem State.areaAccess_ok {s : State} {key va : Nat} {wr : Bool} {x : Xlat} (hold : (s.thread key).walkHold = none)
    (page : s.xlat key va = .ok x) (may : (if wr then x.wr else x.rd) = true) : s.areaAccess key va wr = .ok x := by
  unfold State.areaAccess
  simp only [hold, page, may, if_true]

theorem State.admitWrite_free {s : State} {pa : Nat} (idle : s.waiters = []) (open' : s.refreshing pa = false) (w : Writer) :
    s.admitWrite w pa = (s, true) := by
  unfold State.admitWrite
  rw [State.blocks_of_none idle, open', State.leave_of_none idle]
  rfl

@[simp] theorem State.put_cur (s : State) (plot pa : Nat) (bs : List Byte) : (s.put plot pa bs).cur = s.cur := by
  rw [State.put_rest]

@[simp] theorem State.put_mem (s : State) (plot pa : Nat) (bs : List Byte) : (s.put plot pa bs).mem = s.mem.write pa bs := by
  rw [State.put_rest]

@[simp] theorem State.thread_put (s : State) (plot pa : Nat) (bs : List Byte) (k : Nat) :
    (s.put plot pa bs).thread k = s.thread k := by rw [State.thread, State.put_threads]; rfl

/-- The bottom entry in hardware has been written to an address, and is counted as spilled (R81). -/
def State.spilled (s : State) (pa : Nat) (bottom : MaskEntry) : State :=
  (s.put (s.plotOf s.cur) pa (leBytes 32 (maskEntryNum bottom))).modThread s.cur
    (fun t => { t with mstack := t.mstack.dropLast, mspilled := t.mspilled + 1, walkHold := none })

/-- A push at hardware depth 32 that finds its place. -/
theorem State.pushMask_spill {s : State} {b : Block} {bottom : MaskEntry} {x : Xlat} (notSprout : isSproutKey s.cur = false)
    (block : s.blockOf s.cur = some b) (region : b.launch.spill ≠ 0) (hold : s.th.walkHold = none)
    (full : s.th.mstack.length = 32) (last : s.th.mstack.getLast? = some bottom) (shallow : s.th.depth < 1024)
    (page : s.xlat s.cur (b.spillVa (ctxOfKey s.cur) s.th.mspilled) = .ok x) (writable : x.wr = true)
    (idle : s.waiters = []) (open' : s.refreshing x.pa = false) (e : MaskEntry) (body : State → State) :
    s.pushMask e body =
      body ((s.spilled x.pa bottom).modThread (s.spilled x.pa bottom).cur (fun t => { t with mstack := e :: t.mstack })) := by
  have access := State.areaAccess_ok (wr := true) hold page writable
  have place : ¬ (isSproutKey s.cur = true ∨ b.launch.spill = 0) := by simp [notSprout, region]
  unfold State.pushMask
  simp only [Nat.not_le.mpr shallow, full, Nat.lt_irrefl, if_false, block, last, place, access,
    State.admitWrite_free idle open', if_true]
  rfl

/-- The spilled entry's agent, and memory. -/
theorem State.thread_spilled (s : State) (pa : Nat) (bottom : MaskEntry) :
    (s.spilled pa bottom).thread s.cur =
      { s.th with mstack := s.th.mstack.dropLast, mspilled := s.th.mspilled + 1, walkHold := none } := by
  rw [State.spilled, State.thread_modThread_self, State.thread_put]; rfl

theorem State.mem_spilled (s : State) (pa : Nat) (bottom : MaskEntry) :
    (s.spilled pa bottom).mem = s.mem.write pa (leBytes 32 (maskEntryNum bottom)) := s.put_mem _ _ _

theorem maskEntryOf_spilled {s : State} (h : s.mem.headers = []) (pa : Nat) (bottom : MaskEntry) :
    maskEntryOf ((s.spilled pa bottom).mem.num pa 32) = bottom := by
  have read := Store.num_write h pa (leBytes 32 (maskEntryNum bottom))
  rw [Sys2Proof.length_leBytes, Sys2Proof.leNat_leBytes_of_lt (maskEntryNum_lt bottom)] at read
  rw [State.mem_spilled, read, maskEntryOf_maskEntryNum]

theorem State.spilled_outside (s : State) (pa : Nat) (bottom : MaskEntry) : SameBytesOutside s (s.spilled pa bottom) pa 32 := by
  intro a out
  rw [State.mem_spilled]
  exact Store.byte_write_outside _ _ _ _ (by rwa [Sys2Proof.length_leBytes])

/-! ### Pushes (R81) -/

theorem maskStackPushes : Claims.MaskStackPushes := by
  intro s p off far b x free notSprout block region hold done m q pc
  have own : s.predOk p = true := by simp [State.predOk, notSprout]
  have issue (body : State → State) : s.issue computeOnly [] body = body s := State.issue_free free body
  have issuePred (body : State → State) : s.issuePred p [] body = body s := State.issuePred_done free own done body
  refine ⟨fun bottom full last shallow page writable idle open' => ?spills, fun y enter deep => ⟨?dloopFails, ?divbFails⟩⟩
  case spills =>
    have push (e : MaskEntry) (body : State → State) : s.pushMask e body = _ :=
      State.pushMask_spill notSprout block region hold full last shallow page writable idle open' e body
    have cur : (s.spilled x.pa bottom).cur = s.cur := s.put_cur _ _ _
    have agent : (s.spilled x.pa bottom).thread (s.spilled x.pa bottom).cur = _ := cur ▸ s.thread_spilled x.pa bottom
    have same : AgentOnly (s.spilled x.pa bottom) (s.spilled x.pa bottom) (s.spilled x.pa bottom).cur _ := AgentOnly.refl _ _
    rw [agent] at same
    intro pushed
    have holds {t : State} {th : Thread} {e : MaskEntry} {mask : BitVec 64} {next : BitVec 56}
        (h : AgentOnly (s.spilled x.pa bottom) t (s.spilled x.pa bottom).cur th)
        (stack : th.mstack = e :: s.th.mstack.dropLast) (count : th.mspilled = s.th.mspilled + 1) (hm : th.mask = mask)
        (hpc : th.pc = next) :
        (t.thread s.cur).mstack = e :: s.th.mstack.dropLast ∧ (t.thread s.cur).mspilled = s.th.mspilled + 1 ∧
          (t.thread s.cur).mask = mask ∧ (t.thread s.cur).pc = next ∧
          (s.mem.headers = [] → maskEntryOf (t.mem.num x.pa 32) = bottom) ∧ SameBytesOutside s t x.pa 32 := by
      rw [cur] at h
      rw [h.agent, SameBytesOutside, h.rest.mem]
      exact ⟨stack, count, hm, hpc, fun none => maskEntryOf_spilled none _ _, s.spilled_outside _ _⟩
    constructor
    · refine ⟨_, congrArg Host.Outcome.next ((issue _).trans (push _ _)), ?_⟩
      rw [← wordTarget_eq]
      exact holds (same.modThread _).advance rfl rfl rfl rfl
    · refine ⟨_, congrArg Host.Outcome.next ((issuePred _).trans (push _ _)), ?_⟩
      dsimp only
      by_cases none : m &&& q = 0
      · rw [if_neg (not_not_intro none), if_pos none, none, ← wordTarget_eq]
        exact holds (((same.modThread _).setMask 0).goto _) rfl rfl rfl rfl
      · rw [if_pos none, if_neg none]
        exact holds ((same.modThread _).setMask _).advance rfl rfl rfl rfl
  case dloopFails =>
    exact ⟨_, congrArg Host.Outcome.next ((issue _).trans (if_pos deep)), State.trapNow_inHandler enter _⟩
  case divbFails =>
    exact ⟨_, congrArg Host.Outcome.next ((issuePred _).trans (if_pos deep)), State.trapNow_inHandler enter _⟩

/-! ### Pops (R81, R297) -/

/-- The state in which an agent's own question to a home is over. -/
def State.unasked (s : State) (key : Nat) : State :=
  if (s.thread key).asking.isSome then s.modThread key (fun t => { t with asking := none }) else s

theorem AgentOnly.unasked {s t : State} {k : Nat} {x : Thread} (h : AgentOnly s t k x) :
    AgentOnly s (t.unasked k) k { x with asking := none } := by
  unfold State.unasked
  split
  · exact h.modThread _
  · next idle =>
    rw [h.agent, Option.not_isSome_iff_eq_none] at idle
    have same : { x with asking := none } = x := by rw [← idle]
    rwa [same]

/-- An instruction that acts at a home in the package does so at once. -/
theorem State.askHome_inside {s : State} {who : Reader} {key pa : Nat} (inside : s.portOf pa = none) (go : State → State) :
    s.askHome who key pa go = go (s.unasked key) := by
  unfold State.askHome
  rw [State.asking_inside inside]
  rfl

/-- The topmost spilled entry is back in hardware. -/
def Thread.refilled (t : Thread) (top : MaskEntry) : Thread :=
  { t with mstack := [top], mspilled := t.mspilled - 1, walkHold := none }

theorem State.refillMask_reads {s : State} {b : Block} {x : Xlat} (block : s.blockOf s.cur = some b)
    (hold : s.th.walkHold = none) (page : s.xlat s.cur (b.spillVa (ctxOfKey s.cur) (s.th.mspilled - 1)) = .ok x)
    (readable : x.rd = true) (inside : s.portOf x.pa = none) (body : State → State) :
    s.refillMask body = body ((s.unasked s.cur).modThread s.cur (·.refilled (maskEntryOf (s.mem.num x.pa 32)))) := by
  have access := State.areaAccess_ok (wr := false) hold page readable
  have rest := (AgentOnly.refl s s.cur).unasked.rest
  unfold State.refillMask
  simp only [block, access, State.askHome_inside inside, rest.mem, rest.cur]
  rfl

/-- A pop has closed the region that opened at its depth or deeper (R296). -/
def State.regionClosed (s : State) : State := s.modThread s.cur (fun t => { t with region := t.regionAfterPop })

theorem State.agentOnly_regionClosed (s : State) :
    AgentOnly s s.regionClosed s.cur { s.th with region := s.th.regionAfterPop } := (AgentOnly.refl s s.cur).modThread _

theorem AgentOnly.th {s t : State} {x : Thread} (h : AgentOnly s t s.cur x) : t.th = x := by
  rw [State.th, h.rest.cur, h.agent]

/-- A pop of the last entry in hardware, with entries in memory. -/
theorem State.popMask_refills {s : State} {b : Block} {e : MaskEntry} {x : Xlat} (one : s.th.mstack = [e])
    (spilled : 0 < s.th.mspilled) (block : s.blockOf s.cur = some b) (hold : s.th.walkHold = none)
    (page : s.xlat s.cur (b.spillVa (ctxOfKey s.cur) (s.th.mspilled - 1)) = .ok x) (readable : x.rd = true)
    (inside : s.portOf x.pa = none) (body : State → State) :
    s.popMask body =
      body ((s.regionClosed.unasked s.cur).modThread s.cur (·.refilled (maskEntryOf (s.mem.num x.pa 32)))) := by
  have closed := s.agentOnly_regionClosed
  have last : s.regionClosed.th.mstack.length = 1 ∧ 0 < s.regionClosed.th.mspilled := by
    rw [closed.th]; exact ⟨by rw [one]; rfl, spilled⟩
  refine (if_pos last).trans (State.refillMask_reads (s := s.regionClosed) block ?_ ?_ readable inside body)
  · rw [closed.th]; exact hold
  · rw [closed.th]; exact (closed.xlat rfl rfl _).trans page

theorem maskStackPops : Claims.MaskStackPops := by
  intro s p far b x free own block hold done spilled page readable inside top holds
  have issue (body : State → State) : s.issue computeOnly [] body = body s := State.issue_free free body
  have issuePred (body : State → State) : s.issuePred p [] body = body s := State.issuePred_done free own done body
  have same : AgentOnly s s s.cur s.th := AgentOnly.refl s s.cur
  have leaves {t : State} {th : Thread} {st : List MaskEntry} {mask : BitVec 64} {next : BitVec 56}
      (h : AgentOnly s t s.cur th) (stack : th.mstack = st) (count : th.mspilled = s.th.mspilled - 1) (hm : th.mask = mask)
      (hpc : th.pc = next) : holds t st mask next := by
    simp only [holds, h.agent]
    exact ⟨stack, count, hm, hpc, fun a => by rw [h.rest.mem]⟩
  refine ⟨fun e one => ?one, fun none ifK pending => ?delse⟩
  case one =>
    have onTop (body : State → State) : s.withTop body = body s := State.withTop_hardware one body
    have closed := s.agentOnly_regionClosed.unasked.modThread (·.refilled top)
    have popped (body : State → State) : s.popMask body = _ :=
      State.popMask_refills one spilled block hold page readable inside body
    refine ⟨fun notLoop => ?_, fun loop leave => ?_, fun loop empty => ?_⟩
    · refine ⟨_, congrArg Host.Outcome.next ((issue _).trans (onTop _)), ?_⟩
      simp only [one, notLoop, if_false, popped]
      exact leaves (closed.setMask _).advance rfl rfl rfl rfl
    · refine ⟨_, congrArg Host.Outcome.next ((issuePred _).trans (onTop _)), ?_⟩
      simp only [one, loop, if_true, popped]
      rw [if_pos leave]
      exact leaves ((closed.setMask _).goto _) rfl rfl rfl rfl
    · refine ⟨_, congrArg Host.Outcome.next ((issue _).trans (onTop _)), ?_⟩
      simp only [one, loop, if_true, popped]
      rw [if_neg (not_not_intro empty)]
      exact leaves (closed.setMask _).advance rfl rfl rfl rfl
  case delse =>
    have away : (s.th.mstack.isEmpty && decide (0 < s.th.mspilled)) = true := by simp [none, spilled]
    have refill (body : State → State) : s.withTop body = _ :=
      (if_pos away).trans (State.refillMask_reads block hold page readable inside body)
    have read := same.unasked.modThread (·.refilled top)
    refine ⟨_, congrArg Host.Outcome.next ((issue _).trans (refill _)), ?_⟩
    dsimp only
    generalize (s.unasked s.cur).modThread s.cur _ = u at read ⊢
    simp only [read.th, Thread.refilled, ifK, if_true]
    rw [if_pos pending, read.rest.cur]
    exact leaves ((read.modThread _).setMask _).advance rfl rfl rfl rfl

/-- Settles O10, from the pushes and the pops. -/
theorem maskStackSpills : Obligations.MaskStackSpills := ⟨maskStackPushes, maskStackPops⟩

end Sys2Proof.Machine

namespace Sys2Proof.Machine

open Sys2Proof

/-! ### Pending registers (R51) -/

theorem getLsbD_bit (d r : SReg) : (BitVec.ofNat 64 (2 ^ d.val)).getLsbD r.val = decide (r = d) := by
  have inside : decide (r.val < 64) = true := decide_eq_true r.isLt
  rw [BitVec.getLsbD_ofNat, inside, Bool.true_and, Nat.testBit_two_pow, decide_eq_decide, eq_comm, Fin.ext_iff]

/-- Naming a destination makes it pending, and no other register. -/
theorem getLsbD_setBit (pend : BitVec 64) (d r : SReg) :
    (pend ||| BitVec.ofNat 64 (2 ^ d.val)).getLsbD r.val = (pend.getLsbD r.val || decide (r = d)) := by
  rw [BitVec.getLsbD_or, getLsbD_bit]

/-- A value that comes makes its register no longer pending, and no other. -/
theorem getLsbD_clearBit (pend : BitVec 64) (d r : SReg) :
    (pend &&& ~~~(BitVec.ofNat 64 (2 ^ d.val))).getLsbD r.val = (pend.getLsbD r.val && !decide (r = d)) := by
  have inside : decide (r.val < 64) = true := decide_eq_true r.isLt
  rw [BitVec.getLsbD_and, BitVec.getLsbD_not, getLsbD_bit, inside, Bool.true_and]

/-! ### Loads enter the window (R68, R161) -/

theorem State.loadAt_ok {s : State} {d : SReg} {ea : Word} {n : Nat} {x : Xlat} (log : s.logBusy s.cur = false)
    (check : s.checkAccess s.cur .load ea n = .ok x) (sound : s.mem.isPoison x.pa = false) (signed ref : Bool) :
    s.loadAt d ea n signed ref = (s.modThread s.cur (fun t =>
      let t1 := t.enterLoad d signed ea.toNat x.pa n ref x.cellOnly false
      if ref then { t1 with hold := true, refAt := t.pc } else t1.advance)).fill s.cur ea.toNat (.ok x) := by
  unfold State.loadAt
  rw [log, check]
  simp only [sound, Bool.false_eq_true, if_false]

theorem State.loadAt_trap {s : State} {d : SReg} {ea : Word} {n : Nat} {c : BitVec 8} (log : s.logBusy s.cur = false)
    (check : s.checkAccess s.cur .load ea n = .trap c) (signed ref : Bool) :
    s.loadAt d ea n signed ref = s.trapVa c ea.toNat := by
  unfold State.loadAt
  rw [log, check]
  rfl

/-- A scalar load whose checks pass enters the window (R68). -/
theorem completes_scalarLoad {i : Instr} {s : State} {d a : SReg} {imm : BitVec 13} {n : Nat} {signed : Bool} {x : Xlat}
    (free : s.Free anyone [d, a]) (log : s.logBusy s.cur = false)
    (check : s.checkAccess s.cur .load (s.th.sreg a + imm.signExtend 64) n = .ok x) (sound : s.mem.isPoison x.pa = false)
    (run : exec i s = .next (s.scalarLoad d a imm n signed)) :
    Completes i s (LoadIssued s · d signed (s.th.sreg a + imm.signExtend 64).toNat x.pa n x.cellOnly) := by
  refine ⟨_, run.trans (congrArg Host.Outcome.next ((State.issue_free free _).trans
    (State.loadAt_ok log check sound signed false))), ?_⟩
  have agent (f : Thread → Thread) (va : Nat) (r : WalkResult) : ((s.modThread s.cur f).fill s.cur va r).thread s.cur = f s.th := by
    rw [State.thread_fill, State.thread_modThread_self]; rfl
  refine ⟨?window, ?pending, fun r ne => ?others, ?agent, s.keepsAround _ _ _⟩ <;> rw [agent]
  case window => rfl
  case agent => rfl
  case pending => exact (getLsbD_setBit s.th.pendS d d).trans (by simp)
  case others => exact (getLsbD_setBit s.th.pendS d r).trans (by simp [ne, Thread.isPending])

theorem loadsIssue : Claims.LoadsIssue := by
  intro s d a imm x free log ea ok issued
  exact ⟨fun h => completes_scalarLoad free log h.1 h.2 rfl, fun h => completes_scalarLoad free log h.1 h.2 rfl,
    fun h => completes_scalarLoad free log h.1 h.2 rfl, fun h => completes_scalarLoad free log h.1 h.2 rfl,
    fun h => completes_scalarLoad free log h.1 h.2 rfl, fun h => completes_scalarLoad free log h.1 h.2 rfl,
    fun h => completes_scalarLoad free log h.1 h.2 rfl⟩

/-! ### Stores enter the queue (R68, R71) -/

/-- The one part of a scalar store. -/
def storePart (ea v : Word) (n : Nat) (tag : Bool) (x : Xlat) : Part :=
  { lane := 0, va := ea.toNat, pa := x.pa, data := leBytes n v.toNat, tag := tag, obj := x.obj }

theorem State.withRoom_room {s : State} (room : s.th.queueFull = false) (body : State → State) : s.withRoom body = body s := by
  unfold State.withRoom
  rw [room]
  rfl

/-- A store whose checks pass, and whose reference, where it is one, may stand in its container. -/
theorem State.storeAt_ok {s : State} {ea v : Word} {n : Nat} {tag : Bool} {x : Xlat} (room : s.th.queueFull = false)
    (log : s.logBusy s.cur = false) (check : s.checkAccess s.cur .store ea n = .ok x)
    (still : (tag && s.refMoving s.cur v (s.mem.container x.obj x.pa)) = false)
    (may : (tag && s.strefEscapes s.cur v (s.mem.container x.obj x.pa)) = false) :
    s.storeAt ea v n tag = (s.modThread s.cur (fun t =>
      (t.enqueue .store [storePart ea v n tag x] false).advance)).fill s.cur ea.toNat (.ok x) := by
  unfold State.storeAt
  rw [State.withRoom_room room, log, check]
  simp only [still, may, Bool.false_eq_true, if_false]
  rfl

theorem State.storeAt_trap {s : State} {ea v : Word} {n : Nat} {tag : Bool} {c : BitVec 8} (room : s.th.queueFull = false)
    (log : s.logBusy s.cur = false) (check : s.checkAccess s.cur .store ea n = .trap c) :
    s.storeAt ea v n tag = s.trapVa c ea.toNat := by
  unfold State.storeAt
  rw [State.withRoom_room room, log, check]
  rfl

/-- An entry that joins the queue with a change of the record that leaves queue, registers and program counter. -/
theorem State.queued_fill (s : State) (kind : SqKind) (part : Part) {f : Thread → Thread} (va : Nat) (r : WalkResult)
    (queue : (f s.th).sq = s.th.sq ++ [{ seq := s.th.nextId, kind := kind, parts := [part] }])
    (next : (f s.th).pc = s.th.pc + 4) (sregs : (f s.th).sregs = s.th.sregs) :
    Queued s ((s.modThread s.cur f).fill s.cur va r) kind part := by
  have agent : ((s.modThread s.cur f).fill s.cur va r).thread s.cur = f s.th := by
    rw [State.thread_fill, State.thread_modThread_self]; rfl
  refine ⟨?_, ?_, fun r => ?_, s.keepsAround _ _ _⟩ <;> rw [agent]
  · exact queue
  · exact next
  · rw [Thread.sreg, sregs]; rfl

theorem completes_scalarStore {i : Instr} {s : State} {d a : SReg} {imm : BitVec 13} {n : Nat} {x : Xlat}
    (free : s.Free anyone [d, a]) (log : s.logBusy s.cur = false) (room : s.th.queueFull = false)
    (run : exec i s = .next (s.scalarStore d a imm n))
    (check : s.checkAccess s.cur .store (s.th.sreg a + imm.signExtend 64) n = .ok x) :
    Completes i s (Queued s · .store (storePart (s.th.sreg a + imm.signExtend 64) (s.th.sreg d) n false x)) :=
  ⟨_, run.trans (congrArg Host.Outcome.next ((State.issue_free free _).trans (State.storeAt_ok room log check rfl rfl))),
    s.queued_fill _ _ _ _ rfl rfl rfl⟩

theorem storesQueue : Claims.StoresQueue := by
  intro s d a imm x free log room ea queued
  exact ⟨completes_scalarStore free log room rfl, completes_scalarStore free log room rfl,
    completes_scalarStore free log room rfl, completes_scalarStore free log room rfl⟩

/-- Settles O4, from the loads and the stores whose checks pass. -/
theorem memoryIssues : Obligations.MemoryIssues := ⟨loadsIssue, storesQueue⟩

/-! ### The checks of a scalar access (R69) -/

theorem State.checkAccess_misaligned {s : State} {key : Nat} {acc : Access} {ea : Word} {n : Nat} (bad : ea.toNat % n ≠ 0) :
    s.checkAccess key acc ea n = .trap cMisaligned := if_pos bad

theorem State.checkAccess_range {s : State} {key : Nat} {acc : Access} {ea : Word} {n : Nat} (aligned : ea.toNat % n = 0)
    (high : 2 ^ 56 ≤ ea.toNat) : s.checkAccess key acc ea n = .trap cRange :=
  (if_neg (not_not_intro aligned)).trans (if_pos high)

theorem scalarCheckOrder : Claims.ScalarCheckOrder := by
  intro s key acc ea n
  refine ⟨State.checkAccess_misaligned, State.checkAccess_range, fun aligned low => ?_⟩
  unfold State.checkAccess
  rw [if_neg (not_not_intro aligned), if_neg (Nat.not_le.mpr low)]
  refine ⟨fun moving => by rw [moving], ?_, fun x page permits => ?_⟩
  · rintro (absent | ⟨x, page, denied⟩)
    · rw [absent]; rfl
    · rw [page]; simp only [denied, Bool.not_false, if_true]; rfl
  · have writes : (acc != .load && acc != .fetch) = (decide (acc ≠ .load) && decide (acc ≠ .fetch)) := by cases acc <;> rfl
    simp only [page, permits, Bool.not_true, Bool.false_eq_true, if_false, writes]
    exact ⟨fun escapes => if_pos escapes, fun stays => if_neg (ne_true_of_eq_false stays)⟩

end Sys2Proof.Machine

namespace Sys2Proof.Machine

open Sys2Proof

/-! ### What an access leaves in the caches (R23, R109) -/

/-- An access has touched lines: of the machine the caches differ, and what the cores count of them (Table 17.5). -/
structure Touched (s t : State) : Prop where
  threads : t.threads = s.threads
  mem : t.mem = s.mem
  cores : ∀ c, t.core c = { s.core c with l1 := (t.core c).l1, stats := (t.core c).stats }

theorem Touched.refl (s : State) : Touched s s := ⟨rfl, rfl, fun _ => rfl⟩

theorem Touched.trans {s t u : State} (h : Touched s t) (k : Touched t u) : Touched s u where
  threads := k.threads.trans h.threads
  mem := k.mem.trans h.mem
  cores c := by rw [k.cores c, h.cores c]

theorem Touched.thread {s t : State} (h : Touched s t) (k : Nat) : t.thread k = s.thread k := by
  rw [State.thread, h.threads]; rfl

theorem State.touched_modCore (s : State) (k : Nat) {f : Core → Core}
    (hf : ∀ x, f x = { x with l1 := (f x).l1, stats := (f x).stats }) : Touched s (s.modCore k f) where
  threads := rfl
  mem := rfl
  cores c := by
    by_cases h : c = k
    · subst h; rw [State.core_modCore_self]; exact hf _
    · rw [State.core_modCore_ne _ _ h]

theorem State.touched_statPlot (s : State) (key k n : Nat) : Touched s (s.statPlot key k n) :=
  s.touched_modCore _ (fun _ => rfl)

theorem State.touched_statBlock (s : State) (key k n : Nat) : Touched s (s.statBlock key k n) := by
  unfold State.statBlock
  split
  · exact .refl s
  · exact s.touched_modCore _ (fun _ => rfl)

theorem State.touched_countSlice (s : State) (key line : Nat) : Touched s (s.countSlice key line) := by
  unfold State.countSlice
  extract_lets far there s1
  have first : Touched s s1 := by
    unfold s1
    split
    · exact s.touched_statPlot _ _ _
    · exact .refl s
  split
  · exact first
  · split
    · exact first.trans (s1.touched_statPlot _ _ _)
    · have second := (first.trans (s1.touched_statPlot key 0x31 1)).trans (State.touched_statPlot _ key 0x33 1)
      split
      · exact second.trans (State.touched_statPlot _ _ _ _)
      · exact second

theorem State.touched_countLine (s : State) (key line : Nat) : Touched s (s.countLine key line) := by
  unfold State.countLine
  split
  · exact s.touched_statBlock _ _ _
  · exact (s.touched_statBlock _ _ _).trans (State.touched_countSlice _ _ _)

theorem Core.touch_l1 (c : Core) (h : Hint) (line : Nat) : c.touch h line = { c with l1 := (c.touch h line).l1 } := by
  unfold Core.touch
  extract_lets put
  split <;> rfl

theorem State.touched_touchLine (s : State) (key : Nat) (h : Hint) (line : Nat) : Touched s (s.touchLine key h line) :=
  have marked : Touched _ ((s.countLine key line).modCore (tlbPlace key) (fun c => c.touch h line)) :=
    State.touched_modCore _ _ (fun x => by rw [Core.touch_l1])
  ((s.touched_countLine key line).trans marked).trans ⟨rfl, rfl, fun _ => rfl⟩

theorem State.touched_touchCell (s : State) (key pa : Nat) : Touched s (s.touchCell key pa) := by
  unfold State.touchCell
  split
  · exact .refl s
  · exact s.touched_touchLine _ _ _

/-! ### What an access notes elsewhere (R311, R366, R417) -/

/-- Beside bytes an access may raise causes of system cores, and touch lines: of agents only the interrupt registers of system
cores differ, of cores their caches and counts, and of memory no byte. -/
structure Noted (s t : State) : Prop where
  agents : ∀ k, t.thread k = { s.thread k with sys := (t.thread k).sys }
  groups : ∀ k, isSysKey k = false → t.thread k = s.thread k
  cores : ∀ c, t.core c = { s.core c with l1 := (t.core c).l1, stats := (t.core c).stats }
  cells : t.mem.cells = s.mem.cells

theorem Touched.noted {s t : State} (h : Touched s t) : Noted s t where
  agents k := by rw [h.thread]
  groups k _ := h.thread k
  cores := h.cores
  cells := by rw [h.mem]

theorem Noted.refl (s : State) : Noted s s := (Touched.refl s).noted

theorem Noted.trans {s t u : State} (h : Noted s t) (k : Noted t u) : Noted s u where
  agents j := by rw [k.agents j, h.agents j]
  groups j hj := (k.groups j hj).trans (h.groups j hj)
  cores c := by rw [k.cores c, h.cores c]
  cells := k.cells.trans h.cells

theorem Noted.sameBytes {s t : State} (h : Noted s t) : SameBytes s t := fun a => Store.byte_eq h.cells a

/-- A change of neither agents nor cores nor bytes. -/
theorem Noted.of_same {s t : State} (threads : t.threads = s.threads) (cores : t.cores = s.cores)
    (cells : t.mem.cells = s.mem.cells) : Noted s t where
  agents k := by rw [State.thread, threads]; rfl
  groups k _ := by rw [State.thread, threads]; rfl
  cores c := by rw [State.core, cores]; rfl
  cells := cells

theorem State.noted_raiseAsync (s : State) (plot cause : Nat) (val : Word) : Noted s (s.raiseAsync plot cause val) where
  agents k := by
    by_cases h : k = sysKey plot
    · subst h; rw [State.raiseAsync, State.thread_modThread_self]
    · rw [State.raiseAsync, State.thread_modThread_ne _ _ h]
  groups k group := by
    refine State.thread_modThread_ne _ _ fun e => ?_
    rw [e, isSysKey, sysKey, decide_eq_false_iff_not] at group
    exact group (Nat.le_add_right _ _)
  cores _ := rfl
  cells := rfl

theorem State.noted_errorLog (s : State) (die arg : Nat) : Noted s (s.errorLog die arg) := .of_same rfl rfl rfl

theorem State.noted_noticePoison (s : State) (pa : Nat) : Noted s (s.noticePoison pa) := by
  unfold State.noticePoison
  dsimp only
  split
  · exact .refl s
  · refine Noted.trans ?_ (State.noted_errorLog _ _ _)
    refine List.foldlRecOn (motive := Noted s) _ _ (.of_same rfl rfl rfl) fun t told p _ => ?_
    split
    · exact told.trans (t.noted_raiseAsync _ _ _)
    · exact told

/-! ### Traps leave memory outside their record (R286) -/

theorem length_flatMap_const {α β : Type} (l : List α) {f : α → List β} {n : Nat} (h : ∀ x, (f x).length = n) :
    (l.flatMap f).length = l.length * n := by
  induction l with
  | nil => simp
  | cons x l ih => rw [List.flatMap_cons, List.length_append, h, ih, List.length_cons, Nat.succ_mul, Nat.add_comm]

/-- A trap record is 2048 bytes long (Table 13.6). -/
theorem length_trapRecord (t : Thread) (top : List MaskEntry) (pt : PendingTrap) (g extra : Nat) :
    (trapRecord t top pt g extra).length = 2048 := by
  unfold trapRecord
  extract_lets laneFault head stack lanes sprouts body
  have hhead : head.length = 128 := by simp [head]
  have hstack : stack.length = 128 := length_flatMap_const _ (fun _ => leBytes_length _ _)
  have hlanes : lanes.length = 1024 := by
    refine length_flatMap_const (n := 16) _ fun i => ?_
    split <;> simp
  have hsprouts : sprouts.length ≤ 1024 := by
    have entries : ((pt.sprouts.take 16).flatMap (fun x => leBytes 4 x.1 ++ leBytes 4 x.2.toNat)).length =
        (pt.sprouts.take 16).length * 8 := length_flatMap_const _ (fun x => by simp)
    have few : (pt.sprouts.take 16).length ≤ 16 := by simp
    simp only [sprouts, List.length_append, entries, leBytes_length]
    omega
  have hbody : body.length = 1024 := by
    unfold body
    split
    · simp only [List.length_append, leBytes_length]; omega
    · exact hlanes
  simp only [List.length_append, hhead, hstack, hbody, leBytes_length]

theorem State.enterTrap_outside (s : State) (key : Nat) (pt : PendingTrap) (va : Nat) (x : Xlat) :
    SameBytesOutside s (s.enterTrap key pt va x) x.pa 2048 := by
  intro a out
  have halted : (s.haltSiblings (coreOfKey key) (ctxOfKey key)).mem = s.mem := by
    obtain ⟨_, _, rest⟩ := s.haltSiblings_spec (coreOfKey key) (ctxOfKey key)
    rw [rest]
  simp only [State.enterTrap, State.fill_mem, State.modThread_mem, State.put_mem, State.modBlock, State.modCore_mem, halted]
  exact Store.byte_write_outside _ _ _ _ (by rwa [length_trapRecord])

/-- A precise trap of an access: the group is in its handler, and no byte outside its record has changed. -/
theorem State.trapVa_precise {s : State} {b : Block} {x : Xlat} (enter : CanEnter s s.cur b x) {cause : BitVec 8}
    (notPage : cause ≠ cPage) (va : Nat) :
    InHandler s (s.trapVa cause va) s.cur b cause s.th.pc ∧ SameBytesOutside s (s.trapVa cause va) x.pa 2048 := by
  refine ⟨State.trapVa_inHandler enter notPage va, ?_⟩
  rw [State.trapVa, if_neg (by exact notPage), State.raise, enter.isGroup.1, enter.isGroup.2, if_neg Bool.false_ne_true,
    if_neg Bool.false_ne_true, State.takeTrap_enters enter]
  exact s.enterTrap_outside _ _ _ _

/-- An instruction that raises what its checks raise traps precisely where it is misaligned or out of range. -/
theorem traps_precisely {i : Instr} {s : State} {b : Block} {x : Xlat} {acc : Access} {ea : Word} {n : Nat}
    (enter : CanEnter s s.cur b x)
    (raises : ∀ c, s.checkAccess s.cur acc ea n = .trap c → exec i s = .next (s.trapVa c ea.toNat)) :
    (ea.toNat % n ≠ 0 → Completes i s (fun t => InHandler s t s.cur b 0x02 s.th.pc ∧ SameBytesOutside s t x.pa 2048)) ∧
      (ea.toNat % n = 0 → 2 ^ 56 ≤ ea.toNat →
        Completes i s (fun t => InHandler s t s.cur b 0x03 s.th.pc ∧ SameBytesOutside s t x.pa 2048)) :=
  ⟨fun bad => ⟨_, raises _ (State.checkAccess_misaligned bad), State.trapVa_precise enter (by decide) _⟩,
    fun aligned high => ⟨_, raises _ (State.checkAccess_range aligned high), State.trapVa_precise enter (by decide) _⟩⟩

theorem memoryTrapsPrecise : Claims.MemoryTrapsPrecise := by
  intro s d a imm b x free enter log room ea traps
  have load {i : Instr} {n : Nat} {signed : Bool} (run : exec i s = .next (s.scalarLoad d a imm n signed)) : traps i n :=
    traps_precisely (acc := .load) enter fun c check => run.trans (congrArg Host.Outcome.next
      ((State.issue_free free _).trans (State.loadAt_trap log check signed false)))
  have store {i : Instr} {n : Nat} (run : exec i s = .next (s.scalarStore d a imm n)) : traps i n :=
    traps_precisely (acc := .store) enter fun c check => run.trans (congrArg Host.Outcome.next
      ((State.issue_free free _).trans (State.storeAt_trap room log check)))
  exact ⟨load rfl, load rfl, load rfl, store rfl, store rfl, store rfl⟩

/-! ### Loads that bind (R162) -/

theorem execLoadBind_inside {s : State} {l : LoadReq}
    (found : (s.thread s.subj.ag).win.find? (fun x => x.id == s.subj.n) = some l)
    (can : (s.thread s.subj.ag).canBind l = true) (inside : s.portOf l.pa = none) :
    exec .loadBind s = .next ((s.bindLoad s.subj.ag l).getD s) := by
  have step : loadBindStep s = s.bindLoad s.subj.ag l := by
    unfold loadBindStep
    simp only [found, can, Bool.not_true, Bool.false_eq_true, if_false]
    exact State.fromOutside_inside inside _ _ _ _
  exact congrArg (fun r : Option State => Host.Outcome.next (r.getD s)) step

theorem Thread.isSpec_of_none {t : Thread} (h : t.spec = none) (n : Nat) : t.isSpec n = false := by
  rw [Thread.isSpec, h]; rfl

/-- The trap of an earlier instruction of a group stays pending until its entry (R286). -/
theorem State.raiseAt_group {s : State} {key : Nat} (notSys : isSysKey key = false) (notSprout : isSproutKey key = false)
    (pt : PendingTrap) : s.raiseAt key pt = s.modThread key (fun t => { t with trap := some pt }) := by
  unfold State.raiseAt
  rw [notSys, notSprout]
  exact if_pos (Bool.or_true _)

theorem loadPoison : Claims.LoadPoison := by
  intro s l d signed p dest back found can inside poison resolved quiet notSys notSprout
  have noted := s.noted_noticePoison l.pa
  have agent := noted.groups _ notSys
  have fails : s.bindLoad s.subj.ag l = some (s.loadFails s.subj.ag l) := by
    unfold State.bindLoad
    simp only [dest, poison, if_true, Thread.isSpec_of_none resolved, Bool.false_eq_true, if_false]
  have pending : s.loadFails s.subj.ag l = (s.noticePoison l.pa).modThread s.subj.ag (fun t =>
      { t.unspec.takeBack p with trap := some { cause := cPoison, pc := p.pc, value := BitVec.ofNat 64 l.va } }) := by
    unfold State.loadFails
    simp only [quiet, back, Option.elim, Option.isSome_none, Bool.false_eq_true, if_false, State.raiseAt_group notSys notSprout,
      State.modThread_comp]
  refine ⟨_, (execLoadBind_inside found can inside).trans (congrArg (fun r : Option State => Host.Outcome.next (r.getD s)) fails), ?_⟩
  rw [Option.getD_some, pending]
  dsimp only
  rw [State.thread_modThread_self, agent, Thread.unspec_of_none resolved]
  exact ⟨rfl, rfl, rfl, rfl, fun k ne group => (State.thread_modThread_ne _ _ ne).trans (noted.groups k group), noted.sameBytes⟩

/-- Settles O14, from the order of the checks, the traps that they raise and the poison of a load that binds. -/
theorem memoryTraps : Obligations.MemoryTraps := ⟨scalarCheckOrder, memoryTrapsPrecise, loadPoison⟩

end Sys2Proof.Machine

namespace Sys2Proof.Machine

open Sys2Proof

/-! ### A value reaches its register (R56) -/

@[simp] theorem Thread.sreg_deliver_self (t : Thread) (d : SReg) (v : Word) : (t.deliver d v).sreg d = v :=
  t.sreg_setSreg_self d v

@[simp] theorem Thread.deliver_pc (t : Thread) (d : SReg) (v : Word) : (t.deliver d v).pc = t.pc := rfl

@[simp] theorem Thread.isPending_deliver_self (t : Thread) (d : SReg) (v : Word) : (t.deliver d v).isPending d = false :=
  (getLsbD_clearBit t.pendS d d).trans (by simp)

@[simp] theorem Thread.isPending_unpend_self (t : Thread) (d : SReg) : (t.unpend d).isPending d = false :=
  (getLsbD_clearBit t.pendS d d).trans (by simp)

theorem Thread.endRef_pc_of_refAt {t : Thread} (h : t.pc = t.refAt) : t.endRef.pc = t.pc + 4 := by
  rw [Thread.endRef, if_pos h]; rfl

/-! ### ldref (R74) -/

theorem refEa_eq (s : State) (a : SReg) (off : BitVec 10) : refEa s a off = s.th.sreg a + off.signExtend 64 * 8 :=
  congrArg (s.th.sreg a + ·) (ofInt_mul_toInt 8 off)

/-- What an `ldref` that enters the window does to its agent: it stays where it is, held. -/
theorem completes_loadRef {s : State} {d a : SReg} {off : BitVec 10} {x : Xlat} (free : s.Free anyone [d, a])
    (log : s.logBusy s.cur = false) (check : s.checkAccess s.cur .load (s.th.sreg a + off.signExtend 64 * 8) 8 = .ok x)
    (sound : s.mem.isPoison x.pa = false) :
    let ea := s.th.sreg a + off.signExtend 64 * 8
    Completes (.ldref d a off) s (fun t =>
      (t.thread s.cur).win = s.th.win ++ [{ id := s.th.nextId, dest := .scalar d false, va := ea.toNat, pa := x.pa, size := 8
                                            mark := s.th.nextId, ref := true, uncached := x.cellOnly, back := some s.th.point }] ∧
      (t.thread s.cur).hold = true ∧ (t.thread s.cur).isPending d = true ∧ (t.thread s.cur).pc = s.th.pc ∧
      (∀ r, (t.thread s.cur).sreg r = s.th.sreg r) ∧ KeepsAround s t) := by
  intro ea
  rw [← refEa_eq] at check
  refine ⟨_, congrArg Host.Outcome.next ((State.issue_free free _).trans (State.loadAt_ok log check sound false true)), ?_⟩
  dsimp only
  rw [State.thread_fill, State.thread_modThread_self, refEa_eq]
  exact ⟨rfl, rfl, (getLsbD_setBit s.th.pendS d d).trans (by simp), rfl, fun _ => rfl, s.keepsAround _ _ _⟩

/-! ### stref (R74, R182) -/

theorem State.strefEscapes_iff (s : State) (key : Nat) (v : Word) (c : Nat) :
    s.strefEscapes key v c = true ↔
      1 ≤ c ∧ ∃ h, s.wellFormedRef key v = some h ∧ (s.mem.hdrState h ≠ 2 ∨ s.mem.hdrScope h < c) := by
  unfold State.strefEscapes
  rw [Bool.and_eq_true, decide_eq_true_eq]
  refine and_congr_right fun _ => ?_
  split
  · next none => simp [none]
  · next h found => simp [found]

section
variable {s : State} {ea v : Word} {n : Nat} {x : Xlat} (room : s.th.queueFull = false) (log : s.logBusy s.cur = false)
  (check : s.checkAccess s.cur .store ea n = .ok x)
include room log check

/-- While the page of the object that a reference names is moving, its store waits (R320). -/
theorem State.storeAt_moving (moving : s.refMoving s.cur v (s.mem.container x.obj x.pa) = true) : s.storeAt ea v n true = s := by
  unfold State.storeAt
  rw [State.withRoom_room room, log, check]
  simp only [moving, Bool.and_self, Bool.false_eq_true, if_false, if_true]

theorem State.storeAt_escapes (still : s.refMoving s.cur v (s.mem.container x.obj x.pa) = false)
    (escapes : s.strefEscapes s.cur v (s.mem.container x.obj x.pa) = true) :
    s.storeAt ea v n true = s.trapVa cEscape ea.toNat := by
  unfold State.storeAt
  rw [State.withRoom_room room, log, check]
  simp only [still, escapes, Bool.and_self, Bool.and_false, Bool.false_eq_true, if_false, if_true]

end

/-! ### An ldref binds (R74, R53) -/

section
variable {s : State} {key : Nat} {l : LoadReq} {d : SReg} (dest : l.dest = .scalar d false) (ref : l.ref = true)
  (sound : s.mem.isPoison l.pa = false) (seen : l.untagged = false)
include dest ref sound seen

theorem State.bindLoad_tagged (direct : s.subj.flag = false) (tag : s.loadTag key l = true) :
    ∃ u, Touched s u ∧ s.bindLoad key l =
      some (u.modThread key (fun t => (t.dropLoad l.id).endRef.deliver d (BitVec.ofNat 64 (s.loadNum key l)))) := by
  refine ⟨if l.uncached || (s.thread key).isSpec l.id then s else s.touchCell key l.pa, ?_, ?_⟩
  · split
    · exact .refl s
    · exact s.touched_touchCell key l.pa
  · unfold State.bindLoad
    simp only [dest, ref, sound, seen, tag, direct, Bool.not_true, Bool.or_self, Bool.and_false, Bool.false_eq_true, if_false,
      if_true, extendLoad]

theorem State.bindLoad_untagged (tag : s.loadTag key l = false) : s.bindLoad key l = s.refFails key l d := by
  unfold State.bindLoad
  simp only [dest, ref, sound, seen, tag, Bool.not_false, Bool.or_true, Bool.and_self, Bool.false_eq_true, if_false, if_true]

omit dest ref sound in
theorem State.refFails_spec (spec : (s.thread key).isSpec l.id = true) :
    s.refFails key l d = some (s.modThread key (fun t =>
      { t with win := t.win.map (fun x => if x.id = l.id then { x with untagged := true } else x) })) := by
  unfold State.refFails
  simp only [spec, seen, Bool.false_eq_true, if_false, if_true]

omit dest ref sound seen in
theorem State.refFails_group (resolved : (s.thread key).isSpec l.id = false) (quiet : (s.thread key).trap = none)
    (notSys : isSysKey key = false) (notSprout : isSproutKey key = false) :
    s.refFails key l d = some (s.modThread key (fun t =>
      { (t.dropLoad l.id).unpend d with
        hold := false
        trap := some { cause := cNotRef, pc := (s.thread key).refAt, value := BitVec.ofNat 64 l.va } })) := by
  unfold State.refFails
  simp only [resolved, quiet, Option.isSome_none, Bool.false_eq_true, if_false, State.raiseAt_group notSys notSprout,
    State.modThread_comp]

end

/-- Settles O42: the entry of `ldref` and `stref`, and what a bound word with and without its tag does. -/
theorem references : Obligations.References := by
  refine ⟨fun s d a off x free log => ⟨fun check sound => completes_loadRef free log check sound, fun check room => ?store⟩,
    fun s l d dest ref direct found can inside sound seen => ?bind⟩
  case store =>
    have ea := refEa_eq s a off
    rw [← ea] at check
    have issue (body : State → State) : s.issue anyone [d, a] body = body s := State.issue_free free body
    have escapes := s.strefEscapes_iff s.cur (s.th.sreg d) (s.mem.container x.obj x.pa)
    refine ⟨fun moving => ?moving, fun still may => ?queues, fun b y still refused enter => ?escapes⟩
    case moving => exact congrArg Host.Outcome.next ((issue _).trans (State.storeAt_moving room log check moving))
    case queues =>
      have stays := Bool.eq_false_iff.mpr (fun e => may (escapes.mp e))
      refine ⟨_, congrArg Host.Outcome.next ((issue _).trans (State.storeAt_ok room log check still stays)), ?_⟩
      rw [← ea]
      exact s.queued_fill _ _ _ _ rfl rfl rfl
    case escapes =>
      exact ⟨_, congrArg Host.Outcome.next ((issue _).trans
        (State.storeAt_escapes room log check still (escapes.mpr refused))), State.trapVa_inHandler enter (by decide) _⟩
  case bind =>
    have run {o : Option State} (h : s.bindLoad s.subj.ag l = o) : exec .loadBind s = .next (o.getD s) :=
      h ▸ execLoadBind_inside found can inside
    refine ⟨fun tag => ?tagged, fun none spec => ?waits, fun none resolved quiet notSys notSprout => ?traps⟩
    case tagged =>
      obtain ⟨u, touched, bound⟩ := State.bindLoad_tagged dest ref sound seen direct tag
      refine ⟨_, run bound, ?_⟩
      dsimp only [Option.getD_some]
      rw [State.thread_modThread_self, touched.thread]
      refine ⟨Thread.sreg_deliver_self _ _ _, Thread.isPending_deliver_self _ _ _, fun at' => ?_,
        fun k ne => (State.thread_modThread_ne _ _ ne).trans (touched.thread k), fun a => Store.byte_eq (by
          rw [State.modThread_mem, touched.mem]) a⟩
      exact Thread.endRef_pc_of_refAt (t := (s.thread s.subj.ag).dropLoad l.id) at'
    case waits =>
      refine ⟨_, run ((State.bindLoad_untagged dest ref sound seen none).trans (State.refFails_spec seen spec)), ?_⟩
      dsimp only [Option.getD_some]
      rw [State.thread_modThread_self]
      exact ⟨rfl, rfl, fun _ => rfl, fun k ne => State.thread_modThread_ne _ _ ne, fun _ => rfl⟩
    case traps =>
      refine ⟨_, run ((State.bindLoad_untagged dest ref sound seen none).trans
        (State.refFails_group resolved quiet notSys notSprout)), ?_⟩
      dsimp only [Option.getD_some]
      rw [State.thread_modThread_self]
      exact ⟨⟨_, rfl, rfl, rfl, rfl⟩, Thread.isPending_unpend_self _ d, fun _ => rfl,
        fun k ne => State.thread_modThread_ne _ _ ne, fun _ => rfl⟩

end Sys2Proof.Machine

namespace Sys2Proof.Machine

open Sys2Proof

/-! ### Atomics enter the queue (R75, R76) -/

/-- The record of a group whose atomic has entered the queue: sd is pending, and an acquiring order holds the agent. -/
def Thread.enteredAtomic (t : Thread) (op : AmoOp) (d : SReg) (part : Part) (ord : AmoOrd) (sc : Scope) : Thread :=
  { (t.enqueue (.atomic op d) [part] false).advance with
    pendS := t.pendS ||| BitVec.ofNat 64 (2 ^ d.val)
    region := none
    hold := ordAcq ord
    wait := if !ordAcq ord then .none else if sc = .s then .readback else .acquire }

/-- The one part of a scalar atomic. -/
def atomicPart (s : State) (d a b : SReg) (x : Xlat) : Part :=
  { lane := 0, va := (s.th.sreg a).toNat, pa := x.pa, data := leBytes 8 (s.th.sreg b).toNat
    cmp := leBytes 8 (s.th.sreg d).toNat, obj := x.obj }

theorem State.relReady_of_fenceClear {s : State} {sc : Scope} (h : FenceClear s true sc) : s.relReady s.cur = true := by
  obtain ⟨delivery, ⟨win, _⟩, stores, _⟩ := h
  have done : (s.thread s.cur).clausesDone = true := delivery.clauses
  have bound : (s.thread s.cur).win = [] := win
  have drained : (s.thread s.cur).sq = [] := stores rfl
  simp [State.relReady, Thread.loadsBound, Thread.drainedAll, done, bound, drained]

theorem State.amo_ok {s : State} {op : AmoOp} {d a b : SReg} {ord : AmoOrd} {sc : Scope} {x : Xlat}
    (free : s.Free anyone [d, a, b]) (log : s.logBusy s.cur = false) (room : s.th.queueFull = false)
    (notSprout : isSproutKey s.cur = false) (released : ordRel ord = true → FenceClear s true sc)
    (check : s.checkAccess s.cur .atomic (s.th.sreg a) 8 = .ok x) :
    s.amo op d a b ord sc = (s.modThread s.cur (fun t => t.enteredAtomic op d
      { lane := 0, va := (s.th.sreg a).toNat, pa := x.pa, data := leBytes 8 (t.sreg b).toNat
        cmp := leBytes 8 (t.sreg d).toNat, obj := x.obj } ord sc)).fill s.cur (s.th.sreg a).toNat (.ok x) := by
  have ready : (ordRel ord && !s.relReady s.cur) = false := by
    cases rel : ordRel ord with
    | false => rfl
    | true => rw [State.relReady_of_fenceClear (released rel)]; rfl
  have back : (ordRel ord && decide (sc = .s) && decide (s.th.wait ≠ .readbackDone) && !s.amoTraps (s.th.sreg a)) = false := by
    cases rel : ordRel ord with
    | false => rfl
    | true =>
      by_cases host : sc = .s
      · simp [(released rel).host host]
      · simp [host]
  unfold State.amo
  rw [State.issue_free free]
  simp only [ready, back, log, check, notSprout, State.withDrain, room, Bool.false_eq_true, if_false, Thread.beginAtomic]
  rfl

theorem completes_amo {i : Instr} {s : State} {op : AmoOp} {d a b : SReg} {ord : AmoOrd} {sc : Scope} {x : Xlat}
    (free : s.Free anyone [d, a, b]) (log : s.logBusy s.cur = false) (room : s.th.queueFull = false)
    (notSprout : isSproutKey s.cur = false) (released : ordRel ord = true → FenceClear s true sc)
    (check : s.checkAccess s.cur .atomic (s.th.sreg a) 8 = .ok x) (run : exec i s = .next (s.amo op d a b ord sc)) :
    Completes i s (fun t => Queued s t (.atomic op d) (atomicPart s d a b x) ∧ (t.thread s.cur).isPending d = true ∧
      (t.thread s.cur).hold = ordAcq ord) := by
  refine ⟨_, run.trans (congrArg Host.Outcome.next (State.amo_ok free log room notSprout released check)),
    s.queued_fill _ _ _ _ rfl rfl rfl, ?_, ?_⟩ <;> rw [State.thread_fill, State.thread_modThread_self]
  · exact (getLsbD_setBit s.th.pendS d d).trans (by simp)
  · rfl

theorem atomicsQueue : Claims.AtomicsQueue := by
  intro s d a b ord sc x free log room notSprout released check part queued
  have enters {i : Instr} {op : AmoOp} (run : exec i s = .next (s.amo op d a b ord sc)) : queued i op :=
    completes_amo free log room notSprout released check run
  exact ⟨enters rfl, enters rfl, enters rfl, enters rfl, enters rfl, enters rfl, enters rfl, enters rfl, enters rfl, enters rfl⟩

/-! ### Writes of agents reach their cells (R71, R180) -/

/-- A write has landed in an agent's name: beside what it notes, the words that drained stores wrote are its agent's. -/
structure Landed (s t : State) : Prop where
  agents : ∀ k, t.thread k = { s.thread k with sys := (t.thread k).sys, written := (t.thread k).written }
  cores : ∀ c, t.core c = { s.core c with l1 := (t.core c).l1, stats := (t.core c).stats }

theorem Noted.landed {s t : State} (h : Noted s t) : Landed s t where
  agents k := by rw [h.agents k]
  cores := h.cores

theorem Landed.trans {s t u : State} (h : Landed s t) (k : Landed t u) : Landed s u where
  agents j := by rw [k.agents j, h.agents j]
  cores c := by rw [k.cores c, h.cores c]

theorem State.noted_leaves (s : State) (plot pa : Nat) (bs : List Byte) : Noted s (s.leaves plot pa bs) := by
  rw [State.leaves_rest]
  exact .of_same rfl rfl rfl

theorem State.noted_pairFlag (s : State) (a b : Nat) (v : Word) (stop : Bool) : Noted s (s.pairFlag a b v stop) :=
  .of_same rfl rfl rfl

theorem State.noted_modPlot (s : State) (p : Nat) (f : Plot → Plot) : Noted s (s.modPlot p f) := .of_same rfl rfl rfl

theorem State.noted_pairStore (s : State) (plot : Nat) (paired : Bool) (pa : Nat) (bs : List Byte) :
    Noted s (s.pairStore plot paired pa bs) := by
  unfold State.pairStore
  split
  · exact .refl s
  · next other isPrimary _ =>
    dsimp only
    generalize (if isPrimary = true then plot else other) = pri
    generalize (if isPrimary = true then other else plot) = sec
    generalize (if isPrimary = true then 0 else 1) = mine
    generalize (if isPrimary = true then 1 else 0) = theirs
    split
    · exact .refl s
    · split
      · exact .refl s
      · split
        · split
          · exact (s.noted_modPlot _ _).trans (State.noted_pairFlag _ _ _ _ _)
          · exact s.noted_modPlot _ _
        · split
          · exact s.noted_modPlot _ _
          · exact (((s.noted_modPlot _ _).trans (State.noted_pairFlag _ _ _ _ _)).trans
              (State.noted_raiseAsync _ _ _ _)).trans (State.noted_raiseAsync _ _ _ _)

/-- A store or atomic of an agent writes its bytes, with the claim of its line, and notes it. -/
theorem State.noted_landFor (s : State) (key pa : Nat) (p : Party) (obj : Bool) (bs : List Byte) (whole : Bool) :
    Noted (s.withMem ((s.mem.claim p obj pa).write pa bs)) (s.landFor key pa p obj false bs whole) := by
  have landed : Noted (s.withMem ((s.mem.claim p obj pa).write pa bs))
      (s.landAs p (s.plotOf key) (!isSysKey key && (s.launchOf key).paired) pa obj false bs whole) := by
    unfold State.landAs
    simp only [Bool.false_eq_true, if_false]
    refine Noted.trans (Noted.trans ?_ (State.noted_leaves _ _ _ _)) (State.noted_pairStore _ _ _ _ _)
    split
    · exact State.noted_noticePoison _ _
    · exact .refl _
  unfold State.landFor
  dsimp only
  split
  · exact landed.trans (State.touched_statPlot _ _ _ _).noted
  · exact landed

theorem State.landed_land (s : State) (key pa : Nat) (obj : Bool) (bs : List Byte) (whole : Bool) :
    Landed s (s.land key pa obj false bs whole) := by
  have noted := s.noted_landFor key pa (s.partyOf key) obj bs whole
  refine ⟨fun k => ?_, noted.cores⟩
  have before : (s.landFor key pa (s.partyOf key) obj false bs whole).thread k =
      { s.thread k with sys := ((s.landFor key pa (s.partyOf key) obj false bs whole).thread k).sys } := noted.agents k
  rw [State.land, State.noteWritten]
  by_cases own : k = key
  · subst own; rw [State.thread_modThread_self, before]
  · rw [State.thread_modThread_ne _ _ own, before]

theorem State.cells_land (s : State) (key pa : Nat) (obj : Bool) (bs : List Byte) (whole : Bool) :
    (s.land key pa obj false bs whole).mem.cells = ((s.mem.claim (s.partyOf key) obj pa).write pa bs).cells :=
  (s.noted_landFor key pa (s.partyOf key) obj bs whole).cells

/-- A claim changes bytes of known headers alone (R178). -/
theorem Store.byte_claim_beside (m : Store) (p : Party) (obj : Bool) (pa : Nat) {a : Nat}
    (h : ∀ k ∈ m.headers, a < k + 6 ∨ k + 16 ≤ a) : (m.claim p obj pa).byte a = m.byte a := by
  unfold Store.claim
  dsimp only
  split
  · split
    · next known => exact Store.byte_setHdr_outside _ _ _ _ _ _ (h _ (List.contains_iff_mem.mp known))
    · rfl
  · rfl

theorem Store.headers_claim_of_none {m : Store} (h : m.headers = []) (p : Party) (obj : Bool) (pa : Nat) :
    (m.claim p obj pa).headers = [] := by
  unfold Store.claim
  dsimp only
  split
  · rw [h]; exact h
  · exact h

theorem Store.num_of_cells {m n : Store} (h : n.cells = m.cells) (a k : Nat) : n.num a k = m.num a k := by
  rw [Store.num, Store.bytes, h]; rfl

/-! ### Atomics perform (R75, R111, R165) -/

/-- The new value of an atomic, where there is one, lands in its place. -/
def State.landNew (s : State) (key : Nat) (p : Part) (n : Nat) (new : Option Nat) : State :=
  match new with
  | some v => s.land key p.pa p.obj false (leBytes n v)
  | none => s

theorem State.landed_landNew (s : State) (key : Nat) (p : Part) (n : Nat) (new : Option Nat) : Landed s (s.landNew key p n new) := by
  cases new with
  | none => exact (Noted.refl s).landed
  | some v => exact s.landed_land _ _ _ _ _

theorem State.landNew_beside (s : State) (key : Nat) (p : Part) (n : Nat) (new : Option Nat) :
    SameBytesBeside s (s.landNew key p n new) p.pa n := by
  intro a out beside
  cases new with
  | none => rfl
  | some v =>
    have cells := s.cells_land key p.pa p.obj (leBytes n v) false
    refine (Store.byte_eq cells a).trans ?_
    rw [Store.byte_write_outside _ _ _ _ (by rwa [leBytes_length])]
    exact Store.byte_claim_beside _ _ _ _ beside

theorem State.num_landNew {s : State} (bare : s.mem.headers = []) (key : Nat) (p : Part) (n v : Nat) :
    (s.landNew key p n (some v)).mem.num p.pa n = v % 256 ^ n := by
  have cells := s.cells_land key p.pa p.obj (leBytes n v) false
  have read := Store.num_write (Store.headers_claim_of_none bare (s.partyOf key) p.obj p.pa) p.pa (leBytes n v)
  rw [leBytes_length, leNat_leBytes] at read
  exact (Store.num_of_cells cells _ _).trans read

theorem Thread.popPart_rest (t : Thread) : t.popPart = { t with sq := t.popPart.sq } := by
  unfold Thread.popPart
  split
  · rfl
  · split <;> rfl

theorem Thread.popPart_sq {t : Thread} {e : SqEntry} {es : List SqEntry} {p : Part} {ps : List Part} (head : t.sq = e :: es)
    (parts : e.parts = p :: ps) : ∃ w, t.popPart.sq = if ps = [] then es else { e with parts := ps, whole := w } :: es := by
  unfold Thread.popPart
  simp only [head, parts]
  cases ps with
  | nil => exact ⟨[], rfl⟩
  | cons q ps => exact ⟨_, rfl⟩

/-- While some group of its block has not gone, an agent's step ends neither sprout nor block. -/
theorem State.reap_stays {s : State} {key : Nat} (notSprout : isSproutKey key = false)
    (stays : ∀ b, s.blockOf key = some b → ∃ g < b.launch.groups, b.gone.contains g = false) : s.reap key = s := by
  have here : s.reapSprout key = s := by
    unfold State.reapSprout
    rw [notSprout]
    rfl
  rw [State.reap, here]
  refine State.reapBlock_of_running ?_
  cases block : (s.core (coreOfKey key)).block with
  | none => simp [State.blockDone, block]
  | some b =>
    rw [Bool.eq_false_iff]
    intro done
    obtain ⟨gone, _⟩ := (State.blockDone_iff block).mp done
    obtain ⟨g, lt, left⟩ := stays b block
    exact Bool.noConfusion (left.symm.trans (gone g lt).1)

theorem Landed.blockOf {s t : State} (h : Landed s t) (k : Nat) : t.blockOf k = s.blockOf k := by
  rw [State.blockOf, h.cores]; rfl

theorem Landed.row {s t : State} (h : Landed s t) (k n : Nat) : t.row k n = s.row k n := by
  have launch : t.launchOf k = s.launchOf k := by rw [State.launchOf, h.blockOf]; rfl
  unfold State.row
  rw [launch, h.agents, h.cores]

theorem Landed.rowOk {s t : State} (h : Landed s t) (k n : Nat) : t.rowOk k n = s.rowOk k n := by
  have launch : t.launchOf k = s.launchOf k := by rw [State.launchOf, h.blockOf]; rfl
  rw [State.rowOk, launch]; rfl

/-- ATOMIC_PERFORM on an atomic whose channel takes a write and whose home is in the package. -/
theorem execAtomicPerform_open {s : State} {e : SqEntry} {es : List SqEntry} {p : Part} {ps : List Part}
    (head : (s.thread s.subj.ag).sq = e :: es) (parts : e.parts = p :: ps) (held : e.held = false) (atomic : e.isAtomic = true)
    (queue : s.queueOpen s.subj.ag = true) (open' : s.refreshing p.pa = false) (idle : s.waiters = [])
    (inside : s.portOf p.pa = none) :
    exec .atomicPerform s =
      .next (((if e.isLane then s else s.touchCell s.subj.ag p.pa).perform s.subj.ag e p).getD s) := by
  have step : atomicPerformStep s = (if e.isLane then s else s.touchCell s.subj.ag p.pa).perform s.subj.ag e p := by
    unfold atomicPerformStep
    simp only [head, parts, held, queue, atomic, Bool.not_true, Bool.or_self, Bool.false_eq_true, if_false,
      State.through_free idle open', State.fromOutside_inside inside]
  exact congrArg (fun r : Option State => Host.Outcome.next (r.getD s)) step

/-- The atomic at the head of a queue has performed: its part leaves, and its agent's sprout or block may end. -/
def State.performed (s : State) (key : Nat) : State := (s.modThread key (fun t => t.popPart.endAtomic)).reap key

/-- The old value of a scalar atomic's word goes back to sd. -/
def Thread.returnOld (t : Thread) (d : SReg) (old : Nat) : Thread :=
  { t with returning := t.returning ++ [(d, BitVec.ofNat 64 old)] }

theorem State.perform_scalar {s : State} {key : Nat} {e : SqEntry} {p : Part} {op : AmoOp} {d : SReg} (kind : e.kind = .atomic op d) :
    s.perform key e p = some (((s.landNew key p 8 (amoNew op 64 (s.mem.num p.pa 8) (leNat p.data) (leNat p.cmp))).modThread key
      (fun t => t.returnOld d (s.mem.num p.pa 8))).performed key) := by
  unfold State.perform
  simp only [kind]
  cases amoNew op 64 (s.mem.num p.pa 8) (leNat p.data) (leNat p.cmp) <;> rfl

/-- The unsigned minimum and maximum keep the old value where the operand is not beyond it. -/
theorem amoNew_minZ (w old b cmp : Nat) : amoNew .minZ w old b cmp = some (if b < old then b else old) := by
  simp only [amoNew, Option.some.injEq]
  split <;> omega

theorem amoNew_maxZ (w old b cmp : Nat) : amoNew .maxZ w old b cmp = some (if old < b then b else old) := by
  simp only [amoNew, Option.some.injEq]
  split <;> omega

/-- What a performed atomic leaves of its agent's record: the head part has left. -/
theorem State.performed_thread {s : State} {key : Nat} (notSprout : isSproutKey key = false)
    (stays : ∀ b, s.blockOf key = some b → ∃ g < b.launch.groups, b.gone.contains g = false) :
    s.performed key = s.modThread key (fun t => t.popPart.endAtomic) := by
  unfold State.performed
  exact State.reap_stays notSprout stays

/-- The queue of an agent whose head entry performed its part. -/
theorem State.performed_sq {s : State} {key : Nat} {f : Thread → Thread} {e : SqEntry} {es : List SqEntry} {p : Part} {ps : List Part}
    (notSprout : isSproutKey key = false)
    (stays : ∀ b, s.blockOf key = some b → ∃ g < b.launch.groups, b.gone.contains g = false)
    (head : (f (s.thread key)).sq = e :: es) (parts : e.parts = p :: ps) :
    ∃ w, (((s.modThread key f).performed key).thread key).sq = if ps = [] then es else { e with parts := ps, whole := w } :: es := by
  rw [State.performed_thread (s := s.modThread key f) notSprout stays, State.thread_modThread_self, State.thread_modThread_self]
  exact Thread.popPart_sq head parts

/-- Its loads that return a value keep their places. -/
theorem State.performed_returning {s : State} {key : Nat} (f : Thread → Thread) (notSprout : isSproutKey key = false)
    (stays : ∀ b, s.blockOf key = some b → ∃ g < b.launch.groups, b.gone.contains g = false) :
    (((s.modThread key f).performed key).thread key).returning = (f (s.thread key)).returning := by
  rw [State.performed_thread (s := s.modThread key f) notSprout stays, State.thread_modThread_self, State.thread_modThread_self,
    Thread.popPart_rest]
  rfl

theorem State.performed_mem {s : State} {key : Nat} {f : Thread → Thread} (notSprout : isSproutKey key = false)
    (stays : ∀ b, s.blockOf key = some b → ∃ g < b.launch.groups, b.gone.contains g = false) :
    ((s.modThread key f).performed key).mem = s.mem := by
  rw [State.performed_thread (s := s.modThread key f) notSprout stays]
  rfl

theorem atomicsPerform : Claims.AtomicsPerform := by
  intro s e es op d p head kind parts held queue open' idle notSprout inside stays old b sg new
  have value : amoNew op 64 old b (leNat p.cmp) = new := by
    cases op
    case minZ => exact amoNew_minZ _ _ _ _
    case maxZ => exact amoNew_maxZ _ _ _ _
    all_goals rfl
  have atomic : e.isAtomic = true := by simp [SqEntry.isAtomic, kind]
  have scalar : e.isLane = false := by simp [SqEntry.isLane, kind]
  have run := execAtomicPerform_open head parts held atomic queue open' idle inside
  have touched := s.touched_touchCell s.subj.ag p.pa
  generalize s.touchCell s.subj.ag p.pa = u at run touched
  rw [scalar, if_neg Bool.false_ne_true, State.perform_scalar kind, touched.mem, value, Option.getD_some] at run
  have landed := touched.noted.landed.trans (u.landed_landNew s.subj.ag p 8 new)
  have stays' : ∀ b, (u.landNew s.subj.ag p 8 new).blockOf s.subj.ag = some b → ∃ g < b.launch.groups, b.gone.contains g = false := by
    rwa [landed.blockOf]
  have mem := State.performed_mem
    (f := fun t => t.returnOld d (s.mem.num p.pa 8)) notSprout stays'
  have beside := u.landNew_beside s.subj.ag p 8 new
  refine ⟨_, run, ?_, ?_, ?_, ?_, ?_⟩
  · rw [State.performed_returning _ notSprout stays', landed.agents]
    rfl
  · obtain ⟨w, sq⟩ := State.performed_sq
      (f := fun t => t.returnOld d (s.mem.num p.pa 8))
      notSprout stays' (by rw [landed.agents]; exact head) parts
    exact sq
  · intro a out known
    rw [mem, beside a out (by rwa [touched.mem]), touched.mem]
  · intro none a
    rw [mem, none, ← touched.mem]
    rfl
  · intro v some bare
    rw [mem, some, State.num_landNew (by rwa [touched.mem])]
    rfl

theorem State.row_modThread (s : State) (key : Nat) {f : Thread → Thread} (keeps : ∀ t, (f t).ownRows = t.ownRows) (j k : Nat) :
    (s.modThread key f).row j k = s.row j k := by
  have own : ((s.modThread key f).thread j).ownRows = (s.thread j).ownRows := by
    by_cases here : j = key
    · subst here; rw [State.thread_modThread_self, keeps]
    · rw [State.thread_modThread_ne _ _ here]
  unfold State.row
  rw [own]
  rfl

/-- Its rows keep their elements. -/
theorem State.performed_row {s : State} {key : Nat} {f : Thread → Thread} (notSprout : isSproutKey key = false)
    (stays : ∀ b, s.blockOf key = some b → ∃ g < b.launch.groups, b.gone.contains g = false)
    (keeps : ∀ t, (f t).ownRows = t.ownRows) (j k : Nat) : ((s.modThread key f).performed key).row j k = s.row j k := by
  rw [State.performed_thread (s := s.modThread key f) notSprout stays, State.row_modThread _ _ (fun t => ?_),
    s.row_modThread key keeps]
  rw [Thread.popPart_rest]
  rfl

theorem State.performed_longOps {s : State} {key : Nat} {f : Thread → Thread} (notSprout : isSproutKey key = false)
    (stays : ∀ b, s.blockOf key = some b → ∃ g < b.launch.groups, b.gone.contains g = false) :
    (((s.modThread key f).performed key).thread key).longOps = (f (s.thread key)).longOps := by
  rw [State.performed_thread (s := s.modThread key f) notSprout stays, State.thread_modThread_self, State.thread_modThread_self,
    Thread.popPart_rest]
  rfl

/-! ### Atomics of lanes perform (R111, R165) -/

/-- The masked write of Write(y, t) to the rows of a register of any agent (R94). -/
theorem State.row_writeLanes_mem (s : State) {key : Nat} {t : IType} {d : VReg} (m : BitVec 64) (y : Nat → Int)
    (ok : ∀ k ∈ vregRows t d, s.rowOk key k = true) :
    ∀ k ∈ vregRows t d, (s.writeLanes key t d m y).row key k = (s.row key k).blend m (fun i => writtenElem t d.val k (y i)) := by
  intro k mem
  unfold State.writeLanes
  by_cases wide : t = .i64
  · subst wide
    obtain rfl | rfl : k = d.val ∨ k = d.val + 1 := by simpa [vregRows] using mem
    · rw [if_pos rfl, State.row_setRow_ne _ _ (.inr (by omega)), State.row_setRow_self _ _ (ok _ mem)]
      simp [writtenElem, lowElem]
    · rw [if_pos rfl, State.row_setRow_self _ _ (by rw [State.setRow_rowOk]; exact ok _ mem)]
      simp [writtenElem, highElem]
  · obtain rfl : k = d.val := by simpa [vregRows, wide] using mem
    rw [if_neg wide, State.row_setRow_self _ _ (ok _ mem)]
    simp only [lowElem_eq t wide d.val d.val]

theorem State.row_writeLanes_ne (s : State) {key : Nat} {t : IType} {d : VReg} (m : BitVec 64) (y : Nat → Int) {j k : Nat}
    (other : j ≠ key ∨ k ∉ vregRows t d) : (s.writeLanes key t d m y).row j k = s.row j k := by
  unfold State.writeLanes
  by_cases wide : t = .i64
  · have low : j ≠ key ∨ k ≠ d.val := other.imp_right (fun h e => h (by simp [vregRows, wide, e]))
    have high : j ≠ key ∨ k ≠ d.val + 1 := other.imp_right (fun h e => h (by simp [vregRows, wide, e]))
    rw [if_pos wide, State.row_setRow_ne _ _ high, State.row_setRow_ne _ _ low]
  · rw [if_neg wide, State.row_setRow_ne _ _ (other.imp_right (fun h e => h (by simp [vregRows, wide, e])))]

/-- Of its agent's record a masked write changes the agent's own rows alone, and of memory nothing. -/
theorem State.thread_writeLanes (s : State) (key : Nat) (t : IType) (d : VReg) (m : BitVec 64) (y : Nat → Int) (j : Nat) :
    (s.writeLanes key t d m y).thread j = { s.thread j with ownRows := ((s.writeLanes key t d m y).thread j).ownRows } := by
  unfold State.writeLanes
  split
  · rw [(State.setRow_thread _ _ _ _ j).1, (s.setRow_thread _ _ _ j).1]
  · exact (s.setRow_thread _ _ _ j).1

theorem State.mem_writeLanes (s : State) (key : Nat) (t : IType) (d : VReg) (m : BitVec 64) (y : Nat → Int) :
    (s.writeLanes key t d m y).mem = s.mem := by
  unfold State.writeLanes
  split <;> simp

theorem State.blockOf_writeLanes (s : State) (key : Nat) (t : IType) (d : VReg) (m : BitVec 64) (y : Nat → Int) (j : Nat) :
    (s.writeLanes key t d m y).blockOf j = s.blockOf j := by
  unfold State.writeLanes
  split <;> simp only [State.setRow_blockOf]

/-- What a masked write of an element to a register leaves: its rows are blends, and of the rest of the machine the agent's own
rows alone are touched. -/
structure Blended (s v : State) (key : Nat) (t : IType) (d : VReg) (m : BitVec 64) (y : Int) : Prop where
  written : ∀ k ∈ vregRows t d, v.row key k = (s.row key k).blend m (fun _ => writtenElem t d.val k y)
  kept : ∀ j k, (j ≠ key ∨ k ∉ vregRows t d) → v.row j k = s.row j k
  agent : v.thread key = { s.thread key with ownRows := (v.thread key).ownRows }
  block : v.blockOf key = s.blockOf key
  mem : v.mem = s.mem

theorem State.blended_writeLanes (s : State) {key : Nat} {t : IType} {d : VReg} (m : BitVec 64) (y : Int)
    (ok : ∀ k ∈ vregRows t d, s.rowOk key k = true) : Blended s (s.writeLanes key t d m (fun _ => y)) key t d m y where
  written := s.row_writeLanes_mem m (fun _ => y) ok
  kept _ _ other := s.row_writeLanes_ne m (fun _ => y) other
  agent := s.thread_writeLanes key t d m (fun _ => y) key
  block := s.blockOf_writeLanes key t d m (fun _ => y) key
  mem := s.mem_writeLanes key t d m (fun _ => y)

/-- The mask of one lane holds that lane alone. -/
theorem getLsbD_laneBit (lane j : Nat) (h : j < 64) : (BitVec.ofNat 64 (2 ^ lane)).getLsbD j = decide (j = lane) := by
  rw [BitVec.getLsbD_ofNat, Nat.testBit_two_pow]
  simp [h, eq_comm]

theorem Thread.laneDone_left (t : Thread) (op lane : Nat) :
    ∀ o ∈ (t.laneDone op lane).longOps, o.id = op → o.left.getLsbD lane = false := by
  intro o mem id
  obtain ⟨o', _, rfl⟩ := List.mem_map.mp mem
  by_cases same : o'.id = op
  · rw [if_pos same]
    by_cases inside : lane < 64
    · simp only [BitVec.getLsbD_and, BitVec.getLsbD_not, getLsbD_laneBit lane lane inside]
      simp
    · exact BitVec.getLsbD_of_ge _ _ (by omega)
  · rw [if_neg same] at id
    exact absurd id same

theorem State.perform_lane {s : State} {key : Nat} {e : SqEntry} {p : Part} {op : AmoOp} {ty : IType} {d : VReg} {lop : Nat}
    (kind : e.kind = .laneAtomic op ty d.val lop) (clean : ∀ x ∈ e.parts, s.mem.isPoison x.pa = false) :
    s.perform key e p = some (((((s.landNew key p (ty.width / 8)
        (amoNew op ty.width (s.mem.num p.pa (ty.width / 8)) (leNat p.data) (leNat p.cmp))).writeLanes key ty d
          (BitVec.ofNat 64 (2 ^ p.lane)) (fun _ => readElem ty (s.mem.num p.pa (ty.width / 8))))).modThread key
      (fun t => t.laneDone lop p.lane)).performed key) := by
  have bad : e.parts.filter (fun p => s.mem.isPoison p.pa) = [] := List.filter_eq_nil_iff.mpr (fun x mem => by simp [clean x mem])
  have reg : Fin.ofNat 128 d.val = d := Fin.ext (Nat.mod_eq_of_lt d.isLt)
  unfold State.perform
  simp only [kind, bad, State.writeElem, reg]
  cases amoNew op ty.width (s.mem.num p.pa (ty.width / 8)) (leNat p.data) (leNat p.cmp) <;> rfl

theorem laneAtomicsPerform : Claims.LaneAtomicsPerform := by
  intro s e es op ty d lop p ps head kind parts held clean lane ok queue open' idle notSprout inside stays n old new
  have atomic : e.isAtomic = true := by simp [SqEntry.isAtomic, kind]
  have lanes : e.isLane = true := by simp [SqEntry.isLane, kind]
  have run := execAtomicPerform_open head parts held atomic queue open' idle inside
  rw [if_pos lanes, State.perform_lane kind clean, Option.getD_some] at run
  have landed := s.landed_landNew s.subj.ag p n new
  have beside := s.landNew_beside s.subj.ag p n new
  have num := fun bare v => State.num_landNew (s := s) bare s.subj.ag p n v
  have wrote := (s.landNew s.subj.ag p n new).blended_writeLanes (BitVec.ofNat 64 (2 ^ p.lane)) (readElem ty old)
    (fun k mem => (landed.rowOk _ _).trans (ok k mem))
  revert run
  generalize (s.landNew s.subj.ag p n new).writeLanes s.subj.ag ty d (BitVec.ofNat 64 (2 ^ p.lane)) (fun _ => readElem ty old) = v
    at wrote
  intro run
  have stays' : ∀ b, v.blockOf s.subj.ag = some b → ∃ g < b.launch.groups, b.gone.contains g = false := by
    rwa [wrote.block, landed.blockOf]
  have row (j k : Nat) := State.performed_row (f := fun t => t.laneDone lop p.lane) notSprout stays' (fun _ => rfl) j k
  have left := State.performed_mem (f := fun t => t.laneDone lop p.lane) notSprout stays'
  refine ⟨_, run, ?_, ?_, ?_, ?_, ?_, ?_, ?_⟩
  · intro k reg
    rw [row, wrote.written k reg, blend_at _ _ _ lane, getLsbD_laneBit _ _ lane]
    simp
  · intro key k j inside other
    rw [row]
    by_cases reg : key = s.subj.ag ∧ k ∈ vregRows ty d
    · obtain ⟨rfl, reg⟩ := reg
      have ne : j ≠ p.lane := by simpa [reg] using other
      rw [wrote.written k reg, blend_at _ _ _ inside, getLsbD_laneBit _ _ inside, landed.row]
      simp [ne]
    · rw [wrote.kept _ _ (by tauto), landed.row]
  · exact State.performed_sq notSprout stays' (by rw [wrote.agent, landed.agents]; exact head) parts
  · rw [State.performed_longOps notSprout stays']
    exact Thread.laneDone_left _ _ _
  · intro a out known
    rw [left, wrote.mem, beside a out known]
  · intro none a
    rw [left, wrote.mem, none]
    rfl
  · intro x some bare
    have size : 256 ^ n = 2 ^ ty.width := by cases ty <;> rfl
    rw [left, wrote.mem, some, num bare, size]

/-- Settles O11: an atomic's entry as it is queued, performed by an agent, and performed by one of its lanes. -/
theorem atomics : Obligations.Atomics := ⟨atomicsQueue, atomicsPerform, laneAtomicsPerform⟩

end Sys2Proof.Machine

namespace Sys2Proof.Machine

open Sys2Proof

/-! ### Special registers are read (R57, R58) -/

theorem completes_sget {s : State} {d : SReg} {i : BitVec 12} (free : s.Free anyone [d]) (readable : s.readable i.toNat = true) :
    Completes (.sget d i) s (Wrote s · d (s.specialValue i.toNat)) := by
  refine ⟨_, rfl, ?_⟩
  rw [if_neg (by rw [readable]; decide), State.issue_free free]
  exact State.finish_wrote free.2 d _

/-- The registers of Table 4.4 may be read by every agent. -/
theorem completes_sget_common {s : State} {d : SReg} {i : BitVec 12} {v : Nat} (free : s.Free anyone [d])
    (common : isCommon i.toNat = true) (value : s.commonReg i.toNat = v) :
    Completes (.sget d i) s (Wrote s · d (BitVec.ofNat 64 v)) := by
  have special : s.specialValue i.toNat = BitVec.ofNat 64 v := by rw [State.specialValue, if_pos common, value]
  exact special ▸ completes_sget free (by rw [State.readable, common]; rfl)

/-- Those of Tables 15.2, 17.4 and 20.1 may be read at the plot's system core. -/
theorem completes_sget_plot {s : State} {d : SReg} {i : BitVec 12} {v : Nat} (free : s.Free anyone [d])
    (plotCore : s.atPlotCore = true) (kind : (isPrivileged i.toNat || isDebug i.toNat) = true)
    (value : s.specialValue i.toNat = BitVec.ofNat 64 v) : Completes (.sget d i) s (Wrote s · d (BitVec.ofNat 64 v)) :=
  value ▸ completes_sget free (by rw [State.readable, kind, plotCore]; simp)

theorem State.placeReg_sys {s : State} (sys : isSysKey s.cur = true) (i : Nat) : s.placeReg i = 0 := by
  rw [State.placeReg, sys]; rfl

theorem State.countKey_group {s : State} {key : Nat} (notSprout : isSproutKey key = false) : s.countKey key = key := by
  rw [State.countKey, notSprout]; rfl

/-- Of a system core the registers that only a group has read 0. -/
theorem State.ite_sys {s : State} (sys : isSysKey s.cur = true) (n : Nat) : (if isSysKey s.cur then 0 else n) = 0 := if_pos sys

theorem State.ite_group {s : State} (group : isSysKey s.cur = false) (n : Nat) : (if isSysKey s.cur then 0 else n) = n :=
  if_neg (by rw [group]; decide)

/-- A group of a block reads its place from the block. -/
theorem State.placeReg_group {s : State} {b : Block} (group : isSysKey s.cur = false) (notSprout : isSproutKey s.cur = false)
    (block : s.blockOf s.cur = some b) :
    s.placeReg 0x000 = ctxOfKey s.cur * b.launch.rowStride ∧ s.placeReg 0x004 = ctxOfKey s.cur ∧ s.placeReg 0x005 = b.blockId ∧
    s.placeReg 0x006 = tileX (coreOfKey s.cur) ∧ s.placeReg 0x007 = tileY (coreOfKey s.cur) ∧ s.placeReg 0x008 = b.launch.w ∧
    s.placeReg 0x009 = b.launch.h ∧ s.placeReg 0x00A = b.x0 ∧ s.placeReg 0x00B = b.y0 := by
  simp only [State.placeReg, group, State.countKey_group notSprout, block, Bool.false_eq_true, if_false, and_self]

theorem State.phase_group {s : State} {b : Block} (group : isSysKey s.cur = false) (block : s.blockOf s.cur = some b) :
    s.commonReg 0x031 = b.launch.phase := by
  have launch : s.launchOf s.cur = b.launch := by rw [State.launchOf, block]
  exact (State.ite_group group _).trans (by rw [launch])

theorem Thread.trapReg_handler {t : Thread} (handler : t.status = .handler) :
    t.trapReg 0x100 = t.tcause.toNat ∧ t.trapReg 0x101 = t.tpc.toNat ∧ t.trapReg 0x102 = t.tclause.toNat ∧
    t.trapReg 0x103 = t.tindex.toNat ∧ t.trapReg 0x104 = t.tlanes.toNat ∧ t.trapReg 0x105 = t.trecord.toNat := by
  have inside : ¬ t.status ≠ .handler := fun h => h handler
  simp only [Thread.trapReg, if_neg inside, and_self]

theorem Thread.trapReg_outside {t : Thread} (outside : t.status ≠ .handler) (i : Nat) : t.trapReg i = 0 := if_pos outside

theorem State.commonReg_stopAt {s : State} (plotCore : s.atPlotCore = true) : s.commonReg 0x180 = (s.plot s.th.plot).stopAt.toNat := by
  have below : ¬ sysKey 48 ≤ s.cur := by
    simp only [State.atPlotCore, Bool.and_eq_true, decide_eq_true_eq] at plotCore
    omega
  exact if_neg below

/-- Settles O17: the register that an index names, by the table that holds it. -/
theorem specialReads : Obligations.SpecialReads := by
  intro s d free reads
  have common {i : BitVec 12} {v : Nat} (c : isCommon i.toNat = true) (value : s.commonReg i.toNat = v) : reads i v :=
    completes_sget_common free c value
  refine ⟨fun i readable => completes_sget free readable, common rfl rfl, common rfl rfl, common rfl rfl, common rfl rfl,
    common rfl rfl, common rfl rfl, common rfl rfl, common rfl rfl, common rfl rfl, ?_, ?_, ?_, ?_, ?_⟩
  · intro sys
    have place (i : Nat) := State.placeReg_sys sys i
    exact ⟨common rfl (place 0), common rfl (place 4), common rfl (place 5), common rfl (place 6), common rfl (place 7),
      common rfl (place 8), common rfl (place 9), common rfl (place 10), common rfl (place 11),
      common rfl (State.ite_sys sys _), common rfl (State.ite_sys sys _)⟩
  · intro b group notSprout block
    obtain ⟨rows, ctx, id, x, y, w, h, x0, y0⟩ := State.placeReg_group group notSprout block
    exact ⟨common rfl rows, common rfl ctx, common rfl id, common rfl x, common rfl y, common rfl w, common rfl h, common rfl x0,
      common rfl y0, common rfl (State.phase_group group block)⟩
  · intro handler
    obtain ⟨cause, pc, clause, index, lanes, record⟩ := Thread.trapReg_handler handler
    exact ⟨common rfl cause, common rfl pc, common rfl clause, common rfl index, common rfl lanes, common rfl record⟩
  · intro outside
    have none (i : Nat) := Thread.trapReg_outside outside i
    exact ⟨common rfl (none 0x100), common rfl (none 0x101), common rfl (none 0x102), common rfl (none 0x103),
      common rfl (none 0x104), common rfl (none 0x105)⟩
  · intro plotCore p
    have plot {i : BitVec 12} {v : Nat} (kind : (isPrivileged i.toNat || isDebug i.toNat) = true)
        (value : s.specialValue i.toNat = BitVec.ofNat 64 v) : reads i v := completes_sget_plot free plotCore kind value
    exact ⟨plot rfl rfl, plot rfl rfl, plot rfl rfl, plot rfl rfl, plot rfl rfl, plot rfl rfl, plot rfl rfl, plot rfl rfl,
      plot rfl rfl, plot rfl rfl, plot rfl rfl,
      common rfl (State.commonReg_stopAt plotCore), plot rfl rfl, plot rfl rfl⟩

end Sys2Proof.Machine

namespace Sys2Proof.Machine

open Sys2Proof

/-! ### Special registers are written (R58, R59, R312) -/

/-- A system core past no unresolved branch, privileged with interrupts enabled, enters its handler at once (R311). -/
theorem State.raise_interrupted {s : State} (sys : isSysKey s.cur = true) (mode : s.th.sys.smode = 3) (resolved : s.th.spec = none)
    (pt : PendingTrap) : Interrupted s (s.raise s.cur pt) s.cur pt.pc pt.cause pt.value := by
  have same : (s.unspec s.cur).thread s.cur = s.thread s.cur :=
    (State.thread_modThread_self _ _ _).trans (Thread.unspec_of_none resolved)
  have entered : Interrupted (s.unspec s.cur) ((s.unspec s.cur).syncInterrupt s.cur pt.pc pt.cause pt.value) s.cur pt.pc pt.cause
      pt.value := State.syncInterrupt_interrupted (by rw [same, show (s.thread s.cur).sys.smode = 3 from mode]; decide) _ _ _
  rw [State.raise, if_pos sys]
  obtain ⟨next, smode, imode, ipc, icause, ival, sregs, others, memory⟩ := entered
  rw [same] at next imode
  simp only [same] at sregs
  exact ⟨next, smode, imode, ipc, icause, ival, sregs,
    fun k other => (others k other).trans (State.thread_modThread_ne _ _ other), memory⟩

theorem State.atPlotCore_iff {s : State} :
    s.atPlotCore = true ↔ isSysKey s.cur = true ∧ s.cur < sysKey 48 ∧ s.th.privileged = true := by
  simp [State.atPlotCore, and_assoc]

theorem execSset_writable {s : State} {a : SReg} {i : BitVec 12} (free : s.Free anyone [a]) (writable : s.writable i.toNat = true) :
    exec (.sset a i) s = .next (s.ssetValue i.toNat (s.th.sreg a) State.advance) :=
  congrArg Host.Outcome.next ((if_neg (by rw [writable]; decide)).trans (State.issue_free free _))

theorem execSset_refused {s : State} {a : SReg} {i : BitVec 12} (refused : s.writable i.toNat = false) :
    exec (.sset a i) s = .next (s.trapNow cIllegal) :=
  congrArg Host.Outcome.next (if_pos (by rw [refused]; rfl))

theorem execSget_refused {s : State} {d : SReg} {i : BitVec 12} (refused : s.readable i.toNat = false) :
    exec (.sget d i) s = .next (s.trapNow cIllegal) :=
  congrArg Host.Outcome.next (if_pos (by rw [refused]; rfl))

/-- The registers of Tables 15.2 and 17.4 that are written at the plot's system core. -/
theorem State.writable_plot {s : State} (plotCore : s.atPlotCore = true) (i : Nat) :
    s.writable i = if isCommon i then i == 0x001 || between 0x020 0x023 i || i == 0x180
      else (isPrivileged i || isDebug i)
        && !(between 0x405 0x406 i || between 0x410 0x412 i || between 0x416 0x417 i || i == 0x422 || i == 0x42A
          || between 0x434 0x435 i || between 0x441 0x442 i || between 0x450 0x451 i || i == 0x803 || i == 0x80A || i == 0x80C
          || i == 0x812 || i == 0x815 || between 0x850 0x851 i) := by
  obtain ⟨sys, _, privileged⟩ := State.atPlotCore_iff.mp plotCore
  rw [State.writable, plotCore, sys, privileged, Bool.and_true, Bool.and_true, Bool.true_and]

/-- A register that the agent's own record holds. -/
theorem completes_sset_agent {s : State} {a : SReg} {i : BitVec 12} {x : Thread} (free : s.Free anyone [a])
    (writable : s.writable i.toNat = true)
    (run : s.ssetValue i.toNat (s.th.sreg a) State.advance = (s.modThread s.cur (fun _ => x)).advance) :
    Completes (.sset a i) s (AgentOnly s · s.cur x.advance) := by
  refine ⟨_, execSset_writable free writable, ?_⟩
  rw [run]
  exact (AgentOnly.refl s s.cur |>.modThread _).advance

/-- What a write of a register of the plot's record does: it sets the register, or is refused. -/
def State.putPlot (s : State) (x : Option Plot) : State :=
  match x with
  | some x => (s.setPlot s.th.plot x).advance
  | none => s.trapNow cRange

/-- The record of the running agent's plot is set, and the agent goes on. -/
theorem State.setPlot_advance (s : State) (x : Plot) : PlotAndOn s (s.setPlot s.th.plot x).advance s.th.plot x where
  record := s.plot_modPlot_self s.th.plot (fun _ => x)
  others _ other := s.plot_modPlot_ne (fun _ => x) other
  agent := State.thread_modThread_self _ _ _
  threads _ other := State.thread_modThread_ne _ _ other
  rest := rfl

/-- A register that the record of the running agent's plot holds. -/
theorem completes_sset_plot {s : State} {a : SReg} {i : BitVec 12} {w : Option Plot} {x : Plot} (free : s.Free anyone [a])
    (writable : s.writable i.toNat = true) (run : s.ssetValue i.toNat (s.th.sreg a) State.advance = s.putPlot w)
    (value : w = some x) : Completes (.sset a i) s (PlotAndOn s · s.th.plot x) := by
  refine ⟨_, execSset_writable free writable, ?_⟩
  rw [run, value]
  exact s.setPlot_advance x

/-- A write that the row of a plot's register refuses. -/
theorem refused_sset_plot {s : State} {a : SReg} {i : BitVec 12} {w : Option Plot} (free : s.Free anyone [a])
    (plotCore : s.atPlotCore = true) (writable : s.writable i.toNat = true)
    (run : s.ssetValue i.toNat (s.th.sreg a) State.advance = s.putPlot w) (refused : w = none)
    (mode : s.th.sys.smode = 3) (resolved : s.th.spec = none) :
    Completes (.sset a i) s (Interrupted s · s.cur s.th.pc 0x03 0) := by
  refine ⟨_, execSset_writable free writable, ?_⟩
  rw [run, refused]
  exact State.raise_interrupted (State.atPlotCore_iff.mp plotCore).1 mode resolved _

/-- The base of a ring lies on a page (Table 15.2). -/
theorem Plot.ringBase_off {p : Plot} {a : BitVec 56} (off : a.toNat % 4096 ≠ 0) (r : Ring) (size : Nat) :
    p.ringBase r size a = none :=
  if_neg (by simp [off])

theorem Thread.write_ftv {t : Thread} {v : Word} (one : v = 1 ∨ v = 2) : t.write 0x020 v = some { t with ftv := v.setWidth 8 } :=
  if_pos one

theorem Thread.write_ftv_refused {t : Thread} {v : Word} (one : v ≠ 1) (two : v ≠ 2) : t.write 0x020 v = none :=
  if_neg (not_or.mpr ⟨one, two⟩)

theorem SysRegs.write_ivec {r : SysRegs} {v : Word} (aligned : v.toNat % 4 = 0) :
    r.write 0x402 v = some { r with ivec := v.setWidth 56 } :=
  if_pos aligned

theorem State.ssetValue_thread {s : State} {i : Nat} {v : Word} {x : Thread} (low : i < 0x180) (write : s.th.write i v = some x) :
    s.ssetValue i v State.advance = (s.modThread s.cur (fun _ => x)).advance := by
  unfold State.ssetValue
  rw [if_neg (Nat.ne_of_lt low), if_pos low, write]
  rfl

theorem State.ssetValue_thread_refused {s : State} {i : Nat} {v : Word} (low : i < 0x180) (write : s.th.write i v = none) :
    s.ssetValue i v State.advance = s.trapNow cRange := by
  unfold State.ssetValue
  rw [if_neg (Nat.ne_of_lt low), if_pos low, write]

theorem State.ssetValue_sys {s : State} {i : Nat} {v : Word} {r : SysRegs} (low : 0x180 < i) (high : i < 0x410)
    (write : s.th.sys.write i v = some r) :
    s.ssetValue i v State.advance = (s.modThread s.cur (fun _ => { s.th with sys := r })).advance := by
  unfold State.ssetValue
  rw [if_neg (Nat.ne_of_gt low), if_neg (Nat.lt_asymm low), if_pos high, write]
  rfl

theorem State.ssetValue_stopAt {s : State} (plotCore : s.atPlotCore = true) (v : Word) :
    s.ssetValue 0x180 v State.advance = s.putPlot (some { s.plot s.th.plot with stopAt := v }) := by
  have below : ¬ sysKey 48 ≤ s.cur := Nat.not_le.mpr (State.atPlotCore_iff.mp plotCore).2.1
  unfold State.ssetValue
  rw [if_pos rfl, if_neg below]
  rfl

theorem specialWrites : Claims.SpecialWrites := by
  intro s a free v sets
  have own {i : BitVec 12} {x : Thread} (writable : s.writable i.toNat = true)
      (run : s.ssetValue i.toNat v State.advance = (s.modThread s.cur (fun _ => x)).advance) :
      Completes (.sset a i) s (AgentOnly s · s.cur x.advance) := completes_sset_agent free writable run
  refine ⟨own rfl rfl, fun one => own rfl (State.ssetValue_thread (by decide) (Thread.write_ftv one)), own rfl rfl, own rfl rfl,
    own rfl rfl, ?_, ?_⟩
  · intro plotCore
    have w := State.writable_plot plotCore
    refine ⟨own (w _) rfl, own (w _) rfl,
      fun aligned => own (w _) (State.ssetValue_sys (by decide) (by decide) (SysRegs.write_ivec aligned)), own (w _) rfl,
      own (w _) rfl, ?_⟩
    obtain ⟨t, run, only⟩ : Completes (.sset a 0x407) s (AgentOnly s · s.cur (Thread.advance _)) :=
      own (w _) (State.ssetValue_sys (by decide) (by decide) rfl)
    refine ⟨t, run, ?_, ?_, fun r => ?_, only.onlyRunning⟩ <;> rw [only.agent] <;> rfl
  · intro b x enters
    refine ⟨fun i refused => ⟨_, execSset_refused refused, State.trapNow_inHandler enters _⟩,
      fun i refused => ⟨_, execSget_refused refused, State.trapNow_inHandler enters _⟩, fun one two => ?_⟩
    refine ⟨_, execSset_writable free rfl, ?_⟩
    rw [show (0x020 : BitVec 12).toNat = 0x020 from rfl,
      State.ssetValue_thread_refused (by decide) (Thread.write_ftv_refused one two)]
    exact State.trapNow_inHandler enters _

theorem plotRegisterWrites : Claims.PlotRegisterWrites := by
  intro s a free plotCore v p sets refused
  have w := State.writable_plot plotCore
  have put {i : BitVec 12} {x : Option Plot} {y : Plot} (writable : s.writable i.toNat = true)
      (run : s.ssetValue i.toNat v State.advance = s.putPlot x) (value : x = some y) : sets i y :=
    completes_sset_plot free writable run value
  have refuse {i : BitVec 12} {x : Option Plot} (writable : s.writable i.toNat = true)
      (run : s.ssetValue i.toNat v State.advance = s.putPlot x) (none : x = none) : refused i :=
    refused_sset_plot free plotCore writable run none
  have trig : trigField v 0 4 = v.toNat % 16 := by simp [trigField]
  refine ⟨?_, fun lt => put (w _) rfl (if_pos lt), fun ge => refuse (w _) rfl (if_neg (Nat.not_lt.mpr ge)), put (w _) rfl rfl,
    put (w _) rfl rfl, put (w _) rfl rfl, put (w _) rfl rfl, put (w _) rfl rfl, put (w _) rfl rfl, put (w _) rfl rfl,
    put (w _) rfl rfl, fun off => ?_, fun bad => ?_, fun kind place => ?_⟩
  · exact put (w _) (State.ssetValue_stopAt plotCore v) rfl
  · have base (r : Ring) (size : Nat) : p.ringBase r size (v.setWidth 56) = none := Plot.ringBase_off off r size
    exact ⟨refuse (w _) rfl (congrArg (Option.map _) (base p.fring 32)), refuse (w _) rfl (congrArg (Option.map _) (base p.sysc 128)),
      refuse (w _) rfl (congrArg (Option.map _) (base p.flog 2048)), refuse (w _) rfl (congrArg (Option.map _) (base p.cks 32)),
      refuse (w _) rfl (congrArg (Option.map _) (base p.trc 16))⟩
  · have bad' : 6 ≤ trigField v 0 4 ∨ 6 ≤ trigField v 4 4 := .inl (trig ▸ bad)
    exact ⟨refuse (w _) rfl (if_pos bad'), refuse (w _) rfl (if_pos bad')⟩
  · exact put (w _) rfl (if_neg (by rw [trig, not_or]; exact ⟨Nat.not_le.mpr kind, Nat.not_le.mpr place⟩))

/-- Settles O18: the registers of the agent's own record, then those of its plot's record. -/
theorem specialWritten : Obligations.SpecialWritten := ⟨specialWrites, plotRegisterWrites⟩

end Sys2Proof.Machine

namespace Sys2Proof.Machine

open Sys2Proof

/-! ### An invalidation is queued (R315) -/

/-- A privileged system core executes the instructions that are its alone (R310). -/
theorem Privileged.issueFree {s : State} {names : List SReg} (h : Privileged s names) : s.Free systemOnly names := by
  obtain ⟨core, mode, issues, free⟩ := h
  have privileged : s.th.privileged = true := by
    rw [Thread.privileged, BitVec.getLsbD, Nat.testBit_zero, decide_eq_true_eq] at *
    simpa using mode
  refine ⟨⟨?_, issues⟩, free⟩
  rw [State.admits, if_pos core, privileged]
  rfl

theorem Privileged.mono {s : State} {names fewer : List SReg} (h : Privileged s names) (sub : ∀ r ∈ fewer, r ∈ names) :
    Privileged s fewer :=
  ⟨h.core, h.mode, (h.issueFree.1.mono sub).2, h.free⟩

/-- The body of `tlbinv` at a privileged system core. -/
theorem execTlbinv_queues {s : State} {a b : SReg} (h : Privileged s [a, b]) (aligned : (s.th.sreg a).toNat % 4096 = 0)
    (inside : (s.th.sreg a).toNat < 2 ^ 56)
    (space : (s.th.sreg b).toNat / 2 ^ 48 < (s.plot s.th.plot).vfCount ∨ (s.th.sreg b).toNat / 2 ^ 48 = 0xFFFF)
    (room : (s.plot s.th.plot).invs.countP (fun x => !x.cores.isEmpty) < 8) :
    exec (.tlbinv a b) s = .next (s.setPlot s.th.plot { s.plot s.th.plot with
      invs := (s.plot s.th.plot).invs ++ [
        { base := (s.th.sreg a).toNat, span := (s.th.sreg b).toNat % 2 ^ 48
          space := if decide ((s.th.sreg b).toNat / 2 ^ 48 = 0xFFFF) then none else some ((s.th.sreg b).toNat / 2 ^ 48)
          cores := s.tlbPlaces s.th.plot (decide ((s.th.sreg b).toNat / 2 ^ 48 = 0xFFFF)) }] }).advance := by
  have range : ¬ (2 ^ 56 ≤ (s.th.sreg a).toNat ∨ ((s.plot s.th.plot).vfCount ≤ (s.th.sreg b).toNat / 2 ^ 48 ∧
      (s.th.sreg b).toNat / 2 ^ 48 ≠ 0xFFFF)) := by omega
  refine congrArg Host.Outcome.next ((State.issue_free h.issueFree _).trans ?_)
  exact (if_neg (not_not.mpr aligned)).trans ((if_neg range).trans (if_neg (Nat.not_le.mpr room)))

theorem execTlbinv_misaligned {s : State} {a b : SReg} (h : Privileged s [a, b]) (off : (s.th.sreg a).toNat % 4096 ≠ 0) :
    exec (.tlbinv a b) s = .next (s.trapNow cMisaligned) :=
  congrArg Host.Outcome.next ((State.issue_free h.issueFree _).trans (if_pos off))

/-! ### The fence behind it (R316) -/

/-- An entry of a store queue stands as long as its agent's queue holds it: a change of a system core's record that keeps its
queue leaves every one where it is. -/
theorem State.stillQueued_modThread {s : State} {key : Nat} {f : Thread → Thread} (sys : isSysKey key = true)
    (keeps : ∀ t, (f t).sq = t.sq) (x : Nat × Nat × Nat) : (s.modThread key f).stillQueued x = s.stillQueued x := by
  unfold State.stillQueued
  split
  · by_cases same : x.2.1 = key
    · rw [same, State.thread_modThread_self, keeps]
    · rw [State.thread_modThread_ne _ _ same]
  · next group =>
    have other : x.2.1 ≠ key := fun same => group (same ▸ sys)
    have found : fget? (s.modThread key f).threads x.2.1 = fget? s.threads x.2.1 := fget?_fset_ne _ _ other
    have thread : (s.modThread key f).threadOf x.1 x.2.1 = s.threadOf x.1 x.2.1 := by
      unfold State.threadOf
      rw [found]
      rfl
    rw [thread]

/-- The state past a fence's waits, with no wait noted. -/
def State.unwaited (s : State) : State := s.modThread s.cur (fun t => { t with wait := .none })

/-- Where no wait was noted, only the plot's record and the running agent's place change. -/
theorem State.unwaited_setPlot_advance {s : State} (idle : s.th.wait = .none) (x : Plot) :
    PlotAndOn s (s.unwaited.setPlot s.th.plot x).advance s.th.plot x := by
  have only := ((AgentOnly.refl s s.cur).modThread (fun t => { t with wait := .none })).advance
  refine ⟨s.plot_modPlot_self s.th.plot (fun _ => x), fun q other => s.plot_modPlot_ne (fun _ => x) other, ?_, only.others, rfl⟩
  refine only.agent.trans ?_
  rw [← idle]
  rfl

theorem execTlbfence_done {s : State} (h : Privileged s []) (clear : FenceClear s true .p)
    (done : ∀ i ∈ (s.plot s.th.plot).invs, i.cores = [] ∧ (∀ x ∈ i.await, s.stillQueued x = false) ∧
      ∀ x ∈ i.fills, s.stillFills x = false) :
    exec .tlbfence s = .next (s.unwaited.setPlot s.th.plot
      { s.plot s.th.plot with invs := [] }).advance := by
  have plot : s.unwaited.plotOf s.cur = s.th.plot := by
    rw [State.plotOf, State.unwaited, State.thread_modThread_self]
    rfl
  have through : (s.plot s.th.plot).invs.any (fun v => !v.cores.isEmpty ||
      v.await.any s.unwaited.stillQueued ||
      v.fills.any s.unwaited.stillFills) = false := by
    refine List.any_eq_false.mpr (fun i mem => ?_)
    obtain ⟨cores, await, fills⟩ := done i mem
    have queued : i.await.any s.unwaited.stillQueued = false :=
      List.any_eq_false.mpr (fun x mem => Bool.eq_false_iff.mp
        ((State.stillQueued_modThread (f := fun t => { t with wait := .none }) h.core (fun _ => rfl) x).trans (await x mem)))
    have filled : i.fills.any s.unwaited.stillFills = false :=
      List.any_eq_false.mpr (fun x mem => Bool.eq_false_iff.mp (fills x mem))
    rw [cores, queued, filled]
    decide
  refine congrArg Host.Outcome.next ((State.issue_free h.issueFree _).trans ((State.fenceWaits_clear clear _).trans ?_))
  change (if ((s.plot (s.unwaited.plotOf s.cur)).invs.any _) = true then _ else (s.unwaited.setPlot (s.unwaited.plotOf s.cur)
    { s.plot (s.unwaited.plotOf s.cur) with invs := [] }).advance) = _
  rw [plot]
  exact if_neg (Bool.eq_false_iff.mp through)

/-! ### An invalidation reaches a TLB (R62, R315) -/

theorem Translation.cut_default (v : Invalidation) (space : Nat) : ({} : Translation).cut v space = {} := by
  unfold Translation.cut
  exact if_neg (fun h => h.1 rfl)

/-- A register that was cut once stays as it is when it is cut again. -/
theorem Translation.cut_cut (x : Translation) (v : Invalidation) (space : Nat) : (x.cut v space).cut v space = x.cut v space := by
  by_cases hit : x.limit ≠ 0 ∧ v.covers space (x.vbase.toNat / 4096 * 4096)
      ((x.vbase.toNat + x.limit.toNat + 4095) / 4096 * 4096 - x.vbase.toNat / 4096 * 4096) = true
  · have cut : x.cut v space = { x with limit := 0 } := if_pos hit
    rw [cut]
    unfold Translation.cut
    exact if_neg (fun h => h.1 rfl)
  · have kept : x.cut v space = x := if_neg hit
    rw [kept, kept]

theorem fgetD_map {α : Type} (m : FMap α) (f : α → α) {d : α} (fixed : f d = d) (k : Nat) :
    fgetD (m.map (fun b => (b.1, f b.2))) k d = f (fgetD m k d) := by
  induction m with
  | nil => exact fixed.symm
  | cons p m ih =>
    simp only [fgetD, List.map_cons, fget?] at ih ⊢
    split
    · rfl
    · exact ih

theorem Thread.bt_cutBts (t : Thread) (v : Invalidation) (space i : Nat) : (t.cutBts v space).bt i = (t.bt i).cut v space :=
  fgetD_map t.bts (fun b => b.cut v space) (Translation.cut_default v space) i

/-- The registers of some agents are cut, one agent after the other. -/
def State.cutAll (s : State) (v : Invalidation) (space : Nat → Nat) (keys : List Nat) : State :=
  keys.foldl (fun s' k => s'.modThread k (fun t => t.cutBts v (space k))) s

theorem State.cutAll_rest (s : State) (v : Invalidation) (space : Nat → Nat) (keys : List Nat) :
    s.cutAll v space keys = { s with threads := (s.cutAll v space keys).threads } := by
  induction keys generalizing s with
  | nil => rfl
  | cons k keys ih => exact (ih _).trans rfl

theorem State.bt_cutAll (s : State) (v : Invalidation) (space : Nat → Nat) (keys : List Nat) (j i : Nat) :
    ((s.cutAll v space keys).thread j).bt i = if j ∈ keys then ((s.thread j).bt i).cut v (space j) else (s.thread j).bt i := by
  induction keys generalizing s with
  | nil => rfl
  | cons k keys ih =>
    refine (ih (s.modThread k _)).trans ?_
    by_cases same : j = k
    · subst same
      rw [State.thread_modThread_self, Thread.bt_cutBts, Translation.cut_cut]
      simp
    · rw [State.thread_modThread_ne _ _ same]
      simp [same]

/-- What a core keeps of its TLB and its parked blocks when an invalidation reaches it. -/
def Core.reached (c : Core) (v : Invalidation) : Core :=
  { c with tlb := c.tlb.filter (fun e => !e.hit v), parked := c.parked.map (·.cutBts v) }

/-- The entries of store queues behind a TLB, of blocks on its core and off it, that an invalidation waits for. -/
def State.lateAt (s : State) (v : Invalidation) : List (Nat × Nat × Nat) :=
  (s.servedBy s.subj.n).flatMap (fun k => ((s.thread k).stale v (s.spaceOf k)).map (fun q => (s.blockIdOf k, k, q)))
    ++ ((s.core s.subj.n).parked ++ (s.plot s.subj.ag).recalled).flatMap (·.stale v)

/-- The fills there that it waits for. -/
def State.fillsAt (s : State) (v : Invalidation) : List (Nat × Nat) :=
  (s.core s.subj.n).block.elim [] (fun b => staleFills v b (s.core s.subj.n).eops)
    ++ ((s.core s.subj.n).parked ++ (s.plot s.subj.ag).recalled).flatMap (fun q => staleFills v q.block q.eops)

/-- The oldest invalidation of a plot has reached a TLB. -/
def State.reachedFirst (s : State) (v : Invalidation) (p : Plot) : Plot :=
  { p with
    invs := p.invs.modify 0 (fun w =>
      { w with cores := w.cores.filter (· ≠ s.subj.n), await := w.await ++ s.lateAt v, fills := w.fills ++ s.fillsAt v })
    recalled := p.recalled.map (·.cutBts v)
    walks := p.walks.filter (fun w => !(s.walkPlace w.agent == s.subj.n && v.covers w.space w.va 1)) }

theorem State.mem_lateAt {s : State} {v : Invalidation} {k q : Nat} (served : k ∈ s.servedBy s.subj.n)
    (stale : q ∈ (s.thread k).stale v (s.spaceOf k)) : (s.blockIdOf k, k, q) ∈ s.lateAt v :=
  List.mem_append_left _ (List.mem_flatMap.mpr ⟨k, served, List.mem_map.mpr ⟨q, stale, rfl⟩⟩)

/-- TLB_INVALIDATION_APPLY of the oldest invalidation at a TLB that it names. -/
theorem execTlbInvalidationApply_first {s : State} {v : Invalidation} {rest : List Invalidation}
    (queue : (s.plot s.subj.ag).invs = v :: rest) (reaches : v.cores.contains s.subj.n = true) :
    exec .tlbInvalidationApply s = .next (((s.modCore s.subj.n (fun c => c.reached v)).cutAll v s.spaceOf
      (s.servedBy s.subj.n)).modPlot s.subj.ag (s.reachedFirst v)) := by
  have first : (s.plot s.subj.ag).invs.findIdx? (fun v => v.cores.contains s.subj.n) = some 0 := by
    rw [queue, List.findIdx?_cons, reaches]
    rfl
  have oldest : (s.plot s.subj.ag).invs[0]? = some v := by
    rw [queue]
    rfl
  change Host.Outcome.next ((tlbInvalidationApplyStep s).getD s) = _
  unfold tlbInvalidationApplyStep
  simp only [first, oldest]
  rfl

/-- Settles O30: the instruction queues, the application takes away, the fence waits for both. -/
theorem shootdown : Obligations.Shootdown := by
  refine ⟨fun s a b privileged => ?_, fun s v rest queue reaches => ?_⟩
  · intro va v p
    refine ⟨fun aligned inside space room all => ?_, fun aligned inside all room => ?_, fun mode resolved off => ?_,
      fun idle clear done => ?_⟩
    · refine ⟨_, execTlbinv_queues privileged aligned inside (.inl space) room, ?_⟩
      rw [decide_eq_false all]
      exact s.setPlot_advance _
    · refine ⟨_, execTlbinv_queues privileged aligned inside (.inr all) room, ?_⟩
      rw [decide_eq_true all]
      exact s.setPlot_advance _
    · exact ⟨_, execTlbinv_misaligned privileged off, State.raise_interrupted privileged.core mode resolved _⟩
    · exact ⟨_, execTlbfence_done (privileged.mono (by simp)) clear done, s.unwaited_setPlot_advance idle _⟩
  · have run := execTlbInvalidationApply_first queue reaches
    have kept := (s.modCore s.subj.n (fun c => c.reached v)).cutAll_rest v s.spaceOf (s.servedBy s.subj.n)
    have bts := (s.modCore s.subj.n (fun c => c.reached v)).bt_cutAll v s.spaceOf (s.servedBy s.subj.n)
    generalize (s.modCore s.subj.n (fun c => c.reached v)).cutAll v s.spaceOf (s.servedBy s.subj.n) = u at run kept bts
    refine ⟨_, run, ?_, ?_, ?_, ?_⟩
    · have core : (u.modPlot s.subj.ag (s.reachedFirst v)).core s.subj.n = (s.core s.subj.n).reached v := by
        refine Eq.trans (b := (s.modCore s.subj.n (fun c => c.reached v)).core s.subj.n) ?_ (State.core_modCore_self _ _ _)
        rw [show (u.modPlot s.subj.ag (s.reachedFirst v)).core s.subj.n = u.core s.subj.n from rfl, kept]
        rfl
      intro e mem
      rw [core] at mem
      simpa [Core.reached, and_comm] using mem
    · intro k served i
      exact (bts k i).trans (if_pos served)
    · have plot : (u.modPlot s.subj.ag (s.reachedFirst v)).plot s.subj.ag = s.reachedFirst v (s.plot s.subj.ag) := by
        rw [State.plot_modPlot_self, kept]
        rfl
      refine ⟨_, by rw [plot, State.reachedFirst, queue]; rfl, rfl, fun x mem => List.mem_append_left _ mem,
        fun k served q stale => List.mem_append_right _ (State.mem_lateAt served stale)⟩
    · intro at'
      rw [show (u.modPlot s.subj.ag (s.reachedFirst v)).mem = u.mem from rfl, kept]
      rfl

end Sys2Proof.Machine

namespace Sys2Proof

theorem IType.width_cases (t : IType) : t.width = 8 ∨ t.width = 16 ∨ t.width = 32 ∨ t.width = 64 := by
  cases t <;> simp [IType.width]

theorem IType.width_pos (t : IType) : 0 < t.width := by
  rcases t.width_cases with h | h | h | h <;> omega

end Sys2Proof

namespace Sys2Proof.Machine

open Sys2Proof

/-! ### What the lane integer instructions write (R94, R97) -/

/-- A lane instruction that writes Write(v, t) in its lanes completes, for values that equal those. -/
theorem completes_writeLanes {i : Instr} {s : State} {t : IType} {d : VReg} {c : LaneCtl} {v v' : Nat → Int}
    (ok : s.CanWrite (vregRows t d))
    (run : exec i s = .next ((s.writeLanes s.laneCur t d (s.lanes c) v).countLane (s.lanes c))) (value : v = v') :
    Completes i s (LaneWrote s · (s.lanes c) (vregRows t d) (fun k j => writtenElem t d.val k (v' j)) 0) :=
  ⟨_, run, value ▸ s.writeLanes_wrote t d (s.lanes c) v ok⟩

/-- The six bits of a shift amount are among the bits of every type (Table 5.4). -/
theorem rawElem_mod_64 (t : IType) (x : Nat) : rawElem t x % 64 = x % 64 := by
  have divides : 64 ∣ 2 ^ t.width := by rcases t.width_cases with h | h | h | h <;> rw [h] <;> decide
  exact Nat.mod_mod_of_dvd x divides

theorem natAbs_eq_ite (a : Int) : (a.natAbs : Int) = if a < 0 then -a else a := by
  split <;> omega

/-- A shift by the width or more leaves copies of the sign (Table 5.4). -/
theorem signedOf_shiftRight {w n : Nat} (pos : 0 < w) (far : w ≤ n) (x : Nat) :
    signedOf w x / 2 ^ n = if signedOf w x < 0 then -1 else 0 := by
  have low : -2 ^ (w - 1) ≤ signedOf w x := BitVec.le_toInt _
  have high : signedOf w x < 2 ^ (w - 1) := BitVec.toInt_lt
  have half : (2 : Int) ^ (w - 1) ≤ 2 ^ n := pow_le_pow_right₀ (by decide) (by omega)
  have span : (0 : Int) < 2 ^ n := by positivity
  split
  · next neg => exact (Int.ediv_eq_iff_of_pos span).mpr ⟨by omega, by omega⟩
  · next nonneg => exact Int.ediv_eq_zero_of_lt (by omega) (by omega)

/-- Settles O34: each writes its function of the operands in its lanes. -/
theorem laneInteger : Obligations.LaneInteger := by
  intro s t d a b z p c ok w A B x y sx sy n gives
  have amount (i : Nat) : laneAmount (s.intArgs t a b i) = n i := rawElem_mod_64 t _
  refine ⟨completes_writeLanes ok rfl rfl, completes_writeLanes ok rfl rfl, completes_writeLanes ok rfl rfl,
    completes_writeLanes ok rfl rfl, completes_writeLanes ok rfl rfl, completes_writeLanes ok rfl rfl,
    completes_writeLanes ok rfl rfl, completes_writeLanes ok rfl rfl, completes_writeLanes ok rfl rfl,
    completes_writeLanes ok rfl rfl, completes_writeLanes ok rfl (funext fun i => ?vshl),
    completes_writeLanes ok rfl (funext fun i => ?vshrZ), completes_writeLanes ok rfl (funext fun i => ?vshrS),
    completes_writeLanes ok rfl rfl, completes_writeLanes ok rfl rfl, completes_writeLanes ok rfl rfl,
    completes_writeLanes ok rfl rfl, completes_writeLanes ok rfl (funext fun i => natAbs_eq_ite (A i)),
    completes_writeLanes ok rfl rfl, completes_writeLanes ok rfl rfl, completes_writeLanes ok rfl rfl,
    completes_writeLanes ok rfl (funext fun i => congrArg _ (popCount_eq (x i) w)), completes_writeLanes ok rfl rfl⟩
  case vshl => exact congrArg (fun k => if w ≤ k then 0 else A i * 2 ^ k) (amount i)
  case vshrZ => exact congrArg (fun k => ((x i / 2 ^ k : Nat) : Int)) (amount i)
  case vshrS =>
    refine (congrArg (fun k => sx i / 2 ^ k) (amount i)).trans ?_
    split
    · next far => exact signedOf_shiftRight t.width_pos far (x i)
    · rfl

end Sys2Proof.Machine

namespace Sys2Proof.Machine

open Sys2Proof

/-! ### Elements that move unchanged (R94, R99) -/

/-- Write(y, t) depends on the bits of t alone. -/
theorem writtenElem_congr {t : IType} {y z : Int} (same : BitVec.ofInt t.width y = BitVec.ofInt t.width z) (d k : Nat) :
    writtenElem t d k y = writtenElem t d k z := by
  cases t
  case i64 =>
    have bits : y % 2 ^ 64 = z % 2 ^ 64 := by
      have nat := congrArg BitVec.toNat same
      simp only [BitVec.toNat_ofInt, IType.width] at nat
      omega
    have low : BitVec.ofInt 32 y = BitVec.ofInt 32 z := by
      apply BitVec.eq_of_toNat_eq
      simp only [BitVec.toNat_ofInt]
      omega
    have high : BitVec.ofInt 32 (y / 2 ^ 32) = BitVec.ofInt 32 (z / 2 ^ 32) := by
      apply BitVec.eq_of_toNat_eq
      simp only [BitVec.toNat_ofInt]
      omega
    simp only [writtenElem, low, high]
  all_goals
    simp only [IType.width] at same
    simp only [writtenElem, same]

theorem ofInt_readElem (t : IType) (x : Nat) : BitVec.ofInt t.width (readElem t x) = BitVec.ofInt t.width (rawElem t x : Nat) := by
  have raw : BitVec.ofInt t.width (rawElem t x : Nat) = BitVec.ofNat t.width x := by
    rw [BitVec.ofInt_natCast]
    exact BitVec.eq_of_toNat_eq (by simp [rawElem])
  cases t
  case i8 | i16 | i32 | i64 => exact raw ▸ BitVec.ofInt_toInt
  all_goals rfl

/-- What Read gives of an element, Write puts back as its bits. -/
theorem writtenElem_readElem (t : IType) (d k x : Nat) :
    writtenElem t d k (readElem t x) = writtenElem t d k ((rawElem t x : Nat) : Int) :=
  writtenElem_congr (ofInt_readElem t x) d k

/-- The elements that a masked write gives matter in its lanes alone. -/
theorem LaneWrote.congr {s t : State} {m : BitVec 64} {rows : List Nat} {y y' : Nat → Nat → Elem} {f : Flags}
    (h : LaneWrote s t m rows y f) (same : ∀ k, ∀ i < 64, m.getLsbD i = true → y k i = y' k i) :
    LaneWrote s t m rows y' f where
  written k mem i lt := by
    rw [h.written k mem i lt]
    split
    · next taken => exact same k i lt taken
    · rfl
  kept := h.kept
  preds := h.preds
  flags := h.flags
  around := h.around

/-- Lane movement gives each lane the bits of its source lane, and 0 where it has none (R100). -/
theorem completes_moveLanes {i : Instr} {s : State} {t : IType} {d a : VReg} {c : LaneCtl} {j : Nat → Option Nat} {y : Nat → Int}
    (ok : s.CanWrite (vregRows t d)) (run : exec i s = .next (s.moveLanes t d a c j))
    (value : ∀ i, (j i).elim 0 (fun k => ((rawElem t (s.vecBits s.laneCur t a k) : Nat) : Int)) = y i) :
    Completes i s (LaneWrote s · (s.lanes c) (vregRows t d) (fun k j => writtenElem t d.val k (y j)) 0) := by
  refine ⟨_, run, (s.writeLanes_wrote t d (s.lanes c) _ ok).congr fun k i _ _ => ?_⟩
  rw [← value i]
  cases j i with
  | none => rfl
  | some source => exact writtenElem_readElem t d.val k _

theorem xor_two_pow_mod_64 (i n : Nat) : i ^^^ (2 ^ n % 64) = if n < 6 then i ^^^ 2 ^ n else i := by
  split
  · next low => rw [Nat.mod_eq_of_lt (Nat.pow_lt_pow_right (by decide) low : 2 ^ n < 2 ^ 6)]
  · next high =>
    have divides : 64 ∣ 2 ^ n := Nat.pow_dvd_pow 2 (Nat.le_of_not_lt high : 6 ≤ n)
    rw [Nat.mod_eq_zero_of_dvd divides, Nat.xor_zero]

/-! ### Reduction and running combinations (R101) -/

theorem mem_setLanes {m : BitVec 64} {i : Nat} : i ∈ setLanes m ↔ m.getLsbD i = true := by
  simp only [setLanes, List.mem_filter, List.mem_range, and_iff_right_iff_imp]
  exact BitVec.lt_of_getLsbD

theorem setLanes_sorted (m : BitVec 64) : (setLanes m).Pairwise (· < ·) := List.pairwise_lt_range.filter _

/-- The combination of the values of some lanes, from the first on. -/
def foldLanes (op : RedOp) (w : Nat) (v : Nat → Nat) : List Nat → Nat
  | [] => 0
  | i :: is => is.foldl (fun y j => redStep op w y (v j)) (v i)

section
variable (op : RedOp) (w : Nat) (v : Nat → Nat)

theorem getLast?_scanLanes_some (is : List Nat) (y : Nat) :
    (scanLanes op w v (some y) is).getLast?.elim y (·.2) = is.foldl (fun y j => redStep op w y (v j)) y := by
  induction is generalizing y with
  | nil => rfl
  | cons i is ih =>
    rw [scanLanes, List.getLast?_cons, List.foldl_cons, ← ih]
    cases (scanLanes op w v (some (redStep op w y (v i))) is).getLast? <;> rfl

/-- The last of the running combinations is the combination of every lane. -/
theorem getLast?_scanLanes (is : List Nat) : (scanLanes op w v none is).getLast?.elim 0 (·.2) = foldLanes op w v is := by
  cases is with
  | nil => rfl
  | cons i is =>
    rw [foldLanes, ← getLast?_scanLanes_some, scanLanes, List.getLast?_cons]
    cases (scanLanes op w v (some (v i)) is).getLast? <;> rfl

theorem filter_le_cons_self {i : Nat} {is : List Nat} (sorted : (i :: is).Pairwise (· < ·)) :
    (i :: is).filter (· ≤ i) = [i] := by
  have later : is.filter (· ≤ i) = [] := by
    simpa [List.filter_eq_nil_iff] using (List.pairwise_cons.mp sorted).1
  simp [later]

theorem fgetD_scanLanes_some {is : List Nat} (sorted : is.Pairwise (· < ·)) {i : Nat} (mem : i ∈ is) (y : Nat) :
    fgetD (scanLanes op w v (some y) is) i 0 = (is.filter (· ≤ i)).foldl (fun y j => redStep op w y (v j)) y := by
  induction is generalizing y with
  | nil => cases mem
  | cons j is ih =>
    obtain ⟨below, rest⟩ := List.pairwise_cons.mp sorted
    rcases List.mem_cons.mp mem with rfl | later
    · rw [filter_le_cons_self sorted]
      simp [scanLanes, fgetD, fget?]
    · have lt : j < i := below i later
      rw [List.filter_cons_of_pos (by simpa using Nat.le_of_lt lt), List.foldl_cons, ← ih rest later]
      simp [scanLanes, fgetD, fget?, Nat.ne_of_lt lt]

/-- A running combination is that of the lanes up to its own. -/
theorem fgetD_scanLanes {is : List Nat} (sorted : is.Pairwise (· < ·)) {i : Nat} (mem : i ∈ is) :
    fgetD (scanLanes op w v none is) i 0 = foldLanes op w v (is.filter (· ≤ i)) := by
  cases is with
  | nil => cases mem
  | cons j is =>
    obtain ⟨below, rest⟩ := List.pairwise_cons.mp sorted
    rcases List.mem_cons.mp mem with rfl | later
    · rw [filter_le_cons_self sorted]
      simp [scanLanes, fgetD, fget?, foldLanes]
    · have lt : j < i := below i later
      rw [List.filter_cons_of_pos (by simpa using Nat.le_of_lt lt), foldLanes, ← fgetD_scanLanes_some op w v rest later]
      simp [scanLanes, fgetD, fget?, Nat.ne_of_lt lt]

end

/-! ### vrand (R112) -/

theorem writtenElem_toNat (d k : Nat) (e : Elem) : writtenElem .z32 d k (e.toNat : Int) = e := by
  simp [writtenElem]

/-- Settles O36, from the lanes that elements come from, the running combinations, and the rounds on key and counter. -/
theorem laneMovement : Obligations.LaneMovement := by
  intro s t op d a v b k c ok okOne w x arg n m gives sg comb fold
  have step : redStep op w = comb := by
    funext y z
    cases op
    case minZ => exact (min_comm y z).trans (min_def_lt z y)
    case maxZ => exact max_def_lt y z
    all_goals rfl
  have folds (is : List Nat) : foldLanes op w x is = fold is := by
    cases is with
    | nil => rfl
    | cons i is => rw [foldLanes, step]
  refine ⟨completes_moveLanes ok rfl fun i => ?vxchg, completes_moveLanes ok rfl fun i => ?vshift,
    completes_moveLanes ok rfl fun i => ?vperm, completes_moveLanes ok rfl fun i => rfl,
    completes_writeLanes ok rfl (funext fun _ => ?vred), ?vscan, ?vrand⟩
  case vxchg => exact congrArg (fun j => ((x j : Nat) : Int)) (xor_two_pow_mod_64 i (arg i % 64))
  case vshift =>
    change (if 0 ≤ (i : Int) + n i ∧ (i : Int) + n i ≤ 63 then some ((i : Int) + n i).toNat else none).elim 0
      (fun j => ((x j : Nat) : Int)) = _
    by_cases inside : 0 ≤ (i : Int) + n i ∧ (i : Int) + n i ≤ 63
    · rw [if_pos inside, if_neg (by omega)]
      rfl
    · rw [if_neg inside, if_pos (by omega)]
      rfl
  case vperm =>
    have low : s.moveArg (.vec v) i % 64 = ((s.row s.laneCur v.val).at i).toNat % 64 := Nat.mod_mod_of_dvd _ (by decide)
    exact congrArg (fun j => ((x j : Nat) : Int)) low
  case vred => exact congrArg _ ((getLast?_scanLanes op w x (setLanes m)).trans (folds _))
  case vscan =>
    refine ⟨_, rfl, (s.writeLanes_wrote t d m _ ok).congr fun k i _ taken => congrArg (fun y : Nat => writtenElem t d.val k y) ?_⟩
    exact (fgetD_scanLanes op w x (setLanes_sorted m) (mem_setLanes.mpr taken)).trans (folds _)
  case vrand =>
    refine ⟨_, rfl, (s.writeLanes_wrote .z32 d m _ okOne).congr fun k i _ _ => ?_⟩
    exact writtenElem_toNat d.val k _

end Sys2Proof.Machine

namespace Sys2Proof.Machine

open Sys2Proof

/-! ### A clause starts (R89) -/

/-- Changing the record of any one agent alone. -/
theorem State.agentOnly_modThread_at (s : State) (key : Nat) (f : Thread → Thread) :
    AgentOnly s (s.modThread key f) key (f (s.thread key)) where
  agent := s.thread_modThread_self key f
  others _ other := s.thread_modThread_ne f other
  rest := s.sameElse_modThread key f

section
variable {s : State} {c : Clause} (live : (s.thread s.subj.ag).laneLive = true) (head : (s.thread s.subj.ag).headClause = some c)
include live head

theorem clauseStartStep_starts (fresh : c.started = false) (clear : c.hdr.waitMask &&& (s.thread s.subj.ag).flags = 0) :
    clauseStartStep s =
      some (s.modThread s.subj.ag (fun t => t.setClause c.id (fun c => { c with started := true }))) := by
  unfold clauseStartStep
  simp [live, head, fresh, clear]

theorem clauseStartStep_waits (busy : c.hdr.waitMask &&& (s.thread s.subj.ag).flags ≠ 0) : clauseStartStep s = none := by
  unfold clauseStartStep
  simpa [live, head] using fun _ => busy

end

/-! ### Its next instruction issues (R90, R91, R93) -/

/-- An agent's record when the next instruction of a clause has issued. -/
def Thread.laneTaken (t : Thread) (c : Clause) (i : Instr) : Thread :=
  { t.setClause c.id (fun c => { c with next := c.next + 1 }) with
    laneClause := c.id, laneIdx := c.next, laneStamp := none, laneLast := laneYield i }

/-- The state in which the instruction executes. -/
def State.laneTaken (s : State) (key : Nat) (c : Clause) (i : Instr) : State :=
  { s.modThread key (·.laneTaken c i) with laneCur := key }

section
variable {s : State} {key : Nat} {c : Clause} {i : Instr} (live : (s.thread key).laneLive = true)
  (head : (s.thread key).headClause = some c) (started : c.started = true) (next : c.instrs[c.next]? = some i)
include live head started next

theorem State.laneNext_free (free : ∀ r ∈ (laneNames i).rows, r ∉ (s.thread key).pendingRows) :
    s.laneNext key = some (s.laneTaken key c i, i) := by
  have clear : (laneNames i).rows.any (fun r => (s.thread key).pendingRows.contains r) = false := by
    simpa [List.any_eq_false] using free
  unfold State.laneNext
  simp only [live, head, started, next, clear]
  rfl

theorem State.laneNext_pending (pending : ∃ r ∈ (laneNames i).rows, r ∈ (s.thread key).pendingRows) : s.laneNext key = none := by
  have busy : (laneNames i).rows.any (fun r => (s.thread key).pendingRows.contains r) = true := by
    simpa [List.any_eq_true] using pending
  unfold State.laneNext
  simp only [live, head, started, next, busy]
  rfl

end

theorem State.thread_laneTaken (s : State) (key : Nat) (c : Clause) (i : Instr) :
    (s.laneTaken key c i).thread key = (s.thread key).laneTaken c i :=
  s.thread_modThread_self key (·.laneTaken c i)

theorem State.sameOthers_laneTaken (s : State) (key : Nat) (c : Clause) (i : Instr) : SameOthers s (s.laneTaken key c i) key :=
  fun _ other => s.thread_modThread_ne (·.laneTaken c i) other

theorem State.row_laneTaken (s : State) (key : Nat) (c : Clause) (i : Instr) (j k : Nat) :
    (s.laneTaken key c i).row j k = s.row j k :=
  s.row_modThread key (f := (·.laneTaken c i)) (fun _ => rfl) j k

section
variable {s u : State} {i : Instr} (next : s.laneNext s.subj.ag = some (u, i))
include next

theorem laneIssueStep_issues (go : u.laneWaits i = false) : laneIssueStep s = some { u with agenda := .exec i {} :: u.agenda } := by
  unfold laneIssueStep
  simp [next, go]

theorem laneIssueStep_waits (wait : u.laneWaits i = true) : laneIssueStep s = none := by
  unfold laneIssueStep
  simp [next, wait]

end

theorem laneIssueStep_none {s : State} (next : s.laneNext s.subj.ag = none) : laneIssueStep s = none := by
  unfold laneIssueStep
  simp [next]

/-! ### Its operations complete (R92) -/

theorem longLatencyCompleteStep_completes {s : State} {o : LongOp}
    (found : (s.thread s.subj.ag).longOps.find? (fun o => decide (o.left = 0)) = some o) :
    longLatencyCompleteStep s =
      some (s.modThread s.subj.ag (fun t => { t with longOps := t.longOps.filter (fun x => x.id != o.id) })) := by
  unfold longLatencyCompleteStep
  simp only [found]

theorem longLatencyCompleteStep_none {s : State}
    (none : (s.thread s.subj.ag).longOps.find? (fun o => decide (o.left = 0)) = none) : longLatencyCompleteStep s = .none := by
  unfold longLatencyCompleteStep
  simp only [none]

/-- An event of the agent in question that has a next state takes the machine to it. -/
theorem exec_of_step {i : Instr} {s u : State} {step : State → Option State} (run : exec i s = .next ((step s).getD s))
    (some : step s = some u) : exec i s = .next u := by
  rw [run, some]
  rfl

/-- One that has none leaves the machine as it is. -/
theorem exec_of_no_step {i : Instr} {s : State} {step : State → Option State} (run : exec i s = .next ((step s).getD s))
    (none : step s = none) : exec i s = .next s := by
  rw [run, none]
  rfl

/-- Settles O40: each event of a clause, from what it finds at the head of the lane queue and among the long operations. -/
theorem clausesRun : Obligations.ClausesRun := by
  intro s c key t others
  refine ⟨fun live head => ⟨fun fresh clear => ?starts, fun _ busy => ?waits, fun i started next =>
    ⟨fun free go => ?issues, fun pending => ?pending, fun u taken stays => ?stays⟩⟩, fun o found => ?completes, fun left => ?none⟩
  case starts => exact ⟨_, exec_of_step rfl (clauseStartStep_starts live head fresh clear), s.agentOnly_modThread_at key _⟩
  case waits => exact exec_of_no_step rfl (clauseStartStep_waits live head busy)
  case issues =>
    have taken := State.laneNext_free live head started next free
    refine ⟨_, exec_of_step rfl (laneIssueStep_issues taken (go _ taken)), rfl, rfl, rfl, s.sameOthers_laneTaken key c i, ?_⟩
    have agent := s.thread_laneTaken key c i
    exact ⟨congrArg Thread.laneClause agent, congrArg Thread.laneIdx agent, congrArg Thread.queue agent,
      fun r => (congrArg (fun x : Thread => x.sreg r) agent :), fun k => s.row_laneTaken key c i key k⟩
  case pending => exact exec_of_no_step rfl (laneIssueStep_none (State.laneNext_pending live head started next pending))
  case stays => exact exec_of_no_step rfl (laneIssueStep_waits taken stays)
  case completes => exact ⟨_, exec_of_step rfl (longLatencyCompleteStep_completes found), s.agentOnly_modThread_at key _⟩
  case none =>
    have busy : t.longOps.find? (fun o => decide (o.left = 0)) = none := List.find?_eq_none.mpr (by simpa using left)
    exact exec_of_no_step rfl (longLatencyCompleteStep_none busy)

end Sys2Proof.Machine

namespace Sys2Proof.Machine

open Sys2Proof

/-! ### What lane accesses leave in the caches (R23, R102, R109) -/

/-- The rows of every agent follow from the agents' own rows, the cores' register files and the blocks. -/
theorem State.row_congr {s t : State} (own : ∀ j, (t.thread j).ownRows = (s.thread j).ownRows)
    (rows : ∀ c, (t.core c).rows = (s.core c).rows) (block : ∀ c, (t.core c).block = (s.core c).block) (j k : Nat) :
    t.row j k = s.row j k := by
  have launch : t.launchOf j = s.launchOf j := by rw [State.launchOf, State.blockOf, block]; rfl
  unfold State.row
  rw [launch, own, rows]

/-- Of the machine only what the caches and the TLBs hold and count of accesses may differ. -/
structure Cached (s t : State) : Prop where
  threads : t.threads = s.threads
  mem : t.mem = s.mem
  laneCur : t.laneCur = s.laneCur
  cores : ∀ c, t.core c = { s.core c with tlb := (t.core c).tlb, l1 := (t.core c).l1, stats := (t.core c).stats }

theorem Cached.refl (s : State) : Cached s s := ⟨rfl, rfl, rfl, fun _ => rfl⟩

theorem Cached.trans {s t u : State} (h : Cached s t) (k : Cached t u) : Cached s u where
  threads := k.threads.trans h.threads
  mem := k.mem.trans h.mem
  laneCur := k.laneCur.trans h.laneCur
  cores c := by rw [k.cores c, h.cores c]

theorem Cached.thread {s t : State} (h : Cached s t) (k : Nat) : t.thread k = s.thread k := by
  rw [State.thread, h.threads]; rfl

theorem Cached.row {s t : State} (h : Cached s t) (j k : Nat) : t.row j k = s.row j k :=
  State.row_congr (fun j => by rw [h.thread]) (fun c => by rw [h.cores]) (fun c => by rw [h.cores]) j k

theorem Learned.cached {s t : State} (h : Learned s t) : Cached s t where
  threads := by rw [h.rest]
  mem := by rw [h.rest]
  laneCur := by rw [h.rest]
  cores c := by rw [h.core c]

theorem Touched.cached {s t : State} (h : Touched s t) (laneCur : t.laneCur = s.laneCur) : Cached s t where
  threads := h.threads
  mem := h.mem
  laneCur := laneCur
  cores c := by rw [h.cores c]

@[simp] theorem State.laneCur_statPlot (s : State) (key k n : Nat) : (s.statPlot key k n).laneCur = s.laneCur := rfl

@[simp] theorem State.laneCur_statBlock (s : State) (key k n : Nat) : (s.statBlock key k n).laneCur = s.laneCur := by
  unfold State.statBlock
  split <;> rfl

@[simp] theorem State.laneCur_countSlice (s : State) (key line : Nat) : (s.countSlice key line).laneCur = s.laneCur := by
  simp [State.countSlice, apply_ite (fun u : State => u.laneCur)]

@[simp] theorem State.laneCur_countLine (s : State) (key line : Nat) : (s.countLine key line).laneCur = s.laneCur := by
  simp [State.countLine, apply_ite (fun u : State => u.laneCur)]

theorem State.cached_touchLine (s : State) (key : Nat) (h : Hint) (line : Nat) : Cached s (s.touchLine key h line) :=
  (s.touched_touchLine key h line).cached (s.laneCur_countLine key line)

theorem State.cached_touchLines (s : State) (key : Nat) (h : Hint) (xs : List (LaneReq × Xlat)) :
    Cached s (s.touchLines key h xs) := by
  induction xs generalizing s with
  | nil => exact .refl s
  | cons x xs ih => exact (s.cached_touchLine key h _).trans (ih _)

/-- The TLBs learn the translations of the lanes of the TLB path (R102). -/
def State.learnLanes (s : State) (key : Nat) (xs : List (LaneReq × Xlat)) : State :=
  (xs.filter (fun x => !x.1.direct)).foldl (fun s' x => s'.fill key x.1.va.toNat (.ok x.2)) s

theorem State.cached_learnLanes (s : State) (key : Nat) (xs : List (LaneReq × Xlat)) : Cached s (s.learnLanes key xs) := by
  unfold State.learnLanes
  induction xs.filter (fun x => !x.1.direct) generalizing s with
  | nil => exact .refl s
  | cons x xs ih => exact (s.fill_learned key _ _).cached.trans (ih _)

/-! ### What the agent of lane work does alone -/

/-- The record of the agent of lane work is x; every other agent, all rows and memory are as before. -/
structure LaneAgent (s u : State) (x : Thread) : Prop where
  laneCur : u.laneCur = s.laneCur
  agent : u.thread s.laneCur = x
  others : SameOthers s u s.laneCur
  rows : ∀ j k, u.row j k = s.row j k
  mem : u.mem = s.mem

theorem LaneAgent.refl (s : State) : LaneAgent s s (s.thread s.laneCur) := ⟨rfl, rfl, fun _ _ => rfl, fun _ _ => rfl, rfl⟩

theorem LaneAgent.modThread {s u : State} {x : Thread} (h : LaneAgent s u x) (f : Thread → Thread)
    (keeps : ∀ t, (f t).ownRows = t.ownRows) : LaneAgent s (u.modThread s.laneCur f) (f x) where
  laneCur := h.laneCur
  agent := by rw [State.thread_modThread_self, h.agent]
  others k other := by rw [State.thread_modThread_ne _ _ other, h.others k other]
  rows j k := by rw [u.row_modThread _ keeps, h.rows]
  mem := h.mem

theorem LaneAgent.countLane {s u : State} {x : Thread} (h : LaneAgent s u x) (m : BitVec 64) :
    LaneAgent s (u.countLane m) { x with counters := bumpMap (bumpMap x.counters 1 1) 2 (setLanes m).length } := by
  unfold State.countLane
  rw [h.laneCur]
  exact h.modThread (fun t => { t with counters := bumpMap (bumpMap t.counters 1 1) 2 (setLanes m).length }) (fun _ => rfl)

theorem LaneAgent.cached {s u v : State} {x : Thread} (h : LaneAgent s u x) (k : Cached u v) : LaneAgent s v x where
  laneCur := k.laneCur.trans h.laneCur
  agent := (k.thread _).trans h.agent
  others j other := (k.thread j).trans (h.others j other)
  rows j n := (k.row j n).trans (h.rows j n)
  mem := k.mem.trans h.mem

/-- A global lane memory instruction has begun one long operation of its own; rows, registers, predicates, memory and every
other agent wait. -/
def LaneStarted (s u : State) (fb : Bool) (left : BitVec 64) (rows : List Nat) : Prop :=
  (∃ o : LongOp, (u.thread s.laneCur).longOps = (s.thread s.laneCur).longOps ++ [o] ∧ o.id = (s.thread s.laneCur).nextId ∧
    o.left = left ∧ o.flag = (s.thread s.laneCur).flagOf fb ∧ o.rows = rows) ∧
  (∀ j k, u.row j k = s.row j k) ∧ (∀ r, (u.thread s.laneCur).sreg r = (s.thread s.laneCur).sreg r) ∧
  (∀ p, (u.thread s.laneCur).pred p = (s.thread s.laneCur).pred p) ∧ SameOthers s u s.laneCur ∧ u.mem = s.mem

theorem LaneAgent.started {s u : State} {x : Thread} (h : LaneAgent s u x) {fb : Bool} {left : BitVec 64} {rows : List Nat}
    (long : x.longOps = ((s.thread s.laneCur).beginLong fb left rows).longOps) (sregs : x.sregs = (s.thread s.laneCur).sregs)
    (preds : x.preds = (s.thread s.laneCur).preds) : LaneStarted s u fb left rows := by
  refine ⟨?_, h.rows, fun r => ?_, fun p => ?_, h.others, h.mem⟩ <;> rw [h.agent]
  · exact ⟨_, long, rfl, rfl, rfl, rfl⟩
  · rw [Thread.sreg, sregs]; rfl
  · rw [Thread.pred, preds]; rfl

/-! ### The lanes of an instruction and their checks (R103) -/

theorem setLanes_ne_nil {m : BitVec 64} (some : m ≠ 0) : setLanes m ≠ [] := by
  intro none
  refine some (BitVec.eq_of_getLsbD_eq fun i _ => ?_)
  have out : i ∉ setLanes m := by simp [none]
  simpa [mem_setLanes] using out

theorem getLsbD_lanesMask (xs : List Nat) {i : Nat} (h : i < 64) : (lanesMask xs).getLsbD i = decide (i ∈ xs) := by
  rw [lanesMask, laneBits_getLsbD _ h, List.contains_eq_mem]

theorem lanesMask_setLanes (m : BitVec 64) : lanesMask (setLanes m) = m := by
  refine BitVec.eq_of_getLsbD_eq fun i lt => ?_
  rw [getLsbD_lanesMask _ lt, Bool.eq_iff_iff, decide_eq_true_eq, mem_setLanes]

/-- The access of one lane, with its checks. -/
def State.laneReq (s : State) (bt : BtReg) (m : LaneAddr) (acc : Access) (eb i : Nat) : LaneReq :=
  let o := s.laneOffset s.laneCur m eb i
  let b := (s.thread s.laneCur).bt bt.val
  let r := s.laneCheck s.laneCur b acc o eb
  ⟨i, o, r.1, r.2, b.direct acc o eb⟩

theorem State.laneReqs_eq (s : State) (bt : BtReg) (m : LaneAddr) (acc : Access) (eb : Nat) (lanes : BitVec 64) :
    s.laneReqs s.laneCur bt m acc eb lanes = (setLanes lanes).map (s.laneReq bt m acc eb) := rfl

section
variable {f : Nat → LaneReq} {x : Nat → Xlat} {is : List Nat} (pass : ∀ i ∈ is, (f i).check = .ok (x i))
include pass

theorem laneOks_map : laneOks (is.map f) = is.map (fun i => (f i, x i)) := by
  induction is with
  | nil => rfl
  | cons i is ih =>
    have rest := ih (fun j mem => pass j (List.mem_cons_of_mem i mem))
    rw [laneOks] at rest ⊢
    rw [List.map_cons, List.filterMap_cons, rest, pass i List.mem_cons_self]
    rfl

theorem laneFaults_map_nil : laneFaults (is.map f) = [] := by
  induction is with
  | nil => rfl
  | cons i is ih =>
    have rest := ih (fun j mem => pass j (List.mem_cons_of_mem i mem))
    rw [laneFaults] at rest ⊢
    rw [List.map_cons, List.filterMap_cons, rest, pass i List.mem_cons_self]

end

theorem MemCheck.unheld_of_ok {k : MemCheck} {x : Xlat} (ok : k = .ok x) : k ≠ .hold ∧ k ≠ .wait := by
  rw [ok]
  exact ⟨nofun, nofun⟩

theorem laneFaults_append (as bs : List LaneReq) : laneFaults (as ++ bs) = laneFaults as ++ laneFaults bs :=
  List.filterMap_append

theorem laneFaults_cons_trap {r : LaneReq} {cause : BitVec 8} (trap : r.check = .trap cause) (rs : List LaneReq) :
    laneFaults (r :: rs) = (r.lane, r.va.toNat, cause) :: laneFaults rs := by
  rw [laneFaults, List.filterMap_cons, trap]
  rfl

/-- Only lanes of the instruction fault. -/
theorem mem_of_mem_laneFaults {rs : List LaneReq} {k : Nat} (mem : k ∈ (laneFaults rs).map (·.1)) : ∃ r ∈ rs, r.lane = k := by
  obtain ⟨fault, found, rfl⟩ := List.mem_map.mp mem
  obtain ⟨r, at', out⟩ := List.mem_filterMap.mp found
  refine ⟨r, at', ?_⟩
  cases check : r.check with
  | trap cause =>
    simp only [check] at out
    exact congrArg (·.1) (Option.some.inj out)
  | ok | hold | wait =>
    simp only [check] at out
    cases out

/-- An instruction of which no walk waits and no page is missing completes its good lanes and faults the others. -/
theorem State.laneGlobal_unheld {s : State} {rs : List LaneReq}
    (free : ∀ r ∈ rs, r.check ≠ .hold ∧ r.check ≠ .wait) (hold : State → List Nat → State)
    (go : State → List (LaneReq × Xlat) → State) :
    s.laneGlobal rs hold go = ((go s (laneOks rs)).learnLanes s.laneCur (laneOks rs)).laneFaultHere (laneFaults rs) := by
  have walks : rs.any (fun r => decide (r.check = .wait)) = false := by
    simpa [List.any_eq_false] using fun r mem => (free r mem).2
  have pages : rs.any (fun r => decide (r.check = .hold)) = false := by
    simpa [List.any_eq_false] using fun r mem => (free r mem).1
  unfold State.laneGlobal
  rw [walks, pages]
  rfl

theorem State.laneFaultHere_nil (s : State) : s.laneFaultHere [] = s := rfl

end Sys2Proof.Machine

namespace Sys2Proof.Machine

open Sys2Proof

/-! ### Loads of lanes enter the window (R103, R110) -/

/-- The loads of the lanes whose checks pass, of the long operation `op`. -/
def laneLoads (t : IType) (d : VReg) (op : Nat) (oks : List (LaneReq × Xlat)) : List LoadReq :=
  oks.map (fun x =>
    { id := op + 1 + x.1.lane, dest := .lane d.val x.1.lane t op, va := x.1.va.toNat, pa := x.2.pa, size := t.width / 8
      mark := op + 1, uncached := x.2.cellOnly })

/-- They have entered an agent's window. -/
def Thread.loadLanes (th : Thread) (op : Nat) (loads : List LoadReq) : Thread :=
  { th with win := th.win ++ loads, nextId := op + 65 }

/-- The loads have entered, under one long operation. -/
def State.loadLanes (s : State) (t : IType) (d : VReg) (fb : Bool) (lanes : BitVec 64) (oks : List (LaneReq × Xlat)) : State :=
  let op := (s.thread s.laneCur).nextId
  ((s.modThread s.laneCur (·.beginLong fb (lanesMask (oks.map (·.1.lane))) (vregRows t d))).countLane lanes).modThread
    s.laneCur (·.loadLanes op (laneLoads t d op oks))

theorem State.vldAt_unheld {s : State} {t : IType} {d : VReg} {bt : BtReg} {m : LaneAddr} {h : Hint} {fb : Bool} {c : LaneCtl}
    (active : s.lanes c ≠ 0)
    (free : ∀ i ∈ setLanes (s.lanes c), (s.laneReq bt m .load (t.width / 8) i).check ≠ .hold ∧
      (s.laneReq bt m .load (t.width / 8) i).check ≠ .wait) :
    let rs := (setLanes (s.lanes c)).map (s.laneReq bt m .load (t.width / 8))
    s.vldAt t d bt m h fb c =
      (((s.loadLanes t d fb (s.lanes c) (laneOks rs)).touchLines s.laneCur h (laneOks rs)).learnLanes s.laneCur
        (laneOks rs)).laneFaultHere (laneFaults rs) := by
  intro rs
  have unheld : ∀ r ∈ rs, r.check ≠ .hold ∧ r.check ≠ .wait := by simpa [rs] using free
  exact (if_neg active).trans (State.laneGlobal_unheld unheld _ _)

theorem State.loadLanes_agent (s : State) (t : IType) (d : VReg) (fb : Bool) (lanes : BitVec 64) (oks : List (LaneReq × Xlat)) :
    ∃ x, LaneAgent s (s.loadLanes t d fb lanes oks) x ∧
      x.longOps = ((s.thread s.laneCur).beginLong fb (lanesMask (oks.map (·.1.lane))) (vregRows t d)).longOps ∧
      x.sregs = (s.thread s.laneCur).sregs ∧ x.preds = (s.thread s.laneCur).preds ∧ x.sq = (s.thread s.laneCur).sq ∧
      x.win = (s.thread s.laneCur).win ++ laneLoads t d (s.thread s.laneCur).nextId oks :=
  ⟨_, (((LaneAgent.refl s).modThread (·.beginLong fb _ (vregRows t d)) (fun _ => rfl)).countLane lanes).modThread
    (·.loadLanes _ (laneLoads t d _ oks)) (fun _ => rfl), rfl, rfl, rfl, rfl, rfl⟩

/-! ### Stores and atomics of lanes enter the queue (R110, R111) -/

/-- The parts of an entry for the lanes whose checks pass. -/
def laneParts (eb : Nat) (data cmp : Nat → Nat) (oks : List (LaneReq × Xlat)) : List Part :=
  oks.map (fun x =>
    { lane := x.1.lane, va := x.1.va.toNat, pa := x.2.pa, data := leBytes eb (data x.1.lane), cmp := leBytes eb (cmp x.1.lane)
      obj := x.2.obj })

/-- An agent that is no sprout has entered an instruction's lanes in the queue, under one long operation. -/
def Thread.queueLanes (t : Thread) (fb : Bool) (left : BitVec 64) (rows : List Nat) (kind : SqKind) (ps : List Part) : Thread :=
  (t.beginLong fb left rows).enqueue kind ps false

/-- The same of the machine, which counts the lanes. -/
def State.queueLanes (s : State) (fb : Bool) (lanes left : BitVec 64) (rows : List Nat) (kind : SqKind) (ps : List Part) : State :=
  (s.modThread s.laneCur (·.queueLanes fb left rows kind ps)).countLane lanes

theorem State.laneQueue_passes {s : State} {bt : BtReg} {m : LaneAddr} {acc : Access} {eb : Nat} {h : Hint} {fb : Bool}
    {c : LaneCtl} {rows : List Nat} {atomic : Bool} {kind : Nat → SqKind} {data cmp : Nat → Nat} {x : Nat → Xlat}
    (active : s.lanes c ≠ 0) (room : (s.thread s.laneCur).queueFull = false) (notSprout : isSproutKey s.laneCur = false)
    (pass : ∀ i ∈ setLanes (s.lanes c), (s.laneReq bt m acc eb i).check = .ok (x i)) (access : Nat) :
    let oks := (setLanes (s.lanes c)).map (fun i => (s.laneReq bt m acc eb i, x i))
    s.laneQueue bt m acc access eb h fb c rows atomic kind data cmp =
      ((s.queueLanes fb (s.lanes c) (if atomic then s.lanes c else 0) rows (kind (s.thread s.laneCur).nextId)
        (laneParts eb data cmp oks)).touchLines s.laneCur h oks).learnLanes s.laneCur oks := by
  intro oks
  have free : ∀ r ∈ (setLanes (s.lanes c)).map (s.laneReq bt m acc eb), r.check ≠ .hold ∧ r.check ≠ .wait := by
    intro r mem
    obtain ⟨i, lane, rfl⟩ := List.mem_map.mp mem
    exact MemCheck.unheld_of_ok (pass i lane)
  have lanes : lanesMask (oks.map (·.1.lane)) = s.lanes c := by
    simp [oks, State.laneReq, Function.comp_def, lanesMask_setLanes]
  have nonempty : (setLanes (s.lanes c)).isEmpty = false := by
    simpa using setLanes_ne_nil active
  unfold State.laneQueue
  rw [if_neg active, room, if_neg Bool.false_ne_true, State.laneReqs_eq]
  refine (State.laneGlobal_unheld free _ _).trans ?_
  rw [laneOks_map pass, laneFaults_map_nil pass, State.laneFaultHere_nil, lanes, notSprout]
  simp only [List.isEmpty_map, nonempty]
  cases atomic <;> rfl

theorem State.queueLanes_agent (s : State) (fb : Bool) (lanes left : BitVec 64) (rows : List Nat) (kind : SqKind) (ps : List Part) :
    ∃ x, LaneAgent s (s.queueLanes fb lanes left rows kind ps) x ∧
      x.longOps = ((s.thread s.laneCur).beginLong fb left rows).longOps ∧
      x.sregs = (s.thread s.laneCur).sregs ∧ x.preds = (s.thread s.laneCur).preds ∧ x.win = (s.thread s.laneCur).win ∧
      x.sq = (s.thread s.laneCur).sq ++ [{ seq := (s.thread s.laneCur).nextId + 1, kind := kind, parts := ps }] :=
  ⟨_, ((LaneAgent.refl s).modThread (·.queueLanes fb left rows kind ps) (fun _ => rfl)).countLane lanes, rfl, rfl, rfl, rfl, rfl⟩

end Sys2Proof.Machine

namespace Sys2Proof.Machine

open Sys2Proof

/-! ### Lane faults (R105) -/

/-- A lane fault of an agent that is no sprout stops its lane work, with a trap of its first fault's cause. -/
theorem State.laneFaultHere_group {s : State} (notSprout : isSproutKey s.laneCur = false) (lane va : Nat) (cause : BitVec 8)
    (rest : List (Nat × Nat × BitVec 8)) :
    let u := s.laneFaultHere ((lane, va, cause) :: rest)
    (u.thread s.laneCur).laneStop = true ∧ u.mem = s.mem ∧
      ∃ pt, (u.thread s.laneCur).trap = some pt ∧ pt.cause = 0x80 ||| cause ∧ pt.lanes = lanesMask (lane :: rest.map (·.1)) := by
  unfold State.laneFaultHere State.laneFault
  simp only [notSprout, Bool.false_eq_true, if_false, State.thread_modThread_self]
  exact ⟨trivial, rfl, _, rfl, rfl, rfl⟩

/-- Where every lane before one passes and that one traps, it is the first fault, and the others are of later lanes. -/
theorem laneFaults_lowest {f : Nat → LaneReq} (lane : ∀ k, (f k).lane = k) {x : Nat → Xlat} {is : List Nat}
    (sorted : is.Pairwise (· < ·)) {i : Nat} (mem : i ∈ is) {cause : BitVec 8} (trap : (f i).check = .trap cause)
    (pass : ∀ j ∈ is, j < i → (f j).check = .ok (x j)) :
    ∃ rest, laneFaults (is.map f) = (i, (f i).va.toNat, cause) :: rest ∧ ∀ k ∈ rest.map (·.1), i < k := by
  obtain ⟨before, after, rfl⟩ := List.append_of_mem mem
  obtain ⟨-, tail, below⟩ := List.pairwise_append.mp sorted
  have clear : laneFaults (before.map f) = [] := laneFaults_map_nil fun j early =>
    pass j (List.mem_append_left _ early) (below j early i List.mem_cons_self)
  refine ⟨laneFaults (after.map f), ?_, fun k fault => ?_⟩
  · rw [List.map_append, List.map_cons, laneFaults_append, clear, laneFaults_cons_trap trap, lane, List.nil_append]
  · obtain ⟨r, late, rfl⟩ := mem_of_mem_laneFaults fault
    obtain ⟨j, later, rfl⟩ := List.mem_map.mp late
    rw [lane]
    exact (List.pairwise_cons.mp tail).1 j later

/-! ### Lane memory instructions -/

section
variable {s : State} {t : IType} {d : VReg} {bt : BtReg} {m : LaneAddr} {h : Hint} {fb : Bool} {c : LaneCtl} {x : Nat → Xlat}
  (active : s.lanes c ≠ 0)
include active

/-- Where every lane passes, `vld` enters one load for each. -/
theorem State.vldAt_loads (pass : ∀ i ∈ setLanes (s.lanes c), (s.laneReq bt m .load (t.width / 8) i).check = .ok (x i)) :
    let u := s.vldAt t d bt m h fb c
    let th := s.thread s.laneCur
    LaneStarted s u fb (s.lanes c) (vregRows t d) ∧ (u.thread s.laneCur).sq = th.sq ∧
      (u.thread s.laneCur).win = th.win ++
        laneLoads t d th.nextId ((setLanes (s.lanes c)).map (fun i => (s.laneReq bt m .load (t.width / 8) i, x i))) := by
  rw [State.vldAt_unheld active fun i lane => MemCheck.unheld_of_ok (pass i lane), laneOks_map pass, laneFaults_map_nil pass,
    State.laneFaultHere_nil]
  have all : lanesMask (((setLanes (s.lanes c)).map (fun i => (s.laneReq bt m .load (t.width / 8) i, x i))).map (·.1.lane)) =
      s.lanes c := by
    simp [State.laneReq, Function.comp_def, lanesMask_setLanes]
  generalize (setLanes (s.lanes c)).map (fun i => (s.laneReq bt m .load (t.width / 8) i, x i)) = oks at all
  obtain ⟨y, agent, long, sregs, preds, sq, win⟩ := s.loadLanes_agent t d fb (s.lanes c) oks
  rw [all] at long
  have last := (agent.cached (State.cached_touchLines _ s.laneCur h oks)).cached (State.cached_learnLanes _ s.laneCur oks)
  exact ⟨last.started long sregs preds, by rw [last.agent]; exact sq, by rw [last.agent]; exact win⟩

/-- Where no lane is held and one faults, with every lane before it passing, that lane gives the cause. -/
theorem State.vldAt_faults (notSprout : isSproutKey s.laneCur = false) {i : Nat} {cause : BitVec 8}
    (lane : i ∈ setLanes (s.lanes c)) (trap : (s.laneReq bt m .load (t.width / 8) i).check = .trap cause)
    (free : ∀ j ∈ setLanes (s.lanes c), (s.laneReq bt m .load (t.width / 8) j).check ≠ .hold ∧
      (s.laneReq bt m .load (t.width / 8) j).check ≠ .wait)
    (below : ∀ j ∈ setLanes (s.lanes c), j < i → (s.laneReq bt m .load (t.width / 8) j).check = .ok (x j)) :
    let u := s.vldAt t d bt m h fb c
    (u.thread s.laneCur).laneStop = true ∧ u.mem = s.mem ∧
      ∃ pt, (u.thread s.laneCur).trap = some pt ∧ pt.cause = 0x80 ||| cause ∧ pt.lanes.getLsbD i = true ∧
        ∀ j, j < i → pt.lanes.getLsbD j = false := by
  obtain ⟨rest, faults, later⟩ := laneFaults_lowest (f := s.laneReq bt m .load (t.width / 8)) (fun _ => rfl)
    (setLanes_sorted _) lane trap below
  rw [State.vldAt_unheld active free, faults]
  generalize laneOks ((setLanes (s.lanes c)).map (s.laneReq bt m .load (t.width / 8))) = oks
  obtain ⟨y, agent, -⟩ := s.loadLanes_agent t d fb (s.lanes c) oks
  have last := (agent.cached (State.cached_touchLines _ s.laneCur h oks)).cached (State.cached_learnLanes _ s.laneCur oks)
  obtain ⟨stop, mem, pt, raised, first, faulty⟩ := State.laneFaultHere_group (by rw [last.laneCur]; exact notSprout) i
    (s.laneReq bt m .load (t.width / 8) i).va.toNat cause rest
  rw [last.laneCur] at stop raised
  have bound : i < 64 := BitVec.lt_of_getLsbD (mem_setLanes.mp lane)
  refine ⟨stop, mem.trans last.mem, pt, raised, first, ?_, fun j lt => ?_⟩
  · rw [faulty, getLsbD_lanesMask _ bound]
    simp
  · have clear : j ∉ i :: rest.map (·.1) := by
      rw [List.mem_cons, not_or]
      exact ⟨Nat.ne_of_lt lt, fun fault => absurd (later j fault) (Nat.lt_asymm lt)⟩
    rw [faulty, getLsbD_lanesMask _ (lt.trans bound), decide_eq_false clear]

/-- Where every lane passes, a store or an atomic enters one queue entry. -/
theorem State.laneQueue_queues {acc : Access} {eb : Nat} {rows : List Nat} {atomic : Bool} {kind : Nat → SqKind}
    {data cmp : Nat → Nat} (room : (s.thread s.laneCur).queueFull = false) (notSprout : isSproutKey s.laneCur = false)
    (pass : ∀ i ∈ setLanes (s.lanes c), (s.laneReq bt m acc eb i).check = .ok (x i)) (access : Nat) :
    let u := s.laneQueue bt m acc access eb h fb c rows atomic kind data cmp
    let th := s.thread s.laneCur
    LaneStarted s u fb (if atomic then s.lanes c else 0) rows ∧ (u.thread s.laneCur).win = th.win ∧
      (u.thread s.laneCur).sq = th.sq ++
        [{ seq := th.nextId + 1, kind := kind th.nextId
           parts := laneParts eb data cmp ((setLanes (s.lanes c)).map (fun i => (s.laneReq bt m acc eb i, x i))) }] := by
  rw [State.laneQueue_passes active room notSprout pass]
  generalize (setLanes (s.lanes c)).map (fun i => (s.laneReq bt m acc eb i, x i)) = oks
  obtain ⟨y, agent, long, sregs, preds, win, sq⟩ := s.queueLanes_agent fb (s.lanes c) (if atomic then s.lanes c else 0) rows
    (kind (s.thread s.laneCur).nextId) (laneParts eb data cmp oks)
  have last := (agent.cached (State.cached_touchLines _ s.laneCur h oks)).cached (State.cached_learnLanes _ s.laneCur oks)
  exact ⟨last.started long sregs preds, by rw [last.agent]; exact win, by rw [last.agent]; exact sq⟩

end

theorem laneMemory : Claims.LaneMemory := by
  intro s op t d e bt m h fb c x active room notSprout key th lanes eb check va passes around
  have named {acc : Access} (pass : passes acc) : ∀ i ∈ setLanes lanes, (s.laneReq bt m acc eb i).check = .ok (x i) :=
    fun i lane => pass i (mem_setLanes.mp lane)
  refine ⟨fun pass => ⟨_, rfl, ?vld⟩, fun pass => ⟨_, rfl, ?vst⟩, fun pass => ⟨_, rfl, ?vamo⟩,
    fun i cause lane trap free below => ⟨_, rfl, ?fault⟩⟩
  case vld =>
    obtain ⟨started, sq, win⟩ := State.vldAt_loads (d := d) (h := h) (fb := fb) active (named pass)
    exact ⟨started, sq, win.trans (by rw [laneLoads, List.map_map]; rfl)⟩
  case vst =>
    obtain ⟨started, win, sq⟩ := State.laneQueue_queues (h := h) (fb := fb) (rows := []) (atomic := false) (kind := .laneStore)
      (data := s.vecBits key t e) (cmp := fun _ => 0) active room notSprout (named pass) 1
    exact ⟨started, win, sq.trans (by rw [laneParts, List.map_map]; rfl)⟩
  case vamo =>
    obtain ⟨started, win, sq⟩ := State.laneQueue_queues (h := h) (fb := fb) (rows := vregRows t d) (atomic := true)
      (kind := .laneAtomic op t d.val) (data := s.vecBits key t e) (cmp := s.vecBits key t d) active room notSprout
      (named pass) 2
    exact ⟨started, win, sq.trans (by rw [laneParts, List.map_map]; rfl)⟩
  case fault =>
    exact State.vldAt_faults active notSprout (mem_setLanes.mpr lane) trap (fun j taken => free j (mem_setLanes.mp taken))
      (fun j taken lt => below j lt (mem_setLanes.mp taken))

end Sys2Proof.Machine

namespace Sys2Proof.Machine

open Sys2Proof

/-! ### Scratchpad bytes (R108, R200) -/

theorem getD_leBytes (n w : Nat) {j : Nat} (lt : j < n) : (leBytes n w).getD j 0 = BitVec.ofNat 8 (w / 256 ^ j) := by
  induction n generalizing w j with
  | zero => cases lt
  | succ n ih =>
    cases j with
    | zero => simp [leBytes]
    | succ j =>
      rw [leBytes, List.getD_cons_succ, ih _ (Nat.lt_of_succ_lt_succ lt), Nat.div_div_eq_div_mul, Nat.pow_succ']

/-- A run of bytes set one by one, from the k-th on, reads as written. -/
theorem fgetD_setBytes (lo : Nat) (bs : List Byte) (k : Nat) (m : FMap Byte) (a : Nat) :
    fgetD ((bs.zipIdx k).foldl (fun m x => fset m (lo + x.2) x.1) m) a 0 =
      if lo + k ≤ a ∧ a < lo + k + bs.length then bs.getD (a - (lo + k)) 0 else fgetD m a 0 := by
  induction bs generalizing k m with
  | nil => rw [if_neg (by simp)]; rfl
  | cons b bs ih =>
    rw [List.zipIdx_cons, List.foldl_cons, ih, fgetD_fset, List.length_cons]
    by_cases first : a = lo + k
    · rw [if_neg (by omega), if_pos first, if_pos (by omega), first, Nat.sub_self]
      rfl
    · by_cases later : lo + (k + 1) ≤ a ∧ a < lo + (k + 1) + bs.length
      · rw [if_pos later, if_pos (by omega), show a - (lo + k) = a - (lo + (k + 1)) + 1 by omega]
        rfl
      · rw [if_neg later, if_neg first, if_neg (by omega)]

theorem Core.pad_padWrite (c : Core) (lo : Nat) (bs : List Byte) (a : Nat) :
    fgetD (c.padWrite lo bs).pad a 0 = if lo ≤ a ∧ a < lo + bs.length then bs.getD (a - lo) 0 else fgetD c.pad a 0 :=
  fgetD_setBytes lo bs 0 c.pad a

/-- The elements v of some lanes written at their places in ascending order. -/
def Core.padWrites (c : Core) (eb : Nat) (place v : Nat → Nat) (is : List Nat) : Core :=
  is.foldl (fun c i => c.padWrite (place i) (leBytes eb (v i))) c

/-- A write of scratchpad changes no other part of its core than scratchpad and its errors. -/
theorem Core.padWrites_rest (c : Core) (eb : Nat) (place v : Nat → Nat) (is : List Nat) :
    c.padWrites eb place v is =
      { c with pad := (c.padWrites eb place v is).pad, padBad := (c.padWrites eb place v is).padBad
               reported := (c.padWrites eb place v is).reported } := by
  induction is generalizing c with
  | nil => rfl
  | cons i is ih => exact (ih _).trans rfl

/-- A byte reads as the last lane that covers it wrote it. -/
theorem Core.pad_padWrites (c : Core) (eb : Nat) (place v : Nat → Nat) (is : List Nat) (a : Nat) :
    fgetD (c.padWrites eb place v is).pad a 0 =
      (is.filter (fun i => decide (place i ≤ a ∧ a < place i + eb))).getLast?.elim (fgetD c.pad a 0)
        (fun i => BitVec.ofNat 8 (v i / 256 ^ (a - place i))) := by
  induction is generalizing c with
  | nil => rfl
  | cons i is ih =>
    rw [Core.padWrites, List.foldl_cons]
    refine (ih _).trans ?_
    rw [Core.pad_padWrite, leBytes_length]
    by_cases covers : place i ≤ a ∧ a < place i + eb
    · rw [List.filter_cons_of_pos (by simpa using covers), List.getLast?_cons, if_pos covers,
        getD_leBytes _ _ (by omega)]
      cases (is.filter (fun i => decide (place i ≤ a ∧ a < place i + eb))).getLast? <;> rfl
    · rw [List.filter_cons_of_neg (by simpa using covers), if_neg covers]

/-! ### Scratchpad instructions (R108, R110) -/

theorem State.padCheck_none {s : State} {load : Bool} {eb key : Nat} {o : Int} (aligned : o % (eb : Int) = 0) (low : 0 ≤ o)
    (high : o + (eb : Int) ≤ ((s.launchOf key).scratch : Int)) (clean : load = true → (s.core (coreOfKey key)).padBad = []) :
    s.padCheck key load o eb = none := by
  unfold State.padCheck
  rw [if_neg (by simpa using aligned), if_neg (by omega)]
  cases load with
  | false => rfl
  | true => simp [Core.padPoison, clean rfl]

section
variable (is : List Nat) (o : Nat → Int)

/-- The lanes of a scratchpad instruction with their offsets, where none faults. -/
def padPasses : List (Nat × Int × Option (BitVec 8)) := is.map (fun i => (i, o i, none))

@[simp] theorem padFaults_padPasses : padFaults (padPasses is o) = [] := by
  simp [padFaults, padPasses, List.filterMap_map]

@[simp] theorem filter_padPasses : (padPasses is o).filter (·.2.2.isNone) = padPasses is o :=
  List.filter_eq_self.mpr (by simp [padPasses])

@[simp] theorem map_padPasses : (padPasses is o).map (·.1) = is := by
  simp [padPasses, Function.comp_def]

@[simp] theorem State.noticePads_padPasses (s : State) (key eb : Nat) : s.noticePads key eb (padPasses is o) = s := by
  induction is with
  | nil => rfl
  | cons i is ih => exact ih

theorem foldl_padPasses (c : Core) (eb : Nat) (v : Nat → Nat) :
    (padPasses is o).foldl (fun x r => x.padWrite r.2.1.toNat (leBytes eb (v r.1))) c =
      c.padWrites eb (fun i => (o i).toNat) v is :=
  List.foldl_map

end

theorem State.padReqs_none {s : State} {m : LaneAddr} {load : Bool} {eb : Nat} {lanes : BitVec 64}
    (pass : ∀ i ∈ setLanes lanes, s.padCheck s.laneCur load (s.laneOffset s.laneCur m eb i) eb = none) :
    s.padReqs s.laneCur m load eb lanes = padPasses (setLanes lanes) (s.laneOffset s.laneCur m eb) :=
  List.map_congr_left fun i lane => congrArg (fun fault => (i, s.laneOffset s.laneCur m eb i, fault)) (pass i lane)

section
variable {s : State} {t : IType} {d e : VReg} {m : LaneAddr} {c : LaneCtl}

theorem execVlds_passes (pass : s.padReqs s.laneCur m true (t.width / 8) (s.lanes c) =
      padPasses (setLanes (s.lanes c)) (s.laneOffset s.laneCur m (t.width / 8))) :
    execVlds t d m c s = .next ((s.writeLanes s.laneCur t d (s.lanes c) (fun i =>
      let place := (s.laneOffset s.laneCur m (t.width / 8) i).toNat
      ((leNat ((s.core (coreOfKey s.laneCur)).padBytes place (t.width / 8)) : Nat) : Int))).countLane (s.lanes c)) := by
  unfold execVlds
  simp only [pass, filter_padPasses, map_padPasses, lanesMask_setLanes, State.noticePads_padPasses, padFaults_padPasses,
    State.laneFaultHere_nil]

/-- The elements of some lanes have been written to the scratchpad of the agent of lane work. -/
def State.padWrites (s : State) (eb : Nat) (place v : Nat → Nat) (is : List Nat) : State :=
  s.modCore (coreOfKey s.laneCur) (·.padWrites eb place v is)

theorem execVsts_passes (pass : s.padReqs s.laneCur m false (t.width / 8) (s.lanes c) =
      padPasses (setLanes (s.lanes c)) (s.laneOffset s.laneCur m (t.width / 8))) :
    execVsts t m e c s = .next ((s.padWrites (t.width / 8) (fun i => (s.laneOffset s.laneCur m (t.width / 8) i).toNat)
      (s.vecBits s.laneCur t e) (setLanes (s.lanes c))).countLane (s.lanes c)) := by
  unfold execVsts
  simp only [pass, filter_padPasses, padFaults_padPasses, State.laneFaultHere_nil, foldl_padPasses]
  rfl

end

theorem State.core_padWrites (s : State) (eb : Nat) (place v : Nat → Nat) (is : List Nat) (k : Nat) :
    (s.padWrites eb place v is).core k =
      { s.core k with pad := ((s.padWrites eb place v is).core k).pad, padBad := ((s.padWrites eb place v is).core k).padBad
                      reported := ((s.padWrites eb place v is).core k).reported } := by
  unfold State.padWrites
  by_cases own : k = coreOfKey s.laneCur
  · rw [own, State.core_modCore_self]
    exact Core.padWrites_rest _ _ _ _ _
  · rw [State.core_modCore_ne _ _ own]

/-- Scratchpad writes change the records of no agent, and memory and rows stay. -/
theorem State.padWrites_agent (s : State) (eb : Nat) (place v : Nat → Nat) (is : List Nat) :
    LaneAgent s (s.padWrites eb place v is) (s.thread s.laneCur) where
  laneCur := rfl
  agent := rfl
  others _ _ := rfl
  rows := State.row_congr (fun _ => rfl) (fun k => by rw [State.core_padWrites]) (fun k => by rw [State.core_padWrites])
  mem := rfl

theorem laneScratchpad : Claims.LaneScratchpad := by
  intro s t d e m c key eb lanes o pad inside
  have pass (load : Bool) (clean : load = true → pad.padBad = []) :
      s.padReqs key m load eb lanes = padPasses (setLanes lanes) o := by
    refine State.padReqs_none fun i lane => ?_
    obtain ⟨aligned, low, high⟩ := inside i (mem_setLanes.mp lane)
    exact State.padCheck_none aligned low high clean
  refine ⟨fun ok clean => ?vlds, ⟨_, execVsts_passes (pass false nofun), fun a => ?bytes, ?cores, ?frame⟩⟩
  case vlds => exact ⟨_, execVlds_passes (pass true fun _ => clean), s.writeLanes_wrote t d lanes _ ok⟩
  case bytes =>
    have written := Core.pad_padWrites pad eb (fun i => (o i).toNat) (s.vecBits key t e) (setLanes lanes) a
    have core : (s.padWrites eb (fun i => (o i).toNat) (s.vecBits key t e) (setLanes lanes)).core (coreOfKey key) =
        pad.padWrites eb (fun i => (o i).toNat) (s.vecBits key t e) (setLanes lanes) := State.core_modCore_self _ _ _
    refine (congrArg (fun x : Core => fgetD x.pad a 0) core).trans (written.trans ?_)
    cases ((setLanes lanes).filter (fun i => decide ((o i).toNat ≤ a ∧ a < (o i).toNat + eb))).getLast? <;> rfl
  case cores => exact fun k => s.core_padWrites eb _ _ _ k
  case frame =>
    have agent := (s.padWrites_agent eb (fun i => (o i).toNat) (s.vecBits key t e) (setLanes lanes)).countLane lanes
    exact ⟨agent.rows, agent.mem, agent.others⟩

/-- Settles O41, from the checks of the lanes and what enters the window, the queue and scratchpad for those that pass. -/
theorem laneAccesses : Obligations.LaneAccesses := ⟨laneMemory, laneScratchpad⟩

end Sys2Proof.Machine

namespace Sys2Proof.Machine

open Sys2Proof

/-! ### Masked writes that raise flags (R97, R127) -/

/-- A further row of the agent of lane work joins a masked write. -/
theorem LaneWrote.setRow {s t : State} {m : BitVec 64} {rows : List Nat} {y y' : Nat → Nat → Elem} {f : Flags}
    (h : LaneWrote s t m rows y f) {k : Nat} (ok : s.rowOk s.laneCur k = true) (same : ∀ j ∈ rows, j ≠ k → y' j = y j) :
    LaneWrote s (t.setRow s.laneCur k ((s.row s.laneCur k).blend m (y' k))) m (rows ++ [k]) y' f where
  written j mem i lt := by
    by_cases own : j = k
    · subst own
      have named : t.rowOk s.laneCur j = true := by
        unfold State.rowOk State.launchOf State.blockOf at ok ⊢
        rwa [h.around.cores]
      rw [t.row_setRow_self _ named, blend_at _ _ _ lt]
    · have before : j ∈ rows := by simpa [own] using mem
      rw [t.row_setRow_ne _ (.inr own), h.written j before i lt, same j before own]
  kept key j other := by
    have before : key ≠ s.laneCur ∨ j ∉ rows := other.imp_right (mt (List.mem_append_left _))
    have apart : key ≠ s.laneCur ∨ j ≠ k := other.imp_right fun absent same => absent (by simp [same])
    rw [t.row_setRow_ne _ apart, h.kept key j before]
  preds p := by
    rw [(t.setRow_thread s.laneCur k _ s.laneCur).1]
    exact h.preds p
  flags := by
    rw [(t.setRow_thread s.laneCur k _ s.laneCur).1]
    exact h.flags
  around :=
    { agent := by
        rw [(t.setRow_thread s.laneCur k _ s.laneCur).1, h.around.agent]
        rfl
      others := fun j other => by rw [(t.setRow_thread s.laneCur k _ j).2 other, h.around.others j other]
      cores := fun c => by rw [t.setRow_core s.laneCur k _ c, h.around.cores c]
      rest := by rw [t.setRow_rest s.laneCur k _, h.around.rest] }

/-- Float elements go to one row with their flags, and others to the row after it (R142, R143). -/
theorem State.writeFloat_setRow_wrote (s : State) (d : VReg) (m : BitVec 64) (f : Nat → Elem × Flags) (e : Nat → Elem)
    (ok : s.CanWrite [d.val]) (okNext : s.CanWrite [d.val + 1]) :
    LaneWrote s ((s.writeFloat d m f).setRow s.laneCur (d.val + 1) ((s.row s.laneCur (d.val + 1)).blend m e)) m
      [d.val, d.val + 1] (fun k i => if k = d.val then (f i).1 else e i) (laneFlags m (fun i => (f i).2)) := by
  have both := (s.writeFloat_wrote d m f ok).setRow (k := d.val + 1)
    (y' := fun k i => if k = d.val then (f i).1 else e i) (okNext _ List.mem_cons_self)
    (fun j mem _ => by simp [List.mem_singleton.mp mem])
  simpa using both

/-- A lane instruction that writes float elements in its lanes completes, for elements and flags that equal those. -/
theorem completes_writeFloat {i : Instr} {s : State} {d : VReg} {c : LaneCtl} {v v' : Nat → Elem × Flags}
    (ok : s.CanWrite [d.val]) (run : exec i s = .next (s.writeFloat d (s.lanes c) v)) (value : ∀ j, v j = v' j) :
    Completes i s (LaneWrote s · (s.lanes c) [d.val] (fun _ j => (v' j).1) (laneFlags (s.lanes c) (fun j => (v' j).2))) :=
  ⟨_, run, (funext value : v = v') ▸ s.writeFloat_wrote d (s.lanes c) v ok⟩

/-- A lane instruction that writes float elements and a second row completes, for elements and flags that equal those. -/
theorem completes_writeFloatPair {i : Instr} {s : State} {d : VReg} {c : LaneCtl} {v v' : Nat → Elem × Flags}
    {e e' : Nat → Elem} (ok : s.CanWrite [d.val]) (okNext : s.CanWrite [d.val + 1])
    (run : exec i s = .next ((s.writeFloat d (s.lanes c) v).setRow s.laneCur (d.val + 1)
      ((s.row s.laneCur (d.val + 1)).blend (s.lanes c) e)))
    (value : ∀ j, v j = v' j) (next : ∀ j, e j = e' j) :
    Completes i s (LaneWrote s · (s.lanes c) [d.val, d.val + 1] (fun k j => if k = d.val then (v' j).1 else e' j)
      (laneFlags (s.lanes c) (fun j => (v' j).2))) := by
  obtain rfl : v = v' := funext value
  obtain rfl : e = e' := funext next
  exact ⟨_, run, s.writeFloat_setRow_wrote d (s.lanes c) v e ok okNext⟩

@[simp] theorem laneFlags_zero (m : BitVec 64) : laneFlags m (fun _ => 0) = 0 := by
  unfold laneFlags
  induction setLanes m with
  | nil => rfl
  | cons i is ih => simpa using ih

/-- Flags that join FPX with a masked write of a predicate change nothing else that the write changes. -/
theorem LanePred.raised {s t u : State} {m : BitVec 64} {p : PReg} {y : Nat → Bool} {f : Flags} (h : LanePred s t m p y 0)
    (own : u.thread s.laneCur =
      ((t.thread s.laneCur).raiseFp f).mapPoints (fun x => x.raiseFp f (s.thread s.laneCur).laneClause))
    (others : SameOthers t u s.laneCur) (rest : u = { t with threads := u.threads }) : LanePred s u m p y f := by
  have cores : u.cores = t.cores := by rw [rest]
  have core (c : Nat) : u.core c = t.core c := by rw [State.core, cores, State.core]
  have flags : (u.thread s.laneCur).fpx = (s.thread s.laneCur).fpx ||| f := by
    have before : (t.thread s.laneCur).fpx = (s.thread s.laneCur).fpx := by simpa using h.flags
    rw [own, ← before]
    rfl
  refine ⟨?written, ?kept, ?rows, flags, ?agent, ?others, ?cores, ?rest⟩
  case written => rw [own]; exact h.written
  case kept => rw [own]; exact h.kept
  case rows =>
    intro j k
    refine (State.row_congr (fun i => ?_) (fun c => by rw [core]) (fun c => by rw [core]) j k).trans (h.rows j k)
    by_cases lane : i = s.laneCur
    · rw [lane, own]
      rfl
    · rw [others i lane]
  case agent =>
    have agent := h.around.agent
    rw [Thread.mapPoints_none] at agent
    rw [own, agent]
    rfl
  case others => exact fun j other => (others j other).trans (h.around.others j other)
  case cores => exact fun c => by rw [core, h.around.cores]
  case rest => rw [rest, h.around.rest]

/-- A masked write of one predicate that raises flags, with the count of its lanes (R97, R127). -/
theorem State.writePred_raiseFp_wrote (s : State) (p : PReg) (m : BitVec 64) (y : Nat → Bool) (f : Flags) :
    LanePred s (((s.writePred s.laneCur p m y).raiseFp s.laneCur f (s.thread s.laneCur).laneClause).countLane m) m p y f := by
  generalize written : s.writePred s.laneCur p m y = u
  have counted : LanePred s (u.countLane m) m p y 0 := written ▸ s.writePred_wrote p m y
  have lane : u.laneCur = s.laneCur := by rw [← written]; rfl
  have laneRaised (n : Nat) : (u.raiseFp s.laneCur f n).laneCur = s.laneCur := by
    unfold State.raiseFp
    split <;> exact lane
  refine counted.raised ?own (fun j other => ?others) ?rest
  case own =>
    unfold State.countLane
    rw [laneRaised, lane, State.thread_modThread_self, State.thread_modThread_self, State.raiseFp_thread]
    rfl
  case others =>
    unfold State.countLane
    rw [laneRaised, lane, State.thread_modThread_ne _ _ other, State.thread_modThread_ne _ _ other]
    unfold State.raiseFp
    split
    · rfl
    · exact State.thread_modThread_ne _ _ other
  case rest =>
    unfold State.countLane State.raiseFp
    split <;> rfl

end Sys2Proof.Machine

namespace Sys2Proof.Machine

open Sys2Proof

/-! ### Values that a format holds exactly (R118, R123) -/

theorem Fmt.pack_mod (f : Fmt) (neg : Bool) {mag : Nat} (low : mag < 2 ^ (f.eb + f.fb)) :
    f.pack neg mag % 2 ^ (f.eb + f.fb) = mag := by
  cases neg <;> simp [Fmt.pack, Nat.mod_eq_of_lt low]

/-- The value of a code from its sign and magnitude (R118). -/
theorem Fmt.value_pack (f : Fmt) (neg : Bool) {mag : Nat} (low : mag < 2 ^ (f.eb + f.fb)) :
    f.value (f.pack neg mag) =
      if mag ≤ f.maxMag then f.magVal neg mag else if f.hasInf ∧ mag = f.maxMag + 1 then .inf neg else .nan := by
  have sign : decide (f.pack neg mag / 2 ^ (f.eb + f.fb) % 2 = 1) = neg := by
    cases neg <;> simp [Fmt.pack, Nat.div_eq_of_lt low, Nat.add_div_left _ (Nat.two_pow_pos _)]
  simp only [Fmt.value, f.pack_mod neg low, sign]

/-- A value whose last place is no finer than the format's at its size takes its own code, with no flag. -/
theorem roundDy_exact (f : Fmt) (mode : RMode) (neg : Bool) {m : Nat} {e q : Int} {mag : Nat}
    (place : max f.emin (e + (m.log2 : Int) - f.fb) = q) (coarse : q ≤ e)
    (code : (q - f.emin).toNat * 2 ^ f.fb + m * 2 ^ (e - q).toNat = mag) (fits : mag ≤ f.maxMag) :
    roundDy f mode neg m e false = (f.pack neg mag, 0) := by
  have kept (x : Nat) : roundShift mode neg x 0 false = (x, false) := by
    cases mode <;> simp [roundShift, roundsUp, Nat.mod_one]
  simp only [roundDy, place, if_neg (Int.not_lt.mpr coarse), kept, code, if_neg (Nat.not_lt.mpr fits), Bool.false_eq_true,
    if_false]

/-- A finite BF16 value is one of FP32, whose magnitude code has 16 bits of 0 more (R118). -/
theorem roundVal_fp32_magVal_bf16 (mode : RMode) (neg : Bool) {mag : Nat} (finite : mag ≤ bf16.maxMag) :
    roundVal fp32 mode (bf16.magVal neg mag) = (fp32.pack neg (mag * 65536), 0) := by
  have bound : mag ≤ 0x7F7F := finite
  have fits : mag * 65536 ≤ fp32.maxMag := by
    show mag * 65536 ≤ 0x7F7FFFFF
    omega
  have emin32 : fp32.emin = -149 := rfl
  have emin16 : bf16.emin = -133 := rfl
  simp only [Fmt.magVal, emin16, show bf16.fb = 7 from rfl]
  split
  · next subnormal =>
    by_cases zero : mag % 2 ^ 7 = 0
    · have none : mag = 0 := by omega
      subst none
      rfl
    · have size : (mag % 2 ^ 7).log2 < 7 := (Nat.log2_lt zero).mpr (Nat.mod_lt _ (by decide))
      simp only [roundVal, if_neg zero]
      refine roundDy_exact fp32 mode neg (q := -149) ?_ (by decide) ?_ fits
      · rw [emin32, show fp32.fb = 23 from rfl]
        omega
      · rw [emin32]
        change 0 * 2 ^ 23 + mag % 2 ^ 7 * 2 ^ 16 = mag * 65536
        omega
  · next normal =>
    have size : (2 ^ 7 + mag % 2 ^ 7).log2 = 7 := (Nat.log2_eq_iff (by omega)).mpr (by omega)
    simp only [roundVal, if_neg (show 2 ^ 7 + mag % 2 ^ 7 ≠ 0 by omega)]
    refine roundDy_exact fp32 mode neg (q := -149 + (mag / 2 ^ 7 - 1 : Nat)) ?_ (by omega) ?_ fits
    · rw [emin32, size, show fp32.fb = 23 from rfl]
      omega
    · have places : (-133 + ((mag / 2 ^ 7 - 1 : Nat) : Int) - (-149 + ((mag / 2 ^ 7 - 1 : Nat) : Int))).toNat = 16 := by omega
      have binade : (-149 + ((mag / 2 ^ 7 - 1 : Nat) : Int) - -149).toNat = mag / 2 ^ 7 - 1 := by omega
      rw [emin32, places, binade, show fp32.fb = 23 from rfl]
      omega

/-- Every BF16 value is one of FP32, whose code has 16 bits of 0 more (R142). -/
theorem roundVal_fp32_bf16 (mode : RMode) {h : Nat} (lt : h < 65536) :
    roundVal fp32 mode (bf16.value h) = (if 0x7F80 < h % 32768 then 0x7FC00000 else h * 65536, 0) := by
  obtain ⟨neg, mag, low, rfl⟩ : ∃ (neg : Bool) (mag : Nat), mag < 32768 ∧ h = bf16.pack neg mag := by
    refine ⟨decide (h / 32768 = 1), h % 32768, by omega, ?_⟩
    simp only [Fmt.pack, bf16, decide_eq_true_eq]
    split <;> omega
  have magnitude : bf16.pack neg mag % 32768 = mag := bf16.pack_mod neg low
  have widened : fp32.pack neg (mag * 65536) = bf16.pack neg mag * 65536 := by
    cases neg <;> simp [Fmt.pack, bf16, fp32, Nat.add_mul]
  rw [bf16.value_pack neg low, magnitude, ← widened]
  split
  · next finite =>
    have below : ¬ 0x7F80 < mag := Nat.not_lt.mpr (Nat.le_succ_of_le finite)
    rw [roundVal_fp32_magVal_bf16 mode neg finite, if_neg below]
  · next above =>
    have beyond : 0x7F7F < mag := Nat.not_le.mp above
    split
    · next infinite =>
      obtain rfl : mag = 0x7F80 := infinite.2
      rfl
    · next other =>
      have notInf : mag ≠ 0x7F80 := fun same => other ⟨rfl, same⟩
      rw [if_pos (by omega)]
      rfl

/-! ### Lane floating point (R137–R142) -/

/-- The FP32 element of a BF16 code; the canonical NaN of a NaN (R142). -/
def widenBf16 (h : Nat) : Elem := if 0x7F80 < h % 32768 then 0x7FC00000 else BitVec.ofNat 32 (h * 65536)

theorem lowOf_roundVal_bf16 (mode : RMode) {h : Nat} (lt : h < 65536) :
    (BitVec.ofNat 32 (roundVal fp32 mode (bf16.value h)).1, (roundVal fp32 mode (bf16.value h)).2) = (widenBf16 h, 0) := by
  rw [roundVal_fp32_bf16 mode lt, widenBf16]
  split <;> rfl

/-- An operation of two operands does not depend on a third. -/
theorem onHalves_third (t : FType) (op : Nat → Nat → Nat × Flags) (a b c c' : Elem) :
    onHalves t (fun x y _ => op x y) a b c = onHalves t (fun x y _ => op x y) a b c' := by
  cases t <;> rfl

/-- An operation of one operand does not depend on the others. -/
theorem onHalves_others (t : FType) (op : Nat → Nat × Flags) (a b b' c c' : Elem) :
    onHalves t (fun x _ _ => op x) a b c = onHalves t (fun x _ _ => op x) a b' c' := by
  cases t <;> rfl

/-- A conversion of one value to one value (R142). -/
theorem execVfcvt_single {td ts : CvtType} (single : td ≠ .bf16x2) (one : ts ≠ .bf16x2) (r : RndOv) (d a : VReg) (b : BSrc)
    (c : LaneCtl) (s : State) :
    execVfcvt td ts r d a b c s = .next (s.writeFloat d (s.lanes c) (fun i =>
      let x := fCvt td ts (s.laneMode r) ((s.row s.laneCur a.val).at i)
      (BitVec.ofNat 32 x.1, x.2))) := by
  simp only [execVfcvt, if_neg single, if_neg one]

/-- Settles O37: each writes its function of the operands in its lanes, and FP32 holds the halves of .bf16x2 exactly. -/
theorem laneFloat : Obligations.LaneFloat := by
  intro s t r td ts cc p d a b z c ok m f mode A B C lo hi rounded gives
  have two (op : Nat → Nat → Nat × Flags) (i : Nat) := onHalves_third t op (A i) (B i) 0 (C i)
  have one (op : Nat → Nat × Flags) (i : Nat) := onHalves_others t op (A i) (s.fbElem t (.imm 0) i) (B i) 0 (C i)
  refine ⟨completes_writeFloat ok rfl (two _), completes_writeFloat ok rfl (two _), completes_writeFloat ok rfl (two _),
    completes_writeFloat ok rfl fun _ => rfl, completes_writeFloat ok rfl (two _), completes_writeFloat ok rfl (two _),
    completes_writeFloat ok rfl (two _), completes_writeFloat ok rfl (one _), completes_writeFloat ok rfl (one _),
    ⟨_, rfl, s.writePred_raiseFp_wrote p m _ _⟩,
    fun single whole => ⟨_, execVfcvt_single single whole r d a b c s, s.writeFloat_wrote d m _ ok⟩,
    ⟨_, rfl, s.writeFloat_wrote d m _ ok⟩, fun both => ?widen⟩
  case widen =>
    have okNext : s.CanWrite [d.val + 1] := fun k mem => both k (List.mem_cons_of_mem _ mem)
    obtain ⟨t, run, wrote⟩ := completes_writeFloatPair (i := .vfcvt .f32 .bf16x2 r d a b c) (s := s)
      (v' := fun i => (widenBf16 ((A i).toNat % 65536), 0)) (e' := fun i => widenBf16 ((A i).toNat / 65536)) ok okNext rfl
      (fun i => lowOf_roundVal_bf16 mode (Nat.mod_lt _ (by decide)))
      (fun i => congrArg Prod.fst (lowOf_roundVal_bf16 mode (Nat.div_lt_of_lt_mul (A i).isLt)))
    rw [laneFlags_zero] at wrote
    refine ⟨t, run, wrote.congr fun k i _ _ => ?_⟩
    exact (apply_ite widenBf16 _ _ _).symm

end Sys2Proof.Machine

namespace Sys2Proof.Machine

open Sys2Proof

/-! ### The size of a finite value (R118) -/

/-- The magnitude m · 2^e. -/
def dyadic (m : Nat) (e : Int) : ℚ := m * 2 ^ e

theorem dyadic_pos {m : Nat} (nonzero : m ≠ 0) (e : Int) : 0 < dyadic m e := by
  have pos : (0 : ℚ) < m := by exact_mod_cast Nat.pos_of_ne_zero nonzero
  unfold dyadic
  positivity

@[simp] theorem dyadic_zero (e : Int) : dyadic 0 e = 0 := by simp [dyadic]

/-- A magnitude lies between the power of two of its top bit and the next. -/
theorem dyadic_bounds {m : Nat} (nonzero : m ≠ 0) (e : Int) :
    (2 : ℚ) ^ (e + (m.log2 : Int)) ≤ dyadic m e ∧ dyadic m e < (2 : ℚ) ^ (e + (m.log2 : Int) + 1) := by
  have scale : (0 : ℚ) < 2 ^ e := by positivity
  have low : (2 : ℚ) ^ m.log2 ≤ m := by exact_mod_cast Nat.log2_self_le nonzero
  have high : (m : ℚ) < 2 ^ (m.log2 + 1) := by exact_mod_cast Nat.lt_log2_self
  constructor
  · rw [zpow_add₀ two_ne_zero, zpow_natCast, mul_comm]
    exact mul_le_mul_of_nonneg_right low scale.le
  · have power : (2 : ℚ) ^ (e + (m.log2 : Int) + 1) = 2 ^ (m.log2 + 1) * 2 ^ e := by
      rw [add_assoc, zpow_add₀ two_ne_zero, mul_comm]
      norm_cast
    rw [power]
    exact mul_lt_mul_of_pos_right high scale

/-- The integer of a magnitude at an exponent k, in units of 2^k. -/
theorem scaledInt_mul (m : Nat) {e k : Int} (le : k ≤ e) : (scaledInt false m e k : ℚ) * 2 ^ k = dyadic m e := by
  have split : e = ((e - k).toNat : Int) + k := by omega
  simp only [scaledInt, Bool.false_eq_true, if_false, dyadic]
  push_cast
  rw [mul_assoc]
  congr 1
  conv_rhs => rw [split]
  rw [zpow_add₀ two_ne_zero, zpow_natCast]

theorem scaledInt_lt {m n : Nat} {e g : Int} :
    scaledInt false m e (min e g) < scaledInt false n g (min e g) ↔ dyadic m e < dyadic n g := by
  rw [← scaledInt_mul m (min_le_left e g), ← scaledInt_mul n (min_le_right e g),
    mul_lt_mul_iff_of_pos_right (by positivity)]
  exact_mod_cast Iff.rfl

theorem cmp_neg_iff {m n : Nat} {e g : Int} : (FVal.fin false m e).cmp (.fin false n g) < 0 ↔ dyadic m e < dyadic n g := by
  rw [← scaledInt_lt]
  simp only [FVal.cmp]
  split
  · next lt => simp [lt]
  · next not => split <;> simp [not]

theorem cmp_pos_iff {m n : Nat} {e g : Int} : 0 < (FVal.fin false m e).cmp (.fin false n g) ↔ dyadic n g < dyadic m e := by
  rw [← scaledInt_lt, min_comm g e]
  simp only [FVal.cmp]
  split
  · next lt => simpa using lt.le
  · next not => split <;> simp [*]

theorem cmp_nonpos_iff {m n : Nat} {e g : Int} : (FVal.fin false m e).cmp (.fin false n g) ≤ 0 ↔ dyadic m e ≤ dyadic n g := by
  rw [← not_lt, cmp_pos_iff, not_lt]

/-! ### The first attempt's exponent (R131) -/

/-- No finite value of a list is larger in magnitude than the pair for maxabs. -/
theorem le_maxAbsDy {xs : List FVal} {neg : Bool} {m : Nat} {e : Int} (mem : FVal.fin neg m e ∈ xs) :
    dyadic m e ≤ dyadic (maxAbsDy xs).1 (maxAbsDy xs).2 := by
  induction xs with
  | nil => cases mem
  | cons x xs ih =>
    cases x with
    | nan => exact ih (by simpa using mem)
    | inf _ => exact ih (by simpa using mem)
    | fin neg' n g =>
      rcases List.mem_cons.mp mem with head | tail
      · obtain ⟨rfl, rfl, rfl⟩ : neg = neg' ∧ m = n ∧ e = g := by simpa using head
        simp only [maxAbsDy]
        split
        · exact le_rfl
        · next large => exact not_lt.mp (mt cmp_neg_iff.mpr large)
      · refine (ih tail).trans ?_
        simp only [maxAbsDy]
        split
        · next small => exact (cmp_neg_iff.mp small).le
        · exact le_rfl

/-- A pair for maxabs that is not 0 is the magnitude of a finite value of the list. -/
theorem maxAbsDy_mem {xs : List FVal} (nonzero : (maxAbsDy xs).1 ≠ 0) :
    ∃ neg, FVal.fin neg (maxAbsDy xs).1 (maxAbsDy xs).2 ∈ xs := by
  induction xs with
  | nil => exact absurd rfl nonzero
  | cons x xs ih =>
    cases x with
    | nan => exact (ih nonzero).imp fun _ => List.mem_cons_of_mem _
    | inf _ => exact (ih nonzero).imp fun _ => List.mem_cons_of_mem _
    | fin neg n g =>
      simp only [maxAbsDy] at nonzero ⊢
      split at nonzero
      · next small =>
        rw [if_pos small]
        exact ⟨neg, List.mem_cons_self⟩
      · next large =>
        rw [if_neg large]
        exact (ih nonzero).imp fun _ => List.mem_cons_of_mem _

/-- The exponent of a magnitude is the least that brings the largest finite value n · 2^k up to it. -/
theorem scaleExp_least {g : Fmt} {n m : Nat} {k : Int} (largest : g.magVal false g.maxMag = .fin false n k) (pos : n ≠ 0)
    (nonzero : m ≠ 0) (e : Int) :
    dyadic m e ≤ dyadic n (k + scaleExp g m e) ∧ dyadic n (k + (scaleExp g m e - 1)) < dyadic m e := by
  obtain ⟨low, high⟩ := dyadic_bounds nonzero e
  simp only [scaleExp, largest]
  split
  · next covers =>
    refine ⟨cmp_nonpos_iff.mp covers, (dyadic_bounds pos _).2.trans_le (le_trans (le_of_eq ?_) low)⟩
    congr 1
    omega
  · next short =>
    refine ⟨high.le.trans (le_trans (le_of_eq ?_) (dyadic_bounds pos _).1), ?_⟩
    · congr 1
      omega
    · rw [add_sub_cancel_right]
      exact not_le.mp (mt cmp_nonpos_iff.mpr short)

/-- The exponent of a block's first attempt; 0 where every finite value is 0. -/
def firstExp (g : Fmt) (xs : List FVal) : Int :=
  if (maxAbsDy xs).1 = 0 then 0 else scaleExp g (maxAbsDy xs).1 (maxAbsDy xs).2

theorem firstExp_of_zeros (g : Fmt) {xs : List FVal} (zeros : ∀ neg m e, FVal.fin neg m e ∈ xs → m = 0) :
    firstExp g xs = 0 := by
  refine if_pos ?_
  by_contra nonzero
  obtain ⟨neg, mem⟩ := maxAbsDy_mem nonzero
  exact nonzero (zeros _ _ _ mem)

/-- It is the least that brings the largest finite value n · 2^k up to every finite value of the block. -/
theorem firstExp_least {g : Fmt} {n : Nat} {k : Int} (largest : g.magVal false g.maxMag = .fin false n k) (pos : n ≠ 0)
    {xs : List FVal} (some : ∃ neg m e, FVal.fin neg m e ∈ xs ∧ m ≠ 0) :
    (∀ neg m e, FVal.fin neg m e ∈ xs → dyadic m e ≤ dyadic n (k + firstExp g xs)) ∧
      ∃ neg m e, FVal.fin neg m e ∈ xs ∧ dyadic n (k + (firstExp g xs - 1)) < dyadic m e := by
  obtain ⟨neg, m, e, mem, nonzero⟩ := some
  have maxAbs : (maxAbsDy xs).1 ≠ 0 := by
    intro none
    have le := le_maxAbsDy mem
    rw [none, dyadic_zero] at le
    exact absurd (dyadic_pos nonzero e) (not_lt.mpr le)
  obtain ⟨covers, short⟩ := scaleExp_least largest pos maxAbs (maxAbsDy xs).2
  obtain ⟨sign, attained⟩ := maxAbsDy_mem maxAbs
  rw [firstExp, if_neg maxAbs]
  exact ⟨fun _ _ _ other => (le_maxAbsDy other).trans covers, sign, _, _, attained, short⟩

/-! ### The scale that the quantiser settles on (R132) -/

/-- A finite element of the block overflows under a scale. -/
def AnyOverflows (g : Fmt) (mode : RMode) (xs : List FVal) (scale : FVal) : Prop :=
  ∃ neg m e, FVal.fin neg m e ∈ xs ∧ (quantOne g mode neg m e scale).2 &&& flOverflow ≠ 0

theorem any_quantOverflows {g : Fmt} {mode : RMode} {xs : List FVal} {scale : FVal} :
    xs.any (quantOverflows g mode scale) = true ↔ AnyOverflows g mode xs scale := by
  rw [List.any_eq_true]
  constructor
  · rintro ⟨x, mem, overflows⟩
    cases x with
    | nan => cases overflows
    | inf _ => cases overflows
    | fin neg m e => exact ⟨neg, m, e, mem, by simpa [quantOverflows] using overflows⟩
  · rintro ⟨neg, m, e, mem, overflows⟩
    exact ⟨_, mem, by simpa [quantOverflows] using overflows⟩

/-- The quantiser advances one code at a time, each because an element overflows under it and the next is finite, and stops
where no element overflows, the attempts are over, or no finite code is left. -/
theorem settleScale_spec (g : Fmt) (sf : ScaleFmt) (mode : RMode) (xs : List FVal) (tries : Nat) {c : Nat}
    (finite : c ≤ lastScale sf) :
    ∃ j ≤ tries, settleScale g sf mode xs tries c = c + j ∧ c + j ≤ lastScale sf ∧
      (∀ i < j, AnyOverflows g mode xs (scaleValue sf (c + i))) ∧
      (AnyOverflows g mode xs (scaleValue sf (c + j)) → j = tries ∨ c + j = lastScale sf) := by
  induction tries generalizing c with
  | zero => exact ⟨0, le_rfl, rfl, finite, by simp, fun _ => .inl rfl⟩
  | succ n ih =>
    have advances : (xs.any (quantOverflows g mode (scaleValue sf c)) && decide (c + 1 ≤ lastScale sf)) = true ↔
        AnyOverflows g mode xs (scaleValue sf c) ∧ c + 1 ≤ lastScale sf := by
      rw [Bool.and_eq_true, any_quantOverflows, decide_eq_true_eq]
    simp only [settleScale]
    split
    · next more =>
      obtain ⟨overflows, room⟩ := advances.mp more
      obtain ⟨j, le, settled, last, before, stop⟩ := ih room
      have shift (i : Nat) : c + (i + 1) = c + 1 + i := by omega
      refine ⟨j + 1, by omega, settled.trans (shift j).symm, by omega, fun i lt => ?_, fun overflows => ?_⟩
      · cases i with
        | zero => exact overflows
        | succ i => rw [shift]; exact before i (by omega)
      · rw [shift] at overflows ⊢
        exact (stop overflows).imp_left (congrArg (· + 1))
    · next done =>
      refine ⟨0, by omega, rfl, finite, by simp, fun overflows => .inr ?_⟩
      have none : ¬ c + 1 ≤ lastScale sf := fun le => done (advances.mpr ⟨overflows, le⟩)
      omega

theorem firstScale_le (sf : ScaleFmt) (s : Int) : firstScale sf s ≤ lastScale sf := by
  cases sf
  case e8m0 => simp only [firstScale, lastScale]; omega
  case e4m3 =>
    simp only [firstScale, lastScale]
    split
    · omega
    · split
      · omega
      · split <;> omega

/-- A finite code has a finite value (R118). -/
theorem Fmt.value_finite (f : Fmt) {code : Nat} (finite : code ≤ f.maxMag) (low : code < 2 ^ (f.eb + f.fb)) :
    ∃ m e, f.value code = .fin false m e := by
  have positive : f.value code = f.magVal false code := by
    simp [Fmt.value, Nat.mod_eq_of_lt low, Nat.div_eq_of_lt low, finite]
  rw [positive, Fmt.magVal]
  split <;> exact ⟨_, _, rfl⟩

/-- The numerator and the exponent of a scale code (R120). -/
def scalePair (sf : ScaleFmt) (c : Nat) : Nat × Int :=
  match sf with
  | .e8m0 => (1, (c : Int) - 127)
  | .e4m3 =>
    match e4m3.value c with
    | .fin _ n k => (n, k)
    | .nan => (1, 0)
    | .inf _ => (1, 0)

/-- The codes up to the last finite one have the value of their pair (R120). -/
theorem scaleValue_eq (sf : ScaleFmt) {c : Nat} (finite : c ≤ lastScale sf) :
    scaleValue sf c = .fin false (scalePair sf c).1 (scalePair sf c).2 := by
  cases sf
  case e8m0 =>
    have bound : c ≤ 254 := finite
    simp only [scaleValue, scalePair, Nat.mod_eq_of_lt (show c < 256 by omega), if_neg (show c ≠ 255 by omega)]
  case e4m3 =>
    have bound : c ≤ 126 := finite
    obtain ⟨n, k, value⟩ := e4m3.value_finite finite (show c < 128 by omega)
    simp only [scaleValue, scalePair, Nat.mod_eq_of_lt (show c < 256 by omega), value]

/-! ### Elements under a scale (R132, R133) -/

/-- An element that overflows under the settled scale takes ±M (R132). -/
theorem quantElem_fin (g : Fmt) (mode : RMode) (v : FVal) (neg : Bool) (m : Nat) (e : Int) :
    quantElem g mode v true (.fin neg m e) =
      let r := quantOne g mode neg m e v
      if r.2 &&& flOverflow ≠ 0 then (g.pack neg g.maxMag, r.2 ||| flQSat ||| flInexact) else r := by
  simp only [quantElem, true_and]

theorem qtypeFmt_largest (q : QType) : ∃ n k, (qtypeFmt q).magVal false (qtypeFmt q).maxMag = .fin false n k ∧ n ≠ 0 := by
  cases q <;> exact ⟨_, _, rfl, by decide⟩

/-- The block's exponent, the code that the attempts settle on, and each element under the scale of that code. -/
theorem quantisedBlock : Claims.QuantisedBlock := by
  intro q sf mode xs g largest S one overs last c ys
  have oneAt {c : Nat} (finite : c ≤ last) (neg : Bool) (m : Nat) (e : Int) :
      quantOne g mode neg m e (scaleValue sf c) = one c neg m e := by
    rw [scaleValue_eq sf finite]
    rfl
  have oversAt {c : Nat} (finite : c ≤ last) : AnyOverflows g mode xs (scaleValue sf c) ↔ overs c := by
    simp only [AnyOverflows, oneAt finite]
    rfl
  obtain ⟨n, k, largestOf, pos⟩ := qtypeFmt_largest q
  have largestAt (s : Int) : largest s = .fin false n (k + s) := by simp only [largest, g, largestOf]
  have firstFinite := firstScale_le sf (firstExp g xs)
  obtain ⟨j, tries, settled, finite, before, stop⟩ := settleScale_spec g sf mode xs 2 firstFinite
  have code : c = firstScale sf (firstExp g xs) + j := settled
  have elements (i : Nat) : ys[i]? = xs[i]?.map (quantElem g mode (scaleValue sf c) true) := List.getElem?_map
  have cFinite : c ≤ last := code ▸ finite
  refine ⟨⟨firstExp g xs, firstExp_of_zeros g, fun some => ?least, ?attempts, cFinite, fun overflows => ?stop⟩,
    List.length_map _, fun i entry => ?nan, fun i neg entry => ?inf, fun i neg m e entry => ?fin⟩
  case least =>
    obtain ⟨covers, neg, m, e, mem, short⟩ := firstExp_least largestOf pos some
    refine ⟨fun neg m e mem => ?_, neg, m, e, mem, ?_⟩
    · rw [largestAt, cmp_nonpos_iff]
      exact covers neg m e mem
    · rw [largestAt, cmp_pos_iff]
      exact short
  case attempts =>
    have advanced (i : Nat) (lt : i < j) : overs (firstScale sf (firstExp g xs) + i) :=
      (oversAt (show _ ≤ lastScale sf by omega)).mp (before i lt)
    obtain rfl | rfl | rfl : j = 0 ∨ j = 1 ∨ j = 2 := by omega
    · exact .inl code
    · exact .inr (.inl ⟨code, advanced 0 (by decide)⟩)
    · exact .inr (.inr ⟨code, advanced 0 (by decide), advanced 1 (by decide)⟩)
  case stop =>
    refine (stop (code ▸ (oversAt cFinite).mpr overflows)).imp (fun spent => ?_) code.trans
    rw [code, spent]
    rfl
  case nan => rw [elements, entry]; rfl
  case inf => rw [elements, entry]; rfl
  case fin => rw [elements, entry, Option.map_some, quantElem_fin, oneAt cFinite]

/-! ### Quantising, dequantising and the special functions in lanes (R143–R145) -/

/-- The entry beside a key in two lists of one length is the one at its place. -/
theorem find?_zip_idxOf {α : Type} (i : Nat) (js : List Nat) (ys : List α) (same : js.length = ys.length) :
    (js.zip ys).find? (fun x => x.1 == i) = ys[js.idxOf i]?.map (fun y => (i, y)) := by
  induction js generalizing ys with
  | nil =>
    obtain rfl := List.length_eq_zero_iff.mp same.symm
    rfl
  | cons j js ih =>
    cases ys with
    | nil => cases same
    | cons y ys =>
      by_cases here : j = i
      · subst here
        simp
      · simp [here, ih ys (by simpa using same)]

/-- A lane's scale is that of its block, and its element the one at its place among the block's lanes. -/
theorem State.quantLane_eq (s : State) (q : QType) (l : BlockLen) (sf : ScaleFmt) (mode : RMode) (a : VReg) (m : BitVec 64)
    (i : Nat) : s.quantLane q l sf mode a m i =
      let js := blockOfLane l m i
      let r := quantBlock (qtypeFmt q) sf mode (js.map (fun j => fp32.value ((s.row s.laneCur a.val).at j).toNat))
      (r.1, r.2.getD (js.idxOf i) (0, 0)) := by
  unfold State.quantLane
  simp only
  rw [find?_zip_idxOf _ _ _ (by simp [quantBlock]), List.getD_eq_getElem?_getD]
  generalize quantBlock _ _ _ _ = r
  cases r.2[(blockOfLane l m i).idxOf i]? <;> rfl

/-- Each writes its function of the elements in its lanes; the quantiser's scale goes to the row after. -/
theorem laneScales : Claims.LaneScales := by
  intro s q l sf st r d a b c ok m mode A block quant elem scale factor deq fn
  have special {i : Instr} {g : SFun} (run : exec i s = .next (s.special g st r d a c)) : fn i g :=
    completes_writeFloat ok run fun _ => rfl
  have lane (i : Nat) : s.quantLane q l sf mode a m i = ((quant i).1, elem i) := s.quantLane_eq q l sf mode a m i
  refine ⟨fun okNext => ?vquant,
    completes_writeFloat (v' := fun i => (BitVec.ofNat 32 (deq i).1, (deq i).2)) ok rfl fun i => ?vdequant,
    special rfl, special rfl, special rfl, special rfl, special rfl, special rfl, special rfl, special rfl⟩
  case vquant =>
    obtain ⟨t, run, wrote⟩ := completes_writeFloatPair (i := .vquant q l sf r d a c) (s := s)
      (v' := fun i => (BitVec.ofNat 32 (elem i).1, (elem i).2)) (e' := fun i => BitVec.ofNat 32 (quant i).1) ok okNext rfl
      (fun i => congrArg (fun x => (BitVec.ofNat 32 x.2.1, x.2.2)) (lane i))
      (fun i => congrArg (fun x => BitVec.ofNat 32 x.1) (lane i))
    refine ⟨t, run, wrote.congr fun k i _ _ => ?_⟩
    exact (apply_ite (BitVec.ofNat 32) _ _ _).symm
  case vdequant =>
    have code : s.scaleCode l b i = scale i := by cases b <;> rfl
    have low : scale i % 256 = scale i := by cases b <;> exact Nat.mod_mod _ _
    have value : scaleValue sf (scale i) = factor (scale i) := by
      cases sf <;> simp only [scaleValue, low, factor]
    have product : dequantElem (qtypeFmt q) sf mode (A i).toNat (s.scaleCode l b i) = deq i := by
      rw [code, dequantElem, value]
      rfl
    exact congrArg (fun x => (BitVec.ofNat 32 x.1, x.2)) product

/-- Settles O38, from the rows that the lane instructions write and what the quantiser makes of a block. -/
theorem laneScalesAndFunctions : Obligations.LaneScalesAndFunctions := ⟨laneScales, quantisedBlock⟩

end Sys2Proof.Machine

namespace Sys2Proof.Machine

open Sys2Proof

/-! ### Fences (R170, R172) -/

/-- A fence with a load that has not bound waits at its delivery point's end. -/
theorem State.fenceWaits_of_unbound {s : State} (clear : DeliveryClear s) (unbound : s.th.win ≠ []) (rel : Bool) (sc : Scope)
    (body : State → State) : s.fenceWaits rel sc body = s := by
  have waits : s.th.loadsBound = false := by simpa [Thread.loadsBound] using unbound
  rw [State.fenceWaits, State.delivery_clear clear]
  simp [waits]

/-- A release with an entry left in its queue waits. -/
theorem State.fenceWaits_of_undrained {s : State} (clear : DeliveryClear s) (undrained : s.th.sq ≠ []) (sc : Scope)
    (body : State → State) : s.fenceWaits true sc body = s := by
  have waits : s.th.drainedAll = false := by simpa [Thread.drainedAll] using undrained
  rw [State.fenceWaits, State.delivery_clear clear]
  simp [waits]

/-- A `tfence` changes of an agent's record only what its stores have written. -/
theorem State.thread_setFloors (s : State) (key : Nat) (sc : Scope) :
    (s.setFloors key sc).thread key = { s.thread key with written := if sc = .s then [] else (s.thread key).written } := by
  rw [State.setFloors, State.thread_modPlot, State.thread_modThread_self, State.thread_withMem]

theorem State.sameOthers_setFloors (s : State) (key : Nat) (sc : Scope) : SameOthers s (s.setFloors key sc) key := by
  intro k ne
  rw [State.setFloors, State.thread_modPlot, State.thread_modThread_ne _ _ ne, State.thread_withMem]

@[simp] theorem State.setFloors_cur (s : State) (key : Nat) (sc : Scope) : (s.setFloors key sc).cur = s.cur := rfl

theorem State.sameBytes_setFloors (s : State) (key : Nat) (sc : Scope) : SameBytes s (s.setFloors key sc) := fun _ => rfl

theorem execTfence_drained {s : State} (free : s.Free anyone []) (stores : s.th.sq = []) (clauses : s.th.clausesDone = true)
    (sc : Scope) : exec (.tfence sc) s = .next (s.setFloors s.cur sc).advance := by
  change execTfence sc s = _
  simp [execTfence, State.issue_free free, clauses, Thread.drainedAll, stores]

theorem execTfence_undrained {s : State} (free : s.Free anyone []) (stores : s.th.sq ≠ []) (sc : Scope) :
    exec (.tfence sc) s = .next s := by
  have waits : s.th.drainedAll = false := by simpa [Thread.drainedAll] using stores
  change execTfence sc s = _
  simp [execTfence, State.issue_free free, waits]

/-- A fence of each kind passes when the waits of its kind are over. -/
theorem fencesPass : Claims.FencesPass := by
  intro s sc free
  have passes {i : Instr} {rel : Bool} (run : exec i s = .next (s.fenceWaits rel sc State.advance)) (clear : FenceClear s rel sc) :
      Completes i s (Passed s) :=
    ⟨_, run, by rw [State.fenceWaits_clear clear]; exact s.advance_passed⟩
  have issues (rel : Bool) : s.issue anyone [] (fun s => s.fenceWaits rel sc State.advance) = s.fenceWaits rel sc State.advance :=
    State.issue_free free _
  refine ⟨passes (congrArg _ (issues false)), passes (congrArg _ (issues true)), passes (congrArg _ (issues true)), ?tfence⟩
  case tfence =>
    intro stores clauses
    have agent : (s.setFloors s.cur sc).advance.thread s.cur = ((s.setFloors s.cur sc).thread s.cur).advance :=
      State.thread_modThread_self _ _ _
    rw [s.thread_setFloors] at agent
    refine ⟨_, execTfence_drained free stores clauses sc, ?_, ?_, fun r => ?_, fun k ne => ?_, s.sameBytes_setFloors s.cur sc⟩
    · rw [agent]; rfl
    · rw [agent]; rfl
    · rw [agent]; rfl
    · exact (State.thread_modThread_ne _ _ ne).trans (s.sameOthers_setFloors s.cur sc k ne)

/-- A fence waits for the loads of its agent, and a release for its stores. -/
theorem fencesWait : Claims.FencesWait := by
  intro s sc free clear
  have issues (rel : Bool) : s.issue anyone [] (fun s => s.fenceWaits rel sc State.advance) = s.fenceWaits rel sc State.advance :=
    State.issue_free free _
  have acq : exec (.fenceAcq sc) s = .next (s.fenceWaits false sc State.advance) := congrArg _ (issues false)
  have rel : exec (.fenceRel sc) s = .next (s.fenceWaits true sc State.advance) := congrArg _ (issues true)
  have both : exec (.fenceAr sc) s = .next (s.fenceWaits true sc State.advance) := congrArg _ (issues true)
  refine ⟨fun unbound => ?loads, fun undrained => ?stores⟩
  case loads =>
    rw [acq, rel, both, State.fenceWaits_of_unbound clear unbound, State.fenceWaits_of_unbound clear unbound]
    exact ⟨rfl, rfl, rfl⟩
  case stores =>
    rw [rel, both, State.fenceWaits_of_undrained clear undrained]
    exact ⟨rfl, rfl, execTfence_undrained free undrained sc⟩

/-- Settles O12, from the waits of a fence and of `tfence`. -/
theorem fences : Obligations.Fences := ⟨fencesPass, fencesWait⟩

end Sys2Proof.Machine

namespace Sys2Proof.Machine

open Sys2Proof

/-! ### Idempotent regions (R296, R297, R300) -/

theorem execIdem_system {s : State} (free : s.Free notSprout []) (sys : isSysKey s.cur = true) :
    exec .idem s = .next s.advance := by
  change execIdem s = _
  rw [execIdem, State.issue_free free, if_pos sys]

/-- The region that an `idem` opens at an agent's next word. -/
def Thread.openRegion (t : Thread) : Thread :=
  { t.advance with
    region := some { start := t.pc + 4, mask := t.mask, depth := t.depth, clauseMark := t.nextId, logMark := t.nextId
                     loadMark := t.nextId } }

theorem execIdem_group {s : State} (free : s.Free notSprout []) (group : isSysKey s.cur = false) :
    exec .idem s = .next (s.modThread s.cur Thread.openRegion) := by
  change execIdem s = _
  rw [execIdem, State.issue_free free, if_neg (by simp [group])]
  rfl

/-- A stack cut back to a depth that it has is of that depth. -/
theorem Thread.depth_cutStack {t : Thread} {d : Nat} (deep : d ≤ t.depth) : (t.cutStack d).depth = d := by
  have sum : t.depth = t.mstack.length + t.mspilled := rfl
  simp only [Thread.depth, Thread.cutStack, List.length_drop] at deep ⊢
  omega

/-- What a thread is at the start of its open region again. -/
theorem Thread.toRegion_spec {t : Thread} (resolved : t.spec = none) (r : Region) :
    (t.toRegion r).pc = r.start ∧ (t.toRegion r).mask = r.mask ∧ (t.toRegion r).region = none ∧
    (t.toRegion r).depth = (t.cutStack r.depth).depth ∧ ∀ q, (t.toRegion r).sreg q = t.sreg q := by
  rw [Thread.toRegion, Thread.unspec_of_none resolved]
  exact ⟨rfl, rfl, rfl, rfl, fun _ => rfl⟩

section
variable {s : State} (there : (fget? s.threads s.subj.ag).isSome = true) (quiet : (s.thread s.subj.ag).trap = none)
  (runs : (s.thread s.subj.ag).status = .running) (refs : (s.thread s.subj.ag).win.any (·.ref) = false)
include there quiet runs refs

/-- A parity error of an agent in a region takes it back to the region's start. -/
theorem execRegisterParityError_region {r : Region} (region : (s.thread s.subj.ag).region = some r) :
    exec .registerParityError s = .next (s.modThread s.subj.ag (fun t => t.toRegion r)) := by
  have goes : registerParityErrorStep s = some (s.discardRegion s.subj.ag) := by
    simp [registerParityErrorStep, Option.isSome_iff_ne_none.mp there, quiet, runs, refs, region]
  have back : s.discardRegion s.subj.ag = s.modThread s.subj.ag (fun t => t.toRegion r) := by
    simp [State.discardRegion, region, State.modThread, Thread.discardRegion]
  change execRegisterParityError s = _
  rw [execRegisterParityError, goes, back]
  rfl

/-- A parity error of a group outside a region leaves a poison trap pending at its word. -/
theorem execRegisterParityError_outside (outside : (s.thread s.subj.ag).region = none)
    (resolved : (s.thread s.subj.ag).spec = none) (notSys : isSysKey s.subj.ag = false)
    (notSprout : isSproutKey s.subj.ag = false) :
    exec .registerParityError s =
      .next (s.modThread s.subj.ag (fun t => { t with trap := some { cause := 0x07, pc := (s.thread s.subj.ag).pc } })) := by
  have goes : registerParityErrorStep s =
      some (s.raiseAt s.subj.ag { cause := cPoison, pc := (s.thread s.subj.ag).unspec.pc }) := by
    simp [registerParityErrorStep, Option.isSome_iff_ne_none.mp there, quiet, runs, refs, outside]
  change execRegisterParityError s = _
  rw [execRegisterParityError, goes, State.raiseAt_group notSys notSprout, Thread.unspec_of_none resolved]
  rfl

end

/-- `idem` opens a region, and a parity error goes back to its start or, outside one, traps. -/
theorem idempotentRegions : Claims.IdempotentRegions := by
  refine ⟨fun s free => ⟨fun sys => ?system, fun group => ?group⟩,
    fun s there quiet runs refs resolved => ⟨fun r region => ?back, fun outside notSys notSprout => ?trap⟩⟩
  case system => exact ⟨_, execIdem_system free sys, State.goto_wentTo free.2 _⟩
  case group => exact ⟨_, execIdem_group free group, s.agentOnly_modThread _⟩
  case back =>
    refine ⟨_, execRegisterParityError_region there quiet runs refs region, ?_⟩
    obtain ⟨pc, mask, closed, depth, sregs⟩ := Thread.toRegion_spec resolved r
    rw [State.thread_modThread_self]
    exact ⟨pc, mask, closed, fun deep => depth.trans (Thread.depth_cutStack deep), sregs,
      fun _ ne => s.thread_modThread_ne _ ne, s.sameElse_modThread _ _⟩
  case trap =>
    exact ⟨_, execRegisterParityError_outside there quiet runs refs outside resolved notSys notSprout,
      s.agentOnly_modThread_at _ _⟩

/-! ### A block that moves (R189) -/

theorem fget?_filter {α : Type} (m : FMap α) (p : Nat → Bool) (k : Nat) :
    fget? (m.filter (fun r => p r.1)) k = if p k then fget? m k else none := by
  induction m with
  | nil => simp [fget?]
  | cons e m ih =>
    obtain ⟨j, v⟩ := e
    by_cases here : j = k
    · subst here
      cases keep : p j <;> simp [keep, ih, fget?]
    · cases keep : p j <;> simp [keep, ih, fget?, here]

/-- Entries put into a map from the last to the first: the first of a key counts. -/
theorem fget?_foldr_fset {α : Type} (xs m : FMap α) (k : Nat) :
    fget? (xs.foldr (fun r m => fset m r.1 r.2) m) k = (fget? xs k).or (fget? m k) := by
  induction xs with
  | nil => simp [fget?]
  | cons e xs ih =>
    obtain ⟨j, v⟩ := e
    by_cases here : j = k
    · subst here
      simp [fget?]
    · simp [fget?_fset, fget?, here, ih, Ne.symm here]

/-- A map into which the entries of another that meet a test are put, in place of its own: at each key the value of one of the two. -/
theorem fgetD_graft {α : Type} (xs m : FMap α) (p : Nat → Bool) (k : Nat) (d : α) :
    fgetD ((xs.filter (fun r => p r.1)).foldr (fun r m => fset m r.1 r.2) (m.filter (fun r => !p r.1))) k d =
      fgetD (if p k then xs else m) k d := by
  have rest := fget?_filter m (fun j => !p j) k
  rw [fgetD, fget?_foldr_fset, fget?_filter, rest]
  cases p k <;> simp [fgetD]

/-- The state after a block has been put on a core (`State.putBlock`), before its plot's names of its agents follow. -/
def State.landBlock (s : State) (q : Parked) (c x0 y0 : Nat) : State :=
  ({ s with threads := s.threads.filter (fun t => decide (t.1 / 32 ≠ c)) } : State).modCore c (fun x =>
    { x.graft q with
      block := some { q.block with x0 := x0, y0 := y0 }, mops := q.mops
      eops := q.eops, hreads := q.hreads, bursts := q.bursts, icache := [], lcache := [] })

/-- The threads of a block take their places on a core. -/
def State.seatThreads (s : State) (c : Nat) (ts : FMap Thread) : State :=
  ts.foldl (fun s' t => s'.setThread (groupKey c (t.1 % 32)) { t.2 with core := c, frozen := t.2.frozen && !false }) s

theorem State.seatThreads_rest (s : State) (c : Nat) (ts : FMap Thread) :
    s.seatThreads c ts = { s with threads := (s.seatThreads c ts).threads } := by
  induction ts generalizing s with
  | nil => rfl
  | cons t ts ih => exact ih (s.setThread _ _)

/-- A thread that all the entries of its place agree on is the one that takes it. -/
theorem State.thread_seatThreads (s : State) (c : Nat) {ts : FMap Thread} {g : Nat} {x : Thread}
    (mem : ∃ k, (k, x) ∈ ts ∧ k % 32 = g) (one : ∀ k y, (k, y) ∈ ts → k % 32 = g → y = x) :
    (s.seatThreads c ts).thread (groupKey c g) = { x with core := c } := by
  induction ts using List.reverseRecOn with
  | nil => obtain ⟨k, mem, _⟩ := mem; cases mem
  | append_singleton ts t ih =>
    obtain ⟨j, y⟩ := t
    have last : s.seatThreads c (ts ++ [(j, y)]) =
        (s.seatThreads c ts).setThread (groupKey c (j % 32)) { y with core := c, frozen := y.frozen && !false } := by
      simp [State.seatThreads]
    rw [last]
    by_cases here : j % 32 = g
    · rw [here, State.thread_setThread_self, one j y (by simp) here]
      simp
    · have other : groupKey c g ≠ groupKey c (j % 32) := by simp only [groupKey]; omega
      rw [State.thread_setThread_ne _ _ other]
      refine ih ?_ (fun k z mem => one k z (List.mem_append_left _ mem))
      obtain ⟨k, mem, place⟩ := mem
      rcases List.mem_append.mp mem with old | new
      · exact ⟨k, old, place⟩
      · obtain ⟨rfl, rfl⟩ : k = j ∧ x = y := by simpa using new
        exact absurd place here

theorem State.putBlock_eq (s : State) (q : Parked) (c x0 y0 : Nat) :
    s.putBlock q c x0 y0 false = ((s.landBlock q c x0 y0).seatThreads c q.threads).modPlot q.block.launch.plot (fun p =>
      p.rekey (q.threads.head?.elim c (fun t => t.1 / 32)) c q.block.id) := rfl

theorem State.core_putBlock (s : State) (q : Parked) (c x0 y0 k : Nat) :
    (s.putBlock q c x0 y0 false).core k = (s.landBlock q c x0 y0).core k := by
  rw [State.putBlock_eq, State.core_modPlot, State.seatThreads_rest]
  rfl

/-- The core that a block moves to holds the units of the block as they were, and its own others. -/
theorem State.core_putBlock_self (s : State) (q : Parked) (c x0 y0 : Nat) :
    (s.putBlock q c x0 y0 false).core c =
      { (s.core c).graft q with
        block := some { q.block with x0 := x0, y0 := y0 }, mops := q.mops
        eops := q.eops, hreads := q.hreads, bursts := q.bursts, icache := [], lcache := [] } := by
  rw [State.core_putBlock]
  exact State.core_modCore_self _ _ _

theorem State.core_putBlock_ne (s : State) (q : Parked) {c k : Nat} (x0 y0 : Nat) (ne : k ≠ c) :
    (s.putBlock q c x0 y0 false).core k = s.core k := by
  rw [State.core_putBlock]
  exact State.core_modCore_ne _ _ ne

theorem State.mem_putBlock (s : State) (q : Parked) (c x0 y0 : Nat) : (s.putBlock q c x0 y0 false).mem = s.mem := by
  rw [State.putBlock_eq, State.modPlot_mem, State.seatThreads_rest]
  rfl

theorem State.thread_putBlock (s : State) (q : Parked) (c x0 y0 k : Nat) :
    (s.putBlock q c x0 y0 false).thread k = ((s.landBlock q c x0 y0).seatThreads c q.threads).thread k := rfl

/-- The migration of a drained block puts what was lifted of it on the other core. -/
theorem execBlockMigration_drained {s : State} {b : Block} (block : (s.core s.subj.ag).block = some b)
    (usable : (s.usable b.launch.plot).contains (clusterOf s.subj.n) = true)
    (latency : s.latencyOk b.launch.plot b.launch s.subj.n = true) (empty : (s.core s.subj.n).block = none)
    (apart : s.subj.ag ≠ s.subj.n) (drain : s.subj.flag = true) (drained : s.coreDrained s.subj.ag = true) :
    ∃ x0 y0, exec .blockMigration s =
      .next ((s.clearCore s.subj.ag).putBlock (s.liftBlock s.subj.ag b) s.subj.n x0 y0 false) := by
  have goes : blockMigrationStep s = some (s.moveBlock s.subj.ag s.subj.n) := by
    simp only [blockMigrationStep, block, usable, latency, empty, apart, drain]
    simp [drained]
  change ∃ x0 y0, execBlockMigration s = _
  rw [execBlockMigration, goes, State.moveBlock, block]
  exact ⟨_, _, rfl⟩

/-- A core without its block and what stood in its units. -/
def Core.emptied (x : Core) : Core := { x with block := none, mops := [], eops := [], hreads := [], bursts := [] }

theorem State.core_clearCore (s : State) (c d : Nat) : (s.clearCore c).core d = (s.modCore c Core.emptied).core d := rfl

/-- A drained block moves with what it holds. -/
theorem blockMigrates : Claims.BlockMigrates := by
  intro s b block usable latency empty apart drain drained
  obtain ⟨x0, y0, run⟩ := execBlockMigration_drained block usable latency empty apart drain drained
  have there := (s.clearCore s.subj.ag).core_putBlock_self (s.liftBlock s.subj.ag b) s.subj.n x0 y0
  have left := (s.clearCore s.subj.ag).core_putBlock_ne (s.liftBlock s.subj.ag b) x0 y0 apart
  rw [State.core_clearCore, State.core_modCore_ne _ _ (Ne.symm apart)] at there
  rw [State.core_clearCore, State.core_modCore_self] at left
  refine ⟨_, run, ⟨_, congrArg Core.block there, rfl, rfl, rfl, rfl⟩, congrArg Core.block left,
    fun r => ?rows, fun i => ?acc, fun i => ?pad, fun k x mem own place one => ?threads, fun a => ?bytes⟩
  case rows =>
    rw [congrArg Core.rows there]
    refine (fgetD_graft (s.core s.subj.ag).rows (s.core s.subj.n).rows (b.holds 0) r []).trans ?_
    split <;> rfl
  case acc =>
    rw [congrArg Core.acc there]
    refine (fgetD_graft (s.core s.subj.ag).acc (s.core s.subj.n).acc (fun j => b.holds 1 (j / 4096)) i 0).trans ?_
    split <;> rfl
  case pad =>
    rw [congrArg Core.pad there]
    refine (fgetD_graft (s.core s.subj.ag).pad (s.core s.subj.n).pad (fun j => b.holds 2 (j / 256)) i 0).trans ?_
    split <;> rfl
  case threads =>
    rw [State.thread_putBlock]
    refine State.thread_seatThreads _ _ ⟨k, ?_, rfl⟩ fun j y memY same => ?_
    · exact List.mem_filter.mpr ⟨mem, by simpa using place⟩
    · obtain ⟨memY, placeY⟩ := List.mem_filter.mp memY
      have key : j = k := by
        have := of_decide_eq_true placeY
        omega
      exact one y (key ▸ memY)
  case bytes => rw [State.mem_putBlock]; rfl

/-- Settles O24, from the open regions of agents and what a core keeps of a block that moves to it. -/
theorem blocksReplayAndMove : Obligations.BlocksReplayAndMove := ⟨idempotentRegions, blockMigrates⟩

end Sys2Proof.Machine

namespace Sys2Proof.Machine

open Sys2Proof

/-! ### Arrival at a barrier (R173–R175) -/

/-- What an agent is past a barrier. -/
def Thread.pastBarrier (t : Thread) : Thread :=
  { t with pc := t.pc + 4, counters := bumpMap t.counters 0 1, wait := .none, region := none }

theorem AgentOnly.pastBarrier (s : State) : AgentOnly s (s.setWait .none).retire s.cur s.th.pastBarrier :=
  ((AgentOnly.refl s s.cur).modThread _).modThread _

/-- Clearing a wait that the running agent does not have changes no agent's sizes at an ordinal. -/
theorem State.clashAt_modThread_wait {s : State} (fresh : s.th.wait = .none) (c n w h k : Nat) :
    (s.modThread s.cur (fun t => { t with wait := .none })).clashAt c n w h k = s.clashAt c n w h k := by
  have same : (s.modThread s.cur (fun t => { t with wait := .none })).thread k = s.thread k := by
    by_cases here : k = s.cur
    · subst here
      have wait : (s.thread s.cur).wait = .none := fresh
      rw [State.thread_modThread_self, ← wait]
    · exact s.thread_modThread_ne _ here
  simp only [State.clashAt, same]

section
variable {s : State} (free : s.Free notSprout [])
include free

/-- On a system core a barrier is a fence. -/
theorem completes_barrier_system (sys : isSysKey s.cur = true) (clear : FenceClear s true .p) (lw : Fin 7) (lh : Fin 5) :
    Completes .bsync s (Passed s) ∧ Completes (.rsync lw lh) s (Passed s) := by
  have fence : exec .bsync s = .next (s.fenceWaits true .p State.advance) ∧
      exec (.rsync lw lh) s = .next (s.fenceWaits true .p State.advance) := by
    constructor
    · change execBsync s = _
      rw [execBsync, State.issue_free free, if_pos sys]
    · change execRsync lw lh s = _
      rw [execRsync, State.issue_free free, if_pos sys]
  rw [State.fenceWaits_clear clear] at fence
  exact ⟨⟨_, fence.1, s.advance_passed⟩, ⟨_, fence.2, s.advance_passed⟩⟩

theorem completes_bsync_released (group : isSysKey s.cur = false) (done : s.th.wait = .bsyncDone) :
    Completes .bsync s (AgentOnly s · s.cur s.th.pastBarrier) := by
  refine ⟨_, ?_, AgentOnly.pastBarrier s⟩
  change execBsync s = _
  rw [execBsync, State.issue_free free]
  simp [group, done]

theorem completes_bsync_arrives (group : isSysKey s.cur = false) (fresh : s.th.wait = .none) (clear : FenceClear s true .b) :
    Completes .bsync s (AgentOnly s · s.cur { s.th with bsyncs := s.th.bsyncs + 1, wait := .bsync }) := by
  refine ⟨_, ?_, ((AgentOnly.refl s s.cur).modThread (fun t => { t with wait := .none })).modThread
    (fun t => { t with bsyncs := t.bsyncs + 1, wait := .bsync })⟩
  change execBsync s = _
  rw [execBsync, State.issue_free free]
  simp [group, fresh, State.fenceWaits_clear clear]

variable {lw : Fin 7} {lh : Fin 5} {b : Block} (block : (s.core (coreOfKey s.cur)).block = some b)
include block

theorem completes_rsync_released (group : isSysKey s.cur = false) (done : s.th.wait = .rsyncDone)
    (inside : b.holdsRect (coreOfKey s.cur) (2 ^ lw.val) (2 ^ lh.val) = true) :
    Completes (.rsync lw lh) s (AgentOnly s · s.cur s.th.pastBarrier) := by
  refine ⟨_, ?_, AgentOnly.pastBarrier s⟩
  change execRsync lw lh s = _
  rw [execRsync, State.issue_free free]
  simp [group, done, block, inside]

theorem completes_rsync_outside {x : Xlat} (enter : CanEnter s s.cur b x)
    (outside : b.holdsRect (coreOfKey s.cur) (2 ^ lw.val) (2 ^ lh.val) = false) :
    Completes (.rsync lw lh) s (InHandler s · s.cur b 0x03 s.th.pc) := by
  refine ⟨_, ?_, State.trapNow_inHandler enter cRange⟩
  change execRsync lw lh s = _
  rw [execRsync, State.issue_free free]
  simp [enter.isGroup.1, block, outside]

theorem completes_rsync_arrives (group : isSysKey s.cur = false) (fresh : s.th.wait = .none) (clear : FenceClear s true .p)
    (inside : b.holdsRect (coreOfKey s.cur) (2 ^ lw.val) (2 ^ lh.val) = true)
    (agree : ∀ k ∈ s.launchKeys (coreOfKey s.cur),
      s.clashAt (coreOfKey s.cur) (s.th.rsyncs + 1) (2 ^ lw.val) (2 ^ lh.val) k = false) :
    Completes (.rsync lw lh) s (AgentOnly s · s.cur
      { s.th with rsyncs := s.th.rsyncs + 1, wait := .rsync (2 ^ lw.val) (2 ^ lh.val) }) := by
  refine ⟨_, ?_, ((AgentOnly.refl s s.cur).modThread (fun t => { t with wait := .none })).modThread
    (fun t => { t with rsyncs := s.th.rsyncs + 1, wait := .rsync (2 ^ lw.val) (2 ^ lh.val) })⟩
  have none : ((s.modThread s.cur (fun t => { t with wait := .none })).launchKeys (coreOfKey s.cur)).filter
      ((s.modThread s.cur (fun t => { t with wait := .none })).clashAt (coreOfKey s.cur) (s.th.rsyncs + 1)
        (2 ^ lw.val) (2 ^ lh.val)) = [] := by
    rw [List.filter_eq_nil_iff]
    intro k mem
    rw [State.clashAt_modThread_wait fresh, agree k mem]
    simp
  change execRsync lw lh s = _
  rw [execRsync, State.issue_free free]
  simp [group, fresh, block, inside, State.fenceWaits_clear clear, none]

end

theorem barriersArrive : Claims.BarriersArrive := by
  intro s lw lh free
  refine ⟨fun sys clear => completes_barrier_system free sys clear lw lh, fun group =>
    ⟨completes_bsync_arrives free group, completes_bsync_released free group, fun b block =>
      ⟨fun inside => ⟨fun fresh clear agree => ?_, fun done => ?_⟩, fun x enter outside => ?_⟩⟩⟩
  · exact completes_rsync_arrives free block group fresh clear inside agree
  · exact completes_rsync_released free block group done inside
  · exact completes_rsync_outside free block enter outside

/-! ### Release at a barrier (R173, R174) -/

/-- Release agents from a barrier, with no entry in a checksum ring. -/
def State.releaseAll (s : State) (done : TWait) (keys : List Nat) : State :=
  keys.foldl (fun s' k => s'.modThread k (fun t => { t with wait := done })) s

theorem State.releaseAll_rest (s : State) (done : TWait) (keys : List Nat) : SameElse s (s.releaseAll done keys) := by
  induction keys generalizing s with
  | nil => exact SameElse.refl s
  | cons k keys ih => exact (s.sameElse_modThread k _).trans (ih _)

theorem State.thread_releaseAll (s : State) (done : TWait) (keys : List Nat) (k : Nat) :
    (s.releaseAll done keys).thread k = if k ∈ keys then { s.thread k with wait := done } else s.thread k := by
  induction keys generalizing s with
  | nil => simp [State.releaseAll]
  | cons j keys ih =>
    refine (ih _).trans ?_
    by_cases here : k = j
    · subst here
      simp
    · simp [here, State.thread_modThread_ne _ _ here]

theorem State.releaseGroup_plain {s : State} (off : ∀ p, (s.plot p).cksCtl = 0) (kind : Nat) (done : TWait) (key : Nat) :
    s.releaseGroup kind done key = s.modThread key (fun t => { t with wait := done }) := if_pos (off _)

theorem State.foldl_releaseGroup {s : State} (off : ∀ p, (s.plot p).cksCtl = 0) (kind : Nat) (done : TWait) (keys : List Nat) :
    keys.foldl (fun s' k => s'.releaseGroup kind done k) s = s.releaseAll done keys := by
  induction keys generalizing s with
  | nil => rfl
  | cons k keys ih =>
    rw [List.foldl_cons, State.releaseGroup_plain off]
    exact ih (s := s.modThread k _) off

theorem State.arrived_of {s : State} {key n : Nat} {count : Thread → Nat}
    (h : s.isGone key = true ∨ n ≤ count (s.thread key)) : s.arrived key count n = true := by
  simpa [State.arrived] using h

/-- The groups that wait at an ordinal of `bsync`. -/
def State.bsyncWaiters (s : State) (n : Nat) (keys : List Nat) : List Nat :=
  keys.filter (fun k => decide ((s.thread k).wait = .bsync ∧ (s.thread k).bsyncs = n))

/-- The groups that wait at an ordinal of `rsync` with these sizes. -/
def State.rsyncWaiters (s : State) (w h n : Nat) (keys : List Nat) : List Nat :=
  keys.filter (fun k => decide ((s.thread k).wait = .rsync w h ∧ (s.thread k).rsyncs = n))

theorem State.mem_bsyncWaiters {s : State} {n k : Nat} {keys : List Nat} :
    k ∈ s.bsyncWaiters n keys ↔ k ∈ keys ∧ (s.thread k).wait = .bsync ∧ (s.thread k).bsyncs = n := by
  simp [State.bsyncWaiters]

theorem State.mem_rsyncWaiters {s : State} {w h n k : Nat} {keys : List Nat} :
    k ∈ s.rsyncWaiters w h n keys ↔ k ∈ keys ∧ (s.thread k).wait = .rsync w h ∧ (s.thread k).rsyncs = n := by
  simp [State.rsyncWaiters]

section
variable {s : State} (off : ∀ p, (s.plot p).cksCtl = 0)
include off

theorem execBarrierComplete_bsync (waits : (s.thread s.subj.ag).wait = .bsync)
    (own : s.subj.ag ∈ s.groupKeys (coreOfKey s.subj.ag))
    (all : ∀ k ∈ s.groupKeys (coreOfKey s.subj.ag),
      s.isGone k = true ∨ (s.thread s.subj.ag).bsyncs ≤ (s.thread k).bsyncs) :
    exec .barrierComplete s = .next (s.releaseAll .bsyncDone
      (s.bsyncWaiters (s.thread s.subj.ag).bsyncs (s.groupKeys (coreOfKey s.subj.ag)))) := by
  have arrived : (s.groupKeys (coreOfKey s.subj.ag)).all
      (fun k => s.arrived k (·.bsyncs) (s.thread s.subj.ag).bsyncs) = true :=
    List.all_eq_true.mpr fun k mem => State.arrived_of (all k mem)
  have released : ((s.releaseAll .bsyncDone (s.bsyncWaiters (s.thread s.subj.ag).bsyncs
      (s.groupKeys (coreOfKey s.subj.ag)))).thread s.subj.ag).wait = .bsyncDone := by
    rw [State.thread_releaseAll, if_pos (State.mem_bsyncWaiters.mpr ⟨own, waits, rfl⟩)]
  have goes : barrierCompleteStep s = some (s.releaseAll .bsyncDone
      (s.bsyncWaiters (s.thread s.subj.ag).bsyncs (s.groupKeys (coreOfKey s.subj.ag)))) := by
    simp only [barrierCompleteStep, waits, arrived, if_true, State.foldl_releaseGroup off]
    exact if_neg (by rw [← State.bsyncWaiters, released]; simp)
  exact exec_of_step rfl goes

theorem execBarrierComplete_rsync {w h : Nat} (waits : (s.thread s.subj.ag).wait = .rsync w h)
    (own : s.subj.ag ∈ (s.rectCores (coreOfKey s.subj.ag) w h).flatMap s.groupKeys)
    (all : ∀ k ∈ (s.rectCores (coreOfKey s.subj.ag) w h).flatMap s.groupKeys,
      s.isGone k = true ∨ (s.thread s.subj.ag).rsyncs ≤ (s.thread k).rsyncs) :
    exec .barrierComplete s = .next (s.releaseAll .rsyncDone
      (s.rsyncWaiters w h (s.thread s.subj.ag).rsyncs ((s.rectCores (coreOfKey s.subj.ag) w h).flatMap s.groupKeys))) := by
  have arrived : ((s.rectCores (coreOfKey s.subj.ag) w h).flatMap s.groupKeys).all
      (fun k => s.arrived k (·.rsyncs) (s.thread s.subj.ag).rsyncs) = true :=
    List.all_eq_true.mpr fun k mem => State.arrived_of (all k mem)
  have released : ((s.releaseAll .rsyncDone (s.rsyncWaiters w h (s.thread s.subj.ag).rsyncs
      ((s.rectCores (coreOfKey s.subj.ag) w h).flatMap s.groupKeys))).thread s.subj.ag).wait = .rsyncDone := by
    rw [State.thread_releaseAll, if_pos (State.mem_rsyncWaiters.mpr ⟨own, waits, rfl⟩)]
  have goes : barrierCompleteStep s = some (s.releaseAll .rsyncDone
      (s.rsyncWaiters w h (s.thread s.subj.ag).rsyncs ((s.rectCores (coreOfKey s.subj.ag) w h).flatMap s.groupKeys))) := by
    simp only [barrierCompleteStep, waits, arrived, if_true, State.foldl_releaseGroup off]
    exact if_neg (by rw [← State.rsyncWaiters, released]; simp)
  exact exec_of_step rfl goes

end

theorem barriersComplete : Claims.BarriersComplete := by
  intro s key c x off
  refine ⟨fun waits own all => ?bsync, fun w h waits own all => ?rsync⟩
  case bsync =>
    refine ⟨_, execBarrierComplete_bsync off waits own all, fun k mem wait here => ?_, fun k other => ?_,
      s.releaseAll_rest _ _⟩
    · rw [State.thread_releaseAll, if_pos (State.mem_bsyncWaiters.mpr ⟨mem, wait, here⟩)]
    · rw [State.thread_releaseAll, if_neg (fun mem => other (State.mem_bsyncWaiters.mp mem))]
  case rsync =>
    refine ⟨_, execBarrierComplete_rsync off waits own all, fun k mem wait here => ?_, s.releaseAll_rest _ _⟩
    rw [State.thread_releaseAll, if_pos (State.mem_rsyncWaiters.mpr ⟨mem, wait, here⟩)]

/-! ### Checksums at barriers (R363, R364) -/

/-- A run of bytes inside one that has been written reads what was written there. -/
theorem Store.bytes_write_at {m : Store} (bare : m.headers = []) (a : Nat) (bs : List Byte) {k n : Nat} (fits : k + n ≤ bs.length) :
    (m.write a bs).bytes (a + k) n = (bs.drop k).take n := by
  refine List.ext_getElem (by simp; omega) fun i lt _ => ?_
  have lt' : i < n := by simpa using lt
  have here := Store.bytes_getD (m.write a bs) (a + k) n i lt'
  rw [Nat.add_assoc, Store.byte_write_inside m a bs (k + i) (by omega) (by simp [bare])] at here
  rw [List.getD_eq_getElem _ _ lt, List.getD_eq_getElem _ _ (by omega)] at here
  simpa using here

theorem Store.num_write_at {m : Store} (bare : m.headers = []) (a : Nat) (bs : List Byte) {k n : Nat} (fits : k + n ≤ bs.length) :
    (m.write a bs).num (a + k) n = leNat ((bs.drop k).take n) := congrArg leNat (Store.bytes_write_at bare a bs fits)

/-- The entry of a group's release in the checksum ring (R364). -/
def State.checksumEntry (s : State) (kind key : Nat) : List Byte :=
  leBytes 8 s.cycle ++ leBytes 8 (crc64 0 (s.foldBytes key)) ++ leBytes 8 (s.thread key).pc.toNat
    ++ leBytes 2 ((s.blockOf key).elim 0 (·.slot)) ++ leBytes 1 (ctxOfKey key) ++ leBytes 1 kind
    ++ leBytes 4 (s.launchOf key).seq.toNat

theorem State.length_checksumEntry (s : State) (kind key : Nat) : (s.checksumEntry kind key).length = 32 := by
  simp [State.checksumEntry]

/-- The words of an entry: the cycle, the CRC of the fold, and the program counter. -/
theorem State.checksumEntry_words (s : State) (kind key : Nat) :
    leNat (((s.checksumEntry kind key).drop 0).take 8) = s.cycle % 2 ^ 64 ∧
    leNat (((s.checksumEntry kind key).drop 8).take 8) = crc64 0 (s.foldBytes key) % 2 ^ 64 ∧
    leNat (((s.checksumEntry kind key).drop 16).take 8) = (s.thread key).pc.toNat := by
  have pc : leNat (leBytes 8 (s.thread key).pc.toNat) = (s.thread key).pc.toNat :=
    leNat_leBytes_of_lt (Nat.lt_trans (s.thread key).pc.isLt (by decide))
  refine ⟨?_, ?_, ?_⟩
  · simp [State.checksumEntry, leNat_leBytes]
  · simp [State.checksumEntry, leNat_leBytes]
  · simp [State.checksumEntry, List.drop_append, List.drop_of_length_le, pc]

/-- A release with an entry in the checksum ring. -/
def State.releaseChecked (s : State) (kind : Nat) (done : TWait) (key : Nat) : State :=
  ((s.put (s.plotOf key) ((s.plot (s.plotOf key)).cks.at 32) (s.checksumEntry kind key)).modPlot (s.plotOf key)
    (fun p => { p with cks := { p.cks with head := p.cks.head + 1 } })).modThread key (fun t => { t with wait := done })

theorem State.releaseGroup_checked {s : State} {key : Nat} (on : (s.plot (s.plotOf key)).cksCtl = 1)
    (room : (s.plot (s.plotOf key)).cks.room = true) (kind : Nat) (done : TWait) :
    s.releaseGroup kind done key = s.releaseChecked kind done key := by
  simp only [State.releaseGroup, on, room]
  exact if_neg (by decide)

theorem State.thread_releaseChecked (s : State) (kind : Nat) (done : TWait) (key : Nat) :
    (s.releaseChecked kind done key).thread key = { s.thread key with wait := done } := by
  rw [State.releaseChecked, State.thread_modThread_self, State.thread_modPlot, State.thread_put]

theorem State.mem_releaseChecked (s : State) (kind : Nat) (done : TWait) (key : Nat) :
    (s.releaseChecked kind done key).mem =
      s.mem.write ((s.plot (s.plotOf key)).cks.at 32) (s.checksumEntry kind key) := s.put_mem _ _ _

theorem State.cks_releaseChecked (s : State) (kind : Nat) (done : TWait) (key : Nat) :
    ((s.releaseChecked kind done key).plot (s.plotOf key)).cks =
      { (s.plot (s.plotOf key)).cks with head := (s.plot (s.plotOf key)).cks.head + 1 } := by
  rw [State.releaseChecked, State.plot_modThread, State.plot_modPlot_self, State.put_rest]
  rfl

theorem execBarrierComplete_checked {s : State} (waits : (s.thread s.subj.ag).wait = .bsync)
    (alone : s.groupKeys (coreOfKey s.subj.ag) = [s.subj.ag]) (on : (s.plot (s.plotOf s.subj.ag)).cksCtl = 1)
    (room : (s.plot (s.plotOf s.subj.ag)).cks.room = true) :
    exec .barrierComplete s = .next (s.releaseChecked 0 .bsyncDone s.subj.ag) := by
  have arrived : s.arrived s.subj.ag (·.bsyncs) (s.thread s.subj.ag).bsyncs = true := State.arrived_of (.inr (le_refl _))
  have goes : barrierCompleteStep s = some (s.releaseChecked 0 .bsyncDone s.subj.ag) := by
    simp [barrierCompleteStep, waits, alone, arrived, State.releaseGroup_checked on room, State.thread_releaseChecked]
  exact exec_of_step rfl goes

theorem barrierChecksum : Claims.BarrierChecksum := by
  intro s key x q r waits alone on room bare
  have fits : (s.checksumEntry 0 key).length = 32 := s.length_checksumEntry 0 key
  obtain ⟨cycle, crc, pc⟩ := s.checksumEntry_words 0 key
  have word (k : Nat) (le : k + 8 ≤ 32) : (s.releaseChecked 0 .bsyncDone key).mem.num (r.at 32 + k) 8 =
      leNat (((s.checksumEntry 0 key).drop k).take 8) := by
    rw [State.mem_releaseChecked]
    exact Store.num_write_at bare _ _ (fits ▸ le)
  refine ⟨_, execBarrierComplete_checked waits alone on room, (word 0 (by decide)).trans cycle, (word 8 (by decide)).trans crc,
    (word 16 (by decide)).trans pc, fun a out => ?_, s.cks_releaseChecked 0 .bsyncDone key,
    s.thread_releaseChecked 0 .bsyncDone key, fun k ne => ?_⟩
  · rw [State.mem_releaseChecked]
    exact Store.byte_write_outside _ _ _ _ (by rw [fits]; exact out)
  · rw [State.releaseChecked, State.thread_modThread_ne _ _ ne, State.thread_modPlot, State.thread_put]

/-- Settles O25, from the arrivals at a barrier, its release and its checksum. -/
theorem barriers : Obligations.Barriers := ⟨barriersArrive, barriersComplete, barrierChecksum⟩

end Sys2Proof.Machine

namespace Sys2Proof.Machine

open Sys2Proof

/-! ### `publish` (R183) -/

/-- A block's tag after it is set. -/
theorem State.tag_setTag {s : State} {c : Nat} {b : Block} (block : (s.core c).block = some b) (t : Nat) (x : CopyTag) :
    (s.setTag c t x).tag c t = x := by
  simp [State.tag, State.setTag, State.modBlock, block, Block.tag]

@[simp] theorem State.setTag_threads (s : State) (c t : Nat) (x : CopyTag) : (s.setTag c t x).threads = s.threads := rfl
@[simp] theorem State.setTag_plots (s : State) (c t : Nat) (x : CopyTag) : (s.setTag c t x).plots = s.plots := rfl
@[simp] theorem State.setTag_mem (s : State) (c t : Nat) (x : CopyTag) : (s.setTag c t x).mem = s.mem := rfl
@[simp] theorem State.setTag_cur (s : State) (c t : Nat) (x : CopyTag) : (s.setTag c t x).cur = s.cur := rfl

/-- The publication that `publish` of a group starts. -/
def State.newPublication (s : State) (tag : Nat) (sc : Scope) (hdr : Nat) : Publication :=
  { id := (s.plot (s.plotOf s.cur)).nextPub, core := coreOfKey s.cur, block := (s.blockOf s.cur).elim 0 (·.id)
    slot := (s.partyOf s.cur).slot, tag := tag, scope := sc.code, space := s.spaceOf s.cur, marked := [hdr]
    queue := [⟨hdr + 16, hdr, none⟩] }

/-- The state that `publish` of a group goes on from: a publication in progress, and its tag busy. -/
def State.publishing (s : State) (tag : Nat) (r : Publication) : State :=
  ((s.modPlot (s.plotOf s.cur) (fun p => { p with pubs := p.pubs ++ [r], nextPub := r.id + 1 })).setTag (coreOfKey s.cur) tag
    { ready := false, owner := r.id }).retire

/-- The tag of a publication that starts is busy, and its plot's rake has the publication last. -/
theorem State.publishing_spec {s : State} {b : Block} (block : (s.core (coreOfKey s.cur)).block = some b) (tag : Nat)
    (r : Publication) :
    ((s.publishing tag r).tag (coreOfKey s.cur) tag).ready = false ∧
    ((s.publishing tag r).plot (s.plotOf s.cur)).pubs = (s.plot (s.plotOf s.cur)).pubs ++ [r] := by
  constructor
  · exact congrArg CopyTag.ready (State.tag_setTag (s := s.modPlot _ _) block tag { ready := false, owner := r.id })
  · exact congrArg Plot.pubs (s.plot_modPlot_self (s.plotOf s.cur)
      (fun p => { p with pubs := p.pubs ++ [r], nextPub := r.id + 1 }))

theorem State.startPublication_starts {s : State} {hdr : Nat} {sc : Scope} (group : isSysKey s.cur = false)
    (fresh : ¬ (s.mem.hdrState hdr = 2 ∧ sc.code ≤ s.mem.hdrScope hdr)) (tag : Nat) :
    s.startPublication tag sc hdr = s.publishing tag (s.newPublication tag sc hdr) := by
  have fresh' : ¬ (s.mem.hdrState hdr = 2 ∧ scopeCode sc ≤ s.mem.hdrScope hdr) := fresh
  rw [State.startPublication, if_neg fresh']
  simp only [group]
  rfl

theorem State.startPublication_published {s : State} {hdr : Nat} {sc : Scope} (group : isSysKey s.cur = false)
    (state : s.mem.hdrState hdr = 2) (scope : sc.code ≤ s.mem.hdrScope hdr) (tag : Nat) :
    s.startPublication tag sc hdr = (s.setTag (coreOfKey s.cur) tag {}).retire := by
  have published : s.mem.hdrState hdr = 2 ∧ scopeCode sc ≤ s.mem.hdrScope hdr := ⟨state, scope⟩
  rw [State.startPublication, if_pos published]
  simp only [group]
  rfl

/-- A `publish` whose checks and waits are over acts at its header. -/
theorem execPublish_acts {s : State} {tag : Fin 64} {a : SReg} {sc : Scope} {x : Xlat} {hdr : Nat} {b : Block}
    (free : s.Free notSprout [a]) (group : isSysKey s.cur = false) (fresh : s.th.wait = .none) (clear : FenceClear s true .b)
    (inside : s.portOf hdr = none) (block : s.blockOf s.cur = some b) (low : (s.th.sreg a).toNat < 2 ^ 56)
    (place : (s.th.sreg a).toNat % 256 = 16) (page : s.xlat s.cur ((s.th.sreg a).toNat - 16) = .ok x) (readable : x.rd = true)
    (ref : s.wellFormedRef s.cur (s.th.sreg a) = some hdr) (mine : s.mem.publishable b.slot hdr = true)
    (ready : (s.tag (coreOfKey s.cur) tag.val).ready = true) :
    exec (.publish tag a sc) s = .next ((s.unwaited.unasked s.cur).startPublication tag.val sc hdr) := by
  have shape : ¬ (2 ^ 56 ≤ (s.th.sreg a).toNat ∨ (s.th.sreg a).toNat % 256 ≠ 16) := by omega
  have slot : (s.partyOf s.cur).slot = b.slot := by simp [State.partyOf, group, block]
  have asks : s.unwaited.askHome (.home s.cur) s.cur hdr (fun s => s.startPublication tag.val sc hdr) =
      (s.unwaited.unasked s.cur).startPublication tag.val sc hdr := State.askHome_inside (s := s.unwaited) inside _
  change execPublish tag a sc s = _
  rw [execPublish, State.issue_free free]
  simp only [group, fresh, page, readable, ref, slot, mine, ready, if_neg shape, State.fenceWaits_clear clear]
  exact congrArg _ asks

theorem SameElse.core {s t : State} (h : SameElse s t) (c : Nat) : t.core c = s.core c := by rw [h]; rfl
theorem SameElse.plot {s t : State} (h : SameElse s t) (p : Nat) : t.plot p = s.plot p := by rw [h]; rfl
theorem SameElse.plots {s t : State} (h : SameElse s t) : t.plots = s.plots := by rw [h]

/-- The running agent's record and nothing else differs when a wait and a question asked at a home are over. -/
theorem State.agentOnly_unwaited_unasked (s : State) :
    AgentOnly s (s.unwaited.unasked s.cur) s.cur { s.th with wait := .none, asking := none } :=
  ((AgentOnly.refl s s.cur).modThread (fun t => { t with wait := .none })).unasked

/-- What is left of a claim about an agent's retirement, once all of the state but agents, plots and tags is seen to stay. -/
theorem State.retire_spec {s t : State} {x : Thread} (h : AgentOnly s t s.cur x) (u : State) (cur : u.cur = s.cur)
    (threads : u.threads = t.threads) (mem : u.mem = t.mem) :
    (u.retire.thread s.cur).pc = x.pc + 4 ∧ SameOthers s u.retire s.cur ∧ SameBytes s u.retire := by
  have same (k : Nat) : u.thread k = t.thread k := by rw [State.thread, threads]; rfl
  refine ⟨?_, fun k ne => ?_, fun a => ?_⟩
  · rw [State.retire, cur, State.thread_modThread_self, same, h.agent]
    rfl
  · rw [State.retire, cur, State.thread_modThread_ne _ _ ne, same]
    exact h.others k ne
  · rw [State.retire, State.modThread_mem, mem, h.rest.mem]

/-! ### The rake's work on a publication (R184) -/

section
variable {pubs : List Publication} {id : Nat} {r : Publication}

theorem find?_map_pub (found : pubs.find? (fun q => q.id == id) = some r) {f : Publication → Publication}
    (keeps : ∀ q, (f q).id = q.id) :
    (pubs.map (fun q => if q.id = r.id then f q else q)).find? (fun q => q.id == id) = some (f r) := by
  have here : r.id = id := by simpa using List.find?_some found
  have test : (fun q : Publication => q.id == id) ∘ (fun q => if q.id = r.id then f q else q) = fun q => q.id == id := by
    funext q
    simp only [Function.comp]
    split <;> simp [keeps]
  rw [List.find?_map, test, found]
  simp

end

theorem State.pub_modPub {s : State} {plot id : Nat} {r : Publication}
    (found : (s.plot plot).pubs.find? (fun q => q.id == id) = some r) {f : Publication → Publication}
    (keeps : ∀ q, (f q).id = q.id) :
    ((s.modPub plot r.id f).plot plot).pubs.find? (fun q => q.id == id) = some (f r) := by
  rw [State.modPub, State.plot_modPlot_self]
  exact find?_map_pub found keeps

@[simp] theorem State.modPub_mem (s : State) (plot id : Nat) (f : Publication → Publication) : (s.modPub plot id f).mem = s.mem := rfl
@[simp] theorem State.modPub_threads (s : State) (plot id : Nat) (f : Publication → Publication) :
    (s.modPub plot id f).threads = s.threads := rfl

theorem State.putHdr_rest (s : State) (plot hdr : Nat) (m : Store) :
    s.putHdr plot hdr m = { s with mem := m, gates := (s.putHdr plot hdr m).gates, asks := (s.putHdr plot hdr m).asks } :=
  State.leaves_rest _ _ _ _

@[simp] theorem State.putHdr_mem (s : State) (plot hdr : Nat) (m : Store) : (s.putHdr plot hdr m).mem = m := by
  rw [State.putHdr_rest]
@[simp] theorem State.putHdr_threads (s : State) (plot hdr : Nat) (m : Store) : (s.putHdr plot hdr m).threads = s.threads := by
  rw [State.putHdr_rest]
@[simp] theorem State.putHdr_plots (s : State) (plot hdr : Nat) (m : Store) : (s.putHdr plot hdr m).plots = s.plots := by
  rw [State.putHdr_rest]
@[simp] theorem State.plot_putHdr (s : State) (plot hdr : Nat) (m : Store) (p : Nat) : (s.putHdr plot hdr m).plot p = s.plot p := by
  rw [State.plot, State.putHdr_plots]; rfl

/-! #### Headers that the rake writes (R178) -/

theorem Store.hdrScope_lt (m : Store) (h : Nat) : m.hdrScope h < 8 := by
  unfold Store.hdrScope
  split <;> omega

/-- The byte of a header that holds scope and state. -/
theorem Store.byte_setHdr_state (m : Store) (h owner : Nat) {scope state : Nat} (small : scope < 8) (low : state < 4) :
    ((m.setHdr h owner scope state).byte (h + 8)).toNat = scope * 32 + state := by
  have at2 := cellGet_cellsSet_inside (m.pushHist (h + 8)).cells (h + 6)
    (leBytes 2 0 ++ leBytes 8 (owner * 2 ^ 32 + scope * 2 ^ 5 + state)) 2 (by simp)
  have written : (leBytes 2 0 ++ leBytes 8 (owner * 2 ^ 32 + scope * 2 ^ 5 + state)).getD 2 0 =
      BitVec.ofNat 8 (owner * 2 ^ 32 + scope * 2 ^ 5 + state) := rfl
  have byte : (m.setHdr h owner scope state).byte (h + 8) = BitVec.ofNat 8 (owner * 2 ^ 32 + scope * 2 ^ 5 + state) :=
    at2.trans written
  rw [byte, BitVec.toNat_ofNat]
  omega

theorem Store.headers_setHdr (m : Store) (h owner scope state : Nat) :
    (m.setHdr h owner scope state).headers.contains h = true := by
  rw [Store.setHdr_headers, List.contains_iff_mem]
  exact mem_insNat.mpr (.inl rfl)

theorem Store.hdrState_setHdr (m : Store) (h owner : Nat) {scope state : Nat} (small : scope < 8) (low : state < 4) :
    (m.setHdr h owner scope state).hdrState h = state := by
  rw [Store.hdrState, if_pos (m.headers_setHdr h owner scope state), m.byte_setHdr_state h owner small low]
  omega

theorem Store.hdrScope_setHdr (m : Store) (h owner : Nat) {scope state : Nat} (small : scope < 8) (low : state < 4) :
    (m.setHdr h owner scope state).hdrScope h = scope := by
  rw [Store.hdrScope, if_pos (m.headers_setHdr h owner scope state), m.byte_setHdr_state h owner small low]
  omega

/-! #### RAKE_MARK -/

theorem State.rakeReads_inside {s : State} {lines : List Nat} (inside : ∀ l ∈ lines, s.portOf l = none) (plot id : Nat)
    (go : State → Option State) : s.rakeReads plot id lines go = go s := by
  have taken : lines.foldl (fun s' l => s'.taken (.unit plot id) plot false l) s = s := by
    induction lines with
    | nil => rfl
    | cons l ls ih =>
      rw [List.foldl_cons, State.taken_inside (inside l (List.mem_cons_self ..))]
      exact ih fun l mem => inside l (List.mem_cons_of_mem _ mem)
  unfold State.rakeReads
  simp only
  split
  case h_1 => rw [taken]
  case h_2 l asks =>
    have left := List.find?_some asks
    simp [State.asking_inside (inside l (List.mem_of_find?_eq_some asks))] at left

section
variable {s : State} {r : Publication} {e : MarkEntry} {rest : List MarkEntry}
  (found : (s.plot s.subj.ag).pubs.find? (fun q => q.id == s.subj.n) = some r) (queue : r.queue = e :: rest) (hold : r.hold = none)
include found hold

/-- The publication after its oldest object has left its queue. -/
theorem State.pub_rakeMarked : ((s.rakeMarked s.subj.ag r e rest).plot s.subj.ag).pubs.find? (fun q => q.id == s.subj.n) =
    some { r with queue := rest } := by
  refine (State.pub_modPub (s := s.putHdr _ _ _) (f := fun r => { r with hold := none, queue := rest })
    (by rw [State.plot_putHdr]; exact found) (fun _ => rfl)).trans ?_
  rw [← hold]

include queue

/-- The rake marks the oldest object, once its channel takes the write and no page on the way is missing, and follows what the
object refers to. -/
theorem execRakeMark_marks (open' : s.refreshing e.hdr = false) (idle : s.waiters = [])
    (inside : ∀ l ∈ s.mem.objLines e.hdr, s.portOf l = none)
    (present : s.rakeBlocked s.subj.ag r (s.mem.taggedValues e.hdr) = none) :
    exec .rakeMark s = .next ((s.mem.taggedValues e.hdr).foldl (fun s' v => s'.rakeFollow s.subj.ag r.id v)
      (s.rakeMarked s.subj.ag r e rest)) := by
  refine exec_of_step (step := rakeMarkStep) rfl ?_
  simp only [rakeMarkStep, found, queue, hold, present, State.through_free idle open', State.rakeReads_inside inside]
  rfl

end

theorem State.mem_rakeMarked (s : State) (plot : Nat) (r : Publication) (e : MarkEntry) (rest : List MarkEntry) :
    ∃ owner, (s.rakeMarked plot r e rest).mem = s.mem.setHdr e.hdr owner (s.mem.hdrScope e.hdr) 1 :=
  ⟨_, s.putHdr_mem _ _ _⟩

@[simp] theorem State.threads_rakeMarked (s : State) (plot : Nat) (r : Publication) (e : MarkEntry) (rest : List MarkEntry) :
    (s.rakeMarked plot r e rest).threads = s.threads := s.putHdr_threads _ _ _

/-- A value that names an object marked by one earlier publication of the same block makes the publication wait for that one. -/
theorem State.rakeFollow_waits {s : State} {plot id v : Nat} {r q : Publication} {x : Xlat}
    (found : (s.plot plot).pubs.find? (fun q => q.id == id) = some r) (marking : r.setting = false) (low : v < 2 ^ 56)
    (place : v % 256 = 16) (fatal : r.fatal.contains ((v - 16) / 4096) = false)
    (page : s.rakeXlat plot r.space (v - 16) = .ok x) (obj : x.obj = true)
    (fits : (v - 16) / 2 ^ pageBits x.size = (v + s.mem.hdrLength x.pa - 1) / 2 ^ pageBits x.size)
    (unpublished : s.mem.hdrState x.pa ≠ 2) (unmarked : r.marked.contains x.pa = false) (unclaimed : s.mem.sideOf x.pa = 0x7FF)
    (other : (s.plot plot).pubs.filter (fun q => q.id != id && q.marked.contains x.pa) = [q]) (slot : q.slot = r.slot)
    (earlier : q.id < id) :
    s.rakeFollow plot id v = s.modPub plot id (fun r => { r with waits := r.waits ++ [q.id] }) := by
  have formA : isFormB 0x7FF = false := by decide
  have owner : Machine.ownerOf 0x7FF = 0x7FF := by decide
  have shape : ¬ (r.setting = true ∨ 2 ^ 56 ≤ v ∨ v % 256 ≠ 16) := by
    rw [marking]
    simp
    omega
  simp only [State.rakeFollow, found, if_neg shape, fatal, page, obj, fits, unpublished, unmarked, unclaimed, formA, owner, other]
  simp [slot, earlier]

/-- The rake marks an object that refers to nothing. -/
theorem rakeMark_marks {s : State} {r : Publication} {e : MarkEntry} {rest : List MarkEntry}
    (found : (s.plot s.subj.ag).pubs.find? (fun q => q.id == s.subj.n) = some r) (queue : r.queue = e :: rest)
    (hold : r.hold = none) (open' : s.refreshing e.hdr = false) (idle : s.waiters = [])
    (inside : ∀ l ∈ s.mem.objLines e.hdr, s.portOf l = none) (refersNone : s.mem.taggedValues e.hdr = []) :
    Completes .rakeMark s (fun t =>
      t.mem.hdrState e.hdr = 1 ∧ (t.plot s.subj.ag).pubs.find? (fun q => q.id == s.subj.n) = some { r with queue := rest } ∧
      SameBytesOutside s t (e.hdr + 6) 10 ∧ t.threads = s.threads) := by
  have run := execRakeMark_marks found queue hold open' idle inside (by rw [refersNone]; rfl)
  rw [refersNone] at run
  obtain ⟨owner, mem⟩ := s.mem_rakeMarked s.subj.ag r e rest
  refine ⟨_, run, ?_, State.pub_rakeMarked found hold, fun a out => ?_, s.threads_rakeMarked _ _ _ _⟩
  · rw [List.foldl_nil, mem]
    exact Store.hdrState_setHdr _ _ _ (s.mem.hdrScope_lt _) (by decide)
  · rw [List.foldl_nil, mem]
    exact Store.byte_setHdr_outside _ _ _ _ _ _ (by omega)

/-! #### RAKE_SET (R185) -/

theorem Store.cells_foldl_setSide (ls : List Nat) (v : BitVec 12) (m : Store) :
    (ls.foldl (fun m' l => m'.setSide l v) m).cells = m.cells ∧ (ls.foldl (fun m' l => m'.setSide l v) m).headers = m.headers := by
  induction ls generalizing m with
  | nil => exact ⟨rfl, rfl⟩
  | cons l ls ih => exact ih _

theorem Store.sideOf_foldl_setSide (ls : List Nat) (v : BitVec 12) (m : Store) (a : Nat)
    (covers : lineOf a ∈ ls.map lineOf ∨ m.sideOf a = v) : (ls.foldl (fun m' l => m'.setSide l v) m).sideOf a = v := by
  induction ls generalizing m with
  | nil => simpa using covers
  | cons l ls ih =>
    refine ih _ ?_
    by_cases here : lineOf a = lineOf l
    · exact .inr (by simp [Store.sideOf, Store.setSide, here])
    · refine covers.imp (fun mem => ?_) (fun same => ?_)
      · rcases List.mem_cons.mp mem with e | mem
        · exact absurd e here
        · exact mem
      · rw [← same]
        exact fgetD_fset_ne _ _ _ here

/-- The line of an object's header is the first of its lines. -/
theorem Store.lineOf_mem_objLines (m : Store) (hdr : Nat) : lineOf hdr ∈ (m.objLines hdr).map lineOf := by
  refine List.mem_map.mpr ⟨hdr / 256 * 256, ?_, by simp [lineOf]⟩
  have some : ¬ 16 + m.hdrLength hdr = 0 := by omega
  rw [Store.objLines, linesOf, if_neg some]
  exact List.mem_map.mpr ⟨0, List.mem_range.mpr (Nat.succ_pos _), by simp⟩

theorem Store.cells_setPublished (m : Store) (r : Publication) (hdr : Nat) :
    (m.setPublished r hdr).cells = (m.setHdr hdr (m.hdrOwner hdr) r.scope 2).cells ∧
    (m.setPublished r hdr).headers = (m.setHdr hdr (m.hdrOwner hdr) r.scope 2).headers := by
  unfold Store.setPublished
  split
  · exact ⟨rfl, rfl⟩
  · exact Store.cells_foldl_setSide _ _ _

theorem Store.sideOf_setPublished (m : Store) {r : Publication} (wide : 2 ≤ r.scope) (hdr : Nat) :
    (m.setPublished r hdr).sideOf hdr = formB r.scope r.cluster := by
  rw [Store.setPublished, if_neg (Nat.not_lt.mpr wide)]
  exact Store.sideOf_foldl_setSide _ _ _ _ (.inl (m.lineOf_mem_objLines hdr))

/-- What a header says follows from the cells and the headers that the rake has written. -/
theorem Store.hdr_of_cells {m n : Store} (cells : n.cells = m.cells) (headers : n.headers = m.headers) (h : Nat) :
    n.hdrState h = m.hdrState h ∧ n.hdrScope h = m.hdrScope h := by
  have byte : n.byte (h + 8) = m.byte (h + 8) := Store.byte_eq cells _
  exact ⟨by rw [Store.hdrState, headers, byte, Store.hdrState], by rw [Store.hdrScope, headers, byte, Store.hdrScope]⟩

/-- A publication's next header is set published. -/
theorem rakeSet_sets {s : State} {r : Publication} {hdr : Nat} {rest : List Nat}
    (found : (s.plot s.subj.ag).pubs.find? (fun q => q.id == s.subj.n) = some r) (empty : r.queue = [])
    (setting : r.setting = true) (left : r.left = hdr :: rest) (scope : r.scope < 6) (open' : s.refreshing hdr = false)
    (idle : s.waiters = []) :
    Completes .rakeSet s (fun t =>
      t.mem.hdrState hdr = 2 ∧ t.mem.hdrScope hdr = r.scope ∧
      (2 ≤ r.scope → t.mem.sideOf hdr = formB r.scope r.cluster) ∧
      SameBytesOutside s t (hdr + 6) 10 ∧ t.threads = s.threads) := by
  have run : exec .rakeSet s = .next ((s.putHdr s.subj.ag hdr (s.mem.setPublished r hdr)).modPub s.subj.ag r.id
      (fun r => { r with setting := true, left := rest })) := by
    refine exec_of_step (step := rakeSetStep) rfl ?_
    simp [rakeSetStep, found, empty, setting, left, State.through_free idle open']
  obtain ⟨cells, headers⟩ := s.mem.cells_setPublished r hdr
  obtain ⟨state, hscope⟩ := Store.hdr_of_cells cells headers hdr
  refine ⟨_, run, ?_, ?_, fun wide => ?_, fun a out => ?_, s.putHdr_threads _ _ _⟩
  · rw [State.modPub_mem, State.putHdr_mem, state]
    exact Store.hdrState_setHdr _ _ _ (by omega) (by decide)
  · rw [State.modPub_mem, State.putHdr_mem, hscope]
    exact Store.hdrScope_setHdr _ _ _ (by omega) (by decide)
  · rw [State.modPub_mem, State.putHdr_mem]
    exact s.mem.sideOf_setPublished wide hdr
  · rw [State.modPub_mem, State.putHdr_mem, Store.byte_eq cells]
    exact Store.byte_setHdr_outside _ _ _ _ _ _ (by omega)

/-- A change of a block by its number reaches the cores and what has been recalled to plots. -/
theorem State.core_modBlockId (s : State) (id : Nat) (f : Block → Block) (c : Nat) :
    (s.modBlockId id f).core c = (s.core c).onBlock id f := fgetD_map s.cores (·.onBlock id f) rfl c

theorem State.plot_modBlockId (s : State) (id : Nat) (f : Block → Block) (p : Nat) :
    (s.modBlockId id f).plot p = { s.plot p with recalled := (s.plot p).recalled.map (·.onBlock id f) } :=
  fgetD_map s.plots (fun x => { x with recalled := x.recalled.map (·.onBlock id f) }) rfl p

/-- A publication that has set all its objects turns its tag ready. -/
theorem rakeSet_completes {s : State} {r : Publication} {b : Block}
    (found : (s.plot s.subj.ag).pubs.find? (fun q => q.id == s.subj.n) = some r) (empty : r.queue = [])
    (setting : r.setting = true) (left : r.left = []) (waits : r.waits = []) (group : r.sysAgent = none)
    (block : (s.core r.core).block = some b) (own : b.id = r.block) :
    Completes .rakeSet s (fun t =>
      (t.tag r.core r.tag).ready = true ∧ (t.tag r.core r.tag).err = r.bad ∧
      (t.plot s.subj.ag).pubs = (s.plot s.subj.ag).pubs.filter (fun q => q.id != r.id) ∧ t.threads = s.threads ∧
      SameBytes s t) := by
  have run : exec .rakeSet s = .next
      ((s.modPlot s.subj.ag (fun p => { p with pubs := p.pubs.filter (fun q => q.id != r.id) })).modBlockId r.block
        (fun b => b.tagDone r.tag (if r.bad then 7 else 0) 0 [])) := by
    refine exec_of_step (step := rakeSetStep) rfl ?_
    simp only [rakeSetStep, found, empty, setting, left, waits, group]
    rfl
  refine ⟨_, run, ?_, ?_, ?_, rfl, fun _ => rfl⟩
  · simp [State.tag, State.core_modBlockId, Core.onBlock, block, own, Block.tagDone, Block.tag]
  · cases bad : r.bad <;> simp [State.tag, State.core_modBlockId, Core.onBlock, block, own, Block.tagDone, Block.tag]
  · rw [State.plot_modBlockId, State.plot_modPlot_self]

/-- Settles O26, from what `publish` starts, and what the rake makes of a publication's queue and of what it has marked. -/
theorem publicationRuns : Obligations.PublicationRuns := by
  refine ⟨?publish, ?mark, ?waits, ?set⟩
  case publish =>
    intro s tag a sc x hdr b free group fresh clear inside block low place page readable ref mine ready
    have run := execPublish_acts (sc := sc) free group fresh clear inside block low place page readable ref mine ready
    have agent := s.agentOnly_unwaited_unasked
    generalize s.unwaited.unasked s.cur = u at run agent
    have cur : u.cur = s.cur := agent.rest.cur
    have group' : isSysKey u.cur = false := cur ▸ group
    have ublock : (u.core (coreOfKey u.cur)).block = some b := by
      rw [agent.rest.core, cur]
      exact block
    have plots := agent.rest.plots
    have plotOf : u.plotOf u.cur = s.th.plot := by rw [cur, State.plotOf, agent.agent]
    have mem := agent.rest.mem
    refine ⟨fun unpublished => ?starts, fun state scope => ?published⟩
    case starts =>
      rw [State.startPublication_starts group' (by rw [mem]; exact unpublished)] at run
      have slot : (u.partyOf u.cur).slot = b.slot := by
        simp [State.partyOf, State.blockOf, group', ublock]
      generalize new : u.newPublication tag sc hdr = r at run
      obtain ⟨busy, pubs⟩ := State.publishing_spec ublock tag.val r
      rw [plotOf, agent.rest.plot] at pubs
      rw [cur] at busy
      obtain ⟨pc, others, bytes⟩ := State.retire_spec agent ((u.modPlot (u.plotOf u.cur) (fun p =>
        { p with pubs := p.pubs ++ [r], nextPub := r.id + 1 })).setTag (coreOfKey u.cur) tag.val
          { ready := false, owner := r.id }) cur rfl rfl
      subst new
      exact ⟨_, run, busy, pc, ⟨_, pubs, rfl, rfl, rfl, slot, rfl⟩, others, bytes⟩
    case published =>
      rw [State.startPublication_published group' (by rw [mem]; exact state) (by rw [mem]; exact scope)] at run
      obtain ⟨pc, others, bytes⟩ := State.retire_spec agent (u.setTag (coreOfKey u.cur) tag.val {}) cur rfl rfl
      have set : (u.setTag (coreOfKey u.cur) tag.val {}).retire.tag (coreOfKey s.cur) tag.val = {} := by
        rw [← cur]
        exact State.tag_setTag ublock _ _
      exact ⟨_, run, congrArg CopyTag.ready set, congrArg CopyTag.err set, pc, plots, others, bytes⟩
  case mark =>
    intro s r e rest found queue hold open' idle inside refersNone
    exact rakeMark_marks found queue hold open' idle inside refersNone
  case waits =>
    intro s r q e rest v x y plot found queue hold marking open' idle inside refers low place fatal page u page' obj fits
      unpublished unmarked unclaimed other slot earlier
    have present : s.rakeBlocked plot r (s.mem.taggedValues e.hdr) = none := by
      rw [refers]
      have shape : ¬ (2 ^ 56 ≤ v ∨ v % 256 ≠ 16 ∨ r.fatal.contains ((v - 16) / 4096) = true) := by
        rw [fatal]
        simp
        omega
      simp only [State.rakeBlocked, List.findSome?_cons, List.findSome?_nil, if_neg shape, page]
    have run := execRakeMark_marks found queue hold open' idle inside present
    have own : r.id = s.subj.n := by simpa using List.find?_some found
    have marked := State.pub_rakeMarked (rest := rest) (e := e) found hold
    rw [← own] at marked
    rw [refers, List.foldl_cons, List.foldl_nil,
      State.rakeFollow_waits marked marking low place fatal page' obj fits unpublished unmarked unclaimed other slot earlier] at run
    refine ⟨_, run, ?_, rfl, s.threads_rakeMarked plot r e rest⟩
    rw [← own]
    exact State.pub_modPub marked (fun _ => rfl)
  case set =>
    intro s r hdr rest found empty setting
    exact ⟨fun left scope open' idle => rakeSet_sets found empty setting left scope open' idle,
      fun b left waits group block own => rakeSet_completes found empty setting left waits group block own⟩

end Sys2Proof.Machine

namespace Sys2Proof.Machine

open Sys2Proof

/-! ### The state of an engine operation -/

section Operations

variable {s : State} {c : Nat} {o : EngineOp} {f : EngineOp → EngineOp}

@[simp] theorem State.modOp_threads (s : State) (c id : Nat) (f : EngineOp → EngineOp) : (s.modOp c id f).threads = s.threads := rfl
@[simp] theorem State.modOp_mem (s : State) (c id : Nat) (f : EngineOp → EngineOp) : (s.modOp c id f).mem = s.mem := rfl
@[simp] theorem State.modOp_plots (s : State) (c id : Nat) (f : EngineOp → EngineOp) : (s.modOp c id f).plots = s.plots := rfl

theorem State.core_modOp_self (s : State) (c id : Nat) (f : EngineOp → EngineOp) :
    (s.modOp c id f).core c = { s.core c with eops := (s.core c).eops.map (fun o => if o.id = id then f o else o) } :=
  State.core_modCore_self _ _ _

theorem State.core_modOp_ne (s : State) {c k : Nat} (id : Nat) (f : EngineOp → EngineOp) (h : k ≠ c) :
    (s.modOp c id f).core k = s.core k :=
  State.core_modCore_ne _ _ h

@[simp] theorem State.pad_modOp (s : State) (c id k : Nat) (f : EngineOp → EngineOp) :
    ((s.modOp c id f).core k).pad = (s.core k).pad := by
  by_cases h : k = c
  · subst h; rw [State.core_modOp_self]
  · rw [State.core_modOp_ne _ _ _ h]

/-- A change of an operation that leaves its number is the operation that is found. -/
theorem State.op_modOp (here : (s.core c).op? o.id = some o) (same : ∀ p, (f p).id = p.id) :
    ((s.modOp c o.id f).core c).op? o.id = some (f o) := by
  have keeps : ((fun p : EngineOp => p.id == o.id) ∘ fun p => if p.id = o.id then f p else p) = fun p => p.id == o.id := by
    funext p
    by_cases own : p.id = o.id <;> simp [own, same]
  rw [Core.op?] at here
  rw [State.core_modOp_self, Core.op?, List.find?_map, keeps, here]
  simp

end Operations

/-! ### One access of an operation (R203) -/

/-- An access of an operation has its translation: its hold is over, and the TLBs and caches on its way have learned. -/
def State.opReached (s : State) (c : Nat) (o : EngineOp) (va : Nat) (y : Xlat) : State :=
  ((s.modOp c o.id (fun p => { p with hold := none })).fill (groupKey c o.group) va (.ok y)).touchUnit (groupKey c o.group) y.pa

theorem State.touched_touchUnit (s : State) (key pa : Nat) : Touched s (s.touchUnit key pa) := by
  unfold State.touchUnit
  split
  · exact .refl s
  · exact (s.touched_countSlice _ _).trans ⟨rfl, rfl, fun _ => rfl⟩

section Reached

variable {s : State} {c : Nat} {o : EngineOp} (va : Nat) (y : Xlat)

@[simp] theorem State.opReached_mem : (s.opReached c o va y).mem = s.mem := by
  rw [State.opReached, (State.touched_touchUnit _ _ _).mem, State.fill_mem, State.modOp_mem]

@[simp] theorem State.opReached_threads : (s.opReached c o va y).threads = s.threads := by
  rw [State.opReached, (State.touched_touchUnit _ _ _).threads, State.fill_threads, State.modOp_threads]

@[simp] theorem State.pad_opReached (k : Nat) : ((s.opReached c o va y).core k).pad = (s.core k).pad := by
  rw [State.opReached, (State.touched_touchUnit _ _ _).cores, State.fill_core]
  exact s.pad_modOp _ _ _ _

theorem State.op_opReached (here : (s.core c).op? o.id = some o) :
    ((s.opReached c o va y).core c).op? o.id = some { o with hold := none } := by
  rw [State.opReached, (State.touched_touchUnit _ _ _).cores, State.fill_core]
  exact State.op_modOp here (f := fun p => { p with hold := none }) fun _ => rfl

end Reached

section Reaching

variable {s : State} {c va n : Nat} {o : EngineOp} {y : Xlat} (go : State → Xlat → State) (failed : State → Nat → State)

theorem State.opReach_load (found : s.engineReach (groupKey c o.group) va n .load o.hold o.fatal = .ok y)
    (inside : s.portOf y.pa = none) :
    s.opReach c o va n .load go failed = some (go (s.opReached c o va y) y) := by
  simp only [State.opReach, found, if_pos, State.fromOutside_inside inside]
  rfl

theorem State.opReach_store (found : s.engineReach (groupKey c o.group) va n .store o.hold o.fatal = .ok y)
    (idle : s.waiters = []) (open' : s.refreshing y.pa = false) :
    s.opReach c o va n .store go failed = some (go (s.opReached c o va y) y) := by
  simp only [State.opReach, found, State.through_free idle open', reduceCtorEq, if_false, if_true]
  rfl

theorem State.opReach_atomic (found : s.engineReach (groupKey c o.group) va n .atomic o.hold o.fatal = .ok y)
    (inside : s.portOf y.pa = none) (idle : s.waiters = []) (open' : s.refreshing y.pa = false) :
    s.opReach c o va n .atomic go failed = some (go (s.opReached c o va y) y) := by
  simp only [State.opReach, found, State.through_free idle open', State.fromOutside_inside inside, reduceCtorEq, if_false]
  rfl

end Reaching

/-! ### ENGINE_ACCESS of an operation -/

section Access

variable {s : State} {o : EngineOp} (runs : Runs s o)

include runs

/-- What ENGINE_ACCESS does for an operation that runs. -/
theorem exec_engineAccess_runs : exec .engineAccess s = .next ((s.opStep s.subj.ag o).getD s) := by
  obtain ⟨named, here, _, units, access, _, _⟩ := runs
  change execEngineAccess s = _
  simp only [execEngineAccess, engineAccessStep, units, access, named, here]
  rfl

theorem runs_sized : ¬ (o.spec.kind ≠ 5 ∧ o.spec.size = 0) := fun ⟨kind, empty⟩ =>
  runs.size.elim kind (fun h => h empty)

theorem opStep_queued (waits : s.queuedBefore (groupKey s.subj.ag o.group) o.after = true) : s.opStep s.subj.ag o = none := by
  unfold State.opStep
  simp only [runs.more, runs_sized runs, waits, Bool.false_eq_true, if_false, if_true, ite_self]

theorem opStep_begins (fresh : o.started = false) (clear : s.queuedBefore (groupKey s.subj.ag o.group) o.after = false)
    (notFill : o.spec.kind ≠ 4) (next : (s.core s.subj.ag).mayStart o = true) :
    s.opStep s.subj.ag o = some (s.opBegin s.subj.ag o) := by
  unfold State.opStep
  simp only [runs.more, runs_sized runs, fresh, clear, next, notFill, Bool.false_eq_true, Bool.not_true, Bool.not_false,
    Bool.and_false, if_false, if_true]

variable (started : o.started = true) (clear : s.queuedBefore (groupKey s.subj.ag o.group) o.after = false)

include started clear

theorem opStep_copyIn (kind : o.spec.kind = 0 ∨ o.spec.kind = 3) : s.opStep s.subj.ag o = s.copyIn s.subj.ag o := by
  unfold State.opStep
  simp only [runs.more, runs_sized runs, started, clear, Bool.false_eq_true, Bool.not_true, Bool.false_and, if_false]
  obtain kind | kind := kind <;> rw [kind] <;> rfl

theorem opStep_copyOut (kind : o.spec.kind = 1) : s.opStep s.subj.ag o = s.copyOut s.subj.ag o := by
  unfold State.opStep
  simp only [runs.more, runs_sized runs, started, clear, Bool.false_eq_true, Bool.not_true, Bool.false_and, if_false]
  rw [kind]
  rfl

theorem opStep_copySs (kind : o.spec.kind = 2) : s.opStep s.subj.ag o = some (s.copySs s.subj.ag o) := by
  unfold State.opStep
  simp only [runs.more, runs_sized runs, started, clear, Bool.false_eq_true, Bool.not_true, Bool.false_and, if_false]
  rw [kind]
  rfl

theorem opStep_binStep (kind : o.spec.kind = 5) : s.opStep s.subj.ag o = s.binStep s.subj.ag o := by
  unfold State.opStep
  simp only [runs.more, runs_sized runs, started, clear, Bool.false_eq_true, Bool.not_true, Bool.false_and, if_false]
  rw [kind]
  rfl

end Access

/-- The step of an operation that runs gives its outcome. -/
theorem Completes.of_opStep {s t : State} {o : EngineOp} {P : State → Prop} (runs : Runs s o)
    (step : s.opStep s.subj.ag o = some t) (holds : P t) : Completes .engineAccess s P :=
  ⟨t, by rw [exec_engineAccess_runs runs, step]; rfl, holds⟩

/-! ### An operation starts (R176, R204, R210) -/

theorem Core.padPoison_of_sound {x : Core} (sound : x.padBad = []) (a n : Nat) : x.padPoison a n = none := by
  rw [Core.padPoison, sound, List.find?_nil]

/-- A `tgather` whose scratchpad holds no error captures the index list as it stands. -/
theorem Core.indexList_of_sound {y : Core} {x : CopySpec} (sound : y.padBad = []) :
    y.indexList x = (List.range x.rows).map (fun r => y.padNum (x.base + 4 * r) 4) := by
  simp [Core.indexList, Core.indexBad, Core.padPoison_of_sound sound]

theorem State.opBegin_of_sound {s : State} {c : Nat} {o : EngineOp} (sound : o.spec.kind = 3 → (s.core c).padBad = []) :
    s.opBegin c o = s.modOp c o.id (fun p =>
      { p.fail 0 with
        started := true
        key := o.spec.key.bind (fun k => (fget? (s.plot (s.plotOf (groupKey c o.group))).keys k).map (·.key))
        idx := if o.spec.kind = 3 then (s.core c).indexList o.spec else [] }) := by
  have noneBad : (if o.spec.kind = 3 then (List.range o.spec.rows).filterMap ((s.core c).indexBad o.spec) else []) = [] := by
    split
    · next gather => simp [Core.indexBad, Core.padPoison_of_sound (sound gather)]
    · rfl
  unfold State.opBegin
  simp only [noneBad]
  rfl

theorem operationsStart : Claims.OperationsStart := by
  intro s o c key runs fresh
  refine ⟨fun waits => ?_, fun clear notFill next sound => ?_⟩
  · rw [exec_engineAccess_runs runs, opStep_queued runs waits]; rfl
  · refine .of_opStep runs (opStep_begins runs fresh clear notFill next) ?_
    rw [State.opBegin_of_sound sound]
    refine ⟨⟨_, State.op_modOp runs.here fun _ => rfl, rfl, rfl, rfl, fun gather r low => ?_⟩,
      ⟨rfl, s.pad_modOp _ _ _ _⟩, fun _ => rfl⟩
    simp [EngineOp.idxOf, gather, Core.indexList_of_sound (sound gather), low]

/-! ### Copies in (R203, R209–R211) -/

theorem EngineOp.fail_zero (o : EngineOp) : o.fail 0 = o := by
  unfold EngineOp.fail
  split
  · next h => rw [← h]
  · rfl

/-- An operation has read some bytes. -/
def EngineOp.took (o : EngineOp) (bs : List Byte) : EngineOp := { o with blob := o.blob ++ bs, done := o.done + bs.length }

/-- A copy reads one run of bytes. -/
def State.copyRead (s : State) (c : Nat) (o : EngineOp) (va n : Nat) : Option State :=
  s.opReach c o va n .load (fun s y => s.modOp c o.id (fun p => (p.fail 0).took (s.mem.bytes y.pa n)))
    (fun s cause => s.modOp c o.id (fun p => (p.fail cause).took (List.replicate n 0)))

section CopyIn

variable (s : State) {c : Nat} {o : EngineOp}

theorem State.copyIn_clipped (bare : o.spec.key = none) (more : o.done < o.spec.size) (clip : o.run.2.2.2 = true) :
    s.copyIn c o = some (s.modOp c o.id (fun p => (p.fail 0).took (List.replicate o.run.2.2.1 0))) := by
  simp only [State.copyIn, bare, more, clip, Option.isSome_none, Bool.false_eq_true, if_false, if_true]
  rfl

theorem State.copyIn_unclipped (bare : o.spec.key = none) (more : o.done < o.spec.size) (unclipped : o.run.2.2.2 = false) :
    s.copyIn c o =
      s.copyRead c o (o.spec.globalAt (if o.spec.kind = 3 then o.idxOf o.run.1 else o.run.1) o.run.2.1) o.run.2.2.1 := by
  simp only [State.copyIn, bare, more, unclipped, Option.isSome_none, Bool.false_eq_true, if_false, if_true]
  rfl

theorem State.copyIn_sealed (keyed : o.spec.key.isSome = true) (more : o.done < o.spec.size + 32) :
    s.copyIn c o = s.copyRead c o (((o.spec.word 0).toNat + o.done) % 2 ^ 64)
      (min (o.spec.size + 32 - o.done) (256 - ((o.spec.word 0).toNat + o.done) % 2 ^ 64 % 256)) := by
  simp only [State.copyIn, keyed, more, if_true]
  rfl

theorem State.copyIn_read (open' : o.spec.key = none → o.spec.size ≤ o.done)
    (keyed : o.spec.key.isSome = true → o.spec.size + 32 ≤ o.done) : s.copyIn c o = some (s.putTiles c o) := by
  unfold State.copyIn
  cases key : o.spec.key.isSome with
  | false =>
    have bare : o.spec.key = none := Option.not_isSome_iff_eq_none.mp (by rw [key]; exact Bool.false_ne_true)
    simp only [key, Bool.false_eq_true, if_false, Nat.not_lt.mpr (open' bare)]
  | true => simp only [key, if_true, Nat.not_lt.mpr (keyed key), if_false]

end CopyIn

theorem copiesRead : Claims.CopiesRead := by
  intro s o y key x q va takes runs started clear kind
  have step := opStep_copyIn runs started clear kind
  have done {u : State} {bs : List Byte} (run : s.copyIn s.subj.ag o = some (u.modOp s.subj.ag o.id (fun p => (p.fail 0).took bs)))
      {h : Option EngineHold} (op : (u.core s.subj.ag).op? o.id = some { o with hold := h }) (threads : u.threads = s.threads)
      (pad : (u.core s.subj.ag).pad = (s.core s.subj.ag).pad) (mem : u.mem = s.mem) : takes bs := by
    refine .of_opStep runs (step.trans run) ⟨⟨_, State.op_modOp (o := { o with hold := h }) op fun _ => rfl, ?_⟩,
      ⟨threads, (u.pad_modOp _ _ _ _).trans pad⟩, fun a => by rw [State.modOp_mem, mem]⟩
    rw [EngineOp.fail_zero]
    exact ⟨rfl, rfl, rfl, runs.more⟩
  have reads {v n : Nat} (run : s.copyIn s.subj.ag o = s.copyRead s.subj.ag o v n)
      (found : s.engineReach key v n .load o.hold o.fatal = .ok y) (inside : s.portOf y.pa = none) :
      takes (s.mem.bytes y.pa n) := by
    refine done (u := s.opReached s.subj.ag o v y) (h := none) ?_ (State.op_opReached _ _ runs.here) (State.opReached_threads _ _)
      (State.pad_opReached _ _ _) (State.opReached_mem _ _)
    rw [run, State.copyRead, State.opReach_load _ _ found inside, State.opReached_mem]
  refine ⟨fun bare more => ⟨fun clip => ?_, fun unclipped => ?_⟩, fun keyed more => ?_⟩
  · exact done (s.copyIn_clipped bare more clip) (h := o.hold) runs.here rfl rfl rfl
  · exact reads (s.copyIn_unclipped bare more unclipped)
  · exact reads (s.copyIn_sealed keyed more)

/-! ### Tiles in scratchpad (R198, R205) -/

theorem fgetD_writes_of_notMem {α : Type} (xs : List (Nat × α)) {k : Nat} (beside : k ∉ xs.map (·.1)) (m : FMap α) (d : α) :
    fgetD (xs.foldl (fun m x => fset m x.1 x.2) m) k d = fgetD m k d := by
  induction xs generalizing m with
  | nil => rfl
  | cons x xs ih =>
    rw [List.map_cons, List.mem_cons, not_or] at beside
    rw [List.foldl_cons, ih beside.2, fgetD_fset_ne _ _ _ beside.1]

/-- The value that a list of writes gives a key that one of them writes. -/
theorem fgetD_writes_of_mem {α : Type} {xs : List (Nat × α)} (apart : (xs.map (·.1)).Nodup) {k : Nat} {v : α} (mem : (k, v) ∈ xs)
    (m : FMap α) (d : α) : fgetD (xs.foldl (fun m x => fset m x.1 x.2) m) k d = v := by
  induction xs generalizing m with
  | nil => cases mem
  | cons x xs ih =>
    rw [List.map_cons, List.nodup_cons] at apart
    rw [List.foldl_cons]
    obtain rfl | later := List.mem_cons.mp mem
    · rw [fgetD_writes_of_notMem _ apart.1, fgetD_fset_self]
    · exact ih apart.2 later _

/-- The positions of a tile are numbered row by row. -/
theorem CopySpec.cells_eq (x : CopySpec) : x.cells = (List.range x.size).map (fun i => (i / x.rowBytes, i % x.rowBytes)) := by
  unfold CopySpec.cells CopySpec.size
  induction x.rows with
  | zero => simp
  | succ n ih =>
    rw [List.range_succ, List.flatMap_append, ih, Nat.succ_mul, List.range_add, List.map_append, List.map_map]
    congr 1
    simp only [List.flatMap_cons, List.flatMap_nil, List.append_nil]
    refine List.map_congr_left fun b low => ?_
    rw [List.mem_range] at low
    have pos : 0 < x.rowBytes := by omega
    simp [Nat.mul_comm n, Nat.mul_add_div pos, Nat.div_eq_of_lt low, Nat.mod_eq_of_lt low]

@[simp] theorem CopySpec.mem_cells {x : CopySpec} {r b : Nat} : (r, b) ∈ x.cells ↔ r < x.rows ∧ b < x.rowBytes := by
  simp [CopySpec.cells]

/-- The number of a position of a tile. -/
theorem CopySpec.cell_lt {x : CopySpec} {r b : Nat} (row : r < x.rows) (byte : b < x.rowBytes) : r * x.rowBytes + b < x.size :=
  calc r * x.rowBytes + b < (r + 1) * x.rowBytes := by rw [Nat.succ_mul]; omega
    _ ≤ x.size := Nat.mul_le_mul_right _ row

/-- What a list that runs over the positions of a tile holds at one of them. -/
theorem CopySpec.getD_map_cells {α : Type} {x : CopySpec} (f : Nat × Nat → α) {r b : Nat} (row : r < x.rows)
    (byte : b < x.rowBytes) (d : α) : (x.cells.map f).getD (r * x.rowBytes + b) d = f (r, b) := by
  have pos : 0 < x.rowBytes := by omega
  rw [x.cells_eq, List.map_map, List.getD_eq_getElem _ _ (by simpa using CopySpec.cell_lt row byte)]
  simp [Nat.mul_comm r, Nat.mul_add_div pos, Nat.div_eq_of_lt byte, Nat.mod_eq_of_lt byte]

section Tiles

variable (c : Core) {x : CopySpec} {l : Layout} {bs : List Byte}

theorem Core.pad_putTile :
    (c.putTile x l bs).pad = (((x.cells.zip bs).map (fun q => (l.place q.1.1 q.1.2, q.2))).foldl (fun m x => fset m x.1 x.2) c.pad) :=
  rfl

/-- The places of a tile of which every position has its own take their bytes (R198). -/
theorem Core.pad_putTile_at (full : bs.length = x.size) (apart : (x.cells.map (fun z => l.place z.1 z.2)).Nodup) {r b : Nat}
    (row : r < x.rows) (byte : b < x.rowBytes) :
    fgetD (c.putTile x l bs).pad (l.place r b) 0 = bs.getD (r * x.rowBytes + b) 0 := by
  have size : x.cells.length = bs.length := by rw [full, x.cells_eq, List.length_map, List.length_range]
  have keys : ((x.cells.zip bs).map (fun q => (l.place q.1.1 q.1.2, q.2))).map (·.1) = x.cells.map (fun z => l.place z.1 z.2) := by
    conv_rhs => rw [← List.map_fst_zip (Nat.le_of_eq size), List.map_map]
    rw [List.map_map]
    rfl
  have low : r * x.rowBytes + b < bs.length := full ▸ CopySpec.cell_lt row byte
  have cell : x.cells[r * x.rowBytes + b]'(size ▸ low) = (r, b) := by
    have at' := CopySpec.getD_map_cells (x := x) id row byte (0, 0)
    rwa [List.map_id, List.getD_eq_getElem _ _ (size ▸ low)] at at'
  rw [Core.pad_putTile]
  refine fgetD_writes_of_mem (keys ▸ apart) (List.mem_map.mpr ⟨((r, b), bs[r * x.rowBytes + b]), ?_, ?_⟩) _ _
  · rw [← cell]
    exact List.mem_iff_getElem.mpr ⟨r * x.rowBytes + b, by simp [size, low], by simp⟩
  · rw [List.getD_eq_getElem _ _ low]

/-- No other byte changes. -/
theorem Core.pad_putTile_beside {a : Nat} (beside : ∀ r b, r < x.rows → b < x.rowBytes → l.place r b ≠ a) :
    fgetD (c.putTile x l bs).pad a 0 = fgetD c.pad a 0 := by
  rw [Core.pad_putTile]
  refine fgetD_writes_of_notMem _ (fun mem => ?_) _ _
  simp only [List.map_map, List.mem_map] at mem
  obtain ⟨⟨⟨r, b⟩, v⟩, zipped, rfl⟩ := mem
  obtain ⟨row, byte⟩ := CopySpec.mem_cells.mp (List.of_mem_zip zipped).1
  exact beside r b row byte rfl

/-- A tile that reaches a scratchpad leaves every operation. -/
theorem State.op_putTile (s : State) (k j id : Nat) (x : CopySpec) (l : Layout) (bs : List Byte) :
    ((s.modCore k (fun c => c.putTile x l bs)).core j).op? id = (s.core j).op? id := by
  by_cases own : j = k
  · rw [own, State.core_modCore_self]; rfl
  · rw [State.core_modCore_ne _ _ own]

end Tiles

/-- A tile reaches a core, and the operation that moves it goes on. -/
theorem State.tile_reaches (s : State) {c k : Nat} {o : EngineOp} {f : EngineOp → EngineOp} {x : CopySpec} {l : Layout}
    {bs : List Byte} (here : (s.core c).op? o.id = some o) (same : ∀ p, (f p).id = p.id) (full : bs.length = x.size)
    (apart : (x.cells.map (fun z => l.place z.1 z.2)).Nodup) :
    let t := (s.modCore k (fun y => y.putTile x l bs)).modOp c o.id f
    (t.core c).op? o.id = some (f o) ∧ (∀ j, j ≠ c → j ≠ k → t.core j = s.core j) ∧
      (k ≠ c → (t.core c).pad = (s.core c).pad) ∧
      (∀ r b, r < x.rows → b < x.rowBytes → fgetD (t.core k).pad (l.place r b) 0 = bs.getD (r * x.rowBytes + b) 0) ∧
      ∀ a, (∀ r b, r < x.rows → b < x.rowBytes → l.place r b ≠ a) → fgetD (t.core k).pad a 0 = fgetD (s.core k).pad a 0 := by
  refine ⟨State.op_modOp (by rw [State.op_putTile]; exact here) same, fun j away beside => ?_, fun away => ?_,
    fun r b row byte => ?_, fun a beside => ?_⟩
  · rw [State.core_modOp_ne _ _ _ away, State.core_modCore_ne _ _ beside]
  · rw [State.pad_modOp, State.core_modCore_ne _ _ (Ne.symm away)]
  · rw [State.pad_modOp, State.core_modCore_self, Core.pad_putTile_at _ full apart row byte]
  · rw [State.pad_modOp, State.core_modCore_self, Core.pad_putTile_beside _ beside]

/-! ### The tile that has been read is written (R205, R209–R212) -/

/-- What the key opens the sealed blob of R211 to. -/
def EngineOp.opened (o : EngineOp) (k : List Byte) : Option (List Nat) :=
  gcmOpen (k.map (·.toNat)) ((o.blob.take 12).map (·.toNat)) ((leBytes 8 o.spec.size).map (·.toNat))
    (((o.blob.drop 16).take o.spec.size).map (·.toNat)) ((o.blob.drop (16 + o.spec.size)).map (·.toNat))

theorem EngineOp.unseal_of_opened {o : EngineOp} {k : List Byte} {p : List Nat} (key : o.key = some k) (opens : o.opened k = some p) :
    o.unseal = some (p.map (fun b => BitVec.ofNat 8 b)) := by
  rw [EngineOp.opened] at opens
  simp only [EngineOp.unseal, key, opens, Option.map_some]

theorem EngineOp.unseal_of_shut {o : EngineOp} (shut : ∀ k p, o.key = some k → o.opened k ≠ some p) : o.unseal = none := by
  cases key : o.key with
  | none => simp only [EngineOp.unseal, key]
  | some k =>
    have closed := Option.eq_none_iff_forall_ne_some.mpr fun p => shut k p key
    rw [EngineOp.opened] at closed
    simp only [EngineOp.unseal, key, closed, Option.map_none]

section Plain

variable {o : EngineOp}

theorem EngineOp.plain_bare (bare : o.spec.key = none) : o.plain = (o.blob, 0) := by
  simp [EngineOp.plain, bare]

variable (keyed : o.spec.key.isSome = true)

include keyed

theorem EngineOp.plain_opened {p : List Byte} (opens : o.unseal = some p) :
    o.plain = if o.cause = 0 then (p, 0) else (List.replicate o.spec.size 0, o.cause) := by
  simp only [EngineOp.plain, keyed, opens, if_true]

theorem EngineOp.plain_closed (closed : o.unseal = none) : o.plain = (List.replicate o.spec.size 0, 5) := by
  simp only [EngineOp.plain, keyed, closed, if_true]

end Plain

/-- A core has taken its tile: the next is to take it, and after the last the operation has finished. -/
def EngineOp.gave (o : EngineOp) (ks : List Nat) (cause : Nat) : EngineOp :=
  if ks.isEmpty then { o.fail cause with todo := some [], finished := true } else { o with todo := some ks }

theorem EngineOp.gave_id (o : EngineOp) (ks : List Nat) (cause : Nat) : (o.gave ks cause).id = o.id := by
  unfold EngineOp.gave
  split <;> rfl

theorem EngineOp.todo_gave (o : EngineOp) (ks : List Nat) (cause : Nat) : (o.gave ks cause).todo = some ks := by
  unfold EngineOp.gave
  split
  · next last => rw [List.isEmpty_iff.mp last]
  · rfl

theorem EngineOp.finished_gave {o : EngineOp} (more : o.finished = false) (ks : List Nat) (cause : Nat) :
    (o.gave ks cause).finished = decide (ks = []) := by
  cases ks with
  | nil => rfl
  | cons _ _ => exact more

/-- A receiver takes the tile. -/
theorem State.putTiles_gives {s : State} {c k : Nat} {ks : List Nat} {o : EngineOp} (todo : o.todo = some (k :: ks))
    (receiver : k ∈ s.receivers c o.spec) :
    s.putTiles c o = (s.modCore k (fun x => x.putTile o.spec o.spec.layout o.plain.1)).modOp c o.id (·.gave ks o.plain.2) := by
  simp only [State.putTiles, todo, List.contains_iff_mem.mpr receiver, if_true]
  cases ks <;> rfl

/-- The cores that an operation writes (R212). -/
theorem State.mem_receivers {s : State} {c k : Nat} {x : CopySpec} :
    k ∈ s.receivers c x ↔ (x.multicast = false ∧ k = c) ∨ (x.multicast = true ∧
      ∃ i j a b, i < (x.rect c).2.2.1 ∧ j < (x.rect c).2.2.2 ∧ k = tileOf ((x.rect c).1 + i) ((x.rect c).2.1 + j) ∧
        (s.core c).block = some a ∧ (s.core k).block = some b ∧ a.launch.seq = b.launch.seq ∧
        a.launch.plot = b.launch.plot) := by
  unfold State.receivers
  cases multicast : x.multicast with
  | false => simp
  | true =>
    simp only [Bool.not_true, Bool.false_eq_true, if_false, List.mem_filter, List.mem_flatMap, List.mem_map, List.mem_range]
    constructor
    · rintro ⟨⟨j, low, i, left, rfl⟩, same⟩
      split at same
      · next a b mine its =>
        simp only [Block.sameLaunch, Bool.and_eq_true, beq_iff_eq] at same
        exact .inr ⟨trivial, i, j, a, b, left, low, rfl, mine, its, same⟩
      · cases same
    · rintro (⟨no, _⟩ | ⟨_, i, j, a, b, left, low, rfl, mine, its, seq, plot⟩)
      · cases no
      · exact ⟨⟨j, low, i, left, rfl⟩, by simp [mine, its, Block.sameLaunch, seq, plot]⟩

/-- The cores that are to take the tile are known: those that the operation writes. -/
theorem State.putTiles_finds {s : State} {c : Nat} {o : EngineOp} (fresh : o.todo = none) : ∃ ks,
    (∀ k, k ∈ ks ↔ k ∈ s.receivers c o.spec) ∧
      s.putTiles c o = s.modOp c o.id (fun p => { p with todo := some ks }) := by
  refine ⟨(s.receivers c o.spec).filter (· ≠ c) ++ (s.receivers c o.spec).filter (· = c), fun k => ?_, ?_⟩
  · simp only [List.mem_append, List.mem_filter, decide_eq_true_eq]
    tauto
  · simp only [State.putTiles, fresh]

theorem copiesWrite : Claims.CopiesWrite := by
  intro s o c x bits opened runs started clear kind whole sealed
  have step := (opStep_copyIn runs started clear kind).trans (s.copyIn_read whole sealed)
  refine ⟨fun fresh => ?_, fun k ks todo receiver apart => ?_⟩
  · obtain ⟨ks, all, run⟩ := State.putTiles_finds (s := s) (c := c) fresh
    exact .of_opStep runs (step.trans (congrArg some run)) ⟨⟨_, ks, State.op_modOp runs.here fun _ => rfl, rfl, runs.more,
      fun k => (all k).trans State.mem_receivers⟩, ⟨rfl, s.pad_modOp _ _ _ _⟩, fun _ => rfl⟩
  · intro gives
    have give {bs : List Byte} {cause : Nat} (plain : o.plain = (bs, cause)) : gives bs cause := by
      intro full
      rw [State.putTiles_gives todo receiver, plain] at step
      obtain ⟨now, others, own, written, beside⟩ :=
        s.tile_reaches (k := k) runs.here (f := (·.gave ks cause)) (EngineOp.gave_id · _ _) full apart
      exact .of_opStep runs step ⟨⟨_, now, o.todo_gave _ _, EngineOp.finished_gave runs.more _ _, fun last => by rw [last]; rfl⟩,
        rfl, fun _ => rfl, others, own, written, beside⟩
    refine ⟨fun bare => give (EngineOp.plain_bare bare), fun kb p keyed key opens sound => give ?_, fun keyed shut => give ?_,
      fun kb p keyed key opens failed => give ?_⟩
    · rw [EngineOp.plain_opened keyed (EngineOp.unseal_of_opened key opens), if_pos sound]
    · exact EngineOp.plain_closed keyed (EngineOp.unseal_of_shut shut)
    · rw [EngineOp.plain_opened keyed (EngineOp.unseal_of_opened key opens), if_neg failed]

/-! ### Bytes of an operation reach their cells (R180, R203) -/

section Landing

variable (s : State) (c : Nat) (o : EngineOp) (y : Xlat) (pa : Nat) (bs : List Byte)

theorem State.noted_opLand :
    Noted (s.withMem ((s.mem.claim (s.partyOf (groupKey c o.group)) y.obj pa).write pa bs)) (s.opLand c o y pa bs) :=
  s.noted_landFor _ _ _ _ _ _

@[simp] theorem State.op_opLand (k id : Nat) : ((s.opLand c o y pa bs).core k).op? id = (s.core k).op? id := by
  rw [(s.noted_opLand c o y pa bs).cores]; rfl

@[simp] theorem State.pad_opLand (k : Nat) : ((s.opLand c o y pa bs).core k).pad = (s.core k).pad := by
  rw [(s.noted_opLand c o y pa bs).cores]; rfl

variable {s c o y pa bs}

theorem State.opLand_beside {n : Nat} (few : bs.length ≤ n) : SameBytesBeside s (s.opLand c o y pa bs) pa n := by
  intro a out beside
  refine (Store.byte_eq (s.noted_opLand c o y pa bs).cells a).trans ?_
  rw [State.withMem, Store.byte_write_outside _ _ _ _ (by omega)]
  exact Store.byte_claim_beside _ _ _ _ beside

theorem State.opLand_outside (bare : s.mem.headers = []) {n : Nat} (few : bs.length ≤ n) :
    SameBytesOutside s (s.opLand c o y pa bs) pa n :=
  fun a out => State.opLand_beside few a out fun h known => by rw [bare] at known; cases known

theorem State.opLand_inside (bare : s.mem.headers = []) {i : Nat} (low : i < bs.length) :
    (s.opLand c o y pa bs).mem.byte (pa + i) = bs.getD i 0 := by
  refine (Store.byte_eq (s.noted_opLand c o y pa bs).cells _).trans ?_
  refine Store.byte_write_inside _ _ _ _ low fun h known => ?_
  rw [Store.headers_claim_of_none bare] at known
  cases known

end Landing

theorem getD_drop_take {α : Type} {bs : List α} {k n i : Nat} (low : i < n) (d : α) :
    ((bs.drop k).take n).getD i d = bs.getD (k + i) d := by
  simp [List.getD_eq_getElem?_getD, low]

/-! ### Copies out (R176, R205, R209) -/

section Source

variable {s : State} {c : Nat} {o : EngineOp}

/-- Without errors there is nothing to report. -/
theorem State.noticeSource_of_sound {k : Nat} (sound : (s.core k).padBad = []) : s.noticeSource c k o = s := by
  unfold State.noticeSource
  refine List.foldl_fixed' (fun q => ?_) _
  simp [sound]

/-- What an operation takes of a position of its source. -/
def EngineOp.taken (o : EngineOp) (x : Core) (q : Nat × Nat) : Byte :=
  if o.clipped q.1 q.2 then 0 else fgetD x.pad (o.spec.layout.place q.1 q.2) 0

theorem EngineOp.source_of_sound {x : Core} (sound : x.padBad = []) :
    o.source x = o.spec.cells.map (fun q => (o.taken x q, false)) := by
  unfold EngineOp.source EngineOp.taken
  refine List.map_congr_left fun q _ => ?_
  simp only [sound, List.contains_nil, Bool.false_eq_true, if_false]
  split <;> rfl

theorem EngineOp.source_fst {x : Core} (sound : x.padBad = []) : (o.source x).map (·.1) = o.spec.cells.map (o.taken x) := by
  rw [EngineOp.source_of_sound sound, List.map_map]; rfl

theorem EngineOp.source_any {x : Core} (sound : x.padBad = []) : (o.source x).any (·.2) = false := by
  rw [EngineOp.source_of_sound sound]; simp

variable (s)

theorem State.copyOut_takes (first : o.phase = 0) : s.copyOut c o = some (s.takeSource c o) := by
  rw [State.copyOut, if_pos first]

/-- An operation has written, or passed, a run of n bytes, in which its source may be in error. -/
def EngineOp.passed (o : EngineOp) (bad : Bool) (n : Nat) : EngineOp :=
  { (o.fail 0).fail (if bad then 2 else 0) with done := o.done + n }

/-- The run that is next holds a position of the source in error. -/
def EngineOp.runBad (o : EngineOp) : Bool := decide (o.slot ≠ 0 ∧ o.slot - 1 < o.done + o.run.2.2.1)

variable (taken : o.phase ≠ 0) (more : o.done < o.spec.size)

include taken more

theorem State.copyOut_clipped (clip : o.run.2.2.2 = true) :
    s.copyOut c o = some (s.modOp c o.id (·.passed o.runBad o.run.2.2.1)) := by
  simp only [State.copyOut, taken, Nat.not_le.mpr more, clip, if_false, if_true]
  rfl

theorem State.copyOut_writes {y : Xlat} (unclipped : o.run.2.2.2 = false)
    (found : s.engineReach (groupKey c o.group) (o.spec.globalAt o.run.1 o.run.2.1) o.run.2.2.1 .store o.hold o.fatal = .ok y)
    (open' : s.refreshing y.pa = false) (idle : s.waiters = []) :
    s.copyOut c o = some (((s.opReached c o (o.spec.globalAt o.run.1 o.run.2.1) y).opLand c o y y.pa
      ((o.blob.drop o.done).take o.run.2.2.1)).modOp c o.id (·.passed o.runBad o.run.2.2.1)) := by
  simp only [State.copyOut, taken, Nat.not_le.mpr more, unclipped, Bool.false_eq_true, if_false]
  exact State.opReach_store _ _ found idle open'

end Source

/-- A `tcopy.ss` moves its whole tile. -/
theorem State.copySs_of_sound {s : State} {c : Nat} {o : EngineOp} (sound : (s.core (o.sourceCore c)).padBad = []) :
    s.copySs c o =
      (s.modCore (clusterMate c o.spec.ssDest.core) (fun x =>
        x.putTile o.spec o.spec.ssDest (o.spec.cells.map (o.taken (s.core (o.sourceCore c)))))).modOp c o.id (fun p =>
          { p.fail 0 with finished := true }) := by
  simp only [State.copySs, State.noticeSource_of_sound sound, EngineOp.source_fst sound, EngineOp.source_any sound,
    Bool.false_eq_true, if_false]

theorem copiesOut : Claims.CopiesOut := by
  intro s o y c key x q n k from' runs started clear sound
  replace sound : (s.core (o.sourceCore c)).padBad = [] := sound
  refine ⟨fun kind first => ?_, fun kind taken more unclipped found open' idle => ?_, fun kind taken more clip => ?_,
    fun kind apart => ?_⟩
  · refine .of_opStep runs ((opStep_copyOut runs started clear kind).trans (s.copyOut_takes first)) ?_
    rw [State.takeSource, EngineOp.source_fst sound, State.noticeSource_of_sound sound]
    exact ⟨⟨_, State.op_modOp runs.here fun _ => rfl, rfl, rfl, fun r b row byte => CopySpec.getD_map_cells _ row byte _⟩,
      ⟨rfl, s.pad_modOp _ _ _ _⟩, fun _ => rfl⟩
  · have few : ((o.blob.drop o.done).take n).length ≤ n := by rw [List.length_take]; exact Nat.min_le_left _ _
    refine .of_opStep runs ((opStep_copyOut runs started clear kind).trans
      (s.copyOut_writes taken more unclipped found open' idle))
      ⟨⟨_, State.op_modOp (o := { o with hold := none }) ?_ fun _ => rfl, rfl⟩, by simp, fun a out beside => ?_,
        fun bare i low held => ?_⟩
    · rw [State.op_opLand, State.op_opReached _ _ runs.here]
    · rw [State.modOp_mem, State.opLand_beside few a out (by rwa [State.opReached_mem]), State.opReached_mem]
    · rw [State.modOp_mem, State.opLand_inside (by rwa [State.opReached_mem]), getD_drop_take low]
      rw [List.length_take, List.length_drop]
      exact Nat.lt_min.mpr ⟨low, by omega⟩
  · exact .of_opStep runs ((opStep_copyOut runs started clear kind).trans (s.copyOut_clipped taken more clip))
      ⟨⟨_, State.op_modOp runs.here fun _ => rfl, rfl⟩, ⟨rfl, s.pad_modOp _ _ _ _⟩, fun _ => rfl⟩
  · intro d
    have full : (x.cells.map (o.taken (s.core (o.sourceCore c)))).length = x.size := by simp [CopySpec.cells_eq]
    obtain ⟨now, others, own, written, beside⟩ :=
      s.tile_reaches (k := d) runs.here (f := fun p => { p.fail 0 with finished := true }) (fun _ => rfl) full apart
    refine .of_opStep runs ((opStep_copySs runs started clear kind).trans (congrArg some (State.copySs_of_sound sound)))
      ⟨⟨_, now, rfl, by rw [EngineOp.fail_zero]⟩, rfl, fun _ => rfl, others, own, fun r b row byte => ?_, beside⟩
    exact (written r b row byte).trans (CopySpec.getD_map_cells _ row byte _)

/-! ### `tbin` (R215) -/

section Counters

variable (s : State) (c : Nat) (o : EngineOp) (y : Xlat) (pa : Nat)

@[simp] theorem State.op_stepField (k id : Nat) : ((s.stepField c o y pa).core k).op? id = (s.core k).op? id :=
  s.op_opLand c o y pa _ k id

@[simp] theorem State.pad_stepField (k : Nat) : ((s.stepField c o y pa).core k).pad = (s.core k).pad :=
  s.pad_opLand c o y pa _ k

variable {s}

theorem State.stepField_outside (bare : s.mem.headers = []) : SameBytesOutside s (s.stepField c o y pa) pa 4 :=
  State.opLand_outside bare (Nat.le_of_eq (leBytes_length _ _))

/-- A counter has gone up by one, or stays at its bound. -/
theorem State.num_stepField (bare : s.mem.headers = []) :
    (s.stepField c o y pa).mem.num pa 4 = min (s.mem.num pa 4 + 1) 0xFFFFFFFF := by
  have read := Store.num_write (Store.headers_claim_of_none bare (s.partyOf (groupKey c o.group)) y.obj pa) pa
    (leBytes 4 (sat32 (s.mem.num pa 4 + 1)))
  rw [leBytes_length, leNat_leBytes_of_lt (by rw [sat32]; omega)] at read
  exact (Store.num_of_cells (s.noted_opLand c o y pa _).cells _ _).trans read

end Counters

/-- A row has its place: the next of a bin's, whose entry lies at an address. -/
def EngineOp.placed (o : EngineOp) (m : Store) (pa outcome : Nat) : EngineOp :=
  { o with
    slot := m.num (pa + 16) 4, outcome := outcome, phase := 3
    windex := BitVec.ofNat 64 (m.num pa 8 + m.num (pa + 16) 4 * m.num (pa + 8) 4) }

/-- A row has found its bin full, and the bin names its overflow bin. -/
def EngineOp.spilled (o : EngineOp) (bin own : Nat) : EngineOp :=
  if bin ≠ 0xFFFFFFFF ∧ bin ≠ own then { o with slot := bin, phase := 1 } else { o with phase := 2 }

/-- The counter of an entry has been reached, and stepped. -/
def State.binCounted (s : State) (c : Nat) (o : EngineOp) (bin f : Nat) (y : Xlat) : State :=
  (s.opReached c o (o.spec.binAt bin) y).stepField c o y (y.pa + f)

section Bins

variable {s : State} {c : Nat} {o : EngineOp} {y : Xlat} (inside : s.portOf y.pa = none) (open' : s.refreshing y.pa = false)
  (idle : s.waiters = [])

include inside open' idle

theorem State.binStep_first (phase : o.phase = 0)
    (found : s.engineReach (groupKey c o.group) (o.spec.binAt o.spec.bin) 32 .atomic o.hold o.fatal = .ok y) :
    s.binStep c o = some ((s.binCounted c o o.spec.bin 16 y).modOp c o.id (fun p =>
      if s.mem.num (y.pa + 16) 4 < s.mem.num (y.pa + 12) 4 then p.placed s.mem y.pa 0
      else p.spilled (s.mem.num (y.pa + 24) 4) o.spec.bin)) := by
  unfold State.binStep
  rw [phase]
  refine (State.opReach_atomic _ _ found inside idle open').trans ?_
  simp only [State.opReached_mem]
  split
  · rfl
  · simp only [EngineOp.fail_zero]
    rfl

theorem State.binStep_overflow (phase : o.phase = 1)
    (found : s.engineReach (groupKey c o.group) (o.spec.binAt o.slot) 32 .atomic o.hold o.fatal = .ok y) :
    s.binStep c o = some ((s.binCounted c o o.slot 16 y).modOp c o.id (fun p =>
      if s.mem.num (y.pa + 16) 4 < s.mem.num (y.pa + 12) 4 then p.placed s.mem y.pa 1 else { p with phase := 2 })) := by
  unfold State.binStep
  rw [phase]
  refine (State.opReach_atomic _ _ found inside idle open').trans ?_
  simp only [State.opReached_mem]
  split <;> rfl

theorem State.binStep_drops (phase : o.phase = 2)
    (found : s.engineReach (groupKey c o.group) (o.spec.binAt o.spec.bin) 32 .atomic o.hold o.fatal = .ok y) :
    s.binStep c o = some ((s.binCounted c o o.spec.bin 20 y).modOp c o.id (fun p =>
      { p.fail 0 with outcome := 2, finished := true })) := by
  unfold State.binStep
  rw [phase]
  exact State.opReach_atomic _ _ found inside idle open'

omit inside in
theorem State.binStep_writes (phase : o.phase = 3) (more : o.done < 256)
    (found : s.engineReach (groupKey c o.group) ((o.windex.toNat + o.done) % 2 ^ 64)
      (min (256 - o.done) (256 - (o.windex.toNat + o.done) % 2 ^ 64 % 256)) .store o.hold o.fatal = .ok y) :
    s.binStep c o = some (((s.opReached c o ((o.windex.toNat + o.done) % 2 ^ 64) y).opLand c o y y.pa
      ((o.spec.row.drop o.done).take (min (256 - o.done) (256 - (o.windex.toNat + o.done) % 2 ^ 64 % 256)))).modOp c o.id (fun p =>
        { p.fail 0 with done := p.done + min (256 - o.done) (256 - (o.windex.toNat + o.done) % 2 ^ 64 % 256) })) := by
  unfold State.binStep
  rw [phase]
  simp only [Nat.not_le.mpr more, if_false]
  exact State.opReach_store _ _ found idle open'

end Bins

theorem binsRun : Claims.BinsRun := by
  intro s o y key x runs started clear kind inside open' idle bare n counts placed ovf reach
  have step := opStep_binStep runs started clear kind
  have count {bin f : Nat} {g : EngineOp → EngineOp} {P : EngineOp → Prop}
      (run : s.binStep s.subj.ag o = some ((s.binCounted s.subj.ag o bin f y).modOp s.subj.ag o.id g))
      (same : ∀ p, (g p).id = p.id) (holds : P (g { o with hold := none })) : counts f P := by
    have bare' : (s.opReached s.subj.ag o (o.spec.binAt bin) y).mem.headers = [] := by rwa [State.opReached_mem]
    refine .of_opStep runs (step.trans run) ⟨⟨_, State.op_modOp (o := { o with hold := none }) ?_ same, holds⟩, ?_, ?_, ?_⟩
    · rw [State.binCounted, State.op_stepField, State.op_opReached _ _ runs.here]
    · rw [State.modOp_mem, State.binCounted, State.num_stepField _ _ _ _ bare', State.opReached_mem]
    · intro a out
      rw [State.modOp_mem, State.binCounted, State.stepField_outside _ _ _ _ bare' a out, State.opReached_mem]
    · rw [State.pad_modOp, State.binCounted, State.pad_stepField, State.pad_opReached]
  have ids {m : Store} {a k : Nat} {q : EngineOp} (p : EngineOp) (less : q.id = p.id) :
      (if s.mem.num (y.pa + 16) 4 < s.mem.num (y.pa + 12) 4 then p.placed m a k else q).id = p.id := by
    split
    · rfl
    · exact less
  have spilledId (p : EngineOp) (bin own : Nat) : (p.spilled bin own).id = p.id := by unfold EngineOp.spilled; split <;> rfl
  refine ⟨fun phase found => ?_, fun phase found => ?_, fun phase found => ?_, fun phase more full => ?_⟩
  · have run := State.binStep_first inside open' idle phase found
    refine ⟨fun room => count run (fun p => ids p (spilledId p _ _)) ?_,
      fun none' other foreign => count run (fun p => ids p (spilledId p _ _)) ?_,
      fun none' own => count run (fun p => ids p (spilledId p _ _)) ?_⟩
    · rw [if_pos room]; exact ⟨rfl, rfl, rfl, runs.more, rfl⟩
    · rw [if_neg (Nat.not_lt.mpr none'), EngineOp.spilled, if_pos ⟨other, foreign⟩]; exact ⟨rfl, rfl⟩
    · rw [if_neg (Nat.not_lt.mpr none'), EngineOp.spilled, if_neg (by tauto)]
  · have run := State.binStep_overflow inside open' idle phase found
    refine ⟨fun room => count run (fun p => ids p rfl) ?_, fun none' => count run (fun p => ids p rfl) ?_⟩
    · rw [if_pos room]; exact ⟨rfl, rfl, rfl, runs.more, rfl⟩
    · rw [if_neg (Nat.not_lt.mpr none')]
  · exact count (State.binStep_drops inside open' idle phase found) (fun _ => rfl) ⟨rfl, rfl⟩
  · intro va k found
    have bare' : (s.opReached s.subj.ag o va y).mem.headers = [] := by rwa [State.opReached_mem]
    have length : ((x.row.drop o.done).take k).length = k := by
      rw [List.length_take, List.length_drop, full]
      exact Nat.min_eq_left (Nat.min_le_left _ _)
    refine .of_opStep runs (step.trans (State.binStep_writes open' idle phase more found))
      ⟨⟨_, State.op_modOp (o := { o with hold := none }) ?_ fun _ => rfl, rfl⟩, fun a out => ?_, fun i low => ?_⟩
    · rw [State.op_opLand, State.op_opReached _ _ runs.here]
    · rw [State.modOp_mem, State.opLand_outside bare' (Nat.le_of_eq length) a out, State.opReached_mem]
    · rw [State.modOp_mem, State.opLand_inside bare' (low.trans_eq length.symm), getD_drop_take low]

/-! ### Operations complete (R193, R207) -/

/-- The fields of a byte barrier fit their places (Table 9.6). -/
structure Barrier.Fits (b : Barrier) : Prop where
  phase : b.phase < 2 ^ 32
  pending : b.pending < 2 ^ 16
  arrivals : b.arrivals < 2 ^ 16
  arrived : b.arrived < 2 ^ 32
  expected : b.expected < 2 ^ 32

theorem barrierOf_fits (n : Nat) : (barrierOf n).Fits := by
  constructor <;> exact Nat.mod_lt _ (by decide)

theorem Barrier.Fits.flip {b : Barrier} (fits : b.Fits) : b.flip.Fits := by
  obtain ⟨phase, pending, arrivals, arrived, expected⟩ := fits
  unfold Barrier.flip
  split
  · exact ⟨Nat.mod_lt _ (by decide), arrivals, arrivals, Nat.lt_of_le_of_lt (Nat.sub_le _ _) arrived, Nat.two_pow_pos _⟩
  · exact ⟨phase, pending, arrivals, arrived, expected⟩

/-- A barrier whose fields fit is read as it was written. -/
theorem Barrier.Fits.barrierOf_num {b : Barrier} (fits : b.Fits) : barrierOf b.num = b ∧ b.num < 256 ^ 16 := by
  obtain ⟨phase, pending, arrivals, arrived, expected⟩ := fits
  cases b
  simp only [barrierOf, Barrier.num, Barrier.mk.injEq] at *
  omega

/-- Scratchpad bytes read as they were written. -/
theorem Core.padNum_padWrite (c : Core) (a : Nat) (bs : List Byte) : (c.padWrite a bs).padNum a bs.length = leNat bs := by
  refine congrArg leNat (List.ext_getElem (by simp [Core.padBytes]) fun i _ low => ?_)
  simp only [Core.padBytes, List.getElem_map, List.getElem_range]
  rw [Core.pad_padWrite, if_pos ⟨Nat.le_add_right _ _, by omega⟩,
    Nat.add_sub_cancel_left, List.getD_eq_getElem _ _ low]

/-- A core's byte barrier takes the bytes of an operation. -/
def Core.barrierAdd (c : Core) (o n : Nat) : Core :=
  c.setBarrier o { c.barrier o with arrived := sat32 ((c.barrier o).arrived + n) }

theorem Core.barrier_barrierAdd (c : Core) (o n : Nat) :
    (c.barrierAdd o n).barrier o =
      ({ c.barrier o with arrived := min ((c.barrier o).arrived + n) 0xFFFFFFFF } : Barrier).flip := by
  have fits : ({ c.barrier o with arrived := sat32 ((c.barrier o).arrived + n) } : Barrier).flip.Fits := by
    refine Barrier.Fits.flip ⟨?_, ?_, ?_, by simp only [sat32]; omega, ?_⟩
    exacts [(barrierOf_fits _).phase, (barrierOf_fits _).pending, (barrierOf_fits _).arrivals, (barrierOf_fits _).expected]
  obtain ⟨reads, small⟩ := fits.barrierOf_num
  have num := c.padNum_padWrite o (leBytes 16 ({ c.barrier o with arrived := sat32 ((c.barrier o).arrived + n) } : Barrier).flip.num)
  rw [leBytes_length, leNat_leBytes_of_lt small] at num
  rw [Core.barrier, Core.barrierAdd, Core.setBarrier, num, reads]
  rfl

/-- A byte barrier lies in scratchpad. -/
theorem Core.barrier_of_pad {c d : Core} (same : c.pad = d.pad) (o : Nat) : c.barrier o = d.barrier o := by
  simp only [Core.barrier, Core.padNum, Core.padBytes, same]

theorem Core.pad_barrierAdd_beside (c : Core) {o n a : Nat} (out : a < o ∨ o + 16 ≤ a) :
    fgetD (c.barrierAdd o n).pad a 0 = fgetD c.pad a 0 := by
  rw [Core.barrierAdd, Core.setBarrier, Core.pad_padWrite, leBytes_length, if_neg (by omega)]

/-- Some cores change, each once. -/
theorem State.core_foldl_modCore (f : Core → Core) {ks : List Nat} (apart : ks.Nodup) (s : State) (k : Nat) :
    (ks.foldl (fun s' k => s'.modCore k f) s).core k = if k ∈ ks then f (s.core k) else s.core k := by
  induction ks generalizing s with
  | nil => simp
  | cons j ks ih =>
    rw [List.nodup_cons] at apart
    rw [List.foldl_cons, ih apart.2]
    by_cases own : k = j
    · subst own; simp [apart.1]
    · simp [own, State.core_modCore_ne _ _ own]

theorem State.foldl_modCore_mem (f : Core → Core) (ks : List Nat) (s : State) :
    (ks.foldl (fun s' k => s'.modCore k f) s).mem = s.mem :=
  List.foldlRecOn (motive := fun (t : State) => t.mem = s.mem) _ _ rfl fun _ same _ _ => same

/-- The operation has left its engine, and its tag is ready (R193). -/
def State.opCompleted (s : State) (c : Nat) (o : EngineOp) : State :=
  ((s.modCore c (fun x => { x with eops := x.eops.filter (fun p => p.id != o.id) })).countBlock c 0x11 o.bytes).tagDone c
    o.spec.tag o.cause o.detail []

section Complete

variable (s : State) (c : Nat) (o : EngineOp)

theorem State.opCompleted_mem : (s.opCompleted c o).mem = s.mem := rfl

theorem State.core_opCompleted_ne {k : Nat} (other : k ≠ c) : (s.opCompleted c o).core k = s.core k := by
  simp only [State.opCompleted, State.tagDone, State.countBlock, State.modBlock, State.core_modCore_ne _ _ other]

theorem State.core_opCompleted_self : (s.opCompleted c o).core c =
    { s.core c with
      eops := (s.core c).eops.filter (fun p => p.id != o.id)
      block := (s.core c).block.map (fun b =>
        { b with counters := bumpMap b.counters 0x11 o.bytes }.tagDone o.spec.tag o.cause o.detail []) } := by
  simp only [State.opCompleted, State.tagDone, State.countBlock, State.modBlock, State.core_modCore_self, Option.map_map]
  rfl

theorem State.pad_opCompleted (k : Nat) : ((s.opCompleted c o).core k).pad = (s.core k).pad := by
  by_cases own : k = c
  · rw [own, State.core_opCompleted_self]
  · rw [State.core_opCompleted_ne _ _ _ own]

theorem State.launch_opCompleted (k : Nat) :
    ((s.opCompleted c o).core k).block.map (·.launch) = (s.core k).block.map (·.launch) := by
  by_cases own : k = c
  · rw [own, State.core_opCompleted_self, Option.map_map]; rfl
  · rw [State.core_opCompleted_ne _ _ _ own]

theorem State.tag_opCompleted (running : ((s.opCompleted c o).core c).block.isSome = true) :
    (s.opCompleted c o).tag c o.spec.tag = { (s.tag c o.spec.tag) with
      ready := true, err := decide (o.cause ≠ 0), status := BitVec.ofNat 32 (o.cause * 2 ^ 28 + o.detail), sprouts := [] } := by
  rw [State.core_opCompleted_self, Option.isSome_map] at running
  obtain ⟨b, block⟩ := Option.isSome_iff_exists.mp running
  simp [State.tag, State.core_opCompleted_self, block, Block.tag, Block.tagDone, tagStatus]

variable {s}

/-- Which cores an operation writes rests on the launches of their blocks. -/
theorem State.receivers_of_launches {t : State} (launches : ∀ k, (t.core k).block.map (·.launch) = (s.core k).block.map (·.launch))
    (x : CopySpec) : t.receivers c x = s.receivers c x := by
  unfold State.receivers
  split
  · rfl
  · refine List.filter_congr fun k _ => ?_
    have mine := launches c
    have its := launches k
    cases here : (s.core c).block with
    | none =>
      rw [here, Option.map_none, Option.map_eq_none_iff] at mine
      rw [mine]
    | some a =>
      rw [here, Option.map_some, Option.map_eq_some_iff] at mine
      obtain ⟨a', here', launch⟩ := mine
      cases there : (s.core k).block with
      | none =>
        rw [there, Option.map_none, Option.map_eq_none_iff] at its
        rw [here', its]
      | some b =>
        rw [there, Option.map_some, Option.map_eq_some_iff] at its
        obtain ⟨b', there', launch'⟩ := its
        rw [here', there']
        simp only [Block.sameLaunch, launch, launch']

theorem State.reapBlock_core (k : Nat) :
    (s.reapBlock c).core k = { s.core k with block := ((s.reapBlock c).core k).block, bursts := ((s.reapBlock c).core k).bursts } := by
  unfold State.reapBlock
  split
  · rfl
  · split
    · rfl
    · by_cases own : k = c
      · subst own; simp
      · simp [State.core_modCore_ne _ _ own]

theorem State.pad_reapBlock (k : Nat) : ((s.reapBlock c).core k).pad = (s.core k).pad := by rw [State.reapBlock_core]

end Complete

/-- What ENGINE_OPERATION_COMPLETE does for a group's operation that has finished. -/
theorem exec_engineOperationComplete {s : State} {o : EngineOp} (named : s.subj.n = o.id)
    (here : (s.core s.subj.ag).op? o.id = some o) (finished : o.finished = true) (group : o.group < 16) :
    exec .engineOperationComplete s =
      .next (((s.opCompleted s.subj.ag o).addBytes s.subj.ag o).reapBlock s.subj.ag) := by
  change execEngineOperationComplete s = _
  simp only [execEngineOperationComplete, engineOperationCompleteStep, named, here, finished, Nat.not_le.mpr group, Bool.not_true,
    Bool.false_eq_true, if_false]
  rfl

theorem operationsComplete : Claims.OperationsComplete := by
  intro s o c core x named here finished group
  have run := exec_engineOperationComplete named here finished group
  refine ⟨fun quiet => ⟨_, run, ?_⟩, fun notBin on apart => ⟨_, run, ?_⟩⟩
  · have none' : (s.opCompleted c o).addBytes c o = s.opCompleted c o := if_neg (by simp [x] at quiet; simp; tauto)
    rw [none']
    refine ⟨fun running => ?_, ?_, fun k => ?_, fun a => by rw [State.reapBlock_mem]; rfl⟩
    · cases done : (s.opCompleted c o).blockDone c with
      | true => rw [State.block_reapBlock_of_done done] at running; cases running
      | false =>
        rw [State.reapBlock_of_running done] at running ⊢
        exact s.tag_opCompleted c o running
    · rw [State.reapBlock_core, State.core_opCompleted_self]
    · rw [State.pad_reapBlock, State.pad_opCompleted]
  · have adds : (s.opCompleted c o).addBytes c o =
        (s.receivers c x).foldl (fun s' k => s'.modCore k (·.barrierAdd x.barrier x.size)) (s.opCompleted c o) := by
      rw [← State.receivers_of_launches c (s.launch_opCompleted c o) x]
      exact if_pos ⟨notBin, on⟩
    have core (k : Nat) := (s.opCompleted c o).core_foldl_modCore (·.barrierAdd x.barrier x.size) apart k
    rw [← adds] at core
    refine ⟨fun k there => ⟨?_, fun a out => ?_⟩, fun k notThere => ?_, fun a => ?_⟩
    · rw [Core.barrier_of_pad (State.pad_reapBlock c k), core, if_pos there, Core.barrier_barrierAdd,
        Core.barrier_of_pad (s.pad_opCompleted c o k)]
    · rw [State.pad_reapBlock, core, if_pos there, Core.pad_barrierAdd_beside _ out, State.pad_opCompleted]
    · rw [State.pad_reapBlock, core, if_neg notThere, State.pad_opCompleted]
    · rw [State.reapBlock_mem, adds, State.foldl_modCore_mem, State.opCompleted_mem]

/-- Settles O48: each step of an operation is its model's function, read through what it changes of the operation, of the pads and
of memory. -/
theorem enginesRun : Obligations.EnginesRun :=
  ⟨operationsStart, copiesRead, copiesWrite, copiesOut, binsRun, operationsComplete⟩

end Sys2Proof.Machine

namespace Sys2Proof.Machine

open Sys2Proof

/-! ### The frames of a plot (R323, R324) -/

/-! The running agent's wait is over; nothing else differs. -/

@[simp] theorem State.cur_unwaited (s : State) : s.unwaited.cur = s.cur := rfl

@[simp] theorem State.plot_unwaited (s : State) (p : Nat) : s.unwaited.plot p = s.plot p := rfl

@[simp] theorem State.cleanPages_unwaited (s : State) (p : Plot) : s.unwaited.cleanPages p = s.cleanPages p := rfl

theorem State.th_unwaited (s : State) : s.unwaited.th = { s.th with wait := .none } := s.thread_modThread_self s.cur _

@[simp] theorem State.sreg_unwaited (s : State) (r : SReg) : s.unwaited.th.sreg r = s.th.sreg r := by
  rw [State.th_unwaited]; rfl

@[simp] theorem State.plotOf_unwaited (s : State) : s.unwaited.plotOf s.cur = s.th.plot := by
  rw [State.plotOf, ← State.cur_unwaited, ← State.th, State.th_unwaited]

/-- The running agent goes on. -/
theorem State.pc_advance (s : State) : (s.advance.thread s.cur).pc = s.th.pc + 4 := by
  rw [State.advance, State.thread_modThread_self]; rfl

/-- A freed page that the plot owns, that is neither clean nor waits for the scrubber, is queued. -/
theorem execPgfree_queues {s : State} {a : SReg} (priv : Privileged s [a]) (clear : FenceClear s true .p)
    (low : (s.th.sreg a).toNat < 2 ^ 52) (aligned : (s.th.sreg a).toNat % 4096 = 0)
    (owned : (s.plot s.th.plot).owns (s.th.sreg a).toNat 4096 = true)
    (free : (s.plot s.th.plot).inScrub (s.th.sreg a).toNat 4096 = false)
    (dirty : ∀ f ∈ s.cleanPages (s.plot s.th.plot), f < (s.th.sreg a).toNat ∨ (s.th.sreg a).toNat + 4096 ≤ f) :
    exec (.pgfree a) s = .next (s.unwaited.setPlot s.th.plot
      { s.plot s.th.plot with scrub := (s.plot s.th.plot).scrub ++ [⟨(s.th.sreg a).toNat, 0⟩] }).advance := by
  have size : (s.th.sreg a).toNat % 8 = 0 := by omega
  have frame : (s.th.sreg a).toNat / 4096 * 4096 = (s.th.sreg a).toNat := by omega
  have clean : (s.cleanPages (s.plot s.th.plot)).any
      (fun x => decide ((s.th.sreg a).toNat ≤ x ∧ x < (s.th.sreg a).toNat + 4096)) = false := by
    refine List.any_eq_false.mpr fun f mem => ?_
    have := dirty f mem
    simp
    omega
  change execPgfree a s = _
  rw [execPgfree, State.issue_free priv.issueFree, State.fenceWaits_clear clear, ← State.unwaited]
  simp only [State.cur_unwaited, State.plotOf_unwaited, State.plot_unwaited, State.sreg_unwaited, State.cleanPages_unwaited, size,
    frame, pageBits, show 2 ^ 12 = 4096 from rfl, clean, owned, free, aligned, Nat.not_le.mpr low]
  rfl

/-! What leaves by a gate changes neither agents nor cores nor plots. -/

/-- Only gates and the reads that are out differ. -/
def Outward (s t : State) : Prop := t = { s with gates := t.gates, asks := t.asks }

theorem Outward.refl (s : State) : Outward s s := rfl

theorem Outward.trans {s t u : State} (h : Outward s t) (k : Outward t u) : Outward s u := by
  rw [Outward] at *
  rw [k, h]

theorem Outward.foldl {α : Type} (s : State) (xs : List α) {f : State → α → State} (step : ∀ u x, Outward u (f u x)) :
    Outward s (xs.foldl f s) :=
  List.foldlRecOn (motive := Outward s) xs f (.refl s) fun u h x _ => h.trans (step u x)

theorem Outward.leaves (s : State) (plot pa : Nat) (bs : List Byte) : Outward s (s.leaves plot pa bs) := s.leaves_rest plot pa bs

theorem Outward.poolLeaves (s : State) (plot : Nat) (p : Plot) (pages : List Nat) : Outward s (s.poolLeaves plot p pages) := by
  unfold State.poolLeaves
  split
  · exact .refl s
  · exact .foldl s _ fun u _ => .leaves u _ _ _

theorem Outward.frameLeaves (s : State) (plot a n : Nat) : Outward s (s.frameLeaves plot a n) := by
  unfold State.frameLeaves
  split
  · exact .foldl s _ fun u _ => .leaves u _ _ _
  · exact .refl s

theorem Outward.cur {s t : State} (h : Outward s t) : t.cur = s.cur := by rw [Outward] at h; rw [h]

theorem Outward.thread {s t : State} (h : Outward s t) (k : Nat) : t.thread k = s.thread k := by
  rw [Outward] at h; rw [h]; rfl

theorem Outward.plot {s t : State} (h : Outward s t) (k : Nat) : t.plot k = s.plot k := by
  rw [Outward] at h; rw [h]; rfl

/-- A frame of memory of the plot has been given out. -/
def State.framed (s : State) (f : Nat) : State :=
  (s.withMem (s.mem.setPool (s.plot s.th.plot) false (pagesOf f 0))).poolLeaves s.th.plot (s.plot s.th.plot) (pagesOf f 0)

/-- Without a hint the lowest clean page is given out. -/
theorem execPgalloc_gives {s : State} {d : SReg} {f : Nat} (priv : Privileged s [d]) (asks : s.th.sreg d = 0x7FF00)
    (least : (framesIn (s.plot s.th.plot) (s.cleanPages (s.plot s.th.plot)) 0).min? = some f)
    (noHome : (framesIn (s.plot s.th.plot) (s.cleanPages (s.plot s.th.plot)) 0).filter
      (fun q => homeOf s.mem.cxlSize q == 0x7FF) = []) :
    exec (.pgalloc d) s = .next ((s.framed f).finish d (BitVec.ofNat 64 f)) := by
  have plot : s.plotOf s.cur = s.th.plot := rfl
  change execPgalloc d s = _
  rw [execPgalloc, State.issue_free priv.issueFree]
  simp only [asks, plot, show (0x7FF00 : Word).toNat = 0x7FF00 from rfl, show 0x7FF00 % 8 = 0 from rfl,
    show 0x7FF00 / 256 % 2 ^ 11 = 0x7FF from rfl, noHome, List.min?_nil, Option.none_or, least]
  exact congrArg Host.Outcome.next (if_neg (by decide))

/-! ### Lending and recall (R328, R329) -/

/-- A cluster is scrubbed: cores differ, and the agents of its cores are gone. -/
theorem State.scrubCluster_rest (s : State) (k : Nat) :
    s.scrubCluster k = { s with
      cores := (s.scrubCluster k).cores
      threads := s.threads.filter (fun t => isSysKey t.1 || !(clusterTiles k).contains (t.1 / 32)) } := by
  have scrubbed : ∃ cs, (clusterTiles k).foldl (fun s' c => s'.setCore c {}) s = { s with cores := cs } :=
    List.foldlRecOn (motive := fun u => ∃ cs, u = { s with cores := cs }) _ _ ⟨_, rfl⟩
      fun u ⟨_, same⟩ c _ => ⟨_, by rw [same]; rfl⟩
  obtain ⟨cs, same⟩ := scrubbed
  simp only [State.scrubCluster, same]
  rfl

theorem State.thread_scrubCluster {s : State} {key : Nat} (sys : isSysKey key = true) (k : Nat) :
    (s.scrubCluster k).thread key = s.thread key := by
  rw [State.thread, State.scrubCluster_rest]
  exact congrArg (Option.getD · _)
    ((fget?_filter s.threads (fun j => isSysKey j || !(clusterTiles k).contains (j / 32)) key).trans (if_pos (by rw [sys]; rfl)))

@[simp] theorem State.plot_scrubCluster (s : State) (k p : Nat) : (s.scrubCluster k).plot p = s.plot p := by
  rw [State.scrubCluster_rest]; rfl

@[simp] theorem State.cur_scrubCluster (s : State) (k : Nat) : (s.scrubCluster k).cur = s.cur := by
  rw [State.scrubCluster_rest]

/-- An idle cluster of the plot that a neighbour may borrow is scrubbed and lent. -/
theorem execLend_lends {s : State} {a b : SReg} {k who limit : Nat} (priv : Privileged s [a, b]) (cluster : (s.th.sreg a).toNat = k)
    (borrower : (s.th.sreg b).toNat % 64 = who) (time : (s.th.sreg b).toNat / 2 ^ 32 = limit) (inside : k < 256)
    (plain : (s.th.sreg b).toNat / 64 % 2 ^ 26 = 0) (long : 65536 ≤ limit) (own : (s.plot s.th.plot).clusters.contains k = true)
    (here : ∀ l ∈ (s.plot s.th.plot).lends, l.cluster ≠ k) (idle : s.clusterIdle k = true)
    (near : (s.plot who).clusters.any (clusterEdge k) = true) (allowed : s.board.lendOk.contains (s.th.plot, who) = true) :
    exec (.lend a b) s = .next (((s.scrubCluster k).modPlot s.th.plot (fun p =>
      { p with lends := p.lends.filter (fun l => l.cluster != k) ++ [{ cluster := k, borrower := who, limit := limit }] })).modPlot who
        (fun p => { p with borrowed := p.borrowed ++ [k] })).advance := by
  have notLent : (s.plot s.th.plot).lends.any (fun l => l.cluster == k && !l.back) = false :=
    List.any_eq_false.mpr fun l mem => by simp [here l mem]
  have plot : s.plotOf s.cur = s.th.plot := rfl
  change execLend a b s = _
  rw [execLend, State.issue_free priv.issueFree]
  simp only [cluster, borrower, time, plain, plot, own, notLent, idle, near, allowed, Nat.not_le.mpr inside, Nat.not_lt.mpr long]
  rfl

/-- The recall of a cluster that has come back is over. -/
theorem execRecall_back {s : State} {a : SReg} {l : Lent} (priv : Privileged s [a])
    (lent : (s.plot s.th.plot).lends.find? (fun l => l.cluster == (s.th.sreg a).toNat) = some l) (back : l.back = true) :
    exec (.recall a) s = .next (s.modPlot s.th.plot (fun p =>
      { p with lends := p.lends.filter (fun x => x.cluster != (s.th.sreg a).toNat) })).advance := by
  have plot : s.plotOf s.cur = s.th.plot := rfl
  change execRecall a s = _
  rw [execRecall, State.issue_free priv.issueFree]
  simp only [plot, lent, back, if_true]

/-! ### `wfe` and `iret` (R333) -/

theorem Privileged.issueAny {s : State} {names : List SReg} (h : Privileged s names) : s.Free systemAny names :=
  ⟨⟨by rw [State.admits, h.core]; rfl, h.issues⟩, h.free⟩

/-- With a cause due `wfe` goes on. -/
theorem execWfe_due {s : State} (priv : Privileged s []) (due : s.th.sys.ipend &&& s.th.sys.ien ≠ 0) :
    exec .wfe s = .next (s.setWait .none).advance := by
  change execWfe s = _
  rw [execWfe, State.issue_free priv.issueAny]
  exact congrArg Host.Outcome.next (if_neg due)

/-- `iret` goes back to an aligned IPC. -/
theorem execIret_returns {s : State} (priv : Privileged s []) (aligned : s.th.sys.ipc.toNat % 4 = 0) :
    exec .iret s = .next ((s.modThread s.cur (fun t => { t with counters := bumpMap t.counters 0 1 })).returnInterrupt s.cur) := by
  change execIret s = _
  rw [execIret, State.issue_free priv.issueFree]
  exact congrArg Host.Outcome.next (if_neg (not_not.mpr aligned))

/-! ### Tile records, `trig` and `cnt` (R367, R372, R373) -/

/-- What only groups execute issues as what sprouts do not. -/
theorem State.Free.ofGroup {s : State} {names fewer : List SReg} (free : s.Free groupOnly names) (sub : ∀ r ∈ fewer, r ∈ names) :
    isSysKey s.cur = false ∧ s.Free notSprout fewer := by
  obtain ⟨⟨admits, issues⟩, noHold⟩ := free
  have group : isSysKey s.cur = false ∧ isSproutKey s.cur = false := by
    unfold State.admits groupOnly at admits
    cases sys : isSysKey s.cur <;> cases sprout : isSproutKey s.cur <;> simp [sys, sprout] at admits ⊢
  refine ⟨group.1, ⟨?_, ?_⟩, noHold⟩
  · simp [State.admits, group, notSprout]
  · simp only [Thread.canIssue, Bool.and_eq_true, Bool.not_eq_true'] at issues ⊢
    exact ⟨issues.1, List.any_eq_false.mpr fun r mem => List.any_eq_false.mp issues.2 r (sub r mem)⟩

/-- The record that a tile of the running group begins with (Table 11.9). -/
def State.openedTile (s : State) (label : Word) : TileRec :=
  { label := label, opened := s.cycle, group := ctxOfKey s.cur, place := coreOfKey s.cur }

section TileRecords

variable {s : State} {a : SReg} {b : Block} {tile : TileReg} (free : s.Free groupOnly [a]) (block : s.blockOf s.cur = some b)
  (own : tile.val < b.launch.tiles)

include free block own

/-- A tile record instruction of a group that has the tile issues. -/
theorem State.tileIssue_group {names : List SReg} (sub : ∀ r ∈ names, r ∈ [a]) (body : State → State) :
    s.tileIssue tile names body = body s := by
  obtain ⟨group, issues⟩ := free.ofGroup sub
  have tiles : ¬ (s.launchOf s.cur).tiles ≤ tile.val := by rw [State.launchOf, block]; exact Nat.not_le.mpr own
  rw [State.tileIssue, State.issue_free issues, if_neg (by rw [group]; exact Bool.false_ne_true), if_neg tiles]

theorem execTileOpen_opens : exec (.tileOpen tile a) s =
    .next (s.modBlock (coreOfKey s.cur) (fun b =>
      { b with recs := fset b.recs tile.val (s.openedTile (s.th.sreg a)) })).advance := by
  change execTileOpen tile a s = _
  rw [execTileOpen, State.tileIssue_group free block own fun _ mem => mem]
  rfl

variable (idle : (s.core (coreOfKey s.cur)).mops = [])

include idle

theorem execTileClose_none (none' : fget? b.recs tile.val = none) : exec (.tileClose tile) s = .next (s.setWait .none).advance := by
  have record : (s.core (coreOfKey s.cur)).block.bind (fun b => fget? b.recs tile.val) = none := by
    rw [State.blockOf] at block; rw [block]; exact none'
  change execTileClose tile s = _
  rw [execTileClose, State.tileIssue_group free block own (by simp)]
  simp only [idle, List.any_nil, Bool.false_eq_true, if_false, record]

theorem execTileClose_writes {r : TileRec} (open' : fget? b.recs tile.val = some r) : exec (.tileClose tile) s =
    .next ((((s.setWait .none).putRec s.th.plot (r.bytes tile.val s.cycle)).modBlock (coreOfKey s.cur) (fun b =>
      { b with recs := ferase b.recs tile.val })).advance) := by
  have record : (s.core (coreOfKey s.cur)).block.bind (fun b => fget? b.recs tile.val) = some r := by
    rw [State.blockOf] at block; rw [block]; exact open'
  change execTileClose tile s = _
  rw [execTileClose, State.tileIssue_group free block own (by simp)]
  simp only [idle, List.any_nil, Bool.false_eq_true, if_false, record]
  rfl

end TileRecords

/-- With room in its ring a record is written there. -/
theorem State.putRec_room {s : State} {plot : Nat} (room : (s.plot plot).trec.room = true) (bs : List Byte) :
    s.putRec plot bs = (s.put plot ((s.plot plot).trec.at 64) bs).modPlot plot (fun p =>
      { p with trec := { p.trec with head := p.trec.head + 1 } }) := by
  rw [State.putRec]
  exact if_pos room

/-- A trigger of the software kind fires, and no other does. -/
theorem execTrig_cases {s : State} (free : s.Free notSprout []) (n : Fin 16) : exec (.trig n) s =
    .next (if (fgetD (s.plot s.th.plot).trig n.val 0).toNat % 16 = 1 then s.fireTrig s.th.plot n.val else s).advance := by
  have field : trigField (fgetD (s.plot s.th.plot).trig n.val 0) 0 4 = (fgetD (s.plot s.th.plot).trig n.val 0).toNat % 16 := by
    simp [trigField]
  rw [← field]
  change execTrig n s = _
  rw [execTrig, State.issue_free free]
  rfl

/-- The fired bit of a trigger that stays armed. -/
theorem State.fired_fireTrig {s : State} {plot n : Nat} (stays : (fgetD (s.plot plot).trig n 0).getLsbD 8 = false) :
    (fgetD ((s.fireTrig plot n).plot plot).trig n 0).getLsbD 9 = true := by
  rw [State.fireTrig, State.plot_modPlot_self]
  simp only [fgetD_fset_self, stays, Bool.false_eq_true, if_false]
  simp

/-- Counter 0 of a system core counts its own instructions. -/
theorem State.counterOf_system {s : State} (sys : isSysKey s.cur = true) :
    s.counterOf s.cur 0 = BitVec.ofNat 64 (fgetD s.th.counters 0 0) := by
  have own : s.countKey s.cur = s.cur := by rw [State.countKey, isSproutKey, sys]; rfl
  simp [State.counterOf, sys, own, State.th]

/-! ### The instructions perform -/

/-- An outcome of an instruction gives what follows from it. -/
theorem Completes.mono {i : Instr} {s : State} {P Q : State → Prop} (h : Completes i s P) (weaker : ∀ t, P t → Q t) :
    Completes i s Q :=
  let ⟨t, run, holds⟩ := h
  ⟨t, run, weaker t holds⟩

/-- A happening completes with the effect of the step that it is. -/
theorem Completes.of_step {i : Instr} {s : State} {P : State → Prop} {step : State → Option State}
    (run : exec i s = .next ((step s).getD s)) (does : ∃ t, step s = some t ∧ P t) : Completes i s P :=
  let ⟨t, goes, holds⟩ := does
  ⟨t, exec_of_step run goes, holds⟩

/-- The agent that runs in a later state goes on. -/
theorem State.pc_advance_of {s t : State} (cur : t.cur = s.cur) (pc : (t.thread s.cur).pc = s.th.pc) :
    (t.advance.thread s.cur).pc = s.th.pc + 4 := by
  rw [← pc, ← cur]; exact t.pc_advance

theorem State.thread_finish_of {s t : State} (cur : t.cur = s.cur) (d : SReg) (v : Word) :
    (t.finish d v).thread s.cur = ((t.thread s.cur).setSreg d v).advance := by
  rw [← cur, State.finish, State.thread_modThread_self]

theorem State.pc_setWait (s : State) (w : TWait) : ((s.setWait w).thread s.cur).pc = s.th.pc := by
  rw [State.setWait, State.thread_modThread_self]; rfl

/-- A page is given out: its frame is in the register that the instruction names. -/
theorem State.framed_finish (s : State) (f : Nat) (d : SReg) (v : Word) :
    (((s.framed f).finish d v).thread s.cur).pc = s.th.pc + 4 ∧ (((s.framed f).finish d v).thread s.cur).sreg d = v := by
  have out : Outward (s.withMem (s.mem.setPool (s.plot s.th.plot) false (pagesOf f 0))) (s.framed f) := .poolLeaves _ _ _ _
  rw [State.thread_finish_of (s := s) out.cur, out.thread]
  exact ⟨rfl, Thread.sreg_setSreg_self _ _ _⟩

/-- A cluster is lent: its plot lists it, and the lender goes on. -/
theorem State.lent_advance {s : State} (sys : isSysKey s.cur = true) {k who plot : Nat} (away : plot ≠ who) (f g : Plot → Plot) :
    ((((s.scrubCluster k).modPlot plot f).modPlot who g).advance.thread s.cur).pc = s.th.pc + 4 ∧
      (((s.scrubCluster k).modPlot plot f).modPlot who g).advance.plot plot = f (s.plot plot) := by
  refine ⟨State.pc_advance_of (s.cur_scrubCluster k) ?_, ?_⟩
  · rw [State.thread_modPlot, State.thread_modPlot, State.thread_scrubCluster sys]; rfl
  · rw [State.advance, State.plot_modThread, State.plot_modPlot_ne _ _ away, State.plot_modPlot_self, State.plot_scrubCluster]

/-- A tile of the running group is open. -/
theorem State.opened_advance {s : State} {b : Block} (block : s.blockOf s.cur = some b) (f : Block → Block) :
    ((s.modBlock (coreOfKey s.cur) f).advance.thread s.cur).pc = s.th.pc + 4 ∧
      (s.modBlock (coreOfKey s.cur) f).advance.blockOf s.cur = some (f b) := by
  refine ⟨State.pc_advance_of rfl rfl, ?_⟩
  rw [State.blockOf] at block
  rw [State.advance, State.blockOf_modThread, State.blockOf, State.modBlock, State.core_modCore_self, block]
  rfl

/-- A tile record has been written. -/
theorem State.closed_advance {s : State} (room : (s.plot s.th.plot).trec.room = true) (bs : List Byte) (c : Nat) (f : Block → Block) :
    ((((s.setWait .none).putRec s.th.plot bs).modBlock c f).advance.thread s.cur).pc = s.th.pc + 4 ∧
      ((((s.setWait .none).putRec s.th.plot bs).modBlock c f).advance.plot s.th.plot).trec.head =
        (s.plot s.th.plot).trec.head + 1 := by
  rw [State.putRec_room (s := s.setWait .none) room]
  refine ⟨State.pc_advance_of ?_ ?_, ?_⟩
  · rw [State.put_rest]; rfl
  · rw [State.modBlock, State.thread_modCore, State.thread_modPlot, State.thread_put, State.pc_setWait]
  · rw [State.advance, State.plot_modThread, State.modBlock, State.plot_modCore, State.plot_modPlot_self, State.put_rest]
    rfl

theorem instructionsPerform : Claims.InstructionsPerform := by
  intro s d a b lw lh tile n c me p x y on
  refine ⟨fun free group => ⟨fun fresh clear => ?bsync, fun done => ?bsyncDone, fun k block inside =>
    ⟨fun fresh clear agree => ?rsync, fun done => ?rsyncDone⟩, ?idem⟩, fun priv fresh clear low aligned owned free dirty => ?pgfree,
    fun f priv asks least noHome => ?pgalloc, fun priv inside plain long away own here idle near allowed => ?lend,
    fun l priv lends cluster away back => ?recalled, fun priv due => ?wfe, fun priv aligned => ?iret,
    fun k free block own => ⟨?opens, fun idle none' => ?closes, fun r idle open' room => ?closeRecord⟩, ?trig,
    fun free sys complete => ?cnt⟩
  case bsync =>
    refine (completes_bsync_arrives free group fresh clear).mono fun t h => ?_
    rw [h.agent]; exact ⟨rfl, rfl⟩
  case bsyncDone =>
    refine (completes_bsync_released free group done).mono fun t h => ?_
    simp only [on, h.agent]; rfl
  case rsync =>
    refine (completes_rsync_arrives free block group fresh clear inside agree).mono fun t h => ?_
    rw [h.agent]; exact ⟨rfl, rfl⟩
  case rsyncDone =>
    refine (completes_rsync_released free block group done inside).mono fun t h => ?_
    simp only [on, h.agent]; rfl
  case idem =>
    refine ⟨_, execIdem_group free group, ?_⟩
    simp only [on, State.thread_modThread_self]
    exact ⟨rfl, _, rfl, rfl, rfl⟩
  case pgfree =>
    have done := State.unwaited_setPlot_advance fresh { p with scrub := p.scrub ++ [⟨x, 0⟩] }
    refine ⟨_, execPgfree_queues priv clear low aligned owned free dirty, ?_, by rw [done.record]⟩
    simp only [on]; rw [done.agent]
  case pgalloc => exact ⟨_, execPgalloc_gives priv asks least noHome, s.framed_finish _ _ _⟩
  case lend =>
    have kept : p.lends.filter (fun l => l.cluster != x) = p.lends := List.filter_eq_self.mpr fun l mem => by simpa using here l mem
    obtain ⟨pc, record⟩ := State.lent_advance priv.core (k := x) (Ne.symm away) (fun p =>
      { p with lends := p.lends.filter (fun l => l.cluster != x) ++ [{ cluster := x, borrower := y % 64, limit := y / 2 ^ 32 }] })
      (fun p => { p with borrowed := p.borrowed ++ [x] })
    exact ⟨_, execLend_lends priv rfl rfl rfl inside plain long own here idle near allowed, pc,
      (congrArg Plot.lends record).trans (congrArg (· ++ _) kept)⟩
  case recalled =>
    have first : (s.plot s.th.plot).lends.find? (fun l => l.cluster == (s.th.sreg a).toNat) = some l := by
      rw [lends, List.find?_cons_of_pos (by simpa using cluster)]
    refine ⟨_, execRecall_back (priv.mono (by simp)) first back, State.pc_advance_of rfl rfl, ?_⟩
    rw [State.advance, State.plot_modThread, State.plot_modPlot_self, lends]
    simp [cluster, x]
  case wfe => exact ⟨_, execWfe_due priv due, State.pc_advance_of rfl (s.pc_setWait _)⟩
  case iret =>
    refine ⟨_, execIret_returns priv aligned, ?_⟩
    simp only [State.returnInterrupt, State.thread_modThread_self]
    exact ⟨rfl, rfl⟩
  case opens =>
    obtain ⟨pc, block'⟩ := State.opened_advance block (fun b => { b with recs := fset b.recs tile.val (s.openedTile (s.th.sreg a)) })
    exact ⟨_, execTileOpen_opens free block own, pc, _, block', fget?_fset_self _ _ _⟩
  case closes =>
    exact ⟨_, execTileClose_none free block own idle none',
      State.pc_advance_of rfl (s.pc_setWait _)⟩
  case closeRecord => exact ⟨_, execTileClose_writes free block own idle open', State.closed_advance room _ _ _⟩
  case trig =>
    refine fun free => ⟨fun other => ?_, fun soft stays => ?_⟩
    · exact ⟨_, execTrig_cases free n, by rw [if_neg other]; exact State.pc_advance_of rfl rfl⟩
    · refine ⟨_, execTrig_cases free n, ?_⟩
      rw [if_pos soft]
      exact ⟨State.pc_advance_of rfl rfl, State.fired_fireTrig stays⟩
  case cnt =>
    refine ⟨_, congrArg Host.Outcome.next (State.issue_free free _), ?_⟩
    simp only [on, State.thread_finish_of rfl]
    exact ⟨rfl, (Thread.sreg_setSreg_self _ _ _).trans (State.counterOf_system sys)⟩

end Sys2Proof.Machine

namespace Sys2Proof.Machine

open Sys2Proof

/-! ### The deadline of a recall ends what has not drained (R329) -/

/-- The block of a core, where it still stands, is the same with at least the groups gone that were. -/
def Outlasts (s t : State) (j : Nat) : Prop :=
  ∀ y, (t.core j).block = some y → ∃ x, (s.core j).block = some x ∧ y.launch = x.launch ∧ ∀ g ∈ x.gone, g ∈ y.gone

/-- A writer that takes or leaves its place changes no core. -/
theorem State.cores_leave (s : State) (w : Writer) : (s.leave w).cores = s.cores := by
  unfold State.leave
  split <;> rfl

theorem State.cores_join (s : State) (w : Writer) (pa : Nat) : ((s.join w pa).getD s).cores = s.cores := by
  unfold State.join
  dsimp only
  split
  · rfl
  · exact s.cores_leave w

namespace Outlasts

variable {s t u : State} {j : Nat}

theorem refl (s : State) (j : Nat) : Outlasts s s j := fun y block => ⟨y, block, rfl, fun _ h => h⟩

theorem trans (h : Outlasts s t j) (k : Outlasts t u j) : Outlasts s u j := by
  intro z block
  obtain ⟨y, block, launch, gone⟩ := k z block
  obtain ⟨x, block, launch', gone'⟩ := h y block
  exact ⟨x, block, launch.trans launch', fun g mem => gone g (gone' g mem)⟩

theorem of_block (h : (t.core j).block = (s.core j).block) : Outlasts s t j := fun y block =>
  ⟨y, h ▸ block, rfl, fun _ h => h⟩

theorem of_cores (h : t.cores = s.cores) : Outlasts s t j := of_block (by rw [State.core, h]; rfl)

theorem modCore (s : State) (c : Nat) {f : Core → Core} (same : ∀ x, (f x).block = x.block) : Outlasts s (s.modCore c f) j := by
  refine of_block ?_
  by_cases own : j = c
  · rw [own, State.core_modCore_self, same]
  · rw [State.core_modCore_ne _ _ own]

theorem modBlock (s : State) (c : Nat) {f : Block → Block} (launch : ∀ b, (f b).launch = b.launch)
    (gone : ∀ b, ∀ g ∈ b.gone, g ∈ (f b).gone) : Outlasts s (s.modBlock c f) j := by
  by_cases own : j = c
  · intro y block
    rw [own, State.modBlock, State.core_modCore_self, Option.map_eq_some_iff] at block
    obtain ⟨x, block, rfl⟩ := block
    exact ⟨x, own ▸ block, launch x, gone x⟩
  · exact of_block (by rw [State.modBlock, State.core_modCore_ne _ _ own])

theorem foldl {α : Type} (s : State) (xs : List α) {f : State → α → State} (step : ∀ u x, Outlasts u (f u x) j) :
    Outlasts s (xs.foldl f s) j :=
  List.foldlRecOn (motive := fun u => Outlasts s u j) xs f (refl s j) fun u h x _ => h.trans (step u x)

theorem reapBlock (s : State) (c : Nat) : Outlasts s (s.reapBlock c) j := by
  unfold State.reapBlock
  split
  · exact refl s j
  · split
    · exact refl s j
    · intro y block
      by_cases own : j = c
      · rw [own, State.core_modPlot, State.core_modCore_self] at block; cases block
      · rw [State.core_modPlot, State.core_modCore_ne _ _ own] at block
        exact ⟨y, block, rfl, fun _ h => h⟩

theorem leaveHandler (s : State) (c g : Nat) : Outlasts s (s.leaveHandler c g) j := by
  refine trans (t := s.resumeSiblings c g) ?_ (modBlock _ _ (fun _ => rfl) fun _ _ h => h)
  refine foldl s _ fun u x => ?_
  dsimp only
  split
  · exact of_cores rfl
  · exact refl u j

theorem endGroup (s : State) (key : Nat) : Outlasts s (s.endGroup key) j :=
  trans (of_cores rfl) (modBlock _ _ (fun _ => rfl) fun _ _ mem => mem_insNat.mpr (.inr mem))

theorem gendOf (s : State) (key : Nat) : Outlasts s (s.gendOf key) j := by
  refine trans ?_ (reapBlock _ _)
  split
  · exact (endGroup s key).trans (leaveHandler _ _ _)
  · exact endGroup s key

theorem abandon (s : State) (key : Nat) (cause : BitVec 8) : Outlasts s (s.abandon key cause) j := by
  unfold State.abandon State.dropSprout State.countBlock
  refine trans (trans (of_cores (t := { s with threads := ferase s.threads key }) rfl) (modCore _ _ fun _ => ?_))
    (modBlock _ _ (fun _ => ?_) fun _ _ h => ?_)
  exacts [rfl, rfl, h]

theorem abandonLate (s : State) (c : Nat) : Outlasts s (s.abandonLate c) j := by
  refine foldl s _ fun u i => ?_
  dsimp only
  split
  · exact abandon u _ _
  · exact refl u j

theorem owe (s : State) (plot : Nat) (kind : OwedKind) (pa : Nat) (bs : List Byte) : Outlasts s (s.owe plot kind pa bs) j := by
  have put (o : Owed) : (s.put plot o.pa o.bytes).cores = s.cores := by rw [State.put_rest]
  unfold State.owe
  dsimp only
  split
  · refine of_cores ?_
    unfold State.pay
    cases kind <;> exact put _
  · exact of_cores (s.cores_join _ _)

theorem faultLog (s : State) (plot : Nat) (bs : List Byte) : Outlasts s (s.faultLog plot bs) j := by
  unfold State.faultLog
  dsimp only
  split
  · exact owe s _ _ _ _
  · exact of_cores rfl

theorem endUnsaved (s : State) (c g : Nat) : Outlasts s (s.endUnsaved c g) j := by
  unfold State.endUnsaved
  split
  · exact refl s j
  · split
    · exact refl s j
    · exact (trans (of_cores (t := s.drawn 1) rfl) (faultLog _ _ _)).trans (gendOf _ _)

end Outlasts

/-- A group that has been ended is gone from its block. -/
theorem State.gone_endGroup {s : State} {key : Nat} {y : Block} (block : ((s.endGroup key).core (coreOfKey key)).block = some y) :
    ctxOfKey key ∈ y.gone := by
  rw [State.endGroup, State.modBlock, State.core_modCore_self, Option.map_eq_some_iff] at block
  obtain ⟨x, _, rfl⟩ := block
  exact mem_insNat.mpr (.inl rfl)

theorem State.gone_gendOf {s : State} {key : Nat} {y : Block} (block : ((s.gendOf key).core (coreOfKey key)).block = some y) :
    ctxOfKey key ∈ y.gone := by
  have later : Outlasts (s.endGroup key) (s.gendOf key) (coreOfKey key) := by
    refine .trans ?_ (.reapBlock _ _)
    split
    · exact .leaveHandler _ _ _
    · exact .refl _ _
  obtain ⟨x, before, _, gone⟩ := later y block
  exact gone _ (State.gone_endGroup before)

/-- A group that the deadline ends is gone from its block, where the block still stands. -/
theorem State.gone_endUnsaved {s : State} {c g : Nat} (low : g < 16) {y : Block} (block : ((s.endUnsaved c g).core c).block = some y) :
    g ∈ y.gone := by
  unfold State.endUnsaved at block
  dsimp only at block
  split at block
  · next empty => rw [empty] at block; cases block
  · next b own =>
    split at block
    · next gone =>
      rw [own] at block
      cases block
      exact List.contains_iff_mem.mp gone
    · have core : coreOfKey (groupKey c g) = c := by unfold coreOfKey groupKey; omega
      have ctx : ctxOfKey (groupKey c g) = g := by unfold ctxOfKey groupKey; omega
      exact ctx ▸ State.gone_gendOf (key := groupKey c g) (by rw [core]; exact block)

/-- What the deadline ends of a core, up to some group. -/
theorem State.gone_endUnsaved_range (s : State) (c n : Nat) {g : Nat} (low : g < 16) (group : g < n) {y : Block}
    (block : (((List.range n).foldl (fun s' g => s'.endUnsaved c g) s).core c).block = some y) : g ∈ y.gone := by
  induction n generalizing y with
  | zero => cases group
  | succ n ih =>
    rw [List.range_succ, List.foldl_append] at block
    by_cases last : g = n
    · subst last; exact State.gone_endUnsaved low block
    · obtain ⟨x, before, _, gone⟩ := Outlasts.endUnsaved _ c n y block
      exact gone g (ih (by omega) before)

/-- Every group of the block on a core is gone after the deadline, where the block still stands. -/
theorem State.gone_endLate {s : State} {c g : Nat} {b y : Block} (own : (s.core c).block = some b) (low : g < 16)
    (group : g < b.launch.groups) (block : ((s.endLate c).core c).block = some y) : g ∈ y.gone := by
  rw [State.endLate, own] at block
  exact State.gone_endUnsaved_range _ c _ low group block

/-- The deadline of a recall ends what has not drained on the one core of its cluster that is late. -/
theorem execRecallDeadline_ends {s : State} {l : Lent} {j : Nat}
    (late : (s.plot s.subj.ag).lends.find? (fun l => !l.back && l.recalling.elim false (fun t => decide (t ≤ s.cycle))) = some l)
    (one : (clusterTiles l.cluster).filter (fun c => !s.coreDrained c && (s.core c).block.elim false Block.lives) = [j])
    (none' : ∀ q ∈ clusterTiles l.cluster, (s.core q).parked = []) :
    exec .recallDeadline s = .next (s.endLate j) := by
  have behind : (clusterTiles l.cluster).flatMap (fun c =>
      ((s.core c).parked.filter (fun q => !q.drained && q.block.lives)).map (fun q => (c, q))) = [] :=
    List.flatMap_eq_nil_iff.mpr fun c mem => by rw [none' c mem]; rfl
  refine exec_of_step (step := recallDeadlineStep) rfl ?_
  simp only [recallDeadlineStep, late, one, behind]
  rfl

/-! ### The scrubber (R322) -/

/-- The scrubber of the die of the first frame in a queue takes it. -/
theorem scrubFrameStep_first {s : State} {q : ScrubItem} {rest : List ScrubItem} (queue : (s.plot s.subj.ag).scrub = q :: rest)
    (die : s.scrubDie q = s.subj.n) : ∃ t, scrubFrameStep s = some t ∧ (t.plot s.subj.ag).scrub = rest := by
  have first : (q :: rest).findIdx? (fun q => s.scrubDie q == s.subj.n) = some 0 := by
    rw [List.findIdx?_cons, if_pos (by simpa using die)]
  simp only [scrubFrameStep, queue, first, List.getElem?_cons_zero]
  refine ⟨_, rfl, ?_⟩
  rw [((Outward.frameLeaves _ _ _ _).trans (.poolLeaves _ _ _ _)).plot, State.plot_modPlot_self]
  change (s.plot s.subj.ag).scrub.eraseIdx 0 = rest
  rw [queue]
  rfl

/-! ### Interrupts (R311) -/

/-- An interrupt cause is no longer pending. -/
def Thread.causeTaken (i : Nat) (t : Thread) : Thread :=
  { t with sys := { t.sys with ipend := t.sys.ipend &&& ~~~(BitVec.ofNat 32 (2 ^ i)), vals := ferase t.sys.vals i } }

/-- The lowest cause, where it is due, interrupts a system core. -/
theorem execInterruptEntry_lowest {s : State} (sys : isSysKey s.subj.ag = true) (there : (fget? s.threads s.subj.ag).isSome = true)
    (mode : (s.thread s.subj.ag).sys.smode = 3) (fresh : (s.thread s.subj.ag).wait = .none)
    (runs : (s.thread s.subj.ag).status = .running) (refs : (s.thread s.subj.ag).win.any (·.ref) = false)
    (resolved : (s.thread s.subj.ag).spec = none)
    (due : ((s.thread s.subj.ag).sys.ipend &&& (s.thread s.subj.ag).sys.ien).getLsbD 0 = true) :
    exec .interruptEntry s = .next ((s.modThread s.subj.ag (Thread.causeTaken 0)).enterInterrupt s.subj.ag (s.thread s.subj.ag).pc 0x30
      (fgetD (s.thread s.subj.ag).sys.vals 0 0)) := by
  have lowest : lowestBit (s.thread s.subj.ag).sys.due = some 0 := by
    rw [lowestBit, show List.range 32 = 0 :: (List.range 31).map (· + 1) from rfl, List.find?_cons_of_pos (by exact due)]
  have enabled : (s.thread s.subj.ag).sys.smode.getLsbD 1 = true := by rw [mode]; rfl
  have same : (s.modThread s.subj.ag (Thread.causeTaken 0)).unspec s.subj.ag = s.modThread s.subj.ag (Thread.causeTaken 0) := by
    rw [State.unspec, State.modThread, State.thread_modThread_self, Thread.unspec_of_none (by exact resolved)]
    simp only [State.modThread, State.setThread, fset_fset]
  refine exec_of_step (step := interruptEntryStep) rfl ?_
  simp only [interruptEntryStep, sys, Option.isNone_eq_false_iff.mpr there, enabled, fresh, refs, runs, lowest,
    Thread.unspec_of_none resolved]
  exact congrArg (fun u : State => some (u.enterInterrupt s.subj.ag _ _ _)) same

/-! ### The queue of launches (R272–R277) -/

/-- A launch is the same as itself. -/
theorem Launch.same_self (l : Launch) : l.same l = true := by simp [Launch.same]

/-- A launch that has waited long enough moves up a level (R273). -/
def Launch.aged (l : Launch) (cycle : Nat) : Launch :=
  if l.due cycle then { l with level := l.level + 1, since := l.since + 2 ^ 20 } else l

/-- The launches of a plot age, where one is due. -/
theorem execLaunchAging_due {s : State} (due : ((s.plot s.subj.ag).waiting ++ (s.plot s.subj.ag).spilled).any (·.due s.cycle) = true) :
    exec .launchAging s = .next (s.modPlot s.subj.ag (fun p =>
      { p with waiting := p.waiting.map (·.aged s.cycle), spilled := p.spilled.map (·.aged s.cycle) })) := by
  refine exec_of_step (step := launchAgingStep) rfl ?_
  simp only [launchAgingStep, due, if_true]
  rfl

/-- The one spilled launch of a level with room goes to the hardware queue. -/
theorem execOverflowRefill_one {s : State} {l : Launch}
    (room : (s.plot s.subj.ag).levelCount (s.plot s.subj.ag).vfCur s.subj.n < 64) (queue : (s.plot s.subj.ag).spilled = [l])
    (own : l.vf = (s.plot s.subj.ag).vfCur) (level : l.level = s.subj.n) :
    exec .overflowRefill s = .next (s.modPlot s.subj.ag (fun p =>
      { p with spilled := p.spilled.filter (fun x => !x.same l), waiting := p.waiting ++ [s.respilled s.subj.ag l] })) := by
  have oldest : (s.plot s.subj.ag).oldest ([l].filter (fun l => l.vf == (s.plot s.subj.ag).vfCur && l.level == s.subj.n)) = some l := by
    simp [own, level, Plot.oldest]
  refine exec_of_step (step := overflowRefillStep) rfl ?_
  simp only [overflowRefillStep, Nat.not_le.mpr room, if_false, queue, oldest, Option.map_some]

theorem State.seq_respilled (s : State) (plot : Nat) (l : Launch) : (s.respilled plot l).seq = l.seq := by
  unfold State.respilled
  dsimp only
  split <;> rfl

/-- A core with no block, before it takes one. -/
theorem State.claimCore_empty {s : State} {c : Nat} (empty : (s.core c).block = none) (alone : (s.core c).parked = []) (plot : Nat)
    (claims : List (Nat × Nat)) :
    s.claimCore c plot claims =
      ({ s with threads := s.threads.filter (fun t => decide (t.1 / 32 ≠ c)) } : State).modCore c (fun x => { x with parked := [] }) := by
  simp only [State.claimCore, empty, alone, List.foldl_nil]

/-- The agents of a block are set at their start. -/
theorem State.foldl_setThread_rest {α : Type} (s : State) (xs : List α) (key : α → Nat) (x : α → Thread) :
    xs.foldl (fun s' g => s'.setThread (key g) (x g)) s =
      { s with threads := (xs.foldl (fun s' g => s'.setThread (key g) (x g)) s).threads } :=
  List.foldlRecOn (motive := fun (u : State) => u = { s with threads := u.threads }) xs _ rfl fun u same g _ => by
    rw [same]; rfl

/-- The block that starts on a core. -/
def State.newBlock (s : State) (l : Launch) (o : Nat × Nat) (n : Nat) : Block :=
  { id := s.nextBlock, launch := l, slot := lowestFree (s.slotsOf l.plot), blockId := n, x0 := o.1, y0 := o.2 }

theorem State.block_startBlock (s : State) (l : Launch) (o : Nat × Nat) (c n : Nat) :
    ((s.startBlock l o c n).core c).block = some (s.newBlock l o n) := by
  rw [State.startBlock, State.foldl_setThread_rest]
  simp only [State.core, State.modCore, State.setCore, fgetD_fset_self]
  rfl

/-- A block that starts on an empty core changes no plot. -/
theorem State.plot_startBlock {s : State} {c : Nat} (empty : (s.core c).block = none) (alone : (s.core c).parked = []) (l : Launch)
    (o : Nat × Nat) (n p : Nat) : (s.startBlock l o c n).plot p = s.plot p := by
  rw [State.startBlock, State.foldl_setThread_rest, State.claimCore_empty empty alone]
  rfl

/-- A launch of one tile is placed. -/
theorem execLaunchPlacement_one {s : State} {l : Launch} {o : Nat × Nat} {j : Nat} (runs : (s.plot s.subj.ag).stopped = false)
    (alone : (s.plot s.subj.ag).pair = none) (next : (s.plot s.subj.ag).candidates.find? (s.plot s.subj.ag).eligible = some l)
    (origin : l.origins.find? (fun o => s.qualifies s.subj.ag l o) = some o) (new : l.head = false) (tile : l.tilesAt o = [j]) :
    exec .launchPlacement s = .next ((s.modPlot s.subj.ag (fun p =>
      { p with
        waiting := p.waiting.filter (fun x => x.seq != l.seq)
        running := p.running ++ [{ l with head := false }]
        vfs := fmod p.vfs l.vf (fun v => { v with missing := [] }) })).startBlock l o j 0) := by
  refine exec_of_step (step := launchPlacementStep) rfl ?_
  simp only [launchPlacementStep, runs, next, origin, alone, tile, State.placeAt, new]
  rfl

/-- The one running launch, of which no block stands and which signals nothing, is complete. -/
theorem execLaunchCompletion_silent {s : State} {l : Launch} (one : (s.plot s.subj.ag).running = [l]) (named : l.seq.toNat = s.subj.n)
    (primary : s.subj.flag = false) (own : l.copy = false) (ended : s.launchLive l = false) (silent : l.compKind = 0) :
    exec .launchCompletion s = .next (s.modPlot s.subj.ag (fun p => { p with running := p.running.filter (fun x => !x.same l) })) := by
  have found : [l].find? (fun l => l.seq.toNat == s.subj.n && l.copy == s.subj.flag) = some l := by
    simp [named, primary, own]
  refine exec_of_step (step := launchCompletionStep) rfl ?_
  simp only [launchCompletionStep, one, found, ended, own, silent]
  rfl

theorem agentHappeningsPerform : Claims.AgentHappeningsPerform := by
  intro s k x p c
  refine ⟨fun off own waits all => ?barrier, fun r there quiet runs refs resolved region => ?parity,
    fun b block usable latency empty apart drain drained => ?migration, fun q rest queue die => ?scrub,
    fun l j b late one none' block => ?deadline, fun sys there mode fresh runs refs resolved due => ?interrupt,
    fun l queue none' level since => ?aging, fun l room queue own level owed => ?refill,
    fun l o j runs alone next origin new tile empty none' => ?placement, fun l one named primary own ended silent => ?completion⟩
  case barrier =>
    refine ((barriersComplete s off).1 waits own all).mono fun t ⟨released, _⟩ => ?_
    rw [released k own waits rfl]
  case parity =>
    exact ((idempotentRegions.2 s there quiet runs refs resolved).1 r region).mono fun t ⟨pc, mask, closed, _⟩ => ⟨pc, mask, closed⟩
  case migration =>
    exact (blockMigrates s b block usable latency empty apart drain drained).mono
      fun t ⟨⟨y, there, launch, _, id, _⟩, left, _⟩ => ⟨left, y, there, launch, id⟩
  case scrub =>
    exact Completes.of_step (step := scrubFrameStep) rfl (scrubFrameStep_first queue die)
  case deadline =>
    exact ⟨_, execRecallDeadline_ends late one none', fun y there g low group =>
      List.contains_iff_mem.mpr (State.gone_endLate block low group there)⟩
  case interrupt =>
    have entered := (s.modThread k (Thread.causeTaken 0)).enterInterrupt_interrupted k x.pc 0x30 (fgetD x.sys.vals 0 0)
    have before := s.thread_modThread_self k (Thread.causeTaken 0)
    refine ⟨_, execInterruptEntry_lowest sys there mode fresh runs refs resolved due, ?_, entered.ipc, entered.icause, entered.smode, ?_⟩
    · rw [entered.next, before]; rfl
    · rw [entered.imode, before]; exact mode
  case aging =>
    have due : l.due s.cycle = true := by rw [Launch.due, decide_eq_true level, decide_eq_true since]; rfl
    refine ⟨_, execLaunchAging_due (by rw [queue, none']; simp [due]), ?_⟩
    dsimp only
    rw [State.plot_modPlot_self, queue, List.map_singleton, Launch.aged, if_pos due]
  case refill =>
    refine ⟨_, execOverflowRefill_one room queue own level, ?_, _, ?_, s.seq_respilled k l⟩
    · rw [State.plot_modPlot_self, queue]
      simp [l.same_self]
    · rw [State.plot_modPlot_self]
  case placement =>
    refine ⟨_, execLaunchPlacement_one runs alone next origin new tile, ⟨_, State.block_startBlock _ _ _ _ _, rfl, rfl⟩, ?_⟩
    rw [State.plot_startBlock (s := s.modPlot s.subj.ag _) empty none', State.plot_modPlot_self]
  case completion =>
    refine ⟨_, execLaunchCompletion_silent one named primary own ended silent, ?_⟩
    dsimp only
    rw [State.plot_modPlot_self, one]
    simp [l.same_self]

end Sys2Proof.Machine

namespace Sys2Proof.Machine

open Sys2Proof

/-! ### The sampler and stops (R357–R361, R369) -/

/-- A tick of the sampler that finds no agent at its place takes no sample. -/
theorem samplerTickStep_idle {s : State} (on : (s.plot s.subj.ag).trcState = 1) (period : (s.plot s.subj.ag).smpPeriod.toNat ≠ 0)
    (due : s.cycle % 2 ^ (s.plot s.subj.ag).smpPeriod.toNat = 0) (fresh : (s.plot s.subj.ag).smpLast ≠ s.cycle)
    (none' : ∀ c ∈ (s.usable s.subj.ag).flatMap clusterTiles,
      fget? s.threads (groupKey c (s.cycle / 2 ^ (s.plot s.subj.ag).smpPeriod.toNat % 32)) = none) :
    samplerTickStep s = some (s.modPlot s.subj.ag (fun p => { p with smpLast := s.cycle })) := by
  have still : ((s.usable s.subj.ag).flatMap clusterTiles).foldl (fun s' c =>
      s'.putSample s.subj.ag c (s.cycle / 2 ^ (s.plot s.subj.ag).smpPeriod.toNat % 32))
        (s.modPlot s.subj.ag (fun p => { p with smpLast := s.cycle })) = s.modPlot s.subj.ag (fun p => { p with smpLast := s.cycle }) := by
    refine List.foldlRecOn (motive := fun u => u = s.modPlot s.subj.ag (fun p => { p with smpLast := s.cycle })) _ _ rfl
      fun u same c mem => ?_
    subst same
    exact if_pos (by rw [Option.isNone_iff_eq_none]; exact none' c mem)
  simp only [samplerTickStep, on, period, due, fresh, still]
  rfl

/-- A plot stops. -/
theorem plotStopStep_stops {s : State} (there : (fget? s.plots s.subj.ag).isSome = true)
    (asked : (s.plot s.subj.ag).stopNow = true ∨ (s.plot s.subj.ag).stopAt.toNat ≤ s.cycle) :
    ∃ t, plotStopStep s = some t ∧ (t.plot s.subj.ag).stopped = true := by
  have due : ((s.plot s.subj.ag).stopNow || decide ((s.plot s.subj.ag).stopAt.toNat ≤ s.cycle)) = true := by simpa using asked
  simp only [plotStopStep, Option.isNone_eq_false_iff.mpr there, due]
  refine ⟨_, rfl, ?_⟩
  have frozen (u : State) : ((s.blocksOf s.subj.ag).foldl (fun s' x => s'.freezeCore x.1) u).plots = u.plots :=
    List.foldlRecOn (motive := fun (v : State) => v.plots = u.plots) _ _ rfl fun _ same _ _ => same
  rw [State.raiseAsync, State.plot_modThread, State.plot, frozen, ← State.plot, State.plot_modPlot_self]

/-- A package stops, and its image is taken. -/
theorem packageStopStep_stops {s : State} (runs : s.stopped = false) (due : s.pkgStopAt.toNat ≤ s.cycle)
    (nowhere : s.board.imageBase = none) (safe : s.safeAfterStop = none) :
    ∃ t, packageStopStep s = some t ∧ t.stopped = true ∧ ∃ i, t.image = some i ∧ i.cycle = s.cycle := by
  simp only [packageStopStep, runs, due, nowhere, safe, decide_true, Bool.or_true, Bool.not_true, Bool.or_false,
    Bool.false_eq_true, if_false, Option.elim_none]
  exact ⟨_, rfl, rfl, _, rfl, rfl⟩

theorem packageReleaseStep_releases {s : State} (stops : s.stopped = true) (live : s.boot ≠ .safe) :
    ∃ t, packageReleaseStep s = some t ∧ t.stopped = false := by
  refine ⟨_, if_pos (by simp [stops, live]), rfl⟩

/-- The value at a key of a map whose values have changed, each by its key. -/
theorem fget?_map_key {α β : Type} (m : FMap α) (f : Nat → α → β) (k : Nat) :
    fget? (m.map (fun x => (x.1, f x.1 x.2))) k = (fget? m k).map (f k) := by
  induction m with
  | nil => rfl
  | cons e m ih =>
    obtain ⟨j, v⟩ := e
    simp only [List.map_cons, fget?]
    split
    · next own => subst own; rfl
    · exact ih

/-- What a passing cycle makes of an agent. -/
def Thread.passed (cycle : Nat) (eops : List EngineOp) (k : Nat) (t : Thread) : Thread :=
  if isSproutKey k then heldTick eops k t else if isSysKey k then t else waitTick cycle t

theorem Thread.pc_passed (cycle : Nat) (eops : List EngineOp) (k : Nat) (t : Thread) : (t.passed cycle eops k).pc = t.pc := by
  unfold Thread.passed heldTick waitTick
  split
  · split <;> rfl
  · split
    · rfl
    · split <;> rfl

/-- A passing cycle leaves every program counter. -/
theorem State.pc_pass (s : State) (k : Nat) : (s.pass.thread k).pc = (s.thread k).pc := by
  have here : fget? s.pass.threads k = (fget? s.threads k).map (Thread.passed s.cycle (s.core (coreOfKey k)).eops k) :=
    fget?_map_key s.threads (fun j t => t.passed s.cycle (s.core (coreOfKey j)).eops j) k
  rw [State.thread, State.thread, fgetD, fgetD, here]
  cases fget? s.threads k with
  | none => rfl
  | some t => exact t.pc_passed _ _ _

/-- An image of the same configuration and boot is written back. -/
theorem imageRestoreStep_restores {s : State} {i : Image} (image : s.image = some i) (ready : s.boot = .ready)
    (digest : i.digest = s.mgr.cfgDigest) (nonce : i.nonce = s.mgr.bootNonce) :
    ∃ t, imageRestoreStep s = some t ∧ t.cycle = i.cycle + 1 ∧ t.plots = i.mach.plots ∧
      ∀ q, (t.thread q).pc = (fgetD i.mach.threads q {}).pc := by
  have opens : s.scanned i = { i.mach with
      mem := { i.mach.mem with cells := i.lines.foldl (fun c l => cellsSet c l.1 l.2) s.mem.cells } } := if_pos nonce
  simp only [imageRestoreStep, image, ready, digest, opens, decide_true, Bool.or_true, Bool.not_true, Bool.false_eq_true, if_false,
    ne_eq, not_true_eq_false]
  refine ⟨_, rfl, rfl, rfl, fun q => ?_⟩
  exact State.pc_pass _ q

/-! ### Gates and board inputs (R346, R349–R352, R355) -/

theorem State.gate_modGate {s : State} {k : Nat} {g : Gate} (there : fget? s.gates k = some g) (f : Gate → Gate) :
    (s.modGate k f).gate k = f (s.gate k) := by
  simp [State.gate, State.modGate, fmod, there, fgetD]

theorem State.there_modGate {s : State} {k : Nat} {g : Gate} (there : fget? s.gates k = some g) (f : Gate → Gate) :
    fget? (s.modGate k f).gates k = some (f g) := by
  simp [State.modGate, fmod, there]

theorem State.gate_of {s : State} {k : Nat} {g : Gate} (there : fget? s.gates k = some g) : s.gate k = g := by
  rw [State.gate, fgetD, there]; rfl

theorem execBoardInput_comes {s : State} (there : (fget? s.gates 20).isSome = true) (live : (s.gate 20).mode ≠ 2) (n : Nat) :
    ((s.boardInput n []).gate 20).port = (s.gate 20).port ++ [{ kind := 8, source := n }] := by
  obtain ⟨g, there⟩ := Option.isSome_iff_exists.mp there
  rw [State.boardInput, if_neg live, State.gate_modGate there]

/-- The reference has not come back in time: a stop is due. -/
theorem referenceHoldoverTimeoutStep_stops {s : State} {c : Nat} (lost : s.refLost = some c) (late : c + 896 < s.cycle) :
    ∃ t, referenceHoldoverTimeoutStep s = some t ∧ t.refLost = none ∧ t.stopReq.isSome = true := by
  simp only [referenceHoldoverTimeoutStep, lost, Nat.not_le.mpr late, if_false]
  exact ⟨_, rfl, rfl, rfl⟩

/-! ### Ratios, refresh and errors (R347, R348, R415, R417, R418) -/

/-- The ratio of a cluster is what it is set to. -/
theorem State.ratio_setRatio (s : State) (k r : Nat) : fgetD (s.setRatio k r).ratios k 7 = r := by
  unfold State.setRatio
  split
  · next full => simp only [fgetD, fget?_ferase_self]; exact full.symm
  · exact fgetD_fset_self _ _ _ _

/-- No block stands on a cluster. -/
theorem blocks_none {s : State} {k : Nat} (empty : ∀ c ∈ clusterTiles k, (s.core c).block = none) :
    (clusterTiles k).any (fun c => (s.core c).block.isSome) = false :=
  List.any_eq_false.mpr fun c mem => by rw [empty c mem]; exact Bool.false_ne_true

theorem clusterRatioChangeStep_sets {s : State} (low : 5 ≤ s.subj.n) (high : s.subj.n ≤ 7) (inside : s.subj.ag < 160)
    (free : s.deterministic s.subj.ag = false) (empty : ∀ c ∈ clusterTiles s.subj.ag, (s.core c).block = none) :
    clusterRatioChangeStep s = some (s.setRatio s.subj.ag s.subj.n) := by
  have range : ¬ (s.subj.n < 5 ∨ 7 < s.subj.n ∨ 160 ≤ s.subj.ag) := by omega
  simp only [clusterRatioChangeStep, range, free, blocks_none empty, Bool.false_eq_true, if_false]

/-- A channel's refresh starts at the cycles of R348. -/
theorem dramRefreshStep_starts {s : State} {j : Nat} (channel : s.subj.ag < 1280) (later : 1 ≤ j)
    (due : s.cycle = 5460 * j + 341 * (s.subj.ag % 16)) (over' : fgetD s.refresh s.subj.ag 0 ≤ s.cycle) :
    dramRefreshStep s = some { s with refresh := fset s.refresh s.subj.ag (s.cycle + 490) } := by
  have start : refreshStart s.subj.ag s.cycle = s.cycle := by unfold refreshStart; omega
  have starts : ¬ (1280 ≤ s.subj.ag ∨ s.cycle < 5460 ∨ s.cycle + 490 ≤ s.cycle ∨
      s.cycle + 490 ≤ fgetD s.refresh s.subj.ag 0) := by
    omega
  simp only [dramRefreshStep, start, starts, if_false]

theorem softErrorStep_pad {s : State} (core : s.subj.ag < 1280) (word : s.subj.n < 131072) (pad : s.subj.flag = false) :
    softErrorStep s = some (s.modCore s.subj.ag (fun x => { x with padBad := insNat x.padBad s.subj.n })) := by
  have range : ¬ (1280 ≤ s.subj.ag ∨ 131072 ≤ s.subj.n) := by omega
  simp only [softErrorStep, range, pad, Bool.false_eq_true, if_false]

/-- A line of DRAM acquires an error. -/
theorem uncorrectableLineErrorStep_dram {s : State} (dram : isDram s.subj.n = true) (sound : s.mem.isPoison s.subj.n = false)
    (later : s.subj.flag = false) :
    uncorrectableLineErrorStep s = some (s.withMem { s.mem with poison := insNat s.mem.poison (lineOf s.subj.n) }) := by
  have line : lineOf (lineOf s.subj.n) = lineOf s.subj.n := by unfold lineOf; omega
  have inside : isDram (lineOf s.subj.n) = true :=
    decide_eq_true (Nat.lt_of_le_of_lt (Nat.div_mul_le_self _ _) (of_decide_eq_true dram))
  have fresh : s.mem.isPoison (lineOf s.subj.n) = false := by rw [Store.isPoison, line]; exact sound
  simp only [uncorrectableLineErrorStep, inside, fresh, later, Bool.true_or, Bool.not_true, Bool.or_false, Bool.false_eq_true,
    if_false]

/-- The manager answers an alert with a lower ratio. -/
theorem powerThermalAlertStep_lowers {s : State} (alert : 0 < s.mgr.alerts) (ratio : s.subj.flag = false)
    (free : s.deterministic s.subj.ag = false) (low : 5 ≤ s.subj.n) (lower : s.subj.n < fgetD s.ratios s.subj.ag 7)
    (empty : ∀ c ∈ clusterTiles s.subj.ag, (s.core c).block = none) :
    powerThermalAlertStep s =
      some (({ s with mgr := { s.mgr with alerts := s.mgr.alerts - 1 } } : State).setRatio s.subj.ag s.subj.n) := by
  simp only [powerThermalAlertStep, Nat.pos_iff_ne_zero.mp alert, ratio, free, Nat.not_lt.mpr low, Nat.not_le.mpr lower,
    blocks_none empty, decide_false, Bool.or_false, Bool.false_eq_true, if_false]

/-- Without a buffer the dump fails, and the package enters the safe state. -/
theorem fatalDumpStep_fails {s : State} (on : s.boot ≠ .off) (nowhere : s.diag.dumpBuf = 0) :
    fatalDumpStep s = some (({ s with diag := { s.diag with dumpStatus := 3 } } : State).enterSafe 2) := by
  simp only [fatalDumpStep, on, nowhere, if_false, if_true]

/-- A follower that has every time of the exchange takes its offset. -/
theorem alignmentExchangeStep_follows {s : State} {ofs : Int} (step : s.boot = .step 6) (peers : s.board.peers = true)
    (good : s.subj.flag = true) (follower : s.board.leader = false) (times : s.mgr.exchange.residual = some ofs) :
    alignmentExchangeStep s = some { s with boot := .step 7, mgr := { s.mgr with alignOfs := BitVec.ofInt 32 ofs } } := by
  have runs : ¬ (s.boot ≠ .step 6 ∨ !s.board.peers) := by simp [step, peers]
  simp only [alignmentExchangeStep, runs, good, follower, times, Bool.not_true, Bool.not_false, Bool.false_eq_true, if_false, if_true,
    Option.map_some]

theorem powerUpStep_starts {s : State} (off : s.boot = .off) (good : s.subj.flag = true) :
    powerUpStep s = some { s with boot := .step 1 } := by
  simp only [powerUpStep, off, good, if_true]

/-! What an arrival does changes of a gate no more than what is to leave by it. -/

/-- Of the gates only what is to leave by them differs. -/
def GatesKept (s t : State) : Prop := ∀ k, t.gate k = { s.gate k with outq := (t.gate k).outq }

namespace GatesKept

variable {s t u : State}

theorem refl (s : State) : GatesKept s s := fun _ => rfl

theorem trans (h : GatesKept s t) (k : GatesKept t u) : GatesKept s u := fun j => by rw [k j, h j]

theorem of_gates (h : t.gates = s.gates) : GatesKept s t := fun k => by rw [State.gate, h]; rfl

theorem foldl {α : Type} (s : State) (xs : List α) {f : State → α → State} (step : ∀ u x, GatesKept u (f u x)) :
    GatesKept s (xs.foldl f s) :=
  List.foldlRecOn (motive := GatesKept s) xs f (refl s) fun u h x _ => h.trans (step u x)

theorem outbound (s : State) (gate kind target plot : Nat) (bs : List Byte) (status : Nat) :
    GatesKept s (s.outbound gate kind target plot bs status) := by
  intro k
  simp only [State.outbound, State.gate, fmod]
  split
  · next g there =>
    by_cases own : k = gate
    · subst own
      have here : fgetD s.gates k {} = g := by rw [fgetD, there]; rfl
      rw [fgetD_fset_self, here]
    · rw [fgetD_fset_ne _ _ _ own]
  · rfl

theorem complete (s : State) (a : Arrival) (data : List Byte) (status : Nat) : GatesKept s (s.complete a data status) :=
  outbound s _ _ _ _ _ _

theorem bar2Request (s : State) (gate plot vf off : Nat) (a : Arrival) : GatesKept s (s.bar2Request gate plot vf off a) := by
  unfold State.bar2Request
  dsimp only
  split
  · split
    · exact of_gates rfl
    · exact complete s _ _ _
  · exact of_gates rfl

theorem diagWrite (s : State) (off : Nat) (bs : List Byte) : GatesKept s (s.diagWrite off bs) := by
  unfold State.diagWrite
  dsimp only
  split
  · exact refl s
  · exact of_gates rfl

theorem memoryRequest (s : State) (gate : Nat) (a : Arrival) : GatesKept s (s.memoryRequest gate a) := by
  unfold State.memoryRequest
  dsimp only
  split
  · exact complete s _ _ _
  · split
    · exact bar2Request s _ _ _ _ _
    · split
      · exact refl s
      · exact complete s _ _ _
    · split
      · exact diagWrite s _ _
      · exact complete s _ _ _
    · split
      · exact of_gates rfl
      · exact complete s _ _ _

theorem setBlockStats (s : State) (id : Nat) (m : FMap Nat) : GatesKept s (s.setBlockStats id m) := of_gates rfl

theorem modThreadOf (s : State) (id key : Nat) (f : Thread → Thread) : GatesKept s (s.modThreadOf id key f) := by
  unfold State.modThreadOf
  split <;> exact of_gates rfl

theorem restoreVf (s : State) (plot vf : Nat) (v : VfImage) : GatesKept s (s.restoreVf plot vf v) := by
  unfold State.restoreVf
  refine trans (trans (foldl s _ fun u g => modThreadOf u _ _ _) (foldl _ _ fun u b => ?_)) (of_gates rfl)
  exact trans (of_gates rfl) (setBlockStats _ _ _)

theorem boardArrival (s : State) (a : Arrival) : GatesKept s (s.boardArrival a) := by
  unfold State.boardArrival
  split
  case h_5 => exact restoreVf s _ _ _
  all_goals exact of_gates rfl

theorem brought (s : State) (pa : Nat) (bs : List Byte) (since : List (Nat × List Byte)) : GatesKept s (s.brought pa bs since) := by
  unfold State.brought
  dsimp only
  split
  · exact refl s
  · exact of_gates rfl

theorem completionData (s : State) (a : Arrival) : GatesKept s (s.completionData a) := by
  unfold State.completionData
  split
  · exact refl s
  · next q _ =>
    have told : GatesKept s ((s.brought a.target a.payload q.since).answer 0 q.plot a.target) :=
      (brought s _ _ _).trans (of_gates rfl)
    dsimp only
    cases s.copyHalf q.plot with
    | none => exact told
    | some o => exact told.trans (of_gates rfl)

theorem frameArrival (s : State) (gate : Nat) (a : Arrival) : GatesKept s (s.frameArrival gate a) := by
  unfold State.frameArrival
  split <;> exact of_gates rfl

/-- The effect of an admitted arrival. -/
theorem admitted (s : State) (gate : Nat) (a : Arrival) : GatesKept s (s.admitted gate a) := by
  have waits : GatesKept s { s with entered := s.entered ++ [(gate, a)] } := of_gates rfl
  have refused : GatesKept s (if gate = 0 then s.complete a [] stUnsupported else s) := by
    split
    · exact complete s _ _ _
    · exact refl s
  unfold State.admitted
  dsimp only
  split
  case h_1 => exact memoryRequest s _ _
  case h_2 => exact memoryRequest s _ _
  case h_3 =>
    split
    · exact refl s
    · split
      · exact waits
      · exact completionData s _
  case h_4 =>
    split
    · exact waits
    · exact refl s
  case h_5 =>
    split
    · exact waits
    · exact refused
  case h_6 =>
    split
    · exact waits
    · exact refused
  case h_7 =>
    split
    · exact complete s _ _ _
    · exact memoryRequest s _ _
  case h_8 =>
    split
    · exact complete s _ _ _
    · exact frameArrival s _ _
  case h_9 =>
    split
    · exact boardArrival s _
    · exact refused
  case h_10 => exact refl s
  case h_11 => exact refused

end GatesKept

/-- The next arrival of a gate that is open and passes all through is admitted. -/
theorem gateAdmissionStep_admits {s : State} {g : Gate} {i : Nat} {a : Arrival} (there : fget? s.gates s.subj.ag = some g)
    (passes : g.mode = 0) (runs : s.stopped = false)
    (free : s.boot.running = true → g.admittedOnce = true → g.lastAdmit ≠ s.cycle)
    (next : s.scanPort s.subj.ag g.port 0 [] = some (i, a)) :
    gateAdmissionStep s = some (((s.modGate s.subj.ag (fun g =>
      { g with port := g.port.eraseIdx i, lastAdmit := s.cycle, admittedOnce := true, raisedIn := false })).admitted s.subj.ag a).showHeld
        s.subj.ag) := by
  have now : (s.boot.running && !s.stopped && g.admittedOnce && decide (g.lastAdmit = s.cycle)) = false := by
    refine Bool.eq_false_iff.mpr fun all => ?_
    simp only [Bool.and_eq_true, decide_eq_true_eq] at all
    obtain ⟨⟨⟨running, _⟩, once⟩, now⟩ := all
    exact free running once now
  have room : g.room a = true := by rw [Gate.room, passes]; rfl
  have unlogged : s.logArrival s.subj.ag a = s := by
    rw [State.logArrival, State.gate_of there, passes]
    rfl
  have shut : s.gateShut s.subj.ag = false := by rw [State.gateShut, runs]; rfl
  simp only [gateAdmissionStep, there, State.admitNext, passes, shut, now, next, room, unlogged]
  rfl

/-- What a gate shows of the arrivals that it holds changes nothing else of it. -/
theorem State.gate_showHeld (s : State) (k : Nat) : (s.showHeld k).gate k = { s.gate k with held := ((s.showHeld k).gate k).held } := by
  cases there : fget? s.gates k with
  | none =>
    have same : s.showHeld k = s := by rw [State.showHeld, State.modGate, fmod, there]
    rw [same]
  | some g => rw [State.showHeld, State.gate_modGate there]

/-- An entry of the log of arrivals is injected at its cycle. -/
theorem replayInjectStep_injects {s : State} {g : Gate} (there : fget? s.gates s.subj.ag = some g) (replays : g.mode = 2)
    (runs : s.stopped = false) (on : g.replaying = true) (more : g.readAt ≠ g.logTail) (whole : g.broken ≠ some g.readAt)
    (order : g.broken = none → s.brokenAt s.subj.ag = none) (later : g.admittedOnce = false → g.lastCycle ≤ (s.entryAt s.subj.ag).1)
    (due : s.cycle = (s.entryAt s.subj.ag).1) :
    replayInjectStep s = some (((s.modGate s.subj.ag (fun g => { g with readAt := g.readAt + 1 })).modGate s.subj.ag (fun g =>
      { g with lastCycle := (s.entryAt s.subj.ag).1, admittedOnce := true })).admitted s.subj.ag (s.entryAt s.subj.ag).2) := by
  have sound : (if g.broken.isSome then none else s.brokenAt s.subj.ag) = none := by
    cases broken : g.broken with
    | none => exact order broken
    | some _ => rfl
  have first : (!g.admittedOnce && decide ((s.entryAt s.subj.ag).1 < g.lastCycle)) = false := by
    cases once : g.admittedOnce with
    | true => rfl
    | false => simpa using later once
  have active : ¬ (g.mode ≠ 2 ∨ s.stopped ∨ !g.replaying) := by simp [replays, runs, on]
  have left : ¬ (g.readAt = g.logTail ∨ g.broken = some g.readAt) := not_or.mpr ⟨more, whole⟩
  simp only [replayInjectStep, State.gate_of there, active, sound, left, first, due, if_false]
  exact (if_neg Bool.false_ne_true).trans (if_neg (not_not.mpr rfl))

/-! ### What befalls the package -/

theorem packageHappeningsPerform : Claims.PackageHappeningsPerform := by
  intro s k p
  refine ⟨fun on period due fresh none' => ?sampler, fun there asked => ?plotStop, fun runs due nowhere safe => ?packageStop,
    fun stops live => ?release, fun i image ready digest nonce => ?restore, fun there live => ?reference,
    fun c lost late => ?holdover, fun low high inside free empty => ?ratio, fun j channel later due before => ?refresh,
    fun core word pad => ?softError, fun dram sound later => ?lineError, fun alert ratio free low lower other empty => ?alert,
    fun on nowhere => ?dump, fun ofs step peers good follower times => ?alignment, fun off good => ?power,
    fun g there => ⟨fun i a passes runs free next => ?admission, fun field => ?control, fun a rest queue runs passes => ?outbound,
      fun replays runs on more whole order later due => ?replay⟩⟩
  case sampler =>
    exact Completes.of_step (step := samplerTickStep) rfl
      ⟨_, samplerTickStep_idle on period due fresh none', by rw [State.plot_modPlot_self]⟩
  case plotStop => exact Completes.of_step (step := plotStopStep) rfl (plotStopStep_stops there asked)
  case packageStop => exact Completes.of_step (step := packageStopStep) rfl (packageStopStep_stops runs due nowhere safe)
  case release => exact Completes.of_step (step := packageReleaseStep) rfl (packageReleaseStep_releases stops live)
  case restore => exact Completes.of_step (step := imageRestoreStep) rfl (imageRestoreStep_restores image ready digest nonce)
  case reference => exact ⟨⟨_, rfl, execBoardInput_comes there live 1⟩, ⟨_, rfl, execBoardInput_comes there live 2⟩⟩
  case holdover => exact Completes.of_step (step := referenceHoldoverTimeoutStep) rfl (referenceHoldoverTimeoutStep_stops lost late)
  case ratio =>
    exact Completes.of_step (step := clusterRatioChangeStep) rfl
      ⟨_, clusterRatioChangeStep_sets low high inside free empty, s.ratio_setRatio _ _⟩
  case refresh =>
    exact Completes.of_step (step := dramRefreshStep) rfl ⟨_, dramRefreshStep_starts channel later due before, fgetD_fset_self _ _ _ _⟩
  case softError =>
    refine Completes.of_step (step := softErrorStep) rfl ⟨_, softErrorStep_pad core word pad, ?_⟩
    rw [State.core_modCore_self]
    exact mem_insNat.mpr (.inl rfl)
  case lineError =>
    exact Completes.of_step (step := uncorrectableLineErrorStep) rfl ⟨_, uncorrectableLineErrorStep_dram dram sound later,
      List.contains_iff_mem.mpr (mem_insNat.mpr (.inl rfl))⟩
  case alert =>
    refine Completes.of_step (step := powerThermalAlertStep) rfl
      ⟨_, powerThermalAlertStep_lowers alert ratio free low lower empty, State.ratio_setRatio _ _ _, rfl⟩
  case dump => exact Completes.of_step (step := fatalDumpStep) rfl ⟨_, fatalDumpStep_fails on nowhere, rfl, rfl, rfl⟩
  case alignment =>
    exact Completes.of_step (step := alignmentExchangeStep) rfl
      ⟨_, alignmentExchangeStep_follows step peers good follower times, rfl, rfl⟩
  case power => exact Completes.of_step (step := powerUpStep) rfl ⟨_, powerUpStep_starts off good, rfl⟩
  case admission =>
    refine Completes.of_step (step := gateAdmissionStep) rfl ⟨_, gateAdmissionStep_admits there passes runs free next, ?_⟩
    change (State.gate _ k).port = _ ∧ (State.gate _ k).lastAdmit = _
    rw [State.gate_showHeld, GatesKept.admitted _ _ _ k, State.gate_modGate there, State.gate_of there]
    exact ⟨rfl, rfl⟩
  case control =>
    refine Completes.of_step (step := gateControlWriteStep) rfl ⟨_, by rw [gateControlWriteStep, there], ?_⟩
    change (State.gate _ k).logTail = _
    rw [State.gate_modGate there, field]
    rfl
  case outbound =>
    refine Completes.of_step (step := outboundTransactionStep) rfl ⟨s.modGate k (fun g => { g with outq := rest }), ?_, ?_⟩
    · have shut : s.gateShut k = false := by rw [State.gateShut, runs]; rfl
      simp only [outboundTransactionStep, k, State.gate_of there, queue, shut, passes]
      rfl
    · change (State.gate _ k).outq = _
      rw [State.gate_modGate there]
  case replay =>
    refine Completes.of_step (step := replayInjectStep) rfl
      ⟨_, replayInjectStep_injects there replays runs on more whole order later due, ?_⟩
    change (State.gate _ k).readAt = _ ∧ (State.gate _ k).lastCycle = _
    rw [GatesKept.admitted _ _ _ k, State.gate_modGate (State.there_modGate there _), State.gate_modGate there, State.gate_of there]
    exact ⟨rfl, due.symm⟩

/-- Settles O55: each form named completes with its own effect, from the step that it is. -/
theorem formsComplete : Obligations.FormsComplete := ⟨instructionsPerform, agentHappeningsPerform, packageHappeningsPerform⟩

end Sys2Proof.Machine

namespace Sys2Proof.Machine

open Sys2Proof

/-! ### Copy tags (R192, R193) -/

/-- A tag that is not the one set stays. -/
theorem State.tag_setTag_ne (s : State) (c : Nat) {n m : Nat} (x : CopyTag) (other : m ≠ n) :
    (s.setTag c n x).tag c m = s.tag c m := by
  rw [State.tag, State.tag, State.setTag, State.modBlock, State.core_modCore_self]
  cases (s.core c).block with
  | none => rfl
  | some b => exact fgetD_fset_ne _ _ _ other

/-- Of its core, setting a tag changes the block alone. -/
theorem State.core_setTag (s : State) (c tag : Nat) (x : CopyTag) :
    (s.setTag c tag x).core c = { s.core c with block := ((s.setTag c tag x).core c).block } := by
  rw [State.setTag, State.modBlock, State.core_modCore_self]

/-- A core's tags are its block's. -/
theorem State.tag_congr {s t : State} {c : Nat} (same : (t.core c).block = (s.core c).block) (n : Nat) : t.tag c n = s.tag c n := by
  rw [State.tag, same]; rfl

/-- A tag is busy, with no error and no status, and the other tags of its core stay. -/
def Busied (s t : State) (c n : Nat) : Prop :=
  ((s.core c).block.isSome = true → (t.tag c n).ready = false ∧ (t.tag c n).err = false ∧ (t.tag c n).status = 0) ∧
  ∀ m, m ≠ n → t.tag c m = s.tag c m

/-- The running agent goes on at the next word with no region open; no other agent and no byte changes. -/
def WentOn (s t : State) : Prop :=
  t.thread s.cur = { s.th with pc := s.th.pc + 4, counters := bumpMap s.th.counters 0 1, region := none } ∧
  SameOthers s t s.cur ∧ SameBytes s t

/-- The record of an agent that retires, once all of the state but agents is seen to stay or not to matter. -/
theorem State.retire_record {s t : State} {x : Thread} (h : AgentOnly s t s.cur x) (u : State) (cur : u.cur = s.cur)
    (threads : u.threads = t.threads) : u.retire.thread s.cur = { x.advance with region := none } := by
  have same : u.thread s.cur = x := by rw [State.thread, threads]; exact h.agent
  rw [State.retire, cur, State.thread_modThread_self, same]

theorem State.wentOn_retire {s u : State} (cur : u.cur = s.cur) (threads : u.threads = s.threads) (mem : u.mem = s.mem) :
    WentOn s u.retire := by
  obtain ⟨_, others, bytes⟩ := State.retire_spec (.refl s s.cur) u cur threads mem
  exact ⟨State.retire_record (.refl s s.cur) u cur threads, others, bytes⟩

/-! ### A tag is taken for work that its core takes on (R193) -/

/-- A tag turns busy, its core changes as its unit takes on the work, and the running group goes on. -/
def State.takeOn (s : State) (tag : Nat) (f : Core → Core) : State :=
  ((s.setTag (coreOfKey s.cur) tag { ready := false, owner := (s.core (coreOfKey s.cur)).nextOp }).modCore (coreOfKey s.cur) f).retire

section TakeOn

variable (s : State) (tag : Nat) (f : Core → Core)

theorem State.core_takeOn_self : (s.takeOn tag f).core (coreOfKey s.cur) =
    f ((s.setTag (coreOfKey s.cur) tag { ready := false, owner := (s.core (coreOfKey s.cur)).nextOp }).core (coreOfKey s.cur)) :=
  State.core_modCore_self _ _ _

theorem State.core_takeOn_ne {j : Nat} (other : j ≠ coreOfKey s.cur) : (s.takeOn tag f).core j = s.core j :=
  (State.core_modCore_ne _ _ other).trans (State.core_modCore_ne _ _ other)

theorem State.wentOn_takeOn : WentOn s (s.takeOn tag f) := State.wentOn_retire rfl rfl rfl

variable {f}

theorem State.busied_takeOn (keeps : ∀ y, (f y).block = y.block) : Busied s (s.takeOn tag f) (coreOfKey s.cur) tag := by
  have same := State.tag_congr ((congrArg Core.block (s.core_takeOn_self tag f)).trans (keeps _))
  refine ⟨fun runs => ?_, fun m other => ?_⟩
  · obtain ⟨b, block⟩ := Option.isSome_iff_exists.mp runs
    rw [same, State.tag_setTag block]
    exact ⟨rfl, rfl, rfl⟩
  · rw [same, State.tag_setTag_ne _ _ _ other]

end TakeOn

/-! ### Engine operations issue (R193, R222) -/

/-- An operation joins the queues of its core's engines. -/
def Core.join (y : Core) (o : EngineOp) : Core := { y with eops := y.eops ++ [o], nextOp := o.id + 1 }

/-- The operation that the running group issues. -/
def State.newOp (s : State) (x : CopySpec) : EngineOp :=
  { id := (s.core (coreOfKey s.cur)).nextOp, spec := x, group := ctxOfKey s.cur, after := s.th.nextId }

section EngineIssue

variable {i : Instr} {s : State} {w : Who} {tag : Nat} {names : List SReg} {spec : State → CopySpec}
  {check : State → CopySpec → Option (BitVec 8)} {x : CopySpec} (run : exec i s = .next (s.engineIssue w tag names spec check))
  (captured : spec s = x) (pass : check s x = none) (free : s.Free w names)

include run captured pass free

/-- An engine instruction of a group whose tag is free, whose engine has room and whose checks pass. -/
theorem exec_engineIssue_group (group : isSproutKey s.cur = false) (ready : (s.tag (coreOfKey s.cur) tag).ready = true)
    (room : (s.core (coreOfKey s.cur)).engineFull x.engine = false) :
    exec i s = .next (s.takeOn tag (·.join (s.newOp x))) := by
  rw [run, State.engineIssue, State.issue_free free]
  simp only [captured, pass, group, ready, room, Bool.not_true, Bool.or_self, Bool.false_eq_true, if_false]
  rfl

/-- What its core, its tag and its group are then. -/
theorem completes_engineIssue_group (group : isSproutKey s.cur = false) (ready : (s.tag (coreOfKey s.cur) tag).ready = true)
    (room : (s.core (coreOfKey s.cur)).engineFull x.engine = false) :
    let c := coreOfKey s.cur
    let core := s.core c
    Completes i s (fun t =>
      (t.core c).eops = core.eops ++ [s.newOp x] ∧
      t.core c = { core with eops := (t.core c).eops, nextOp := core.nextOp + 1, block := (t.core c).block } ∧
      (∀ j, j ≠ c → t.core j = s.core j) ∧ Busied s t c tag ∧ WentOn s t) := by
  refine ⟨_, exec_engineIssue_group run captured pass free group ready room, ?_, ?_, fun j other => s.core_takeOn_ne _ _ other,
    s.busied_takeOn _ fun _ => rfl, s.wentOn_takeOn _ _⟩ <;> rw [State.core_takeOn_self, State.core_setTag]
  · rfl
  · rfl

/-- One of a sprout is held in its store queue. -/
theorem completes_engineIssue_sprout (sprout : isSproutKey s.cur = true) (none' : tag = 0) (room : s.th.queueFull = false) :
    Completes i s (fun t => (t.thread s.cur).sq = s.th.sq ++ [{ seq := s.th.nextId, kind := .engine x, parts := [] }] ∧
      (t.thread s.cur).pc = s.th.pc + 4 ∧ OnlyRunning s t) := by
  have held : exec i s = .next (s.modThread s.cur (fun t => (t.enqueue (.engine x) [] false).advance)) := by
    rw [run, State.engineIssue, State.issue_free free]
    simp only [captured, pass, sprout, none', State.withRoom_room room, ne_eq, not_true_eq_false, if_true, if_false]
  refine ⟨_, held, ?_, ?_, s.onlyRunning_modThread _⟩ <;> rw [State.thread_modThread_self] <;> rfl

end EngineIssue

theorem Thread.octet_eq (t : Thread) (a : SReg) : t.octet a = (List.range 8).map (fun i => t.sreg (a + Fin.ofNat 64 i)) :=
  List.map_map

theorem State.copyCheck_passes {s : State} {x : CopySpec} (aligned : x.misaligned = false) (range : s.copyInRange x = true) :
    s.copyCheck x = none := by
  rw [State.copyCheck, aligned, range]; rfl

theorem binCheck_passes {x : CopySpec} (aligned : x.base % 32 = 0) (low : x.base < 2 ^ 56) (entry : x.binAt x.bin < 2 ^ 56) :
    (if x.base % 32 ≠ 0 then some cMisaligned
      else if 2 ^ 56 ≤ x.base ∨ 2 ^ 56 ≤ x.binAt x.bin then some cRange else none) = none := by
  rw [if_neg (not_not.mpr aligned), if_neg (not_or.mpr ⟨Nat.not_le.mpr low, Nat.not_le.mpr entry⟩)]

theorem State.fillCheck_passes (s : State) {x : CopySpec} (whole : x.misaligned = false) (range : s.copyInRange x = true)
    (aligned : x.base % 32 = 0) (low : x.base < 2 ^ 56) :
    (if x.misaligned ∨ x.base % 32 ≠ 0 then some cMisaligned
      else if s.copyInRange x ∧ x.base < 2 ^ 56 then none else some cRange) = none := by
  rw [if_neg (by simp [whole, aligned]), if_pos ⟨range, low⟩]

/-- A `tbin` whose row may be named, after the clauses of its agent have finished (R214). -/
theorem exec_tbin {s : State} {tag : Fin 64} {a b : SReg} {v : VReg} (free : s.Free computeOnly [a, b])
    (done : s.th.clausesDone = true) (row : s.binRowOk v = true) :
    exec (.tbin tag a b v) s = .next (s.engineIssue computeOnly tag.val [a, b]
      (fun s =>
        { kind := 5, tag := tag.val, oct := [], base := (s.th.sreg a).toNat, bin := (s.th.sreg b).toNat
          row := rowBytesOf (s.row s.cur v.val) })
      (fun _ x =>
        if x.base % 32 ≠ 0 then some cMisaligned
        else if 2 ^ 56 ≤ x.base ∨ 2 ^ 56 ≤ x.binAt x.bin then some cRange
        else none)) := by
  obtain ⟨⟨admits, _⟩, _⟩ := free
  change execTbin tag a b v s = _
  rw [execTbin, admits, row, done]
  rfl

/-! ### Bulk reads issue (R220) -/

/-- A bulk read joins those of its core. -/
def Core.joinRead (y : Core) (q : HreadReq) : Core := { y with hreads := y.hreads ++ [q], nextOp := q.id + 1 }

/-- The request that an `hread` makes. -/
def State.bulkRead (s : State) (a rt : SReg) (off : BitVec 13) : HreadReq :=
  { id := (s.core (coreOfKey s.cur)).nextOp, tag := rt.val, group := ctxOfKey s.cur, handler := wordTarget s.th.pc off.toInt
    oct := s.th.octet a, after := s.th.nextId, ftv := s.th.ftv, rmode := s.th.rmode, fptrap := s.th.fptrap, toRead := [] }

/-- A request that has a size, with its bursts in the order of their homes (log entry 49). -/
def State.ordered (s : State) (r : HreadReq) : HreadReq :=
  { r with toRead := s.burstOrder s.cur r, clipped := r.spec.rows * r.perRow - (s.burstOrder s.cur r).length }

theorem exec_hread {s : State} {a rt : SReg} {off : BitVec 13} (free : s.Free groupOnly (octNames a))
    (ready : (s.tag (coreOfKey s.cur) rt.val).ready = true) (room : (s.core (coreOfKey s.cur)).hreads.length < 4)
    (pass : s.hreadCheck (s.bulkRead a rt off) = none) (some' : (s.bulkRead a rt off).spec.size ≠ 0) :
    exec (.hread a rt off) s = .next (s.takeOn rt.val (·.joinRead (s.ordered (s.bulkRead a rt off)))) := by
  change execHread a rt off s = _
  rw [execHread, State.issue_free free]
  unfold State.bulkRead at pass some' ⊢
  simp only [ready, Nat.not_le.mpr room, pass, some', Bool.not_true, decide_false, Bool.or_self, Bool.false_eq_true, if_false]
  rfl

/-- Settles O45: an engine instruction whose checks pass takes its tag and joins its engine's queue, or its sprout's; a bulk read
takes its tag and joins those of its core. -/
theorem enginesIssue : Obligations.EnginesIssue := by
  intro s tag k a b v rt off c core oct octR octB on busy queued held passes copy bin fill
  have octA : s.th.octet a = oct := s.th.octet_eq a
  have octB' : s.th.octet b = octB := s.th.octet_eq b
  have checked {x : CopySpec} (pass : passes x) : s.copyCheck x = none := by
    obtain ⟨aligned, range⟩ := pass
    exact State.copyCheck_passes aligned range
  refine ⟨fun pass => completes_engineIssue_group rfl (by rw [octA]) (checked pass),
    fun pass => completes_engineIssue_group rfl (by rw [octA]) (checked pass),
    fun pass => ⟨completes_engineIssue_group rfl (by rw [octA]) (checked pass),
      completes_engineIssue_sprout rfl (by rw [octA]) (checked pass)⟩,
    fun pass => completes_engineIssue_group rfl (by rw [octA]) (checked pass),
    fun pass => completes_engineIssue_group rfl (by rw [octA]) (checked pass),
    fun done row aligned low entry => ⟨fun free => ?group, fun free => ?sprout⟩,
    fun ⟨whole, range⟩ aligned low =>
      completes_engineIssue_group rfl (by rw [octB']) (s.fillCheck_passes whole range aligned low),
    ?bulk⟩
  case group => exact completes_engineIssue_group (exec_tbin free done row) rfl (binCheck_passes aligned low entry) free
  case sprout => exact completes_engineIssue_sprout (exec_tbin free done row) rfl (binCheck_passes aligned low entry) free
  case bulk =>
    rintro r rfl free ready room pass some'
    have request : s.bulkRead a rt off = _ := congrArg₂ (fun h o =>
      ({ id := core.nextOp, tag := rt.val, group := ctxOfKey s.cur, handler := h, oct := o, after := s.th.nextId, ftv := s.th.ftv
         rmode := s.th.rmode, fptrap := s.th.fptrap, toRead := [] } : HreadReq)) (wordTarget_eq s.th.pc off) octA
    rw [← request] at pass some' ⊢
    refine ⟨_, exec_hread free ready room pass some', ⟨s.ordered (s.bulkRead a rt off), ?_, rfl, rfl⟩,
      s.busied_takeOn _ fun _ => rfl, s.wentOn_takeOn _ _⟩
    rw [State.core_takeOn_self, State.core_setTag]
    rfl

end Sys2Proof.Machine

namespace Sys2Proof.Machine

open Sys2Proof

/-! ### Bits of a mask -/

/-- The lowest bit of a mask comes first. -/
theorem setLanes_eq_cons {m : BitVec 64} {k : Nat} (mem : m.getLsbD k = true) (least : ∀ j, j < k → m.getLsbD j ≠ true) :
    ∃ rest, setLanes m = k :: rest := by
  have here : k ∈ setLanes m := mem_setLanes.mpr mem
  have sorted := setLanes_sorted m
  match lanes : setLanes m with
  | [] => rw [lanes] at here; cases here
  | j :: rest =>
    rw [lanes] at here sorted
    have first : m.getLsbD j = true := mem_setLanes.mp (lanes ▸ List.mem_cons_self)
    obtain rfl | later := List.mem_cons.mp here
    · exact ⟨rest, rfl⟩
    · exact absurd first (least j (List.rel_of_pairwise_cons sorted later))

/-- A mask without a bit has none. -/
theorem setLanes_eq_nil {m : BitVec 64} (none' : ∀ k, m.getLsbD k ≠ true) : setLanes m = [] :=
  List.eq_nil_iff_forall_not_mem.mpr fun k mem => none' k (mem_setLanes.mp mem)

theorem setLanes_bit64 {k : Nat} (low : k < 64) : setLanes (bit64 k) = [k] := by
  have only : setLanes (bit64 k) = (List.range 64).filter (· == k) :=
    List.filter_congr fun i mem => (getLsbD_laneBit k i (List.mem_range.mp mem)).trans (beq_eq_decide i k).symm
  rw [only, List.filter_beq, List.count_eq_one_of_mem List.nodup_range (List.mem_range.mpr low)]
  rfl

/-! ### Tags that are ready (R194) -/

theorem State.readyIn_getLsbD {s : State} {m : BitVec 64} {k : Nat} :
    (s.readyIn m).getLsbD k = true ↔ k < 64 ∧ m.getLsbD k = true ∧ (s.tag (coreOfKey s.cur) k).ready = true := by
  rw [State.readyIn, BitVec.getLsbD_and, Bool.and_eq_true, State.tagReady, State.tagBits]
  constructor
  · rintro ⟨ready, named⟩
    have low := BitVec.lt_of_getLsbD named
    exact ⟨low, named, (laneBits_getLsbD _ low).symm.trans ready⟩
  · rintro ⟨low, named, ready⟩
    exact ⟨(laneBits_getLsbD _ low).trans ready, named⟩

theorem State.readyIn_eq_self_iff {s : State} {m : BitVec 64} :
    s.readyIn m = m ↔ ∀ k, k < 64 → m.getLsbD k = true → (s.tag (coreOfKey s.cur) k).ready = true := by
  rw [State.readyIn, BitVec.and_comm, ← beq_iff_eq, and_eq_self_iff]
  refine forall₃_congr fun k low _ => ?_
  rw [State.tagReady, State.tagBits, laneBits_getLsbD _ low]

/-! ### What leaves tags, scratchpads and agents alone -/

theorem State.tag_modBlock {f : Block → Block} (keeps : ∀ b, (f b).tags = b.tags) (s : State) (c j k : Nat) :
    (s.modBlock c f).tag j k = s.tag j k := by
  by_cases own : j = c
  · subst own
    rw [State.tag, State.tag, State.modBlock, State.core_modCore_self]
    cases (s.core j).block with
    | none => rfl
    | some b => exact congrArg (fgetD · k {}) (keeps b)
  · exact State.tag_congr (congrArg Core.block (State.core_modCore_ne _ _ own)) k

theorem State.pad_modBlock (s : State) (c j : Nat) (f : Block → Block) : ((s.modBlock c f).core j).pad = (s.core j).pad := by
  by_cases own : j = c
  · subst own; rw [State.modBlock, State.core_modCore_self]
  · rw [State.modBlock, State.core_modCore_ne _ _ own]

@[simp] theorem State.recInputs_cur (s : State) : s.recInputs.cur = s.cur := rfl
@[simp] theorem State.recInputs_threads (s : State) : s.recInputs.threads = s.threads := rfl
@[simp] theorem State.recInputs_mem (s : State) : s.recInputs.mem = s.mem := rfl
@[simp] theorem State.tag_recInputs (s : State) (c k : Nat) : s.recInputs.tag c k = s.tag c k := by
  refine State.tag_modBlock ?_ _ _ _ _
  exact fun _ => rfl
@[simp] theorem State.pad_recInputs (s : State) (c : Nat) : (s.recInputs.core c).pad = (s.core c).pad := s.pad_modBlock _ _ _

/-! ### A register is written as its agent goes on -/

/-- The running agent has v in sd and goes on at the next word; no other register, no other agent and no byte changes. -/
def Answered (s t : State) (d : SReg) (v : Word) : Prop :=
  (t.thread s.cur).sreg d = v ∧ (∀ r, r ≠ d → (t.thread s.cur).sreg r = s.th.sreg r) ∧ (t.thread s.cur).pc = s.th.pc + 4 ∧
  SameOthers s t s.cur ∧ SameBytes s t

theorem State.retire_answered {s : State} {d : SReg} {v : Word} (u : State) (cur : u.cur = s.cur)
    (threads : u.threads = (s.modThread s.cur (·.setSreg d v)).threads) (mem : u.mem = s.mem) : Answered s u.retire d v := by
  have wrote := (AgentOnly.refl s s.cur).modThread (·.setSreg d v)
  obtain ⟨pc, others, bytes⟩ := State.retire_spec wrote u cur threads mem
  have record := State.retire_record wrote u cur threads
  refine ⟨?_, fun r ne => ?_, pc, others, bytes⟩
  · exact (congrArg (·.sreg d) record).trans (Thread.sreg_setSreg_self _ _ _)
  · exact (congrArg (·.sreg r) record).trans (Thread.sreg_setSreg_ne _ _ ne)

/-! ### Waits on tags (R195, R213) -/

/-- No tag of a mask has a cause that a wait raises. -/
theorem State.tagTrap_none {s : State} {m : BitVec 64}
    (clean : ∀ k, m.getLsbD k = true → waitCause ((s.tag (coreOfKey s.cur) k).status.toNat / 2 ^ 28) = none) :
    s.tagTrap m = none :=
  List.findSome?_eq_none_iff.mpr fun k mem => by
    have here := clean k (mem_setLanes.mp mem)
    simp only [CopyTag.cause, here, Option.map_none]

theorem State.tagTrap_bit64 (s : State) {k : Nat} (low : k < 64) :
    s.tagTrap (bit64 k) = (waitCause ((s.tag (coreOfKey s.cur) k).status.toNat / 2 ^ 28)).map
      (fun c => (s.tag (coreOfKey s.cur) k, c)) := by
  rw [State.tagTrap, setLanes_bit64 low, List.findSome?_singleton]
  rfl

/-- A wait that meets no cause writes its result. -/
theorem State.observe_answers {s : State} {m : BitVec 64} (clean : s.tagTrap m = none) (d : SReg) (v : Word) (stamp : Bool) :
    Answered s (s.observe m d v stamp) d v ∧
      ∀ k, (s.observe m d v stamp).tag (coreOfKey s.cur) k = s.tag (coreOfKey s.cur) k := by
  unfold State.observe
  rw [clean]
  cases stamp with
  | false => exact ⟨State.retire_answered _ rfl rfl rfl, fun _ => rfl⟩
  | true =>
    exact ⟨State.retire_answered (s.modThread s.cur (·.setSreg d v)).recInputs rfl rfl rfl,
      fun k => State.tag_recInputs (s.modThread s.cur (·.setSreg d v)) _ k⟩

section TagWaits

variable {s : State} {d a : SReg} (free : s.Free groupOnly [d, a])

include free

theorem execTwaitAny_empty (empty : s.th.sreg a = 0) : exec (.twaitAny d a) s = .next (s.observe 0 d 64 true) := by
  change execTwaitAny d a s = _
  rw [execTwaitAny, State.issue_free free, if_pos empty]

theorem execTwaitAny_lowest {k : Nat} {rest : List Nat} (lanes : setLanes (s.readyIn (s.th.sreg a)) = k :: rest)
    (some' : s.th.sreg a ≠ 0) : exec (.twaitAny d a) s = .next (s.observe (bit64 k) d (s.tagResult k) true) := by
  change execTwaitAny d a s = _
  rw [execTwaitAny, State.issue_free free, if_neg some', lanes]

theorem execTwaitAny_waits (lanes : setLanes (s.readyIn (s.th.sreg a)) = []) (some' : s.th.sreg a ≠ 0) :
    exec (.twaitAny d a) s = .next s := by
  change execTwaitAny d a s = _
  rw [execTwaitAny, State.issue_free free, if_neg some', lanes]

theorem execTfirst_lowest {k : Nat} {rest : List Nat} (lanes : setLanes (s.readyIn (s.th.sreg a)) = k :: rest) :
    exec (.tfirst d a) s = .next (s.observe (bit64 k) d (s.tagResult k) false) := by
  change execTfirst d a s = _
  rw [execTfirst, State.issue_free free, lanes]

theorem execTfirst_none (lanes : setLanes (s.readyIn (s.th.sreg a)) = []) :
    exec (.tfirst d a) s = .next (s.observe 0 d 64 false) := by
  change execTfirst d a s = _
  rw [execTfirst, State.issue_free free, lanes]

theorem execTwaitAll_cases : exec (.twaitAll d a) s =
    .next (if s.readyIn (s.th.sreg a) = s.th.sreg a then s.observe (s.th.sreg a) d (s.th.sreg a) true else s) := by
  change execTwaitAll d a s = _
  rw [execTwaitAll, State.issue_free free]

end TagWaits

/-! ### `tclr` (R195) -/

/-- A tag with no error and no status. -/
def CopyTag.cleared (x : CopyTag) : CopyTag := { x with err := false, status := 0, sprouts := [] }

def State.clearTag (s : State) (c k : Nat) : State := s.setTag c k (s.tag c k).cleared

theorem State.tag_clearTag (s : State) (c k j : Nat) :
    (s.clearTag c k).tag c j = if j = k then (s.tag c k).cleared else s.tag c j := by
  split
  · next own =>
    subst own
    cases block : (s.core c).block with
    | none => simp [State.clearTag, State.setTag, State.modBlock, State.tag, block, CopyTag.cleared]
    | some b => exact State.tag_setTag block _ _
  · next other => exact s.tag_setTag_ne _ _ other

/-- Some tags are cleared. -/
def State.clearTags (s : State) (c : Nat) (ks : List Nat) : State := ks.foldl (fun s' k => s'.clearTag c k) s

theorem State.tag_clearTags (c : Nat) (ks : List Nat) (s : State) (j : Nat) :
    (s.clearTags c ks).tag c j = if j ∈ ks then (s.tag c j).cleared else s.tag c j := by
  induction ks generalizing s with
  | nil => rfl
  | cons k ks ih =>
    rw [State.clearTags, List.foldl_cons, ← State.clearTags, ih, State.tag_clearTag]
    by_cases own : j = k
    · subst own; simp [CopyTag.cleared]
    · simp [own]

/-- Of the machine clearing tags changes the cores alone. -/
theorem State.clearTags_rest (c : Nat) (ks : List Nat) (s : State) :
    s.clearTags c ks = { s with cores := (s.clearTags c ks).cores } :=
  List.foldlRecOn (motive := fun (t : State) => t = { s with cores := t.cores }) ks _ rfl fun t same k _ => by
    rw [same]; rfl

theorem execTclr_cases {s : State} {a : SReg} (free : s.Free groupOnly [a]) : exec (.tclr a) s =
    .next (if s.readyIn (s.th.sreg a) = s.th.sreg a then (s.clearTags (coreOfKey s.cur) (setLanes (s.th.sreg a))).retire else s) := by
  change execTclr a s = _
  rw [execTclr, State.issue_free free]
  rfl

theorem tagWaits : Claims.TagWaits := by
  intro s d a free c m ready clean lowest all word gives
  have answers {i : Instr} {q : BitVec 64} {v : Word} {stamp : Bool} (run : exec i s = .next (s.observe q d v stamp))
      (quiet : s.tagTrap q = none) : gives i v := by
    obtain ⟨⟨value, keeps, pc, others, bytes⟩, tags⟩ := State.observe_answers quiet d v stamp
    exact ⟨_, run, value, keeps, pc, tags, others, bytes⟩
  have lanes {k : Nat} (first : lowest k) : m ≠ 0 ∧ ∃ rest, setLanes (s.readyIn m) = k :: rest := by
    obtain ⟨here, least⟩ := first
    refine ⟨fun empty => ?_, setLanes_eq_cons (State.readyIn_getLsbD.mpr here) fun j less bit =>
      least j less (State.readyIn_getLsbD.mp bit)⟩
    obtain ⟨_, named, _⟩ := here
    simp [empty] at named
  have noLanes (none' : ∀ k, ¬ ready k) : setLanes (s.readyIn m) = [] :=
    setLanes_eq_nil fun k bit => none' k (State.readyIn_getLsbD.mp bit)
  have idle : s.tagTrap 0 = none := State.tagTrap_none fun k bit => absurd bit (by simp)
  have one {k : Nat} (first : lowest k) {q : Option (BitVec 8)} (cause : waitCause ((s.tag c k).status.toNat / 2 ^ 28) = q) :
      s.tagTrap (bit64 k) = q.map (fun x => (s.tag c k, x)) := by
    obtain ⟨⟨low, _⟩, _⟩ := first
    rw [← cause]
    exact s.tagTrap_bit64 low
  have waitAll := execTwaitAll_cases free
  have clear := execTclr_cases (a := a) ⟨free.1.mono (by simp), free.2⟩
  refine ⟨fun empty => answers (execTwaitAny_empty free empty) idle, fun k first quiet => ?_,
    fun some' none' => execTwaitAny_waits free (noLanes none') some',
    fun none' => answers (execTfirst_none free (noLanes none')) idle,
    fun ready quiet => ?_, fun busy => ?_, fun k b x cause first trap enter => ?_, fun ready => ?_, fun busy => ?_⟩
  · obtain ⟨some', rest, here⟩ := lanes first
    exact ⟨answers (execTwaitAny_lowest free here some') (one first quiet),
      answers (execTfirst_lowest free here) (one first quiet)⟩
  · rw [if_pos (State.readyIn_eq_self_iff.mpr ready)] at waitAll
    exact answers waitAll (State.tagTrap_none fun k bit => quiet k (BitVec.lt_of_getLsbD bit) bit)
  · rwa [if_neg (fun e => busy (State.readyIn_eq_self_iff.mp e))] at waitAll
  · obtain ⟨some', rest, here⟩ := lanes first
    refine ⟨_, execTwaitAny_lowest free here some', ?_⟩
    rw [State.observe, one first trap]
    exact State.raise_inHandler enter _
  · rw [if_pos (State.readyIn_eq_self_iff.mpr ready)] at clear
    have rest := s.clearTags_rest c (setLanes m)
    have same : (s.clearTags c (setLanes m)).threads = s.threads := by rw [rest]
    have mem : (s.clearTags c (setLanes m)).mem = s.mem := by rw [rest]
    have cur : (s.clearTags c (setLanes m)).cur = s.cur := by rw [rest]
    obtain ⟨agent, others, bytes⟩ := State.wentOn_retire cur same mem
    have tags (k : Nat) := State.tag_clearTags c (setLanes m) s k
    refine ⟨_, clear, fun k low => ⟨fun bit => ?_, fun bit => ?_⟩, fun r => congrArg (·.sreg r) agent,
      congrArg Thread.pc agent, others, bytes⟩
    · have here := (tags k).trans (if_pos (mem_setLanes.mpr bit))
      exact ⟨congrArg CopyTag.err here, congrArg CopyTag.status here⟩
    · exact (tags k).trans (if_neg (by rw [mem_setLanes, bit]; exact Bool.false_ne_true))
  · rwa [if_neg (fun e => busy (State.readyIn_eq_self_iff.mp e))] at clear

/-! ### Byte barriers (R206–R208) -/

/-- A `bar` instruction whose barrier is aligned and lies in the allocation. -/
theorem State.bar_passes {s : State} {names : List SReg} {a : SReg} (free : s.Free groupOnly names)
    (aligned : (s.th.sreg a).toNat % 16 = 0) (low : (s.th.sreg a).toNat < 2 ^ 20)
    (fits : (s.th.sreg a).toNat + 16 ≤ (s.launchOf s.cur).scratch) (body : State → Nat → Barrier → State) :
    s.bar names a body = body s (s.th.sreg a).toNat ((s.core (coreOfKey s.cur)).barrier (s.th.sreg a).toNat) := by
  have inside : s.runFits (s.th.sreg a).toNat 16 = true := decide_eq_true fits
  rw [State.bar, State.issue_free free]
  simp only [aligned, Nat.not_le.mpr low, inside, ne_eq, not_true_eq_false, Bool.not_true, Bool.false_eq_true, or_self, if_false]

/-- A barrier that is written is read back after its flip check, -/
theorem Core.barrier_setBarrier (c : Core) (o : Nat) {b : Barrier} (fits : b.Fits) : (c.setBarrier o b).barrier o = b.flip := by
  obtain ⟨reads, small⟩ := fits.flip.barrierOf_num
  have num := c.padNum_padWrite o (leBytes 16 b.flip.num)
  rw [leBytes_length, leNat_leBytes_of_lt small] at num
  rw [Core.barrier, Core.setBarrier, num, reads]

/-- and the scratchpad beside it stays. -/
theorem Core.pad_setBarrier_beside (c : Core) {o p : Nat} (b : Barrier) (out : p < o ∨ o + 16 ≤ p) :
    fgetD (c.setBarrier o b).pad p 0 = fgetD c.pad p 0 := by
  rw [Core.setBarrier, Core.pad_padWrite, leBytes_length, if_neg (by omega)]

/-- The running group has updated a barrier of its scratchpad, and goes on. -/
theorem State.putBarrier_retire (s : State) (o : Nat) {b : Barrier} (fits : b.Fits) :
    let c := coreOfKey s.cur
    let t := (s.putBarrier o b).retire
    (t.core c).barrier o = b.flip ∧
      (∀ p, (p < o ∨ o + 16 ≤ p) → fgetD (t.core c).pad p 0 = fgetD (s.core c).pad p 0) ∧ WentOn s t := by
  have core : ((s.putBarrier o b).retire).core (coreOfKey s.cur) = (s.core (coreOfKey s.cur)).setBarrier o b := by
    rw [State.retire, State.core_modThread, State.putBarrier, State.core_modCore_self]
  refine ⟨?_, fun p out => ?_, State.wentOn_retire rfl rfl rfl⟩
  · rw [core, Core.barrier_setBarrier _ _ fits]
  · rw [core, Core.pad_setBarrier_beside _ _ out]

theorem sat32_lt (n : Nat) : sat32 n < 2 ^ 32 := by unfold sat32; omega

theorem byteBarriers : Claims.ByteBarriers := by
  intro s d a b c o v x free aligned low inside sat flip on sets
  have updates {i : Instr} {y : Barrier} (run : exec i s = .next (s.putBarrier o y).retire) (fits : y.Fits) : sets i y := by
    obtain ⟨written, beside, agent, others, bytes⟩ := s.putBarrier_retire o fits
    exact ⟨_, run, written, beside, congrArg (·.sreg d) agent, fun r _ => congrArg (·.sreg r) agent, congrArg Thread.pc agent,
      others, bytes⟩
  have passes {i : Instr} {names : List SReg} {body : State → Nat → Barrier → State}
      (run : exec i s = .next (s.bar names a body)) (sub : ∀ r ∈ names, r ∈ [d, a, b]) : exec i s = .next (body s o x) :=
    run.trans (congrArg Host.Outcome.next (State.bar_passes ⟨free.1.mono sub, free.2⟩ aligned low inside body))
  have init := passes (i := .barInit a b) rfl (by simp)
  have expect := passes (i := .barExpect a b) rfl (by simp)
  have arrive := passes (i := .barArrive a b) rfl (by simp)
  have wait := passes (i := .barWait a b) rfl (by simp)
  have test := passes (i := .barTest d a b) rfl (by simp)
  have old : x.Fits := barrierOf_fits _
  have low' {n k : Nat} (pos : 0 < n) : k % n < n := Nat.mod_lt k pos
  refine ⟨updates init ⟨Nat.two_pow_pos _, low' (by decide), low' (by decide), Nat.two_pow_pos _, low' (by decide)⟩,
    updates expect ⟨old.phase, old.pending, old.arrivals, old.arrived, sat32_lt _⟩,
    fun pending => updates (arrive.trans (congrArg Host.Outcome.next (if_neg pending)))
      ⟨old.phase, Nat.lt_of_le_of_lt (Nat.sub_le _ _) old.pending, old.arrivals, sat32_lt _, old.expected⟩,
    fun k y pending enter =>
      ⟨_, arrive.trans (congrArg Host.Outcome.next (if_pos pending)), State.trapNow_inHandler enter _⟩,
    fun clear flipped => ?_, fun clear same => ?_, ?_⟩
  · have flips : x.flipped (s.th.sreg b) = true := decide_eq_true flipped
    obtain ⟨agent, others, bytes⟩ := State.wentOn_retire (s := s) (u := s.recInputs) rfl rfl rfl
    exact ⟨_, wait.trans (congrArg Host.Outcome.next ((State.delivery_clear clear _).trans (if_pos flips))),
      congrArg (·.sreg d) agent, s.pad_recInputs c, fun r _ => congrArg (·.sreg r) agent, congrArg Thread.pc agent, others, bytes⟩
  · have stays : ¬ x.flipped (s.th.sreg b) = true := by simpa [Barrier.flipped] using same
    exact wait.trans (congrArg Host.Outcome.next ((State.delivery_clear clear _).trans (if_neg stays)))
  · have value : (if x.flipped (s.th.sreg b) then 1 else 0 : Word) = if x.phase % 2 ≠ v % 2 then 1 else 0 := by
      simp [Barrier.flipped, v]
    obtain ⟨gets, keeps, pc, others, bytes⟩ := State.retire_answered (s := s) (d := d)
      (v := if x.flipped (s.th.sreg b) then 1 else 0)
      (s.modThread s.cur (fun t => t.setSreg d (if x.flipped (t.sreg b) then 1 else 0))) rfl rfl rfl
    exact ⟨_, test, gets.trans value, rfl, keeps, pc, others, bytes⟩

/-- Settles O46, from the waits on tags and the byte barriers. -/
theorem copyWaits : Obligations.CopyWaits := ⟨tagWaits, byteBarriers⟩

end Sys2Proof.Machine

namespace Sys2Proof.Machine

open Sys2Proof

/-! ### `ring.await` on an empty ring (R217) -/

/-- A `ring.await` that reaches an empty ring in the package: it stays, a question that its agent had asked at a home is over, and
the TLBs have learned. -/
theorem execRingAwait_empty {s : State} {d a : SReg} {x : Xlat} (free : s.Free groupOnly [d, a]) (log : s.logBusy s.cur = false)
    (access : s.checkAccess s.cur .load (s.th.sreg a) 32 = .ok x) (apart : s.th.touchesRing (s.th.sreg a).toNat x.pa = false)
    (inside : s.portOf x.pa = none) (ok : (s.ringAt x.pa).ok x.pa = true) (sound : s.mem.isPoison x.pa = false)
    (empty : (s.ringAt x.pa).wi ≤ (s.ringAt x.pa).ri) :
    exec (.ringAwait d a) s = .next ((s.unasked s.cur).fill s.cur (s.th.sreg a).toNat (.ok x)) := by
  have rest := (AgentOnly.refl s s.cur).unasked.rest
  have ring : (s.unasked s.cur).ringAt x.pa = s.ringAt x.pa := by rw [State.ringAt, rest.mem]; rfl
  have cur := rest.cur
  change execRingAwait d a s = _
  rw [execRingAwait, State.issue_free free]
  unfold State.reachRing
  simp only [log, access, apart, State.askHome_inside inside, ring, ok, State.fill_mem, rest.mem, sound, empty, cur,
    Bool.not_true, Bool.false_eq_true, if_false, if_true]

/-- A group at the empty ring of one slot at 0x1000, with the mark of a read for which it has asked at a home and whose answer it
has not taken: so it stands where the page of its ring has moved from CXL memory to DRAM since it asked. -/
def strayAsker : State :=
  { ({} : State) with
    threads := [(0, { sregs := [(1, 0x1000)], asking := some 0 })]
    cores := [(0, { tlb := [⟨0, 1, 0, 0x1000, true, true, false, true⟩] })]
    mem := { cells := [(0x1008, 8), (0x100C, 1)] } }

/-- Refutes O47: the statement has a `ring.await` of an empty ring leave every agent's record as it is, in every state that meets
its checks. One that finds its ring in the package takes back the mark of a read asked at a home, as every instruction that acts at
a home does once its read may be made (R24), and so the record of `strayAsker` changes. -/
theorem not_ringsWork : ¬ Obligations.RingsWork := by
  rintro ⟨works, _⟩
  have ok : (strayAsker.ringAt 0x1000).ok 0x1000 = true := by decide +kernel
  obtain ⟨_, await, _⟩ := works strayAsker 0 1 0 ⟨0x1000, true, true, false, true, 0⟩ rfl ok rfl
  have free : strayAsker.Free groupOnly [0, 1] := ⟨⟨rfl, rfl⟩, rfl⟩
  have access : strayAsker.checkAccess 0 .load (strayAsker.th.sreg 1) 32 = .ok ⟨0x1000, true, true, false, true, 0⟩ := by
    decide +kernel
  have empty : (strayAsker.ringAt 0x1000).wi ≤ (strayAsker.ringAt 0x1000).ri := by decide +kernel
  obtain ⟨_, stays⟩ := await free access rfl rfl
  obtain ⟨t, run, same, _⟩ := stays empty
  rw [execRingAwait_empty free rfl access rfl rfl ok rfl empty] at run
  cases run
  rw [State.fill_threads] at same
  exact absurd (congrArg (fun m : FMap Thread => (fgetD m 0 {}).asking) same) (by decide)

end Sys2Proof.Machine

namespace Sys2Proof.Machine

open Sys2Proof

/-! ### Errors of a scratchpad source are reported (R418) -/

/-- What reports of errors in scratchpads leave: of the cores their caches, counts and the marks of what is reported differ, and no
byte of memory. -/
structure Reported (s t : State) : Prop where
  cores : ∀ c, t.core c = { s.core c with l1 := (t.core c).l1, stats := (t.core c).stats, reported := (t.core c).reported }
  cells : t.mem.cells = s.mem.cells

theorem Reported.refl (s : State) : Reported s s := ⟨fun _ => rfl, rfl⟩

theorem Reported.trans {s t u : State} (h : Reported s t) (k : Reported t u) : Reported s u where
  cores c := by rw [k.cores c, h.cores c]
  cells := k.cells.trans h.cells

theorem Noted.reported {s t : State} (h : Noted s t) : Reported s t where
  cores c := by rw [h.cores c]
  cells := h.cells

theorem Reported.modCore (s : State) (k : Nat) (marks : Core → List Nat) :
    Reported s (s.modCore k (fun x => { x with reported := marks x })) where
  cores c := by
    by_cases own : c = k
    · subst own; rw [State.core_modCore_self]
    · rw [State.core_modCore_ne _ _ own]
  cells := rfl

theorem State.reported_noticeUnit (s : State) (c plot kind unit : Nat) : Reported s (s.noticeUnit c plot kind unit) := by
  unfold State.noticeUnit
  dsimp only
  split
  · exact .refl s
  · exact (Reported.modCore s c _).trans ((State.noted_raiseAsync _ _ _ _).trans (State.noted_errorLog _ _ _)).reported

theorem State.reported_noticeSource (s : State) (c k : Nat) (o : EngineOp) : Reported s (s.noticeSource c k o) :=
  List.foldlRecOn (motive := Reported s) _ _ (.refl s) fun t told q _ => by
    dsimp only
    split
    · exact told.trans (t.reported_noticeUnit _ _ _ _)
    · exact told

/-! ### RING_FILL_START (R217) -/

/-- An operation has taken its source. -/
def EngineOp.sourced (o : EngineOp) (xs : List (Byte × Bool)) : EngineOp :=
  { o with blob := xs.map (·.1), slot := (xs.findIdx? (·.2)).elim 0 (· + 1), phase := 1 }

/-- The first fill of a ring takes its source and the slot at the write index. -/
def State.fillTakes (s : State) (c : Nat) (o : EngineOp) (r : RingObj) : State :=
  (s.takeSource c o).modOp c o.id (fun p =>
    { p with windex := BitVec.ofNat 64 r.wi, outcome := p.slot, slot := r.slot r.wi })

section FillTakes

variable {s : State} {c : Nat} {o : EngineOp} (r : RingObj)

theorem State.op_fillTakes (here : (s.core c).op? o.id = some o) : ∃ p, ((s.fillTakes c o r).core c).op? o.id = some p ∧
    p.slot = r.slot r.wi ∧ p.windex = BitVec.ofNat 64 r.wi ∧ p.phase = 1 ∧
    p.blob = (o.source (s.core (o.sourceCore c))).map (·.1) := by
  have op : ((s.noticeSource c (o.sourceCore c) o).core c).op? o.id = some o := by
    rw [(s.reported_noticeSource c (o.sourceCore c) o).cores]; exact here
  have taken : ((s.takeSource c o).core c).op? o.id = some (o.sourced (o.source (s.core (o.sourceCore c)))) :=
    State.op_modOp op (f := fun p => p.sourced (o.source (s.core (o.sourceCore c)))) fun _ => rfl
  exact ⟨_, State.op_modOp (o := o.sourced _) taken fun _ => rfl, rfl, rfl, rfl, rfl⟩

variable (s o)

theorem State.pad_fillTakes (k : Nat) : ((s.fillTakes c o r).core k).pad = (s.core k).pad := by
  rw [State.fillTakes, State.pad_modOp, State.takeSource, State.pad_modOp, (s.reported_noticeSource _ _ _).cores]

theorem State.sameBytes_fillTakes : SameBytes s (s.fillTakes c o r) :=
  fun a => Store.byte_eq (s.reported_noticeSource c (o.sourceCore c) o).cells a

end FillTakes

/-- What RING_FILL_START does for the first fill of a ring. -/
theorem ringFillStartStep_first {s : State} {o : EngineOp} (named : s.subj.n = o.id)
    (here : (s.core s.subj.ag).op? o.id = some o) (kind : o.spec.kind = 4) (started : o.started = true)
    (more : o.finished = false) (fresh : o.phase = 0) (first : s.firstAtRing s.subj.ag o = true)
    (ok : (s.ringAt o.ring).ok o.ring = true) :
    ringFillStartStep s =
      if (s.ringAt o.ring).ri + (s.ringAt o.ring).slots ≤ (s.ringAt o.ring).wi then none
      else if (s.ringAt o.ring).slotBytes < o.spec.size then
        some (s.modOp s.subj.ag o.id (fun p => { p.fail 6 with finished := true }))
      else some (s.fillTakes s.subj.ag o (s.ringAt o.ring)) := by
  unfold ringFillStartStep
  simp only [named, here, kind, started, more, fresh, first, ok, ne_eq, not_true_eq_false, Bool.not_true, Bool.false_eq_true,
    or_self, if_false]
  rfl

/-! ### BURST_DELIVERY (R221) -/

/-- A burst leaves the buffer and starts its sprout on a context. -/
def State.startSprout (s : State) (c ctx : Nat) (r : HreadReq) (b : Burst) : State :=
  ((s.modCore c (fun x => { x with bursts := x.bursts.filter (fun y => !(y.req == b.req && y.n == b.n)) })).setThread
    (groupKey c ctx) (sproutStart r c ctx (s.plotOf (groupKey c r.group)) s.cycle b)).modReq c r.id (fun r =>
      { r with live := r.live ++ [b.n] })

/-- What BURST_DELIVERY does where a burst is in the buffer and context 16 + i is the lowest free one. -/
theorem burstDeliveryStep_starts {s : State} {r : HreadReq} {b : Burst} {i : Nat} (runs : s.burstsRun s.subj.ag = true)
    (request : (s.core s.subj.ag).req? s.subj.n = some r)
    (burst : (s.core s.subj.ag).bursts.find? (fun x => x.req == s.subj.n) = some b)
    (free : (List.range 16).find? (fun i => (fget? s.threads (groupKey s.subj.ag (16 + i))).isNone) = some i) :
    burstDeliveryStep s = some (s.startSprout s.subj.ag (16 + i) r b) := by
  unfold burstDeliveryStep
  simp only [runs, request, burst, free]
  rfl

section StartSprout

variable (s : State) (c ctx plot cycle : Nat) (r : HreadReq) (b : Burst)

theorem State.thread_startSprout : (s.startSprout c ctx r b).thread (groupKey c ctx) =
    sproutStart r c ctx (s.plotOf (groupKey c r.group)) s.cycle b := State.thread_setThread_self _ _ _

theorem State.sameOthers_startSprout : SameOthers s (s.startSprout c ctx r b) (groupKey c ctx) := fun _ other =>
  State.thread_setThread_ne _ _ other

/-- The registers beyond those of a sprout's start read 0. -/
theorem sreg_sproutStart_high {q : SReg} (high : 8 ≤ q.val) : (sproutStart r c ctx plot cycle b).sreg q = 0 := by
  have absent : fget? (sproutStart r c ctx plot cycle b).sregs q.val = none := fget?_eq_none fun p mem => by
    obtain ⟨x, arg, rfl⟩ := List.mem_map.mp mem
    have low := List.snd_lt_of_mem_zipIdx arg
    exact Nat.ne_of_lt (Nat.lt_of_lt_of_le low high)
  rw [Thread.sreg, fgetD, absent]; rfl

/-- v0 holds the data of the burst. -/
theorem ownRows_sproutStart {k : Nat} (low : k < 64) : (fgetD (sproutStart r c ctx plot cycle b).ownRows 0 []).getD k 0 =
    BitVec.ofNat 32 (leNat ((b.data.drop (4 * k)).take 4)) := by
  simp [sproutStart, fgetD, fget?, low]

end StartSprout

/-! ### SPROUT_TIME_LIMIT (R223) -/

theorem find?_map_req {qs : List HreadReq} {id : Nat} {r : HreadReq} (found : qs.find? (fun q => q.id == id) = some r)
    {f : HreadReq → HreadReq} (keeps : ∀ q, (f q).id = q.id) :
    (qs.map (fun q => if q.id = id then f q else q)).find? (fun q => q.id == id) = some (f r) := by
  have same : ((fun q : HreadReq => q.id == id) ∘ fun q => if q.id = id then f q else q) = fun q => q.id == id := by
    funext q
    by_cases own : q.id = id <;> simp [own, keeps]
  have here : r.id = id := by simpa using List.find?_some found
  rw [List.find?_map, same, found, Option.map_some, if_pos here]

/-- Its request notes that a sprout was abandoned. -/
theorem State.req_abandon {s : State} {key : Nat} {r : HreadReq}
    (request : (s.core (coreOfKey key)).req? (s.thread key).req = some r) (cause : BitVec 8) :
    ((s.abandon key cause).core (coreOfKey key)).req? (s.thread key).req = some { r with
      live := r.live.filter (· ≠ (s.thread key).burst), abandoned := r.abandoned ++ [((s.thread key).burst, cause, 4)] } := by
  have reads : ((s.abandon key cause).core (coreOfKey key)).hreads = (s.core (coreOfKey key)).hreads.map (fun r =>
      if r.id = (s.thread key).req then
        { r with
          live := r.live.filter (· ≠ (s.thread key).burst), abandoned := r.abandoned ++ [((s.thread key).burst, cause, 4)] }
      else r) := by
    rw [State.abandon, State.countBlock, State.modBlock, State.core_modCore_self, State.dropSprout, State.core_modCore_self]
    rfl
  rw [Core.req?, reads]
  exact find?_map_req (f := fun r => { r with
    live := r.live.filter (· ≠ (s.thread key).burst), abandoned := r.abandoned ++ [((s.thread key).burst, cause, 4)] }) request
    fun _ => rfl

theorem State.sameOthers_abandon (s : State) (key : Nat) (cause : BitVec 8) : SameOthers s (s.abandon key cause) key := by
  intro k other
  change fgetD (ferase s.threads key) k {} = fgetD s.threads k {}
  rw [fgetD, fget?_ferase_ne _ other]; rfl

theorem sproutTimeLimitStep_cases {s : State} (sprout : isSproutKey s.subj.ag = true)
    (there : (fget? s.threads s.subj.ag).isSome = true) (held : (s.thread s.subj.ag).released = false) :
    sproutTimeLimitStep s =
      if (s.thread s.subj.ag).startCycle + 65536 + (s.thread s.subj.ag).heldCycles ≤ s.cycle then some (s.abandon s.subj.ag cTime)
      else none := by
  simp only [sproutTimeLimitStep, sprout, there, held, Bool.not_false, Bool.and_self, Bool.true_and, decide_eq_true_eq]

/-! ### LAST_BURST_EVENT (R224) -/

/-- A request has left its core, and its tag is ready. -/
def State.readDone (s : State) (c : Nat) (r : HreadReq) : State :=
  ((s.modCore c (fun x => { x with hreads := x.hreads.filter (fun q => q.id != r.id) })).countBlock c 0x11 r.spec.size).tagDone c
    r.tag ((lowestLost r.abandoned).elim 0 (·.2.2)) (min r.abandoned.length 0xFFF * 2 ^ 16 + min r.clipped 0xFFFF)
    (r.abandoned.map (fun x => (x.1, x.2.1)))

theorem State.hreads_readDone (s : State) (c : Nat) (r : HreadReq) :
    ((s.readDone c r).core c).hreads = (s.core c).hreads.filter (fun q => q.id != r.id) := by
  simp only [State.readDone, State.tagDone, State.countBlock, State.modBlock, State.core_modCore_self]

theorem State.tag_readDone {s : State} {c : Nat} {r : HreadReq} (running : ((s.readDone c r).core c).block.isSome = true) :
    ((s.readDone c r).tag c r.tag).ready = true ∧
      ((s.readDone c r).tag c r.tag).err = decide ((lowestLost r.abandoned).elim 0 (·.2.2) ≠ 0) := by
  simp only [State.readDone, State.tagDone, State.countBlock, State.modBlock, State.core_modCore_self, Option.map_map,
    Option.isSome_map] at running
  obtain ⟨b, block⟩ := Option.isSome_iff_exists.mp running
  simp [State.tag, State.readDone, State.tagDone, State.countBlock, State.modBlock, block, Block.tag, Block.tagDone]

theorem lastBurstEventStep_ends {s : State} {r : HreadReq} (request : (s.core s.subj.ag).req? s.subj.n = some r)
    (bare : r.barrierOn = false) (read : r.toRead = []) (done : r.live = [])
    (delivered : (s.core s.subj.ag).bursts.any (fun b => b.req == r.id) = false) :
    lastBurstEventStep s = some ((s.readDone s.subj.ag r).reapBlock s.subj.ag) := by
  simp only [lastBurstEventStep, request, bare, read, done, delivered, List.isEmpty_nil, Bool.not_true, Bool.or_self,
    Bool.false_eq_true, if_false]
  rfl

theorem lastBurstEventStep_waits {s : State} {r : HreadReq} (request : (s.core s.subj.ag).req? s.subj.n = some r)
    (left : r.toRead ≠ [] ∨ r.live ≠ []) : lastBurstEventStep s = none := by
  have some' : (!r.toRead.isEmpty || !r.live.isEmpty) = true := by simpa using left
  simp only [lastBurstEventStep, request, some', Bool.true_or, if_true]

/-- Settles O49, from the step of each of the four events. -/
theorem bulkReadsRun : Obligations.BulkReadsRun := by
  refine ⟨?fill, ?burst, ?limit, ?last⟩
  case fill =>
    intro s o c r named here kind started more fresh first ok
    have step := ringFillStartStep_first named here kind started more fresh first ok
    refine ⟨fun room fits => ?_, fun room small => ?_, fun full => ?_⟩
    · rw [if_neg (Nat.not_le.mpr room), if_neg (Nat.not_lt.mpr fits)] at step
      exact .of_step rfl ⟨_, step, State.op_fillTakes r here, s.pad_fillTakes o r c, s.sameBytes_fillTakes o r⟩
    · rw [if_neg (Nat.not_le.mpr room), if_pos small] at step
      exact .of_step rfl ⟨_, step, ⟨_, State.op_modOp here fun _ => rfl, rfl, fun clean => if_pos clean⟩, rfl, fun _ => rfl⟩
    · rw [if_pos full] at step
      exact exec_of_no_step rfl step
  case burst =>
    intro s r b i c key runs request burst low free taken
    have lowest : (List.range 16).find? (fun i => (fget? s.threads (groupKey c (16 + i))).isNone) = some i :=
      List.find?_range_eq_some.mpr ⟨by rw [free]; rfl, List.mem_range.mpr low, fun j less => by simp [taken j less]⟩
    refine .of_step rfl ⟨_, burstDeliveryStep_starts runs request burst lowest, ?_⟩
    have start := s.thread_startSprout c (16 + i) r b
    refine ⟨?_, ?_, ?_, ?_, ?_, ?_, ?_, ?_, ?_, fun q high => ?zeros, ?_, ?_, ?_, ?_, ?_, ?_, fun k low => ?row,
      s.sameOthers_startSprout c (16 + i) r b, fun _ => rfl⟩
    all_goals dsimp only [key]; rw [start]
    case zeros => exact sreg_sproutStart_high _ _ _ _ _ _ high
    case row => exact ownRows_sproutStart _ _ _ _ _ _ low
    all_goals rfl
  case limit =>
    intro s key x sprout there held
    have step := sproutTimeLimitStep_cases sprout there held
    refine ⟨fun late => ?_, fun early => ?_⟩
    · rw [if_pos late] at step
      exact .of_step rfl ⟨_, step, s.sameOthers_abandon key cTime, fun _ => rfl,
        fun r request => ⟨_, State.req_abandon request cTime, rfl, rfl⟩⟩
    · rw [if_neg (Nat.not_le.mpr early)] at step
      exact exec_of_no_step rfl step
  case last =>
    intro s r c request named bare
    refine ⟨fun read done delivered => ?_, fun left => exec_of_no_step rfl (lastBurstEventStep_waits request left)⟩
    refine .of_step rfl ⟨_, lastBurstEventStep_ends request bare read done delivered, fun running => ?_, ?_, fun a => ?_⟩
    · cases ended : (s.readDone c r).blockDone c with
      | true => rw [State.block_reapBlock_of_done ended] at running; cases running
      | false =>
        rw [State.reapBlock_of_running ended] at running ⊢
        obtain ⟨ready, err⟩ := State.tag_readDone running
        exact ⟨ready, by rw [err, decide_eq_true_eq]⟩
    · rw [State.reapBlock_core, State.hreads_readDone]
    · rw [State.reapBlock_mem]; rfl

end Sys2Proof.Machine
